-- ==== Sys2Proof/Word.lean ====
section
/-!
DEFINITION. The word types of the model: bytes, words and the index types of the device's numbered units
(04_tile_scalar.md R83, 03_organisation.md R38 and R59, 13_velna.md R366).
-/

namespace Sys2Proof

/-- One byte of memory or of a message. -/
abbrev Byte := BitVec 8

/-- A 64-bit register value (R83). -/
abbrev Word := BitVec 64

/-- A logical tile T0–T63 (R56). -/
abbrev TileId := Fin 64

/-- A partition P0–P63. -/
abbrev PartId := Fin 64

/-- A PCIe function: 0–63 is VF n, 64 is the PF (R518). -/
abbrev FnId := Fin 65

/-- A mailbox: 0–63 is VF n's, 64 is the operator's (R366). -/
abbrev MbxId := Fin 65

/-- An HBM controller 0–7 (R65). -/
abbrev CtrlId := Fin 8

/-- A device link DL0–DL15 (R305). -/
abbrev LinkId := Fin 16

/-- A ledger index: the ledger holds 1,048,576 entries (R339). -/
abbrev LedgerIx := BitVec 20

/-- A model-region slot: 65,536 of them (R252). -/
abbrev SlotId := BitVec 16

/-- The operator's mailbox and the PF as function number 64. -/
def operatorId : Fin 65 := 64

end Sys2Proof
end

