-- ==== Sys2Proof/Syntax.lean ====
section
/-!
DEFINITION. The commands of the block: one constructor of `Instr` for each row of the opcode table, with the operands
the command brings from outside: which unit it concerns, the bits on the wire, and what the environment measured.
The table gives no row any field, so the operands are this model's own (log entry 1).
-/

namespace Sys2Proof

/-- What asserts a warm reset (R533). -/
inductive WarmCause where
  | perst | hotReset | dlDown | pfFlr
  deriving DecidableEq, Repr

/-- What befell a tile's circuits at a step: `none` in an ordinary one. A `spoil…` or `flip…` upset changes stored bits before the
command's own effect, and its checker finds it at the next read of them; `again` says that the refetched line fails once more (R211). -/
inductive Upset where
  | none
  /-- The vector and matrix units have begun nothing of their queues, and begin nothing at this step (R91, R107). -/
  | busy
  /-- The TSU and its twin differ in an output of the instruction (R110). -/
  | mismatch
  /-- The audit lane or audit column differs, or reports nothing at position 32, at this step or beat of the instruction, counted from its
  first (R138, R164). -/
  | audit (k : Nat)
  /-- The grain pipeline's comparator differs (R472). -/
  | grainMismatch
  /-- Data or tag parity of an L1 data way, by set × 8 + way. -/
  | spoilData (k : Fin 4096) (again : Bool)
  /-- State-bit parity of an L1 data set. -/
  | spoilState (set : Fin 512)
  /-- Parity of an instruction-cache way, by set × 4 + way. -/
  | spoilInstr (k : Fin 512) (again : Bool)
  /-- Parity of a talon line and of a discard entry, oldest first. -/
  | spoilTalon (i : Fin 64)
  | spoilDiscard (i : Fin 16)
  /-- Parity of the line that arrives with a fill. -/
  | spoilFill (again : Bool)
  /-- Bits of a stored word of the Local Store and of the ACM (by row × 64 + word), with its check bits (R157, R217). -/
  | flipLs (word : Fin 2097152) (data : Word) (check : BitVec 8)
  | flipAcm (word : Fin 262144) (data : Word) (check : BitVec 8)
  deriving DecidableEq, Repr

/-- A pace monitor's window result: the rate, the rail and the junction temperature (R39). -/
structure PaceReading where
  monitor : Fin 76
  rate : BitVec 16
  railMv : BitVec 12
  tj : BitVec 8
  deriving DecidableEq, Repr

/-- A memory access of a TLP or a fabric packet. -/
inductive MemOp where
  | read (len : Nat)
  | write (bytes : List Byte)
  | atomic (fn : BitVec 6) (operand expected : Word)
  deriving DecidableEq, Repr

/-- A fabric packet as its target receives it (R59, R61, R490): its source unit, tag and sequence number, whether its
end-to-end CRC passed, and the access. -/
structure Packet where
  unit : Nat
  tag : BitVec 7
  seq : Nat
  crcOk : Bool
  pa : BitVec 52
  op : MemOp
  deriving DecidableEq, Repr

/-- Why an unmasked access of a walk or a load was made (R227, R229). -/
inductive AccessKind where
  | fetch | load | store | atomic
  deriving DecidableEq, Repr

/-- The deferred faults of R105. -/
inductive DeferredCause where
  | storeRefused | vectorPage | vectorOther | matrixPage | matrixOther
  deriving DecidableEq, Repr

/-- What stalled: a tile, or a shared unit named as in `UNIT` of R492 (R55). -/
inductive StallUnit where
  | tile (t : TileId)
  | shared (unit : BitVec 16)
  deriving DecidableEq, Repr

/-- The engines of R483. -/
inductive Engine where
  | hash | signature | drbg
  deriving DecidableEq, Repr

/-- The known-answer passes of R485. -/
inductive KatUnit where
  | hash | signature | drbg | cipher
  deriving DecidableEq, Repr

/-- How link training ended (R293). -/
inductive LinkTraining where
  | up (farDev : BitVec 6) (farLink : BitVec 4)
  | laneFailed
  | timedOut
  deriving DecidableEq, Repr

/-- A chain packet: rows `first` onward of a message (R319, R320). -/
structure ChainPacket where
  chain : BitVec 6
  msg : BitVec 32
  rows : Nat
  digest : Word
  first : Nat
  data : List (BitVec 4096)
  deriving DecidableEq, Repr

/-- A chain recall packet (R328). -/
structure ChainRecall where
  part : PartId
  tile : BitVec 8
  fromDev : BitVec 6
  winStart : Word
  winEnd : Word
  steps : List (BitVec 6 × BitVec 32 × Word)
  late : Bool
  deriving DecidableEq, Repr

/-- What a packet between devices carries (R301, R308, R312, R320, R324, R328): a request, its response (none is an error response), chain
rows, DONE or BREAK for a member's tile, a chain recall, and whether a recall was delivered. -/
inductive NetBody where
  | request (pa : BitVec 52) (op : MemOp)
  | response (data : Option (List Byte))
  | rows (tile : TileId) (p : ChainPacket)
  | done (tile : TileId) (p : ChainPacket)
  | brk (tile : TileId) (chain : BitVec 6) (msg : BitVec 32)
  | chainRecall (r : ChainRecall)
  | recallAnswer (delivered : Bool)
  deriving DecidableEq, Repr

/-- A packet on the device links (R67, R307): its tag, the device and unit that it comes from, the device that it goes to, the number by which a
response names its request, and what it carries. -/
structure NetPacket where
  tag : Nat
  src : Nat
  unit : Nat
  dst : Nat
  id : Nat
  body : NetBody
  deriving DecidableEq, Repr

/-- Where a register write lands: VF n's BAR0 (and whether it came on VF n's IDE stream, R527), the PF's BAR0, or a register unit
through the fabric under a tag (R68, R520, R523). -/
inductive RegAddr where
  | vfBar0 (n : PartId) (off : BitVec 18) (ide : Bool)
  | pfBar0 (off : BitVec 20)
  | unit (tag : BitVec 7) (u : BitVec 8) (off : BitVec 24)
  deriving DecidableEq, Repr

/-- A check-split window (R505). -/
inductive CsTarget where
  | tile (t : TileId)
  | hbm (k : CtrlId)
  deriving DecidableEq, Repr

/-- A PCIe configuration request (R519, R550). -/
inductive CfgReq where
  | setNumVfs (k : BitVec 16)
  | setVfEnable (b : Bool)
  | setMemEnable (b : Bool)
  | setAtsEnable (b : Bool)
  | setPowerD0
  | readIds
  /-- Writes a 64-bit BAR: 0, 2 or, on the PF, 4. -/
  | setBar (bar : Fin 3) (v : Word)
  | readBar (bar : Fin 3)
  | readCapabilities
  | readLink
  | readAer
  /-- Clears uncorrectable error status bits by writing them 1. -/
  | clearAer (v : BitVec 32)
  /-- A DOE discovery object for an index. -/
  | doeDiscovery (index : Byte)
  deriving DecidableEq, Repr

/-- The rate of the host link in GT/s: 16, 32 or 64 (R517). -/
inductive HostRate where
  | gt16 | gt32 | gt64
  deriving DecidableEq, Repr

/-- The registers of the board interface (R535). -/
inductive I3cReg where
  | state | flags | therm | tjMax | hbmMax | powerW | envW | capW | partNo
  deriving DecidableEq, Repr

/-- A JTAG TAP instruction (R539). -/
inductive TapOp where
  | bypass | idcode | boundaryScan | debug (code : BitVec 8)
  deriving DecidableEq, Repr

/-- What waits for a quiet point (R409, R421, R454, R45, R510). -/
inductive QuietWaiter where
  | modeOrCommit
  | confidential (n : PartId)
  | paceLock (n : PartId)
  | selfTest (n : PartId)
  deriving DecidableEq, Repr

/-- A rail or a junction out of its rating (R491). -/
inductive RatingFault where
  | rail (monitor : Fin 76)
  | junction (monitor : Fin 76)
  deriving DecidableEq, Repr

/-- An operation of an IDE_KM message (R448). -/
inductive IdeKmOp where
  | keyProg | setGo | setStop
  deriving DecidableEq, Repr

/-- The ledger ECC state met by the admission stage (R489). -/
inductive LedgerEcc where
  | clean
  | single (ix : LedgerIx) (detail : BitVec 16)
  | doubleWord0 (ix : LedgerIx) (detail : BitVec 16)
  | doubleOther (ix : LedgerIx) (detail : BitVec 16)
  deriving DecidableEq, Repr

/-- A fuse bit of one copy that reads 0 at the tight-low margin after three reblows, and how it reads at the tight-high one: marginal when it
reads 1 there (R432). -/
structure WeakFuse where
  word : Fin 64
  bit : Fin 128
  high : Bool
  deriving DecidableEq, Repr

/-- The commands: one constructor per row of the opcode table, in the table's order. -/
inductive Instr where
  -- resets and start-up
  | coldReset
  | warmReset (cause : WarmCause)
  | vfFlr (n : PartId)
  | d3hotEntry (f : FnId)
  | startupT0
  | hostLinkUp (lanes : Option (Fin 17)) (rate : HostRate)
  | startupSelfTest (tileFail : BitVec 68) (sharedFail : List (BitVec 16))
  | firmwareBundleLoad
  | protectedRecordRead (weak : List WeakFuse)
  | pairsRelease
  | entropyStartup (tests : List (BitVec 1024)) (windows : List (BitVec 1024))
  | hbmTraining (fails : List (CtrlId × Fin 12))
  | hbmZeroing
  | configurationApply (weak : List WeakFuse)
  | pwrOkFall
  | pwrBrakeAssert
  | pwrBrakeRelease
  | vrHotAssert
  | clockLoss (island : Fin 15)
  | paceWindowEnd (readings : List PaceReading)
  | powerLoopTick (watts : BitVec 16)
  | paceDeficit (t : TileId)
  | outOfRating (what : RatingFault)
  | hbmTempRead (temps : List (CtrlId × BitVec 8))
  | hbmThermal (k : CtrlId)
  | tokenRelease (n : PartId)
  | healthPassDue (t : TileId)
  | healthPassStart (t : TileId)
  | journalThreshold (t : TileId)
  | healthPassEnd (t : TileId) (ok : Bool)
  | closingPassEnd (t : TileId) (ok : Bool)
  | recallNoticePost (n : PartId) (notice : BitVec 32)
  | faultEventPost (scope : Option PartId)
  /-- The stalled unit, its channel group, and when its request became pending (R53). -/
  | stallDeclare (u : StallUnit) (group : BitVec 12) (since : Nat)
  | acmScrubRead (t : TileId) (u : Upset)
  | lsScrubRead (t : TileId) (u : Upset)
  | hbmScrubRead (k : CtrlId) (upset : BitVec 9)
  | hbmRefresh (k : CtrlId)
  | hbmDieLost (k : CtrlId) (die : Fin 12)
  /-- Arbiters 0–33 as `CONFIG_READ` numbers them (R386), and 34 for the PCIe transmitter (R528). -/
  | arbiterSlotStart (a : Fin 35) (ready : BitVec 66)
  | hbmAccessComplete (k : CtrlId) (upset : BitVec 9)
  | engineSlotStart (e : Engine)
  | engineKat (e : KatUnit) (ok : Bool)
  | admissionWindow (entries : List (PartId × BitVec 1024))
  | strictMailboxPost (m : MbxId)
  | entropyWindowEnd
  | entropyRestart (window : BitVec 1024)
  | entropyWaitTimeout
  | linkFlitSend (l : LinkId)
  | linkFlitReceive (l : LinkId) (flit : BitVec 2048)
  | linkReplay (l : LinkId)
  | linkFailedAfterReplay (l : LinkId)
  | linkTrainingEnd (l : LinkId) (r : LinkTraining)
  | fabricPacketArrive (p : Packet)
  | sqTailWrite (n : PartId) (q : Fin 16) (v : Word)
  | cqHeadWrite (n : PartId) (q : Fin 16) (v : Word)
  | submitPass (n : PartId) (q : Fin 16) (entry : BitVec 1024) (ecc : LedgerEcc)
  | submitMove (n : PartId) (q : Fin 16) (entry : BitVec 1024)
  | submitStream (n : PartId) (q : Fin 16) (entry : BitVec 1024)
  | submitStreamClose (n : PartId) (q : Fin 16) (entry : BitVec 1024)
  | dispatch (t : TileId)
  | moveDispatch (mover : Fin 8)
  | passStart (t : TileId)
  | completionReady (ix : LedgerIx)
  | completionPost (ix : LedgerIx)
  | streamNextPass (ix : LedgerIx)
  | queueDmaFailure (n : PartId) (isCq : Bool) (q : Fin 16)
  | atsInvalidation (f : FnId) (addr : Word) (size : Nat)
  | l1FillComplete (t : TileId) (line : BitVec 45) (u : Upset)
  | talonFillComplete (t : TileId) (line : BitVec 45) (u : Upset)
  | discardWritebackAck (t : TileId) (i : Fin 16) (u : Upset)
  | tlbWalkComplete (t : TileId) (va : Word) (kind : AccessKind)
  | deferredFault (t : TileId) (c : DeferredCause) (pc : Word)
  -- scalar instructions: the tile, the instruction word, what the checkers met
  | integerAlu (t : TileId) (w : BitVec 32) (u : Upset)
  | aluImmediate (t : TileId) (w : BitVec 32) (u : Upset)
  | shiftImmediate (t : TileId) (w : BitVec 32) (u : Upset)
  | movhi (t : TileId) (w : BitVec 32) (u : Upset)
  | pcrel (t : TileId) (w : BitVec 32) (u : Upset)
  | multiplyDivide (t : TileId) (w : BitVec 32) (u : Upset)
  | load (t : TileId) (w : BitVec 32) (u : Upset)
  | store (t : TileId) (w : BitVec 32) (u : Upset)
  | atomic (t : TileId) (w : BitVec 32) (u : Upset)
  | branch (t : TileId) (w : BitVec 32) (u : Upset)
  | jl (t : TileId) (w : BitVec 32) (u : Upset)
  | jlr (t : TileId) (w : BitVec 32) (u : Upset)
  | trap (t : TileId) (w : BitVec 32) (u : Upset)
  | tret (t : TileId) (w : BitVec 32) (u : Upset)
  | rdtime (t : TileId) (w : BitVec 32) (u : Upset)
  | pdone (t : TileId) (w : BitVec 32) (u : Upset)
  | brk (t : TileId) (w : BitVec 32) (u : Upset)
  | tcrr (t : TileId) (w : BitVec 32) (u : Upset)
  | tcrw (t : TileId) (w : BitVec 32) (u : Upset)
  | fenceRel (t : TileId) (w : BitVec 32) (u : Upset)
  | fenceAcq (t : TileId) (w : BitVec 32) (u : Upset)
  | fenceRelAll (t : TileId) (w : BitVec 32) (u : Upset)
  | fenceAcqAll (t : TileId) (w : BitVec 32) (u : Upset)
  | cpf (t : TileId) (w : BitVec 32) (u : Upset)
  | cwb (t : TileId) (w : BitVec 32) (u : Upset)
  | cwbi (t : TileId) (w : BitVec 32) (u : Upset)
  | czero (t : TileId) (w : BitVec 32) (u : Upset)
  | iinv (t : TileId) (w : BitVec 32) (u : Upset)
  | iinvAll (t : TileId) (w : BitVec 32) (u : Upset)
  | fpArithmetic (t : TileId) (w : BitVec 32) (u : Upset)
  | fpSign (t : TileId) (w : BitVec 32) (u : Upset)
  | fpFused (t : TileId) (w : BitVec 32) (u : Upset)
  | fpConversion (t : TileId) (w : BitVec 32) (u : Upset)
  | fkind (t : TileId) (w : BitVec 32) (u : Upset)
  -- vector instructions
  | setvl (t : TileId) (w : BitVec 32) (u : Upset)
  | vgetvl (t : TileId) (w : BitVec 32) (u : Upset)
  | vld (t : TileId) (w : BitVec 32) (u : Upset)
  | vldu (t : TileId) (w : BitVec 32) (u : Upset)
  | vldFf (t : TileId) (w : BitVec 32) (u : Upset)
  | vlx (t : TileId) (w : BitVec 32) (u : Upset)
  | vst (t : TileId) (w : BitVec 32) (u : Upset)
  | vstu (t : TileId) (w : BitVec 32) (u : Upset)
  | vsx (t : TileId) (w : BitVec 32) (u : Upset)
  | vectorInteger (t : TileId) (w : BitVec 32) (u : Upset)
  | vmerge (t : TileId) (w : BitVec 32) (u : Upset)
  | vectorCompare (t : TileId) (w : BitVec 32) (u : Upset)
  | vectorFloat (t : TileId) (w : BitVec 32) (u : Upset)
  | vfcvtFrom (t : TileId) (w : BitVec 32) (u : Upset)
  | vfcvtTo (t : TileId) (w : BitVec 32) (u : Upset)
  | vfcvtInteger (t : TileId) (w : BitVec 32) (u : Upset)
  | maskLogic (t : TileId) (w : BitVec 32) (u : Upset)
  | kpopcKfirst (t : TileId) (w : BitVec 32) (u : Upset)
  | vlmVsm (t : TileId) (w : BitVec 32) (u : Upset)
  | vectorReduction (t : TileId) (w : BitVec 32) (u : Upset)
  | vectorScalarMove (t : TileId) (w : BitVec 32) (u : Upset)
  | vectorPermutation (t : TileId) (w : BitVec 32) (u : Upset)
  | vxDeal (t : TileId) (w : BitVec 32) (u : Upset)
  | vxCombinePut (t : TileId) (w : BitVec 32) (u : Upset)
  | vxCombineSum (t : TileId) (w : BitVec 32) (u : Upset)
  -- matrix instructions: word 0 and the extension word
  | mxLdw (t : TileId) (w ext : BitVec 32) (u : Upset)
  | mxRun (t : TileId) (w ext : BitVec 32) (u : Upset)
  | mxDrain (t : TileId) (w ext : BitVec 32) (u : Upset)
  | mxZero (t : TileId) (w ext : BitVec 32) (u : Upset)
  | mxSwap (t : TileId) (w ext : BitVec 32) (u : Upset)
  -- seif chains
  | chainStepStart (ix : LedgerIx)
  | chainPacketReceive (t : TileId) (p : ChainPacket) (adderOk : Bool)
  | chainDoneReceive (t : TileId) (p : ChainPacket)
  | chainBreakReceive (t : TileId) (chain : BitVec 6) (msg : BitVec 32)
  | chainWaitExpiry (ix : LedgerIx)
  | chainRecallReceive (r : ChainRecall)
  | chainRecallResend
  | chainLogAging
  -- translation, regions, hash jobs, quiet points
  | rootDrained (n : PartId)
  | mapUpdateDrainTimeout (n : PartId)
  | regionUpdateStart (slot : SlotId)
  | regionUpdateComplete (slot : SlotId)
  | regionRetireComplete (slot : SlotId)
  | hashGo (n : PartId) (ctl : Word)
  | hashJobComplete (n : PartId)
  | quietPointReached (n : PartId)
  | quietTimeout (w : QuietWaiter)
  | protectedRecordWritten
  | proposalExpiry (id : BitVec 32)
  | restartPassEnd (n : PartId) (failed : BitVec 64)
  -- mailboxes
  /-- The mailboxes whose bells ring at once. -/
  | mbxBellReq (ms : List MbxId)
  /-- `cc` names a control pair whose comparator finds a mismatch as the pairs do this work (R23, R502). -/
  | mbxMessageTake (m : MbxId) (cc : Option (Fin 4))
  | mbxBellRspDone (m : MbxId)
  | mbxEvtHeadWrite (m : MbxId) (v : BitVec 8)
  | segmentGapTimeout (m : MbxId)
  -- Velna commands: the mailbox that holds the command, and its tag
  | devInfo (m : MbxId) (tag : BitVec 16)
  | devStatus (m : MbxId) (tag : BitVec 16)
  | paceReport (m : MbxId) (tag : BitVec 16)
  | configLoad (m : MbxId) (tag : BitVec 16) (image : Option (List Byte))
  | setMode (m : MbxId) (tag : BitVec 16)
  | configRead (m : MbxId) (tag : BitVec 16)
  | protectPropose (m : MbxId) (tag : BitVec 16)
  | protectApprove (m : MbxId) (tag : BitVec 16)
  | protectCommit (m : MbxId) (tag : BitVec 16)
  | protectWithdraw (m : MbxId) (tag : BitVec 16)
  | authorityList (m : MbxId) (tag : BitVec 16)
  | mapUpdate (m : MbxId) (tag : BitVec 16)
  | regionCreate (m : MbxId) (tag : BitVec 16)
  | regionUpdate (m : MbxId) (tag : BitVec 16)
  | regionRetire (m : MbxId) (tag : BitVec 16)
  | regionStatus (m : MbxId) (tag : BitVec 16)
  | queueCreate (m : MbxId) (tag : BitVec 16)
  | queueDestroy (m : MbxId) (tag : BitVec 16)
  | anteSet (m : MbxId) (tag : BitVec 16)
  | ledgerQuery (m : MbxId) (tag : BitVec 16)
  | chainDefine (m : MbxId) (tag : BitVec 16)
  | chainRelease (m : MbxId) (tag : BitVec 16)
  | attestDevice (m : MbxId) (tag : BitVec 16)
  | attestPartition (m : MbxId) (tag : BitVec 16)
  | grainSeed (m : MbxId) (tag : BitVec 16)
  | keyInstall (m : MbxId) (tag : BitVec 16)
  | confidentialEnter (m : MbxId) (tag : BitVec 16)
  | errorLogRead (m : MbxId) (tag : BitVec 16)
  | partitionRestart (m : MbxId) (tag : BitVec 16)
  | recallAck (m : MbxId) (tag : BitVec 16)
  | checkSplitEnable (m : MbxId) (tag : BitVec 16)
  | selfTestRun (m : MbxId) (tag : BitVec 16)
  | powerEnvelope (m : MbxId) (tag : BitVec 16)
  | paceLock (m : MbxId) (tag : BitVec 16)
  -- check-split, host accesses, the board
  | csRawRead (w : CsTarget)
  | csRawWrite (w : CsTarget)
  | pfBar2Access (off : BitVec 39) (op : MemOp)
  | vfBar2Access (n : PartId) (off : BitVec 36) (op : MemOp) (ide : Bool)
  | registerWrite (a : RegAddr) (bytes : List Byte)
  | i3cWriteCapW (v : BitVec 16)
  | i3cReadFlags (reg : I3cReg)
  | tapInstruction (op : TapOp)
  | uartInput (b : Byte)
  -- SPDM, IDE_KM and TDISP, at function f's responder
  | getVersion (f : FnId)
  | getCapabilities (f : FnId)
  | negotiateAlgorithms (f : FnId)
  | getDigests (f : FnId)
  | getCertificate (f : FnId) (slot : Nat) (off len : Nat)
  | challenge (f : FnId) (slot : Nat) (nonce : BitVec 256)
  | getMeasurements (f : FnId) (block : Nat) (signed : Bool) (nonce : BitVec 256)
  | keyExchange (f : FnId) (reqId : BitVec 16) (exchange : BitVec 768)
  | finish (f : FnId) (session : BitVec 32) (verified : Bool)
  | heartbeat (f : FnId) (session : BitVec 32)
  | spdmHeartbeatTimeout (f : FnId) (session : BitVec 32)
  | keyUpdate (f : FnId) (session : BitVec 32)
  | endSession (f : FnId) (session : BitVec 32)
  | respondIfReady (f : FnId) (token : Byte)
  | spdmUnsupportedRequest (f : FnId) (code : Byte)
  | ideKm (f : FnId) (session : BitVec 32) (stream : Fin 66) (op : IdeKmOp)
  | getTdispVersion (f : FnId) (session : BitVec 32) (n : PartId)
  | getTdispCapabilities (f : FnId) (session : BitVec 32) (n : PartId)
  | lockInterfaceRequest (f : FnId) (session : BitVec 32) (n : PartId)
  | getDeviceInterfaceReport (f : FnId) (session : BitVec 32) (n : PartId)
  | getDeviceInterfaceState (f : FnId) (session : BitVec 32) (n : PartId)
  | startInterfaceRequest (f : FnId) (session : BitVec 32) (n : PartId) (nonce : BitVec 256)
  | stopInterfaceRequest (f : FnId) (session : BitVec 32) (n : PartId)
  -- the rows added at the table's end
  | reportSnapshotExpiry (m : MbxId)
  | configurationRequest (f : FnId) (q : CfgReq)
  | lossOfPower
  | noiseSourceSample (bit : Bool)
  | knownPatternTestEnd (failed : BitVec 64) (tiles : BitVec 64)
  | flashWriteComplete
  deriving DecidableEq, Repr

end Sys2Proof
end

