-- ==== Sys2Proof/Decode.lean ====
section
/-!
DEFINITION. The decoder of the table's words. No row of the opcode table gives a bit to its command (every "fields" is
empty), so no word spells a command. The words of SIS instructions are operands and are decoded in Machine/Sis.lean.
-/

namespace Sys2Proof

/-- The command that `nbits` bits spell by the table: none, since the table gives no row any bits. -/
def decodeTableWord (_nbits _w : Nat) : Option Instr := none

end Sys2Proof
end

