-- ==== Sys2Proof/Machine/Bits.lean ====
section
/-!
DEFINITION. Bit fields, sign extension and byte order. Avrak is little-endian throughout (00_scope.md R2).
-/

namespace Sys2Proof.Machine

/-- Field [lo + len − 1 : lo] of a bit vector, as a number. -/
def fld {w : Nat} (x : BitVec w) (lo len : Nat) : Nat := (x.toNat >>> lo) % 2 ^ len

/-- One bit of a bit vector. -/
def bit {w : Nat} (x : BitVec w) (i : Nat) : Bool := x.getLsbD i

/-- A flag as a number. -/
def b2n (b : Bool) : Nat := if b then 1 else 0

/-- The number that little-endian bytes spell (R2). -/
def leNat : List Byte → Nat
  | [] => 0
  | b :: bs => b.toNat + 256 * leNat bs

/-- The `n` low bytes of a number, least significant first (R2). -/
def leBytes : Nat → Nat → List Byte
  | 0, _ => []
  | n + 1, v => BitVec.ofNat 8 v :: leBytes n (v / 256)

/-- The number that big-endian bytes spell (used only inside FIPS algorithms). -/
def beNat (bs : List Byte) : Nat := leNat bs.reverse

/-- Big-endian bytes (used only inside FIPS algorithms). -/
def beBytes (n v : Nat) : List Byte := (leBytes n v).reverse

/-- `len` bytes of a message from byte `off`. -/
def slice (p : List Byte) (off len : Nat) : List Byte := (p.drop off).take len

/-- The little-endian number of `len` bytes from byte `off`. -/
def at' (p : List Byte) (off len : Nat) : Nat := leNat (slice p off len)

/-- `n` zero bytes. -/
def zeros (n : Nat) : List Byte := List.replicate n 0

/-- A byte string cut or zero-padded to `n` bytes. -/
def padTo (n : Nat) (bs : List Byte) : List Byte := (bs ++ zeros n).take n

/-- True when every byte of a message is zero. -/
def allZero (bs : List Byte) : Bool := bs.all (fun b => b == 0)

/-- The ASCII bytes of a name. -/
def ascii (s : String) : List Byte := s.toList.map (fun c => BitVec.ofNat 8 c.toNat)

/-- Sign-extend the low `n` bits of a number into 64 bits. -/
def sext64 (n v : Nat) : Word :=
  let x := v % 2 ^ n
  if 2 ^ n ≤ 2 * x then BitVec.ofInt 64 ((x : Int) - 2 ^ n) else BitVec.ofNat 64 x

/-- The two's complement value of the low `n` bits of a number. -/
def sval (n v : Nat) : Int :=
  let x := v % 2 ^ n
  if 2 ^ n ≤ 2 * x then (x : Int) - 2 ^ n else x

/-- The bits of `v` placed at [lo + len − 1 : lo] of `x`. -/
def setFld {w : Nat} (x : BitVec w) (lo len v : Nat) : BitVec w :=
  (x &&& ~~~(BitVec.ofNat w ((2 ^ len - 1) <<< lo))) ||| BitVec.ofNat w ((v % 2 ^ len) <<< lo)

/-- The number of one bits among the low `n`. -/
def popc : Nat → Nat → Nat
  | 0, _ => 0
  | n + 1, v => v % 2 + popc n (v / 2)

/-- The set bits of a bit map as indices, ascending. -/
def bitsOf {w : Nat} (x : BitVec w) : List Nat := (List.range w).filter (fun i => x.getLsbD i)

/-- The bit map with exactly the listed bits set. -/
def bitmap (w : Nat) (is : List Nat) : BitVec w := is.foldl (fun x i => x ||| BitVec.ofNat w (2 ^ i)) 0

/-- Lower bits of a number that saturates at its field's largest value (the counters of R189, R290, R314). -/
def satAdd (bits a b : Nat) : Nat := min (a + b) (2 ^ bits - 1)

/-- ⌈a / b⌉. -/
def ceilDiv (a b : Nat) : Nat := (a + b - 1) / b

/-- Little-endian bytes of a bit vector of whole bytes. -/
def bvBytes {w : Nat} (x : BitVec w) : List Byte := leBytes (w / 8) x.toNat

/-- A bit vector from little-endian bytes. -/
def bytesBv (w : Nat) (bs : List Byte) : BitVec w := BitVec.ofNat w (leNat bs)

end Sys2Proof.Machine
end

