-- ==== Sys2Proof/Machine/Sha.lean ====
section
/-!
DEFINITION. SHA-384 and SHA-512 (FIPS 180-4), HMAC (FIPS 198-1) and HKDF over SHA-384, as 16_shared_engines.md R474 and
15_security.md R435 use them. The algorithms are those of the standards that 00_scope.md R10 adopts.
-/

namespace Sys2Proof.Machine

/-- The words that a number packs, 64 bits each, the most significant first. -/
def packed (n x : Nat) : List Word := (List.range n).map (fun i => BitVec.ofNat 64 (x >>> (64 * (n - 1 - i))))

/-- The round constants of FIPS 180-4 4.2.3, sixteen rounds to a row. -/
def shaRows : List Nat := [
  0x428a2f98d728ae227137449123ef65cdb5c0fbcfec4d3b2fe9b5dba58189dbbc3956c25bf348b53859f111f1b605d019923f82a4af194f9bab1c5ed5da6d8118d807aa98a303024212835b0145706fbe243185be4ee4b28c550c7dc3d5ffb4e272be5d74f27b896f80deb1fe3b1696b19bdc06a725c71235c19bf174cf692694,
  0xe49b69c19ef14ad2efbe4786384f25e30fc19dc68b8cd5b5240ca1cc77ac9c652de92c6f592b02754a7484aa6ea6e4835cb0a9dcbd41fbd476f988da831153b5983e5152ee66dfaba831c66d2db43210b00327c898fb213fbf597fc7beef0ee4c6e00bf33da88fc2d5a79147930aa72506ca6351e003826f142929670a0e6e70,
  0x27b70a8546d22ffc2e1b21385c26c9264d2c6dfc5ac42aed53380d139d95b3df650a73548baf63de766a0abb3c77b2a881c2c92e47edaee692722c851482353ba2bfe8a14cf10364a81a664bbc423001c24b8b70d0f89791c76c51a30654be30d192e819d6ef5218d69906245565a910f40e35855771202a106aa07032bbd1b8,
  0x19a4c116b8d2d0c81e376c085141ab532748774cdf8eeb9934b0bcb5e19b48a8391c0cb3c5c95a634ed8aa4ae3418acb5b9cca4f7763e373682e6ff3d6b2b8a3748f82ee5defb2fc78a5636f43172f6084c87814a1f0ab728cc702081a6439ec90befffa23631e28a4506cebde82bde9bef9a3f7b2c67915c67178f2e372532b,
  0xca273eceea26619cd186b8c721c0c207eada7dd6cde0eb1ef57d4f7fee6ed17806f067aa72176fba0a637dc5a2c898a6113f9804bef90dae1b710b35131c471b28db77f523047d8432caab7b40c724933c9ebe0a15c9bebc431d67c49c100d4c4cc5d4becb3e42b6597f299cfc657e2a5fcb6fab3ad6faec6c44198c4a475817]

/-- The round constant of every round. -/
def shaK : List Word := (shaRows.map (packed 16)).flatten

/-- The initial hash value of SHA-512 (FIPS 180-4 5.3.5). -/
def sha512Init : List Word := packed 8
  0x6a09e667f3bcc908bb67ae8584caa73b3c6ef372fe94f82ba54ff53a5f1d36f1510e527fade682d19b05688c2b3e6c1f1f83d9abfb41bd6b5be0cd19137e2179

/-- The initial hash value of SHA-384 (FIPS 180-4 5.3.4). -/
def sha384Init : List Word := packed 8
  0xcbbb9d5dc1059ed8629a292a367cd5079159015a3070dd17152fecd8f70e593967332667ffc00b318eb44a8768581511db0c2e0d64f98fa747b5481dbefa4fa4

/-- A Σ function: the exclusive or of a word's rotations. -/
def shaMix (rs : List Nat) (x : Word) : Word := rs.foldl (fun y r => y ^^^ x.rotateRight r) 0

/-- One round on the eight working variables a to h, with the round's constant and message word added up. -/
def shaRound (v : List Word) (kw : Word) : List Word :=
  match v with
  | [a, b, c, d, e, f, g, h] =>
    let t := h + kw + shaMix [14, 18, 41] e + (g ^^^ (e &&& (f ^^^ g)))
    [t + shaMix [28, 34, 39] a + ((a &&& (b ||| c)) ||| (b &&& c)), a, b, c, d + t, e, f, g]
  | _ => v

/-- The rounds of one block, a constant each; `w` is the sixteen message words from this round's on. -/
def shaRounds : List Word → List Word → List Word → List Word
  | [], _, v => v
  | k :: ks, w, v =>
    let w0 := w.headD 0
    let w1 := w.getD 1 0
    let w14 := w.getD 14 0
    let next := shaMix [19, 61] w14 ^^^ w14 >>> 6
    shaRounds ks (w.tail ++ [next + w.getD 9 0 + (shaMix [1, 8] w1 ^^^ w1 >>> 7) + w0]) (shaRound v (k + w0))

/-- The compression function on one 128-byte block. -/
def shaBlock (v : List Word) (blk : List Byte) : List Word :=
  v.zipWith (· + ·) (shaRounds shaK (packed 16 (beNat blk)) v)

/-- Hash `n` whole blocks. -/
def shaBlocks : Nat → List Word → List Byte → List Word
  | 0, v, _ => v
  | n + 1, v, bs => shaBlocks n (shaBlock v (bs.take 128)) (bs.drop 128)

/-- The padded message of FIPS 180-4. -/
def shaPad (m : List Byte) : List Byte :=
  m ++ [0x80] ++ zeros ((239 - m.length % 128) % 128) ++ beBytes 16 (8 * m.length)

/-- The 64 bytes of the final hash value. -/
def shaOut (v : List Word) : List Byte := (v.map (fun w => beBytes 8 w.toNat)).flatten

/-- SHA-512: 64 bytes. -/
def sha512 (m : List Byte) : List Byte :=
  let p := shaPad m
  shaOut (shaBlocks (p.length / 128) sha512Init p)

/-- SHA-384: 48 bytes. -/
def sha384 (m : List Byte) : List Byte :=
  let p := shaPad m
  (shaOut (shaBlocks (p.length / 128) sha384Init p)).take 48

/-- HMAC over a hash with 128-byte blocks. -/
def hmac (h : List Byte → List Byte) (key m : List Byte) : List Byte :=
  let k := padTo 128 (if 128 < key.length then h key else key)
  h (k.map (fun b => b ^^^ 0x5c) ++ h (k.map (fun b => b ^^^ 0x36) ++ m))

/-- `n` blocks of HKDF-Expand-SHA-384, from block number `i` after block `prev`. -/
def hkdfBlocks (prk info : List Byte) : Nat → Nat → List Byte → List Byte
  | 0, _, _ => []
  | n + 1, i, prev =>
    let t := hmac sha384 prk (prev ++ info ++ [BitVec.ofNat 8 i])
    t ++ hkdfBlocks prk info n (i + 1) t

/-- HKDF-Expand-SHA-384 of `len` bytes. -/
def hkdfExpand (prk info : List Byte) (len : Nat) : List Byte :=
  (hkdfBlocks prk info (ceilDiv len 48) 1 []).take len

/-- HKDF-SHA-384 with an empty salt: extract, then expand to `len` bytes (R435, R554). -/
def hkdf (ikm info : List Byte) (len : Nat) : List Byte :=
  hkdfExpand (hmac sha384 (zeros 48) ikm) info len

end Sys2Proof.Machine
end

