-- ==== Sys2Proof/Machine/P384.lean ====
section
/-!
DEFINITION. ECDSA and ECDH on P-384 (FIPS 186-5), as 13_velna.md R382, 15_security.md R435 and 16_shared_engines.md R480
use them. Signatures and keys are little-endian integers in the device's messages; the arithmetic is on natural numbers.
-/

namespace Sys2Proof.Machine

/-- The field prime. -/
def p384 : Nat := 2 ^ 384 - 2 ^ 128 - 2 ^ 96 + 2 ^ 32 - 1

/-- The order of the group. -/
def n384 : Nat :=
  0xffffffffffffffffffffffffffffffffffffffffffffffffc7634d81f4372ddf581a0db248b0a77aecec196accc52973

/-- The curve coefficient b. -/
def b384 : Nat :=
  0xb3312fa7e23ee7e4988e056be3f82d19181d9c6efe8141120314088f5013875ac656398d8a2ed19d2a85c8edd3ec2aef

/-- The base point. -/
def g384 : Nat × Nat :=
  (0xaa87ca22be8b05378eb1c71ef320ad746e1d3b628ba79b9859f741e082542a385502f25dbf55296c3a545e3872760ab7,
   0x3617de4a96262c6f5d9e98bf9292dc29f8f41dbd289a147ce9da3113b5f0b8c00a60b1ce1d7e819d7a431d7c90ea0e5f)

/-- Modular power by squaring over the low `k` bits of the exponent. -/
def powMod (m : Nat) : Nat → Nat → Nat → Nat
  | 0, _, _ => 1 % m
  | k + 1, a, e => (if e % 2 = 1 then a else 1) * powMod m k (a * a % m) (e / 2) % m

/-- The inverse modulo a prime. -/
def invMod (m a : Nat) : Nat := powMod m 384 (a % m) (m - 2)

/-- Subtraction modulo `m`. -/
def subMod (m a b : Nat) : Nat := (a + (m - b % m)) % m

/-- Addition of curve points; `none` is the point at infinity. -/
def ptAdd : Option (Nat × Nat) → Option (Nat × Nat) → Option (Nat × Nat)
  | none, q => q
  | p, none => p
  | some (x1, y1), some (x2, y2) =>
    if x1 = x2 ∧ (y1 + y2) % p384 = 0 then none
    else
      let l := if x1 = x2 then (3 * x1 * x1 + (p384 - 3)) * invMod p384 (2 * y1) % p384
               else subMod p384 y2 y1 * invMod p384 (subMod p384 x2 x1) % p384
      let x3 := subMod p384 (l * l) (x1 + x2)
      some (x3, subMod p384 (l * subMod p384 x1 x3) y1)

/-- Scalar multiplication over the low `k` bits of the scalar. -/
def ptMul : Nat → Nat → Option (Nat × Nat) → Option (Nat × Nat)
  | 0, _, _ => none
  | k + 1, e, p => ptAdd (if e % 2 = 1 then p else none) (ptMul k (e / 2) (ptAdd p p))

/-- A public key is a valid point of the curve (R416). -/
def validPoint (x y : Nat) : Bool :=
  decide (x < p384) && decide (y < p384) && decide (y * y % p384 = (x * x * x + (p384 - 3) * x + b384) % p384)

/-- ECDSA verification of a 48-byte digest under key (x, y). -/
def ecdsaVerify (x y : Nat) (digest : List Byte) (r s : Nat) : Bool :=
  if validPoint x y && decide (0 < r ∧ r < n384 ∧ 0 < s ∧ s < n384) then
    let w := invMod n384 s
    let e := beNat digest
    match ptAdd (ptMul 384 (e * w % n384) (some g384)) (ptMul 384 (r * w % n384) (some (x, y))) with
    | none => false
    | some (px, _) => decide (px % n384 = r)
  else false

/-- ECDSA signature (r, s) of a digest with private key `d` and per-signature secret `k`. -/
def ecdsaSign (d k : Nat) (digest : List Byte) : Nat × Nat :=
  match ptMul 384 k (some g384) with
  | none => (0, 0)
  | some (x, _) =>
    let r := x % n384
    (r, invMod n384 k * (beNat digest + r * d) % n384)

/-- The 96 bytes of a signature in the device's messages: r then s, each little-endian (R382). -/
def sigBytes (rs : Nat × Nat) : List Byte := leBytes 48 rs.1 ++ leBytes 48 rs.2

/-- Verify the 96-byte signature of a message's SHA-384 under a key (R382, R402). -/
def verifyMsg (x y : Nat) (msg sig : List Byte) : Bool :=
  ecdsaVerify x y (sha384 msg) (at' sig 0 48) (at' sig 48 48)

/-- Reduce 48 bytes to a private scalar: (value mod (n − 1)) + 1 (R435). -/
def toScalar (bs : List Byte) : Nat := beNat bs % (n384 - 1) + 1

/-- The public key of a private scalar. -/
def pubKey (d : Nat) : Nat × Nat := (ptMul 384 d (some g384)).getD (0, 0)

/-- ECDH: the x coordinate of the shared point, big-endian. -/
def ecdh (d : Nat) (x y : Nat) : List Byte :=
  match ptMul 384 d (some (x, y)) with
  | none => zeros 48
  | some (sx, _) => beBytes 48 sx

/-- The HMAC-DRBG loop that yields the deterministic per-signature secret of FIPS 186-5. -/
def detLoop : Nat → List Byte → List Byte → Nat
  | 0, _, _ => 1
  | n + 1, k, v =>
    let v' := hmac sha384 k v
    if 0 < beNat v' ∧ beNat v' < n384 then beNat v'
    else
      let k' := hmac sha384 k (v' ++ [0])
      detLoop n k' (hmac sha384 k' v')

/-- The deterministic per-signature secret (R514). -/
def detSecret (d : Nat) (digest : List Byte) : Nat :=
  let seed := beBytes 48 d ++ beBytes 48 (beNat digest % n384)
  let v0 := List.replicate 48 (1 : Byte)
  let k1 := hmac sha384 (zeros 48) (v0 ++ [0] ++ seed)
  let v1 := hmac sha384 k1 v0
  let k2 := hmac sha384 k1 (v1 ++ [1] ++ seed)
  detLoop 16 k2 (hmac sha384 k2 v1)

end Sys2Proof.Machine
end

