-- ==== Sys2Proof/Config.lean ====
section
/-!
DEFINITION. What an implementation fixes, and the free values: constants with no body for every value the spec leaves open.
-/

namespace Sys2Proof.Config

/-- The `n`-th free value: nothing constrains it. Each use advances the state's counter `free` (log entry 4). -/
opaque freeWord : Nat → Word

/-- Which of the odd-weight columns each bit of a 64-bit word has in the SEC-DED code: the spec gives the code's width and strength and
not its matrix (R157, R217, log entry 122). -/
opaque secdedPick : Nat → Nat

/-- The four firmware release keys of the boot ROM: P-384 point x and y (R425). -/
opaque releaseKey : Nat → Nat × Nat

/-- The boot ROM's bytes are not in the spec; this is their SHA-384 (R424). -/
opaque bootRomDigest : List Byte

/-- The known-answer key pair of cipher slot 65 (R481). -/
opaque katKeys : List Byte

/-- The device's SPDM alias certificate chain for an alias key (R438). -/
opaque certificateChain : Nat → List Byte

/-- The JTAG IDCODE of SJ-AV64 stepping B0 (R539). -/
opaque idcode : BitVec 32

/-- The exported secret of an SPDM session from its key exchange and transcript (R440, R450). -/
opaque sessionSecret : List Byte → BitVec 32 → List Byte

/-- Where firmware begins to look for a free region slot among a partition's own: which free slot it takes is not defined, but the choice may
rest only on the partition table and the partition's own regions (R252, log entry 4). -/
opaque regionSlot : List Nat → Nat

/-- Where the routers of a tile die stand in its mesh: 0–16 the physical tiles' routers, 17 and 18 the HBM controllers', 19 the bridge's. The spec
gives their number and not their places (R70, log entry 144). -/
opaque routerAt : Nat → Nat × Nat

/-- Whether two lines of one granule share a DRAM bank: the spec places no line in a bank (R271, R274, log entry 133). -/
opaque sameBank : Nat → Nat → Bool

/-- How long an access holds its bank, in ns: the spec gives no time (R274, log entry 133). -/
opaque bankBusy : Nat

/-- The bytes of a packet on the device links, by position: the spec gives the header's length and not its layout (R58, R295, log entry
136). -/
opaque netByte : NetPacket → Nat → Byte

/-- The packet that the bytes of a stream spell; none while it is not whole (R295, log entry 136). -/
opaque netPacket : List Byte → Option NetPacket

end Sys2Proof.Config
end

