-- ==== Sys2Proof/Machine/Secded.lean ====
section
/-!
DEFINITION. The SEC-DED code of the Local Store, the accumulator memory and the ledger: 8 check bits over 64 data bits that correct one wrong
bit and report two (R157, R217, R489). Its columns have odd weight; which column each data bit has is free (log entry 122).
-/

namespace Sys2Proof.Machine

/-- True for an 8-bit value with an odd number of ones. -/
def oddBits (c : BitVec 8) : Bool := popc 8 c.toNat % 2 == 1

/-- The columns that a data bit may have: odd weight, and not the single one of a check bit. -/
def eccColumns : List (BitVec 8) := ((List.range 256).map (BitVec.ofNat 8)).filter (fun c => oddBits c && decide (1 < popc 8 c.toNat))

/-- Deal columns to data bits `i` upward, each from those left. The first argument counts the bits. -/
def dealColumns : Nat → Nat → List (BitVec 8) → List (BitVec 8)
  | 0, _, _ => []
  | k + 1, i, left =>
    let j := Config.secdedPick i % left.length
    left.getD j 0 :: dealColumns k (i + 1) (left.eraseIdx j)

/-- The column of each data bit. -/
def secdedColumns : List (BitVec 8) := dealColumns 64 0 eccColumns

/-- The check bits of a word: the sum of the columns of its ones. -/
def secdedEncode (d : Word) : BitVec 8 := secdedColumns.zipIdx.foldl (fun a c => if d.getLsbD c.2 then a ^^^ c.1 else a) 0

/-- What a syndrome says of a word. -/
inductive EccFind where
  | clean
  | dataBit (i : Nat)
  | checkBit
  | double
  deriving DecidableEq, Repr

/-- The decoder: a column names its data bit, a single one its check bit; every other syndrome but zero cannot be corrected. -/
def secdedFind (syn : BitVec 8) : EccFind :=
  if syn = 0 then .clean
  else if popc 8 syn.toNat = 1 then .checkBit
  else match secdedColumns.findIdx? (fun c => c == syn) with
    | some i => .dataBit i
    | none => .double

/-- The word that a correctable syndrome stands for. -/
def secdedFix (d : Word) (f : EccFind) : Word :=
  match f with
  | .dataBit i => d ^^^ BitVec.ofNat 64 (2 ^ i)
  | _ => d

end Sys2Proof.Machine
end

