-- ==== Sys2Proof/Machine/Aes.lean ====
section
/-!
DEFINITION. AES-256 (FIPS 197) and the modes the device uses: the grain block of 16_shared_engines.md R470, CTR_DRBG
(SP 800-90A, R468), AES-256-GCM (15_security.md R450) and AES-256-XTS (IEEE 1619, 10_hbm.md R279).
-/

namespace Sys2Proof.Machine

/-- Multiplication by x in GF(2^8). -/
def xtime (a : Nat) : Nat := if a < 128 then 2 * a else (2 * a) % 256 ^^^ 0x1b

/-- Multiplication in GF(2^8) by the low `n` bits of `b`. -/
def gmul : Nat → Nat → Nat → Nat
  | 0, _, _ => 0
  | n + 1, a, b => (if b % 2 = 1 then a else 0) ^^^ gmul n (xtime a) (b / 2)

/-- The S-box of FIPS 197, by byte. -/
def sboxTable : List Nat :=
  [0x63, 0x7c, 0x77, 0x7b, 0xf2, 0x6b, 0x6f, 0xc5, 0x30, 0x01, 0x67, 0x2b, 0xfe, 0xd7, 0xab, 0x76,
   0xca, 0x82, 0xc9, 0x7d, 0xfa, 0x59, 0x47, 0xf0, 0xad, 0xd4, 0xa2, 0xaf, 0x9c, 0xa4, 0x72, 0xc0,
   0xb7, 0xfd, 0x93, 0x26, 0x36, 0x3f, 0xf7, 0xcc, 0x34, 0xa5, 0xe5, 0xf1, 0x71, 0xd8, 0x31, 0x15,
   0x04, 0xc7, 0x23, 0xc3, 0x18, 0x96, 0x05, 0x9a, 0x07, 0x12, 0x80, 0xe2, 0xeb, 0x27, 0xb2, 0x75] ++
  [0x09, 0x83, 0x2c, 0x1a, 0x1b, 0x6e, 0x5a, 0xa0, 0x52, 0x3b, 0xd6, 0xb3, 0x29, 0xe3, 0x2f, 0x84,
   0x53, 0xd1, 0x00, 0xed, 0x20, 0xfc, 0xb1, 0x5b, 0x6a, 0xcb, 0xbe, 0x39, 0x4a, 0x4c, 0x58, 0xcf,
   0xd0, 0xef, 0xaa, 0xfb, 0x43, 0x4d, 0x33, 0x85, 0x45, 0xf9, 0x02, 0x7f, 0x50, 0x3c, 0x9f, 0xa8,
   0x51, 0xa3, 0x40, 0x8f, 0x92, 0x9d, 0x38, 0xf5, 0xbc, 0xb6, 0xda, 0x21, 0x10, 0xff, 0xf3, 0xd2] ++
  [0xcd, 0x0c, 0x13, 0xec, 0x5f, 0x97, 0x44, 0x17, 0xc4, 0xa7, 0x7e, 0x3d, 0x64, 0x5d, 0x19, 0x73,
   0x60, 0x81, 0x4f, 0xdc, 0x22, 0x2a, 0x90, 0x88, 0x46, 0xee, 0xb8, 0x14, 0xde, 0x5e, 0x0b, 0xdb,
   0xe0, 0x32, 0x3a, 0x0a, 0x49, 0x06, 0x24, 0x5c, 0xc2, 0xd3, 0xac, 0x62, 0x91, 0x95, 0xe4, 0x79,
   0xe7, 0xc8, 0x37, 0x6d, 0x8d, 0xd5, 0x4e, 0xa9, 0x6c, 0x56, 0xf4, 0xea, 0x65, 0x7a, 0xae, 0x08] ++
  [0xba, 0x78, 0x25, 0x2e, 0x1c, 0xa6, 0xb4, 0xc6, 0xe8, 0xdd, 0x74, 0x1f, 0x4b, 0xbd, 0x8b, 0x8a,
   0x70, 0x3e, 0xb5, 0x66, 0x48, 0x03, 0xf6, 0x0e, 0x61, 0x35, 0x57, 0xb9, 0x86, 0xc1, 0x1d, 0x9e,
   0xe1, 0xf8, 0x98, 0x11, 0x69, 0xd9, 0x8e, 0x94, 0x9b, 0x1e, 0x87, 0xe9, 0xce, 0x55, 0x28, 0xdf,
   0x8c, 0xa1, 0x89, 0x0d, 0xbf, 0xe6, 0x42, 0x68, 0x41, 0x99, 0x2d, 0x0f, 0xb0, 0x54, 0xbb, 0x16]

/-- The inverse S-box of FIPS 197, by byte. -/
def invSboxTable : List Nat :=
  [0x52, 0x09, 0x6a, 0xd5, 0x30, 0x36, 0xa5, 0x38, 0xbf, 0x40, 0xa3, 0x9e, 0x81, 0xf3, 0xd7, 0xfb,
   0x7c, 0xe3, 0x39, 0x82, 0x9b, 0x2f, 0xff, 0x87, 0x34, 0x8e, 0x43, 0x44, 0xc4, 0xde, 0xe9, 0xcb,
   0x54, 0x7b, 0x94, 0x32, 0xa6, 0xc2, 0x23, 0x3d, 0xee, 0x4c, 0x95, 0x0b, 0x42, 0xfa, 0xc3, 0x4e,
   0x08, 0x2e, 0xa1, 0x66, 0x28, 0xd9, 0x24, 0xb2, 0x76, 0x5b, 0xa2, 0x49, 0x6d, 0x8b, 0xd1, 0x25] ++
  [0x72, 0xf8, 0xf6, 0x64, 0x86, 0x68, 0x98, 0x16, 0xd4, 0xa4, 0x5c, 0xcc, 0x5d, 0x65, 0xb6, 0x92,
   0x6c, 0x70, 0x48, 0x50, 0xfd, 0xed, 0xb9, 0xda, 0x5e, 0x15, 0x46, 0x57, 0xa7, 0x8d, 0x9d, 0x84,
   0x90, 0xd8, 0xab, 0x00, 0x8c, 0xbc, 0xd3, 0x0a, 0xf7, 0xe4, 0x58, 0x05, 0xb8, 0xb3, 0x45, 0x06,
   0xd0, 0x2c, 0x1e, 0x8f, 0xca, 0x3f, 0x0f, 0x02, 0xc1, 0xaf, 0xbd, 0x03, 0x01, 0x13, 0x8a, 0x6b] ++
  [0x3a, 0x91, 0x11, 0x41, 0x4f, 0x67, 0xdc, 0xea, 0x97, 0xf2, 0xcf, 0xce, 0xf0, 0xb4, 0xe6, 0x73,
   0x96, 0xac, 0x74, 0x22, 0xe7, 0xad, 0x35, 0x85, 0xe2, 0xf9, 0x37, 0xe8, 0x1c, 0x75, 0xdf, 0x6e,
   0x47, 0xf1, 0x1a, 0x71, 0x1d, 0x29, 0xc5, 0x89, 0x6f, 0xb7, 0x62, 0x0e, 0xaa, 0x18, 0xbe, 0x1b,
   0xfc, 0x56, 0x3e, 0x4b, 0xc6, 0xd2, 0x79, 0x20, 0x9a, 0xdb, 0xc0, 0xfe, 0x78, 0xcd, 0x5a, 0xf4] ++
  [0x1f, 0xdd, 0xa8, 0x33, 0x88, 0x07, 0xc7, 0x31, 0xb1, 0x12, 0x10, 0x59, 0x27, 0x80, 0xec, 0x5f,
   0x60, 0x51, 0x7f, 0xa9, 0x19, 0xb5, 0x4a, 0x0d, 0x2d, 0xe5, 0x7a, 0x9f, 0x93, 0xc9, 0x9c, 0xef,
   0xa0, 0xe0, 0x3b, 0x4d, 0xae, 0x2a, 0xf5, 0xb0, 0xc8, 0xeb, 0xbb, 0x3c, 0x83, 0x53, 0x99, 0x61,
   0x17, 0x2b, 0x04, 0x7e, 0xba, 0x77, 0xd6, 0x26, 0xe1, 0x69, 0x14, 0x63, 0x55, 0x21, 0x0c, 0x7d]

def sbox (a : Nat) : Nat := sboxTable.getD a 0

def invSbox (a : Nat) : Nat := invSboxTable.getD a 0

/-- Bytewise exclusive OR of two byte lists. -/
def xorL (a b : List Nat) : List Nat := (a.zip b).map (fun p => p.1 ^^^ p.2)

/-- Extend the key schedule, held newest word first, by `n` words; `i` is the index of the next word. -/
def aesExpand : Nat → Nat → Nat → List (List Nat) → List (List Nat)
  | 0, _, _, ws => ws
  | n + 1, i, rcon, ws =>
    let prev := ws.getD 0 []
    let old := ws.getD 7 []
    if i % 8 = 0 then
      let t := xorL ((prev.drop 1 ++ prev.take 1).map sbox) [rcon, 0, 0, 0]
      aesExpand n (i + 1) (xtime rcon) (xorL old t :: ws)
    else if i % 8 = 4 then aesExpand n (i + 1) rcon (xorL old (prev.map sbox) :: ws)
    else aesExpand n (i + 1) rcon (xorL old prev :: ws)

/-- Cut a byte list into `n` groups of `k`. -/
def groups (k : Nat) : Nat → List Nat → List (List Nat)
  | 0, _ => []
  | n + 1, l => l.take k :: groups k n (l.drop k)

/-- The fifteen round keys of AES-256. -/
def aesKeys (key : List Nat) : List (List Nat) :=
  groups 16 15 ((aesExpand 52 8 1 (groups 4 8 key).reverse).reverse.flatten)

/-- ShiftRows: byte i of column c comes from column c + i. -/
def shiftRows (s : List Nat) : List Nat := (List.range 16).map (fun i => s.getD ((i + 4 * (i % 4)) % 16) 0)

/-- The inverse of ShiftRows. -/
def invShiftRows (s : List Nat) : List Nat := (List.range 16).map (fun i => s.getD ((i + 12 * (i % 4)) % 16) 0)

/-- Multiply each column by the circulant matrix whose first row is given. -/
def mixWith (row : List Nat) (s : List Nat) : List Nat :=
  (List.range 16).map (fun i =>
    (List.range 4).foldl (fun acc j => acc ^^^ gmul 8 (s.getD (i / 4 * 4 + j) 0) (row.getD ((j + 4 - i % 4) % 4) 0)) 0)

/-- One middle round of encryption. -/
def aesRound (s k : List Nat) : List Nat := xorL (mixWith [2, 3, 1, 1] (shiftRows (s.map sbox))) k

/-- One middle round of decryption. -/
def aesInvRound (s k : List Nat) : List Nat :=
  mixWith [14, 11, 13, 9] (xorL ((invShiftRows s).map invSbox) k)

/-- AES-256 encryption of one 16-byte block. -/
def aesEncN (key blk : List Nat) : List Nat :=
  let ks := aesKeys key
  let s := ((ks.drop 1).take 13).foldl aesRound (xorL blk (ks.getD 0 []))
  xorL (shiftRows (s.map sbox)) (ks.getD 14 [])

/-- AES-256 decryption of one 16-byte block. -/
def aesDecN (key blk : List Nat) : List Nat :=
  let ks := aesKeys key
  let s := ((ks.drop 1).take 13).reverse.foldl aesInvRound (xorL blk (ks.getD 14 []))
  xorL ((invShiftRows s).map invSbox) (ks.getD 0 [])

/-- AES-256 encryption over bytes. -/
def aes256 (key blk : List Byte) : List Byte :=
  (aesEncN (key.map BitVec.toNat) (blk.map BitVec.toNat)).map (BitVec.ofNat 8)

/-- AES-256 decryption over bytes. -/
def aes256Dec (key blk : List Byte) : List Byte :=
  (aesDecN (key.map BitVec.toNat) (blk.map BitVec.toNat)).map (BitVec.ofNat 8)

/-- Bytewise exclusive OR. -/
def xorB (a b : List Byte) : List Byte := (a.zip b).map (fun p => p.1 ^^^ p.2)

/-- The 16-bit draw for grain index `i` under a seed (R470). -/
def grainDraw (seed : List Byte) (i : Nat) : Nat :=
  let out := aes256 seed (leBytes 8 (i / 8) ++ [0x47, 0x52, 0x4E, 0x31, 0, 0, 0, 0])
  at' out (2 * (i % 8)) 2

/-- The CTR_DRBG's working state (R468). -/
structure Drbg where
  key : List Byte
  v : Nat
  deriving DecidableEq, Repr

/-- `n` output blocks of CTR mode, and the counter after them. -/
def ctrBlocks (key : List Byte) : Nat → Nat → List Byte × Nat
  | 0, v => ([], v)
  | n + 1, v =>
    let v' := (v + 1) % 2 ^ 128
    let r := ctrBlocks key n v'
    (aes256 key (beBytes 16 v') ++ r.1, r.2)

/-- CTR_DRBG_Update with 48 bytes of provided data. -/
def Drbg.update (d : Drbg) (data : List Byte) : Drbg :=
  let t := xorB (ctrBlocks d.key 3 d.v).1 data
  ⟨t.take 32, beNat (t.drop 32)⟩

/-- Instantiate from 48 bytes of entropy and a 48-byte personalisation string (R468). -/
def Drbg.instantiate (entropy pers : List Byte) : Drbg := Drbg.update ⟨zeros 32, 0⟩ (xorB entropy pers)

/-- Reseed from 48 bytes of entropy. -/
def Drbg.reseed (d : Drbg) (entropy : List Byte) : Drbg := d.update entropy

/-- Generate `n` bytes (R469). -/
def Drbg.generate (d : Drbg) (n : Nat) : List Byte × Drbg :=
  let r := ctrBlocks d.key (ceilDiv n 16) d.v
  (r.1.take n, Drbg.update ⟨d.key, r.2⟩ (zeros 48))

/-- Multiplication in GF(2^128) with the GCM bit order. -/
def ghashMul : Nat → Nat → Nat → Nat → Nat
  | 0, _, _, z => z
  | n + 1, x, v, z =>
    ghashMul n x (if v % 2 = 1 then v / 2 ^^^ (0xe1 <<< 120) else v / 2) (if x.testBit n then z ^^^ v else z)

/-- GHASH over `n` blocks. -/
def ghash (h : Nat) : Nat → Nat → List Byte → Nat
  | 0, y, _ => y
  | n + 1, y, bs => ghash h n (ghashMul 128 (y ^^^ beNat (padTo 16 (bs.take 16))) h 0) (bs.drop 16)

/-- Zero-pad a byte string to whole 16-byte blocks. -/
def pad16 (bs : List Byte) : List Byte := padTo (16 * ceilDiv bs.length 16) bs

/-- AES-256-GCM decryption with a 12-byte IV; none when the tag does not verify (R450). -/
def gcmOpen (key iv aad ct tag : List Byte) : Option (List Byte) :=
  let h := beNat (aes256 key (zeros 16))
  let data := pad16 aad ++ pad16 ct ++ beBytes 8 (8 * aad.length) ++ beBytes 8 (8 * ct.length)
  let s := ghash h (data.length / 16) 0 data
  let j0 := beNat iv * 2 ^ 32 + 1
  let t := xorB (beBytes 16 s) (aes256 key (beBytes 16 j0))
  if t = tag then some (xorB ct (ctrBlocks key (ceilDiv ct.length 16) j0).1) else none

/-- Multiplication of the XTS tweak by x. -/
def xtsDouble (t : Nat) : Nat := if t < 2 ^ 127 then 2 * t else (2 * t) % 2 ^ 128 ^^^ 0x87

/-- XTS over `n` blocks of a data unit, with the tweak of the next block. -/
def xtsBlocks (f : List Byte → List Byte) : Nat → Nat → List Byte → List Byte
  | 0, _, _ => []
  | n + 1, t, bs =>
    xorB (f (xorB (bs.take 16) (leBytes 16 t))) (leBytes 16 t) ++ xtsBlocks f n (xtsDouble t) (bs.drop 16)

/-- Encipher one 128-byte line under a 64-byte key pair; the tweak is the HBM offset / 128 (R279). -/
def xtsEncrypt (keys : List Byte) (unit : Nat) (line : List Byte) : List Byte :=
  xtsBlocks (aes256 (keys.take 32)) 8 (leNat (aes256 (keys.drop 32) (leBytes 16 unit))) line

/-- Decipher one 128-byte line. -/
def xtsDecrypt (keys : List Byte) (unit : Nat) (line : List Byte) : List Byte :=
  xtsBlocks (aes256Dec (keys.take 32)) 8 (leNat (aes256 (keys.drop 32) (leBytes 16 unit))) line

end Sys2Proof.Machine
end

