-- ==== Sys2Proof/Machine/Crc.lean ====
section
/-!
DEFINITION. The CRC-16 of an HBM chunk (10_hbm.md R264) and the CRC-32 of a link flit (11_links_seif.md R294).
-/

namespace Sys2Proof.Machine

/-- `n` bit steps of the unreflected CRC-16 with polynomial 0x1021. -/
def crc16Bits : Nat → Nat → Nat
  | 0, c => c
  | n + 1, c => crc16Bits n (if c < 0x8000 then 2 * c else (2 * c) % 0x10000 ^^^ 0x1021)

/-- CRC-16, initial value 0xFFFF, no reflection, no final XOR (R264). -/
def crc16 (bs : List Byte) : Nat := bs.foldl (fun c b => crc16Bits 8 (c ^^^ b.toNat * 256)) 0xFFFF

/-- The CRC of chunk `j` of line `l`: over its 16 bytes and the word (j << 28) | L (R264). -/
def chunkCrc (j l : Nat) (chunk : List Byte) : Nat := crc16 (chunk ++ leBytes 4 (j * 2 ^ 28 ||| l))

/-- `n` bit steps of the reflected CRC-32. -/
def crc32Bits : Nat → Nat → Nat
  | 0, c => c
  | n + 1, c => crc32Bits n (if c % 2 = 1 then c / 2 ^^^ 0xEDB88320 else c / 2)

/-- CRC-32 with polynomial 0x04C1_1DB7, reflected, initial value and final XOR all ones (R294). -/
def crc32 (bs : List Byte) : Nat := bs.foldl (fun c b => crc32Bits 8 (c ^^^ b.toNat)) 0xFFFFFFFF ^^^ 0xFFFFFFFF

end Sys2Proof.Machine
end

