-- ==== Sys2Proof/Machine/Store.lean ====
section
/-!
DEFINITION. Sparse tables in one canonical form: a list of (key, value) pairs with strictly rising keys and no entry equal
to what an unlisted key reads as. Memory, register files, ledgers and every numbered family of units are held this way.
-/

namespace Sys2Proof.Machine

/-- A sparse table keyed by a natural number. -/
abbrev SMap (α : Type) := List (Nat × α)

/-- The value at key `k`; `d` is what an unlisted key reads as. -/
def SMap.get {α : Type} (d : α) : SMap α → Nat → α
  | [], _ => d
  | (a, x) :: t, k => if k < a then d else if k = a then x else SMap.get d t k

/-- The entries of a table above key `k`. -/
def SMap.above {α : Type} (k : Nat) : SMap α → SMap α
  | [] => []
  | (a, x) :: t => if a ≤ k then SMap.above k t else (a, x) :: t

/-- Write `v` at key `k`, keeping the canonical form: writing the default removes the entry. -/
def SMap.put {α : Type} [DecidableEq α] (d : α) : SMap α → Nat → α → SMap α
  | [], k, v => if v = d then [] else [(k, v)]
  | (a, x) :: t, k, v =>
    if k < a then (if v = d then (a, x) :: t else (k, v) :: (a, x) :: t)
    else if k = a then (if v = d then SMap.above k t else (k, v) :: t)
    else (a, x) :: SMap.put d t k v

/-- Change the value at one key. -/
def SMap.upd {α : Type} [DecidableEq α] (d : α) (m : SMap α) (k : Nat) (f : α → α) : SMap α :=
  SMap.put d m k (f (SMap.get d m k))

/-- Keys from `lo` upward, strictly rising, no listed default. -/
def SMap.wfFrom {α : Type} [DecidableEq α] (d : α) : Nat → SMap α → Bool
  | _, [] => true
  | lo, (a, x) :: t => decide (lo ≤ a) && decide (x ≠ d) && SMap.wfFrom d (a + 1) t

/-- The canonical form. -/
def SMap.wf {α : Type} [DecidableEq α] (d : α) (m : SMap α) : Bool := SMap.wfFrom d 0 m

/-- Write default at `len` keys from `k` up (a cleared range). -/
def SMap.clearRange {α : Type} : SMap α → Nat → Nat → SMap α
  | [], _, _ => []
  | (a, x) :: t, k, len =>
    if a < k then (a, x) :: SMap.clearRange t k len
    else if a < k + len then SMap.above (k + len - 1) t
    else (a, x) :: t

/-- The `n` values from key `k` upward. -/
def SMap.getMany {α : Type} (d : α) (m : SMap α) : Nat → Nat → List α
  | _, 0 => []
  | k, n + 1 => SMap.get d m k :: SMap.getMany d m (k + 1) n

/-- Write a list of values from key `k` upward. -/
def SMap.putMany {α : Type} [DecidableEq α] (d : α) (m : SMap α) (k : Nat) : List α → SMap α
  | [] => m
  | v :: vs => SMap.putMany d (SMap.put d m k v) (k + 1) vs

/-- Apply `f` to the values of the listed keys in `ks`. -/
def SMap.updAll {α : Type} [DecidableEq α] (d : α) (m : SMap α) (ks : List Nat) (f : α → α) : SMap α :=
  ks.foldl (fun m k => SMap.upd d m k f) m

end Sys2Proof.Machine
end

