-- ==== Sys2Proof/Machine/TileTypes.lean ====
section
/-!
DEFINITION. The state of one tile: the scalar unit (R83, R84, R102), the vector unit (R112–R115), the matrix unit (R140–R157),
the caches and side buffers (R196–R209), the Local Store's own bits (R217, R218), the TLB (R238), the hand (R345) and the
health-pass state (R24–R30). Every field's default is its reset value.
-/

namespace Sys2Proof.Machine

/-- The rows of the opcode table that are instructions. -/
inductive SisRow where
  | integerAlu | aluImmediate | shiftImmediate | movhi | pcrel | multiplyDivide | load | store | atomic | branch | jl | jlr
  | trap | tret | rdtime | pdone | brk | tcrr | tcrw | fenceRel | fenceAcq | fenceRelAll | fenceAcqAll | cpf | cwb | cwbi
  | czero | iinv | iinvAll | fpArithmetic | fpSign | fpFused | fpConversion | fkind
  | setvl | vgetvl | vld | vldu | vldFf | vlx | vst | vstu | vsx | vectorInteger | vmerge | vectorCompare | vectorFloat
  | vfcvtFrom | vfcvtTo | vfcvtInteger | maskLogic | kpopcKfirst | vlmVsm | vectorReduction | vectorScalarMove
  | vectorPermutation | vxDeal | vxCombinePut | vxCombineSum
  | mxLdw | mxRun | mxDrain | mxZero | mxSwap
  deriving DecidableEq, Repr

/-- The Tile Scalar Unit: program counter, X and F registers, TCRs 0x001–0x010, 0x030, 0x031 (R83, R102). -/
structure Tsu where
  pc : Word := 0
  /-- X1–X31; key 0 is never listed, X0 reads as zero (R83). -/
  x : SMap Word := []
  f : SMap Word := []
  tip : Bool := false
  trd : Bool := false
  cause : BitVec 8 := 0
  epc : Word := 0
  tval : Word := 0
  tvec : Word := 0
  scratch0 : Word := 0
  scratch1 : Word := 0
  rm : BitVec 4 := 0
  /-- NV, DZ, OF, UF, NX of `TCR_FPCSR` in bits 0–4. -/
  fflags : BitVec 5 := 0
  pass : LedgerIx := 0
  retired : Word := 0
  deriving DecidableEq, Repr

/-- The Long Vector Unit (R112–R116, R133, R138, R176). -/
structure Lvu where
  v : SMap (BitVec 16384) := []
  k : SMap (BitVec 2048) := []
  vl : Nat := 0
  /-- Element width code: 0–3 for 8, 16, 32 and 64 bits. -/
  sew : BitVec 2 := 0
  falt : BitVec 2 := 0
  flags : BitVec 5 := 0
  /-- `TCR_VSTAT`'s first-fault bit. -/
  fft : Bool := false
  grain : Nat := 0
  /-- Steps taken since the pass started, which place the audit lane (R138). -/
  steps : Nat := 0
  deriving DecidableEq, Repr

/-- One weight plane (R143): the format it was loaded in, its elements by column and row, and its scale bytes. -/
structure Plane where
  loaded : Bool := false
  fmt : BitVec 4 := 0
  /-- A column's data bytes as a little-endian number, by column; an unlisted column holds zero weights. -/
  cols : SMap (BitVec 16384) := []
  /-- Scale bytes by column × 64 + block; an unlisted one is 127, which encodes 1.0 (R147). -/
  scales : SMap Byte := []
  deriving DecidableEq, Repr

/-- The Matrix Unit and its accumulator memory (R140–R168, R188–R190). -/
structure Mxu where
  plane0 : Plane := {}
  plane1 : Plane := {}
  /-- Which plane is active. -/
  active : Bool := false
  /-- ACM words by row × 64 + word (R505). -/
  acm : SMap Word := []
  rowValid : SMap Bool := []
  /-- Stored check bits that an upset or a check-split window left, with whether the window last wrote the word (R506, R507); other words
  carry the check bits of their data. -/
  chk : SMap (Option (BitVec 8 × Bool)) := []
  flags : BitVec 5 := 0
  sat : BitVec 32 := 0
  flush : BitVec 32 := 0
  nan : BitVec 32 := 0
  hist : SMap (BitVec 32) := []
  stats : Bool := false
  grain : Nat := 0
  /-- Beats taken since the pass started, which place the audit column (R164). -/
  beats : Nat := 0
  deriving DecidableEq, Repr

/-- A vector or matrix instruction that waits in its queue with what the TSU read at issue (R91). -/
structure QEntry where
  row : SisRow
  w : BitVec 32
  ext : BitVec 32
  /-- The scalar unit at issue: the operands, the rounding mode and the PC. -/
  tsu : Tsu
  deriving DecidableEq, Repr

/-- True for the rows that issue into the matrix queue. -/
def SisRow.matrix : SisRow → Bool
  | .mxLdw | .mxRun | .mxDrain | .mxZero | .mxSwap => true
  | _ => false

/-- The state of a line's parity bits: good, bad, or bad with its refetched copy bad as well (R210, R211). -/
inductive LineParity where
  | good | bad | badTwice
  deriving DecidableEq, Repr

/-- A 128-byte line held in the tile: its physical line address, its bytes, and for a dirty one the cause and PC of the last store into it,
which a refusal at its home reports (R105, R127). -/
structure Line where
  line : Nat := 0
  data : BitVec 1024 := 0
  dirty : Bool := false
  cause : Nat := 0x10
  pc : Nat := 0
  parity : LineParity := .good
  deriving DecidableEq, Repr

/-- An outstanding L1 fill with the store bytes that wait to be merged into it (R197, R198). -/
structure Fill where
  line : Nat
  writes : List (Nat × Byte)
  /-- The PC of the last store that waits, for the deferred fault of R105. -/
  pc : Nat := 0
  /-- The cause that a refusal raises: 0x10 for a scalar store, 0x11 for a vector store (R105). -/
  cause : Nat := 0x10
  deriving DecidableEq, Repr

/-- The L1 caches, talon, discard buffer and waiting stores (R196–R209, R211). -/
structure Caches where
  /-- L1 data lines by set × 8 + way. -/
  l1d : SMap (Option Line) := []
  plruD : SMap Nat := []
  offD : List Nat := []
  /-- Sets whose state bits have bad parity (R210). -/
  badSets : List Nat := []
  /-- L1 instruction lines by set × 4 + way. -/
  l1i : SMap (Option Line) := []
  plruI : SMap Nat := []
  offI : List Nat := []
  /-- Oldest first. -/
  talon : List Line := []
  talonFills : List Nat := []
  /-- Oldest first, in order of eviction. -/
  discard : List Line := []
  fills : List Fill := []
  /-- Stores that wait for a discard entry's acknowledgement (R209), oldest first. -/
  stores : List Fill := []
  /-- Program region slot and version of the previous pass (R202). -/
  prog : Option (Nat × Nat) := none
  deriving DecidableEq, Repr

/-- A TLB entry (R238): the page's first virtual address, whether it is 512 MiB, and the leaf. -/
structure TlbEntry where
  va : Nat
  large : Bool
  leaf : Word
  deriving DecidableEq, Repr

/-- The tile TLB, 512 sets of 4 ways (R238), and the root of the tile's previous pass (R240). -/
structure Tlb where
  e : SMap (Option TlbEntry) := []
  plru : SMap Nat := []
  root : Option (PartId × Nat) := none
  deriving DecidableEq, Repr

/-- The units of a tile that step on tokens (R44). -/
inductive TileUnit where
  | tsu | lvu | mxu | acm | l1 | talon | discard | lsPort | fabricPort
  deriving DecidableEq, Repr

def TileUnit.num : TileUnit → Nat
  | .tsu => 0 | .lvu => 1 | .mxu => 2 | .acm => 3 | .l1 => 4 | .talon => 5 | .discard => 6 | .lsPort => 7 | .fabricPort => 8

/-- A released token reaches every unit of the tile; it lapses where two are held (R43, R44). -/
def bankTokens (k : SMap Nat) : SMap Nat := SMap.updAll 0 k (List.range 9) (fun n => min 2 (n + 1))

/-- Units that take their step consume a token each (R44). -/
def spendTokens (k : SMap Nat) (us : List TileUnit) : SMap Nat := SMap.updAll 0 k (us.map TileUnit.num) (fun n => n - 1)

/-- A hand entry (R345, R347): the request and the rank dealt to the tile. -/
structure HandEntry where
  ix : Nat
  rank : Nat
  trump : Bool
  deriving DecidableEq, Repr

/-- An item of the exposure-window journal (R30), with the stream's output numbers (R392) and the partition it served. -/
structure JournalItem where
  part : PartId
  ix : Nat
  sq : Nat
  cid : Nat
  time : Nat
  stream : Bool := false
  firstSeq : Nat := 0
  lastSeq : Nat := 0
  /-- The chain step the request carried (R328): chain, message, digest. -/
  chain : Option (Nat × Nat × Word) := none
  deriving DecidableEq, Repr

/-- A stream's item that continues an earlier item of the same stream (R29, R392). -/
def JournalItem.continues (j old : JournalItem) : Bool :=
  old.stream && j.stream && old.part == j.part && old.ix == j.ix && old.sq == j.sq && old.cid == j.cid && decide (old.lastSeq < j.firstSeq)

/-- Add an item to a list of items: a stream keeps one item, with the first and last output numbers (R29). -/
def joinItem (l : List JournalItem) (j : JournalItem) : List JournalItem :=
  match l.find? j.continues with
  | some old => l.filter (fun x => x != old) ++ [{ j with firstSeq := old.firstSeq }]
  | none => l ++ [j]

/-- What health pass a tile is in. -/
inductive PassKind where
  | health | closing | restart
  deriving DecidableEq, Repr

/-- Health passes and their journal (R24–R30, R496, R501). -/
structure Health where
  due : Nat := 0
  pending : Bool := false
  running : Option PassKind := none
  /-- At most 32,768 items (R30). -/
  journal : List JournalItem := []
  windowStart : Nat := 0
  /-- When the running health pass started, and how many journal items are older than that start (R29, R30). -/
  passStart : Nat := 0
  passMark : Nat := 0
  windowOpen : Bool := true
  /-- Partition-fatal records of types 0x0101–0x0107 since reset (R501). -/
  fatals : Nat := 0
  /-- Local Store words (key word) and ACM words (key 2^21 + word) with an uncorrectable record since reset (R501). -/
  eccWords : List Nat := []
  unavailable : Bool := false
  deriving DecidableEq, Repr

/-- The items of the journal, or with a health pass running those after its start, take a new item (R29, R30). -/
def Health.enter (h : Health) (j : JournalItem) : Health :=
  let k := if h.running = some .health then h.passMark else 0
  { h with journal := h.journal.take k ++ joinItem (h.journal.drop k) j }

/-- What the tile latches at pass start (R84, R177, R183, R235, R350). -/
structure PassCtx where
  ix : Nat
  rank : Nat
  rootId : Nat
  flush : Nat
  seed : Option (List Byte)
  base : Nat
  /-- When the pass started, for the mean of R356. -/
  start : Nat := 0
  deriving DecidableEq, Repr

/-- One logical tile. -/
structure Tile where
  tsu : Tsu := {}
  lvu : Lvu := {}
  mxu : Mxu := {}
  caches : Caches := {}
  tlb : Tlb := {}
  /-- Valid bits of the Local Store's 64-byte blocks (R218). -/
  lsValid : SMap Bool := []
  /-- Stored check bits of Local Store words that an upset or a check-split window left, as for the ACM (R506, R507). -/
  lsChk : SMap (Option (BitVec 8 × Bool)) := []
  hand : List HandEntry := []
  /-- A hand entry taken and waiting for the moves of phase 0 (R348). -/
  taken : Option HandEntry := none
  /-- The running pass, if any. -/
  run : Option PassCtx := none
  /-- Vector and matrix instructions that their units have not begun, in program order: at most 32 and 16 (R91). -/
  queue : List QEntry := []
  /-- The next read of each scrub (R158, R222). -/
  lsScrub : Nat := 0
  acmScrub : Nat := 0
  /-- The pass has ended and its chain step holds the tile (R318). -/
  chainHold : Option Nat := none
  stopped : Bool := false
  health : Health := {}
  /-- The grain seed loaded into the tile's pipeline (R471). -/
  seed : Option (List Byte) := none
  /-- Unconsumed tokens of each unit, by `TileUnit.num`: at most 2, and no unit takes a token from another (R43, R44). -/
  tokens : SMap Nat := []
  /-- Check-split window registers `CS_ADDR`, `CS_DATA`, `CS_CHECK`, `DONE`, `VALID` (R505). -/
  csAddr : Word := 0
  csData : Word := 0
  csCheck : BitVec 8 := 0
  csDone : Bool := false
  csValid : Bool := false
  deriving DecidableEq, Repr

end Sys2Proof.Machine
end

