-- ==== Sys2Proof/Machine/UnitTypes.lean ====
section
/-!
DEFINITION. The state of partitions, queues, ledger, regions, mailboxes, the error log and the configuration
(12_requests_experts.md, 13_velna.md, 14_config_partitions.md, 09_translation_movement.md, 17_faults.md).
Every field's default is its reset value.
-/

namespace Sys2Proof.Machine

/-- The status codes (R394). -/
inductive Status where
  | ok | accepted | badHeader | badLength | unknownOpcode | notPermitted | badSignature | notQuiet
  | proposalConflict | proposalExpired | protectedField | regionBusy | superseded | unmapped | declined
  | hashBusy | entropyUnavailable | chainBroken | partitionFaulted | deviceFaulted | floorInsufficient | suspect
  deriving DecidableEq, Repr

/-- The code of a status (R394). -/
def Status.code : Status → Nat
  | .ok => 0x0000 | .accepted => 0x0001 | .badHeader => 0x0010 | .badLength => 0x0011 | .unknownOpcode => 0x0012
  | .notPermitted => 0x0013 | .badSignature => 0x0014 | .notQuiet => 0x0020 | .proposalConflict => 0x0021
  | .proposalExpired => 0x0022 | .protectedField => 0x0023 | .regionBusy => 0x0030 | .superseded => 0x0031
  | .unmapped => 0x0032 | .declined => 0x0040 | .hashBusy => 0x0050 | .entropyUnavailable => 0x0051
  | .chainBroken => 0x0060 | .partitionFaulted => 0x0070 | .deviceFaulted => 0x0071
  | .floorInsufficient => 0x0072 | .suspect => 0x0080

/-- A partition table entry (R413). -/
structure PartEntry where
  tiles : BitVec 64 := 0
  /-- Base and size of the four HBM extents in KiB. -/
  ext : List (BitVec 32 × BitVec 32) := [(0, 0), (0, 0), (0, 0), (0, 0)]
  ante : BitVec 32 := 0
  regionQuota : BitVec 16 := 0
  chainQuota : BitVec 7 := 0
  share : BitVec 8 := 0
  valid : Bool := false
  strict : Bool := false
  conf : Bool := false
  cipher : Bool := false
  vfEn : Bool := false
  deriving DecidableEq, Repr

/-- An authority-list entry (R415). -/
structure Credential where
  /-- 0 empty, 1 OPERATOR, 2 CUSTODIAN, 3 TENANT. -/
  role : BitVec 8 := 0
  part : BitVec 6 := 0
  keyX : BitVec 384 := 0
  keyY : BitVec 384 := 0
  deriving DecidableEq, Repr

/-- The Protected Record (R411): epoch, 64 partition entries, debug policy, authority list, and whether the copy
authenticates. -/
structure ProtRecord where
  epoch : BitVec 32 := 0
  parts : SMap PartEntry := []
  debug : BitVec 8 := 0
  auth : SMap Credential := []
  authentic : Bool := false
  deriving DecidableEq, Repr

/-- A submission queue (R329). -/
structure Sq where
  host : Bool
  base : Word
  size : Nat
  cq : Nat
  head : Nat := 0
  tail : Nat := 0
  /-- The queue's DMA failed (R532). -/
  stopped : Bool := false
  deriving DecidableEq, Repr

/-- A completion queue (R329, R333). -/
structure Cq where
  host : Bool
  ien : Bool
  base : Word
  size : Nat
  head : Nat := 0
  tail : Nat := 0
  phase : Bool := true
  stopped : Bool := false
  deriving DecidableEq, Repr

/-- A physical extent (R242). -/
structure Extent where
  pa : Nat
  len : Nat
  deriving DecidableEq, Repr

/-- A move descriptor as admission read it (R246), with its translated extents. -/
structure Move where
  src : Word
  dst : Word
  len : Nat
  phase : Nat
  kind : Nat
  srcLocal : Bool
  dstLocal : Bool
  pattern : Word
  srcExt : List Extent := []
  dstExt : List Extent := []
  deriving DecidableEq, Repr

/-- A chain step of a submission entry (R317). -/
structure ChainStep where
  chain : Nat
  rows : Nat
  member : Nat
  srcRow : Nat
  msg : BitVec 32
  dst : Nat
  deriving DecidableEq, Repr

/-- The progress of a chain step at its member (R319–R326). -/
structure ChainRun where
  started : Bool := false
  startTime : Nat := 0
  /-- The next row to arrive from the member before it (R320). -/
  next : Nat := 0
  /-- The last member has formed the final row. -/
  sealed : Bool := false
  /-- Final rows received with DONE so far (ALLREDUCE), by row. -/
  final : SMap (BitVec 4096) := []
  /-- The next final row to arrive. -/
  nextFinal : Nat := 0
  lastHeard : Nat := 0
  /-- The step has completed; the digest of its chain for the chain log (R327). -/
  ended : Bool := false
  digest : Word := 0
  deriving DecidableEq, Repr

/-- The ledger states (R339). -/
inductive LState where
  | free | dealt | running | posting
  deriving DecidableEq, Repr

/-- What a rank of a request ended with. -/
structure RankEnd where
  rank : Nat
  status : Status := .ok
  cause : Nat := 0
  pc : Nat := 0
  app : BitVec 12 := 0
  more : Bool := false
  flags : BitVec 5 := 0
  stats : Bool := false
  sat : Nat := 0
  flush : Nat := 0
  nan : Nat := 0
  hist : List (BitVec 32) := []
  deriving DecidableEq, Repr

/-- A ledger entry: the fields of R339, and what admission keeps beside it for the request. -/
structure Ledger where
  state : LState := .free
  stream : Bool := false
  trump : Bool := false
  trd : Bool := false
  closing : Bool := false
  part : PartId := 0
  sq : Nat := 0
  cid : BitVec 16 := 0
  rgn : BitVec 16 := 0
  rgnValid : Bool := false
  version : BitVec 32 := 0
  epoch : BitVec 32 := 0
  grainBase : BitVec 24 := 0
  deadline : Nat := 0
  tile : Nat := 0
  passes : Nat := 0
  done : Nat := 0
  seq : BitVec 32 := 0
  extents : Nat := 0
  -- what admission keeps beside the entry
  isMove : Bool := false
  arg : BitVec 32 := 0
  tileset : BitVec 64 := 0
  progSlot : BitVec 16 := 0
  progVersion : BitVec 32 := 0
  progOff : BitVec 32 := 0
  progBuf : Bool := false
  wgtBuf : Bool := false
  movesVa : Word := 0
  moves : List Move := []
  nrec : Bool := false
  nrecVa : Word := 0
  nrecExt : List Extent := []
  cstep : Option ChainStep := none
  crun : ChainRun := {}
  cq : Nat := 0
  /-- The root the request bound at its first dispatch (R235). -/
  root : Option Nat := none
  phase0 : Bool := false
  /-- Tiles by rank. -/
  ranks : List Nat := []
  ends : List RankEnd := []
  /-- The completion that waits for its CQ slot (R333), as its 32 bytes without PHASE and SQ_HEAD; time it became ready. -/
  ready : Option (Status × Nat) := none
  noout : Bool := false
  more : Bool := false
  lastSeq : Nat := 0
  deriving DecidableEq, Repr

/-- The region states (R253). -/
inductive RState where
  | free | empty | ready | updating | retiring
  deriving DecidableEq, Repr

/-- A region update, running or pending (R256, R257), and the mailbox and tag that asked. -/
structure RUpdate where
  mbx : MbxId
  tag : BitVec 16
  src : Word
  expect : Option (List Byte)
  rootId : Nat := 0
  srcExt : List Extent := []
  /-- The bytes that the mover has copied, and the segments of them that the engine has hashed (R257). -/
  data : List Byte := []
  segs : Nat := 0
  deriving DecidableEq, Repr

/-- A model-region slot (R252–R261). -/
structure Region where
  owner : Option PartId := none
  weights : Bool := true
  large : Bool := false
  size : Nat := 0
  vaA : Word := 0
  vaB : Word := 0
  paA : Word := 0
  paB : Word := 0
  name : BitVec 128 := 0
  state : RState := .free
  /-- Current version number; 0 is none. -/
  version : BitVec 32 := 0
  /-- The buffer the current version is in: false A, true B. -/
  buf : Bool := false
  boundCur : Nat := 0
  boundOld : Nat := 0
  digest : List Byte := []
  /-- The version before the current one, while requests stay bound to it, and its digest (R444). -/
  oldVersion : BitVec 32 := 0
  oldDigest : List Byte := []
  running : Option RUpdate := none
  pending : Option RUpdate := none
  retire : Option (MbxId × BitVec 16) := none
  deriving DecidableEq, Repr

/-- A chain table (R315): shape bytes and members. -/
structure Chain where
  header : Word := 0
  members : List (BitVec 16) := []
  digest : Word := 0
  deriving DecidableEq, Repr

/-- A recall notice (R28, R29, R328, R497). -/
structure Notice where
  num : Nat
  tile : Nat
  fromDev : Nat
  chainRecall : Bool := false
  incomplete : Bool := false
  items : List JournalItem := []
  winStart : Nat
  winEnd : Nat
  posted : Bool := false
  acked : Bool := false
  deriving DecidableEq, Repr

/-- A hash job captured from the registers (R475, R476). -/
structure HashJob where
  alg : Nat
  src : List Extent
  len : Nat
  key : List Extent
  keyLen : Nat
  dst : List Extent
  ien : Bool
  rootId : Nat
  /-- The segments hashed so far, and their bytes (R477). -/
  segs : Nat := 0
  msg : List Byte := []
  deriving DecidableEq, Repr

/-- The hash job registers of a partition (R475). -/
structure HashRegs where
  src : Word := 0
  len : Word := 0
  key : Word := 0
  dst : Word := 0
  ctl : Word := 0
  done : Bool := false
  refused : Bool := false
  status : BitVec 16 := 0
  rstatus : BitVec 16 := 0
  job : Option HashJob := none
  deriving DecidableEq, Repr

/-- A held MAP_UPDATE or region command that waits for the drain (R236, R252): who asked, its opcode, the bell deadline
and the done body. -/
structure MapWait where
  mbx : MbxId
  tag : BitVec 16
  body : List Byte
  slot : Option Nat := none
  deadline : Nat
  deriving DecidableEq, Repr

/-- An answer to a request that holds no ledger entry (R338), waiting for its CQ slot or its window (R342). -/
structure Answer where
  sq : Nat
  cq : Nat
  cid : BitVec 16
  status : Status
  aux : Nat
  time : Nat
  deriving DecidableEq, Repr

/-- What a partition does at its quiet point (R407, R45, R510, R453). -/
inductive QuietJob where
  | paceLock (mbx : MbxId) (tag : BitVec 16) (rate : Nat)
  | selfTest (mbx : MbxId) (tag : BitVec 16)
  | confEnter (mbx : MbxId) (tag : BitVec 16)
  deriving DecidableEq, Repr

/-- One partition. -/
structure Part where
  entry : PartEntry := {}
  /-- The ante in force (R343). -/
  ante : Nat := 16384
  fault : Bool := false
  conf : Bool := false
  sqs : SMap (Option Sq) := []
  cqs : SMap (Option Cq) := []
  /-- The SQ the stage took from last (R332). -/
  lastSq : Nat := 15
  moveq : List Nat := []
  answers : List Answer := []
  /-- The entry that a Strict partition's last window took (R342): its SQ and bytes. -/
  deferred : Option (Nat × BitVec 1024) := none
  /-- Pass times in ns of the last 1,024 passes (R356). -/
  passTimes : List Nat := []
  epoch : BitVec 32 := 0
  /-- The current root as a pointer entry to its level-0 table (R226, R227); 0 where there is no table, which maps nothing. -/
  root : Word := 0
  rootId : Nat := 0
  /-- The draining root (R234, R236). -/
  old : Option (Nat × Word) := none
  /-- The first HBM offset of the partition's 64 MiB page-table area (R228). -/
  ptArea : Option Nat := none
  /-- The partition takes part in the device-link egress arbiters, as its last commit or reset fixed (R561). -/
  linkPart : Bool := false
  mapWait : Option MapWait := none
  /-- The epoch of the root that drains. -/
  oldEpoch : BitVec 32 := 0
  /-- Set once MAP_UPDATE's completion has carried NOT_QUIET: MAP_DRAINED follows (R236). -/
  drainedEvent : Bool := false
  chains : SMap (Option Chain) := []
  notices : List Notice := []
  nextNotice : Nat := 1
  seed : Option (List Byte) := none
  commit : List Byte := []
  hash : HashRegs := {}
  /-- Pace lock (R43): the locked rate in beats per µs. -/
  paceRate : Option Nat := none
  /-- What waits for the partition's quiet point, in order of arrival. -/
  quiet : List QuietJob := []
  /-- Admission held for a waiting command (R409, R421). -/
  hold : Bool := false
  /-- The XTS key pair in force and the one that waits for quiet (R482). -/
  key : Option (List Byte) := none
  pendKey : Option (List Byte) := none
  /-- The key in force as one more than its 64 bytes as a number; 0 for none (R282). -/
  keyGen : Nat := 0
  /-- A key was installed since the last restart or reset (R453). -/
  keyFresh : Bool := false
  /-- Spans of HBM zeroed as a whole under a key, with that key's `keyGen` (R454). -/
  zeroed : List (Nat × Nat × Nat) := []
  /-- A restart that runs (R499): who asked (none for FLR) and the tag. -/
  restart : Option (Option (MbxId × BitVec 16)) := none
  /-- The record whose FAULT event is still due (R498). -/
  faultDue : List Nat := []
  /-- The field values kept while the partition is confidential (R406): by field class 0–4. -/
  frozen : SMap (Option Nat) := []
  /-- The window base and enable of `PART_CTL`, and the sticky bits of `PART_STAT` (R524). -/
  winBase : BitVec 40 := 0
  winEn : Bool := false
  partStat : Word := 0
  deriving DecidableEq, Repr

/-- An event of a mailbox (R395). -/
structure Event where
  kind : Nat
  tag : BitVec 16 := 0xFFFF
  status : Status := .ok
  part : Nat := 0x7F
  opcode : Nat := 0
  time : Nat
  seq : Nat := 0
  body : List Byte := []
  deriving DecidableEq, Repr

/-- A held command (R372). `accepted` counts 0 not answered, 1 ACCEPTED answered, 2 ACCEPTED released, 3 COMMAND_DONE ready to post. -/
structure Held where
  tag : BitVec 16
  opcode : Nat
  part : Nat
  cred : Nat
  hdr : List Byte
  payload : List Byte
  bell : Nat
  served : Bool := false
  accepted : Nat := 0
  done : Option (Status × List Byte) := none
  deriving DecidableEq, Repr

/-- A response that is ready (R373): its bytes, the earliest posting time (R381), and the command it ends or accepts. -/
structure Rsp where
  bytes : List Byte
  due : Nat
  tag : BitVec 16
  final : Bool
  deriving DecidableEq, Repr

/-- A segmented command under way (R376). -/
structure Seg where
  tag : BitVec 16
  hdr : List Byte
  payload : List Byte
  index : Nat
  deadline : Nat
  deriving DecidableEq, Repr

/-- A report snapshot that a mailbox pages through (R444). -/
structure Snapshot where
  nonce : List Byte
  part : Option PartId
  bytes : List Byte
  until_ : Nat
  deriving DecidableEq, Repr

/-- One mailbox (R368–R373, R376, R383, R395–R397). -/
structure Mailbox where
  req : SMap Byte := []
  rsp : List Byte := []
  evt : SMap (List Byte) := []
  bellReq : Bool := false
  bellTime : Nat := 0
  /-- When a Strict mailbox's `REQ` clears (R381); none while 8 commands are held. -/
  takeAt : Option Nat := none
  rspDone : Bool := false
  evtHead : BitVec 8 := 0
  rspValid : Bool := false
  loaded : Option (BitVec 16 × Bool) := none
  ready : Bool := false
  evtTail : BitVec 8 := 0
  evtLost : BitVec 8 := 0
  held : List Held := []
  rsps : List Rsp := []
  events : List Event := []
  seq : Nat := 0
  nonce : List Byte := []
  seg : Option Seg := none
  snap : Option Snapshot := none
  deriving DecidableEq, Repr

/-- An error record (R492). -/
structure ErrRec where
  seq : Nat
  time : Nat
  type : Nat
  cls : Nat
  split : Bool := false
  coalesced : Bool := false
  scrub : Bool := false
  follow : Bool := false
  part : Nat := 0x7F
  tile : Nat := 0xFF
  unit : Nat := 0
  addr : Nat := 0
  count : Nat := 1
  ledger : Nat := 0
  detail : Nat := 0
  /-- The item count of the recall notice it goes with (R32). -/
  items : Nat := 0
  /-- The partitions it is delivered to besides the operator (R495). -/
  also : List Nat := []
  deriving DecidableEq, Repr

/-- A proposal (R417–R423). -/
structure Proposal where
  id : BitVec 32
  body : List Byte
  proposer : Nat
  propMbx : MbxId
  approver : Option Nat := none
  apprMbx : Option MbxId := none
  expires : Nat
  commitBy : Nat := 0
  committing : Bool := false
  deriving DecidableEq, Repr

/-- A command that waits for the quiet of the affected partitions (R409, R410, R421). -/
inductive ModeWait where
  | setMode (mbx : MbxId) (tag : BitVec 16) (overlay : Nat) (affected : List Nat) (deadline : Nat)
  | commit (mbx : MbxId) (tag : BitVec 16) (id : BitVec 32) (affected : List Nat) (deadline : Nat)
  | committing (mbx : MbxId) (tag : BitVec 16) (id : BitVec 32) (affected : List Nat)
  deriving DecidableEq, Repr

/-- Configuration (R399–R410) and two-party changes (R411–R423). -/
structure Configuration where
  /-- Configuration image slots A and B in flash. -/
  slotA : List Byte := []
  slotB : List Byte := []
  booted : Option Bool := none
  /-- The booted image's BCR and overlays as patches by field ID. -/
  bcr : SMap (List Byte) := []
  overlays : SMap (Option (SMap (List Byte))) := []
  overlay : Nat := 0
  /-- Device fields that a waiting SET_MODE applied early (R408). -/
  early : Option Nat := none
  /-- `POWER_ENVELOPE` override (R388). -/
  envelope : Option Nat := none
  wait : Option ModeWait := none
  protA : ProtRecord := {}
  protB : ProtRecord := {}
  prot : ProtRecord := {}
  /-- Which copy holds the record in force. -/
  protInB : Bool := false
  proposals : List Proposal := []
  nextProposal : Nat := 1
  debugSinceCold : Bool := false
  /-- Accepted images whose flash writes run, oldest first (R403): who asked, its tag, whether the slot is B, and the image. -/
  flash : List (MbxId × BitVec 16 × Bool × List Byte) := []
  /-- Known-pattern self-tests that run (R510): who asked, the tag, and the partition of `SCOPE` 1. -/
  tests : List (MbxId × BitVec 16 × Option Nat) := []
  deriving DecidableEq, Repr

end Sys2Proof.Machine
end

