-- ==== Sys2Proof/Machine/DevTypes.lean ====
section
/-!
DEFINITION. The state of the shared units: HBM controllers (10_hbm.md), arbiters (R77), device links (11_links_seif.md), the
shared engines (16_shared_engines.md), fuses, sessions and interfaces (15_security.md), power and clocks (01, 02), the host
link and the board (18_host_board.md) and start-up (19_startup.md). Every field's default is its reset value.
-/

namespace Sys2Proof.Machine

/-- An HBM line stored otherwise than as the encoding of its plaintext: nine raw chunks with their CRCs (R267, R268, R506). -/
structure RawLine where
  chunks : List (BitVec 128 × BitVec 16)
  /-- Chunks last written through a check-split window (R507). -/
  split : List Nat := []
  deriving DecidableEq, Repr

/-- Whom a response goes to: the device, its unit and the request's number. -/
structure Requester where
  dev : Nat
  unit : Nat
  id : Nat := 0
  deriving DecidableEq, Repr

/-- What an access at an HBM controller is: the access of a packet from a unit, the repair write of a chunk (R267), or the read of a
Strict partition's blank line (R274). -/
inductive HbmKind where
  | packet (who : Requester) (op : MemOp)
  | repair (chunk : Nat)
  | blank
  deriving DecidableEq, Repr

/-- An access at an HBM controller, within one line: its tag, its HBM offset, and what it is. -/
structure HbmReq where
  tag : Nat
  off : Nat
  kind : HbmKind
  /-- From its commitment on: when it completes (R275), and the chunk of its line on a lost die (R285). -/
  done : Nat := 0
  lost : Option Nat := none
  /-- What came of it once it has taken effect: its data, or that it was not performed (R276). -/
  result : Option (Option (List Byte)) := none
  deriving DecidableEq, Repr

/-- One HBM controller (R262–R291). -/
structure Hbm where
  /-- 0 NORMAL, 1 DEGRADED, 2 FAILED. -/
  state : BitVec 2 := 0
  lostDie : BitVec 4 := 0xF
  temp : BitVec 8 := 0
  thermal : Bool := false
  /-- Die state and corrected count, by die (R290). -/
  dieState : SMap (BitVec 2) := []
  corrected : SMap (BitVec 32) := []
  /-- When the stack rose above 95 °C, if it is (R278). -/
  hotSince : Option Nat := none
  periodH : Nat := 6
  nextLine : Nat := 0
  passes : BitVec 32 := 0
  /-- The start of the scrub pass in progress and its period in hours (R283); none before the first pass. -/
  scrub : Option (Nat × Nat) := none
  /-- Refreshes issued (R277). -/
  refreshes : Nat := 0
  selfRefresh : Bool := false
  waiting : List HbmReq := []
  committed : List HbmReq := []
  /-- The start of the last slot that an access of a line was committed to, plus one, by line: it holds the line's bank (R274). -/
  banks : SMap Nat := []
  /-- The chunk that the lost die still holds of each line written since its loss (R286). -/
  lostOld : SMap (Option (BitVec 128 × BitVec 16)) := []
  raw : SMap (Option RawLine) := []
  /-- The `keyGen` a line was written under plus one; 0 for a line not written since it was zeroed (R282, R289). -/
  lineKey : SMap Nat := []
  /-- Chunk addresses with a corrected error since cold reset, with the time of the last one: die, chunk address, time (R285). -/
  errs : List (Nat × Nat × Nat) := []
  csLine : Word := 0
  csChunk : BitVec 128 := 0
  csCrc : BitVec 16 := 0
  csDone : Bool := false
  deriving DecidableEq, Repr

/-- A dealt arbiter (R69–R78): its slot index and its rotation. -/
structure Arb where
  index : Nat := 0
  /-- `DEAL_ROT` entries; an unlisted entry reads 0x7F. -/
  rot : SMap (BitVec 8) := []
  /-- The slot committed last: its owner and its user, 0x40 firmware, 0x41 the operator, 0x7F none, and whether it is a blank transfer. -/
  owner : Nat := 0x7F
  last : Nat := 0x7F
  blank : Bool := false
  deriving DecidableEq, Repr

/-- A numbered flit in the replay buffer: its sequence number, its bits, how often it was sent, and the packet that it carries part of (R297,
R300). -/
structure SentFlit where
  seq : Nat
  bits : BitVec 2048
  sends : Nat
  key : Option Nat := none
  deriving DecidableEq, Repr

/-- A packet at a link's egress until it is wholly acknowledged (R301, R308): its number there, its virtual channel, the link it came in on and
whether it had crossed that dimension's dateline, and the flits sent and still to send. -/
structure Egress where
  key : Nat
  pkt : NetPacket
  vc : Nat
  came : Option (Nat × Bool) := none
  sent : Nat := 0
  left : Nat
  deriving DecidableEq, Repr

/-- One device link (R293–R314). -/
structure Link where
  /-- 0 DOWN, 1 TRAINING, 2 UP, 3 FAILED (R314). -/
  state : BitVec 2 := 0
  farDev : BitVec 6 := 0
  farLink : BitVec 4 := 0
  crcErr : BitVec 32 := 0
  replays : BitVec 32 := 0
  /-- The next sequence number to send, and the next one expected (R297, R298). -/
  txSeq : Nat := 0
  rxSeq : Nat := 0
  /-- Flits sent and not yet acknowledged, oldest first. -/
  replayBuf : List SentFlit := []
  /-- The next outgoing flit carries `NAK`; later numbered flits are discarded until the replay arrives (R298). -/
  nakDue : Bool := false
  discarding : Bool := false
  /-- A `NAK` arrived and its replay has not run (R299). -/
  replayDue : Bool := false
  /-- When `ACK` last advanced or the buffer was last empty or replayed. -/
  ackTime : Nat := 0
  /-- Credits held for the far end's buffers, by virtual channel, and credits owed to it (R294, R308). -/
  credits : SMap Nat := []
  owed : SMap Nat := []
  /-- The partial packet of each stream, by tag × 8 + virtual channel (R295). -/
  streams : SMap (List Byte) := []
  /-- Packets at the egress, oldest first, and how many have come to it. -/
  egress : List Egress := []
  packets : Nat := 0
  /-- Times of training failures within the last 1 s (R300). -/
  failures : List Nat := []
  deriving DecidableEq, Repr

/-- A mesh link of a tile die: the router that it leaves and the way that it goes, 0 to 3 for +X, −X, +Y and −Y. -/
structure MeshLink where
  die : Nat
  place : Nat × Nat
  way : Nat
  deriving DecidableEq, Repr

/-- The fabric. The sequence checks of packets at this device's targets (R490), by source unit × 1,024 + target: the next sequence number,
and the packets whose one resend was asked for; and the mesh links that pair 3 has marked dealt (R70). -/
structure Fabric where
  nextSeq : SMap Nat := []
  asked : List (Nat × Nat) := []
  dealt : List MeshLink := []
  deriving DecidableEq, Repr

/-- An access to another device that waits for its response, or whose response has come (R301, R312). -/
structure Remote where
  id : Nat
  unit : Nat
  tag : Nat
  pa : Nat
  op : MemOp
  answer : Option (Option (List Byte)) := none
  deriving DecidableEq, Repr

/-- A chain recall not yet delivered (R328): the device that it goes to, its number, and whether it is on its way. -/
structure RecallSend where
  dev : Nat
  what : ChainRecall
  id : Nat
  going : Bool := false
  deriving DecidableEq, Repr

/-- Accesses to other devices, chain recalls on their way, and the chain packets that wait for a member on this device: rows and DONE stay with
their sender until the member accepts them (R320). -/
structure Net where
  remote : List Remote := []
  nextId : Nat := 0
  recalls : List RecallSend := []
  /-- When undelivered recalls were sent last (R328). -/
  resent : Nat := 0
  offers : List NetBody := []
  /-- The model's own: the unit whose accesses wait for their responses, and whether one waits now; none between commands. -/
  actor : Option Nat := none
  waits : Bool := false
  deriving DecidableEq, Repr

/-- An SPDM request that needs fresh entropy (R441). -/
inductive SpdmReq where
  | challenge (nonce : BitVec 256)
  | measurements (block : Nat) (nonce : BitVec 256)
  | keyExchange (reqId : BitVec 16) (exchange : BitVec 768)
  deriving DecidableEq, Repr

/-- One slot's worth of a shared engine, or a number of them (R469, R477, R480, R483): a generate of some bytes, a P-384 operation, segments of a
message. -/
inductive Need where
  | gen (fresh : Bool) (n : Nat)
  | p384
  | segments (k : Nat)
  deriving DecidableEq, Repr

/-- What is done when the engines have done their part: a drawn grain seed, a signed report (`dev` for the device's), a mailbox's protection
nonce, a signed command, an image that CONFIG_LOAD read, or an SPDM answer. -/
inductive Work where
  | grainSeed (n : PartId) (tag : BitVec 16)
  | report (m : MbxId) (tag : BitVec 16) (dev : Bool)
  | nonce (m : MbxId)
  | signed (m : MbxId) (tag : BitVec 16)
  | image (m : MbxId) (tag : BitVec 16) (toB : Bool) (img : List Byte)
  | spdm (f : FnId) (q : SpdmReq)
  deriving DecidableEq, Repr

/-- Work that waits for slots of the shared engines (R76, R465): what it still needs, first to last, what it has drawn, and since when it waits. -/
structure Task where
  work : Work
  needs : List Need
  got : List (List Byte) := []
  since : Nat
  deriving DecidableEq, Repr

/-- The entropy unit (R458–R467). -/
structure Entropy where
  /-- 0 STARTUP, 1 OK, 2 RECOVERING, 3 FAILED. -/
  state : BitVec 2 := 0
  restarts : BitVec 2 := 0
  last : BitVec 2 := 0
  episodes : BitVec 24 := 0
  /-- Samples of the current window, oldest first. -/
  window : List Bool := []
  runBit : Bool := false
  runLen : Nat := 0
  /-- Conditioned windows, oldest first; at most 4. -/
  ready : List (List Byte) := []
  failTime : Nat := 0
  deriving DecidableEq, Repr

/-- The DRBG with its reseed bookkeeping (R468, R469). -/
structure DrbgUnit where
  d : Drbg := ⟨[], 0⟩
  live : Bool := false
  served : Nat := 0
  seededAt : Nat := 0
  deriving DecidableEq, Repr

/-- The shared engines (R474–R485). Their slots are arbiters 34, 35 and 36: hash, signature and DRBG. -/
structure Engines where
  entropy : Entropy := {}
  drbg : DrbgUnit := {}
  /-- Waiting work, oldest first, and when the slot that each engine began last in fixed-slot operation ends (R483). -/
  tasks : List Task := []
  slotEnd : SMap Nat := []
  /-- Last passed known-answer pass of hash, signature, DRBG, cipher (R503). -/
  kat : SMap Nat := []
  /-- The key pair of cipher slot 64, and the fallback pair that the boot ROM derives (R481, R554). -/
  slot64 : Option (List Byte) := none
  fallback : List Byte := []
  deriving DecidableEq, Repr

/-- An SPDM session (R436–R441). -/
structure Session where
  id : BitVec 32
  established : Bool := false
  lastSeen : Nat := 0
  secret : List Byte := []
  updates : Nat := 0
  deriving DecidableEq, Repr

/-- A deferred SPDM request: its token, the request and when it came (R438, R441). -/
structure SpdmWait where
  token : Byte
  req : SpdmReq
  since : Nat
  deriving DecidableEq, Repr

/-- An SPDM responder (R435–R443). -/
structure Responder where
  sessions : List Session := []
  nextId : BitVec 16 := 1
  wait : Option SpdmWait := none
  nextToken : Byte := 1
  /-- How far the connection has come: nothing, the version, the capabilities, the algorithms (log entry 15). -/
  conn : Fin 4 := 0
  deriving DecidableEq, Repr

/-- The SPDM error codes that the spec names, and DSP0274's answer to a session that is not there (log entry 15). -/
inductive SpdmError where
  | invalidRequest | unexpectedRequest | unsupportedRequest | sessionLimitExceeded | unspecified | invalidSession | decryptError
  | responseNotReady (token : Byte)
  deriving DecidableEq, Repr

/-- The TDISP refusals (log entry 15). -/
inductive TdispError where
  | invalidInterface | invalidInterfaceState | invalidNonce
  deriving DecidableEq, Repr

/-- The TDISP interface states (R455). -/
inductive TdiState where
  | configUnlocked | configLocked | run | error
  deriving DecidableEq, Repr

/-- A device interface (R455, R456). -/
structure Tdi where
  state : TdiState := .configUnlocked
  nonce : BitVec 256 := 0
  session : BitVec 32 := 0
  deriving DecidableEq, Repr

/-- An IDE stream (R448). -/
structure IdeStream where
  keyed : Bool := false
  secure : Bool := false
  deriving DecidableEq, Repr

/-- Fuses, boot measurements and identities (R424–R434). -/
structure Security where
  /-- Fuse words at the low and at the high margin, by word (128 bits each). -/
  fuseLo : SMap (BitVec 128) := []
  fuseHi : SMap (BitVec 128) := []
  /-- Words latched at start-up. -/
  latched : SMap (BitVec 128) := []
  marginal : List Nat := []
  undecided : List Nat := []
  /-- Measurement blocks: SHA-384 digests or contents by index. -/
  blocks : SMap (List Byte) := []
  udsLocked : Bool := false
  fwSvn : Nat := 0
  fwVersion : List Byte := []
  fwOk : Bool := false
  deviceSecret : List Byte := []
  aliasKey : Nat := 0
  failCode : Nat := 0
  responders : SMap Responder := []
  tdis : SMap Tdi := []
  ide : SMap IdeStream := []
  /-- Firmware bundle slots in flash, and which one is active. -/
  fwSlotA : List Byte := []
  fwSlotB : List Byte := []
  deriving DecidableEq, Repr

/-- A pace monitor register `PACE_n` (R39); its `PACE_MIN` is kept for each reader apart. -/
structure Pace where
  pace : BitVec 16 := 0
  railMv : BitVec 12 := 0
  tj : BitVec 8 := 0
  locked : Bool := false
  valid : Bool := false
  deriving DecidableEq, Repr

/-- Clocks, rails and power (R38–R54). -/
structure Plant where
  pace : SMap Pace := []
  /-- Minimum pace since each reader's last read, by reader × 128 + monitor (R39, R40). -/
  minByReader : SMap (Option (BitVec 16)) := []
  /-- `VID_Tn` code of each tile die's rail: 0.620 + 0.005 × code V (R542). -/
  rails : SMap Nat := []
  /-- The common throttle of tiles that are not pace-locked, in beats per µs; none while it is lifted (R42). -/
  throttle : Option Nat := none
  /-- The module power of the last tick, and the readings of the last 1 s with their times (R535). -/
  watts : BitVec 16 := 0
  powerLog : List (Nat × Nat) := []
  sentBound : BitVec 8 := 20
  /-- Islands whose clock is lost. -/
  lost : List Nat := []
  ciRunning : Bool := true
  /-- The earliest times of the next pace window, power-loop tick and stack reading: they fall due every 10 µs, 100 µs and 1 ms
  (R39, R41, R278). -/
  nextWindow : Nat := 0
  nextTick : Nat := 0
  nextTemp : Nat := 0
  /-- Consecutive out-of-rating ticks, by monitor × 2, plus 1 for the junction (R491). -/
  bad : SMap Nat := []
  /-- One more than the time since when a pace-locked tile's reading has stayed below its rate, by tile (R46). -/
  lowSince : SMap Nat := []
  thermtrip : Bool := false
  brake : Bool := false
  vrHot : Bool := false
  deriving DecidableEq, Repr

/-- The device states (R513, `DEV_STATUS`). -/
inductive DevState where
  | reset | booting | floor0 | ready | faulted
  deriving DecidableEq, Repr

/-- An item of the chain log (R327). -/
structure ChainItem where
  time : Nat
  part : PartId
  chain : Nat
  msg : Nat
  digest : Word
  member : Nat
  item : JournalItem
  deriving DecidableEq, Repr

/-- The interrupts of a control pair (R367): the pending sources in ascending order, the source whose handler the handler bank runs (none while
the work runs in the working bank), and the steps that entries, handoffs and returns have taken. Between commands no handler runs. -/
structure ControlPair where
  pending : List Nat := []
  handler : Option Nat := none
  steps : Nat := 0
  deriving DecidableEq, Repr

/-- Start-up and service floor (R513, R546–R559). -/
structure Boot where
  state : DevState := .reset
  floor : BitVec 8 := 0xFF
  /-- Bit i is set when start-up step i has ended (R549). -/
  steps : BitVec 12 := 0
  /-- The next start-up is a cold start (R548). -/
  cold : Bool := true
  /-- A step before step 7 leaves the device at Floor 0 (R553). -/
  low : Bool := false
  fault : Bool := false
  /-- The device-fatal record whose FAULT events are still due (R502). -/
  faultDue : List Nat := []
  powerOk : Bool := true
  /-- Control pairs 0–3 present. -/
  pairs : BitVec 4 := 0
  /-- Their interrupts (R367). -/
  irqs : SMap ControlPair := []
  /-- Shared units failed at the self-test, by `UNIT` (R492, R509). -/
  sharedFail : List Nat := []
  /-- Logical tile → physical tile (R57); 0xFF unbound. -/
  bind : SMap Nat := []
  /-- Physical tiles failed, as the spare and repair map in flash lists them (R511, R512). -/
  failedPhys : BitVec 68 := 0
  /-- The mapping of the previous reset: dies whose spare was mapped and the logical tile it replaced (R511). -/
  spares : SMap Nat := []
  /-- HBM dies recorded lost in the map, by controller × 12 + die (R285). -/
  lostDies : List Nat := []
  checkSplit : BitVec 3 := 0
  banks : Nat := 8
  opened : Bool := false
  t0 : Nat := 0
  deriving DecidableEq, Repr

/-- An MSI-X table entry (R520, R523, R530): its message address and data, its mask bit, set at reset, and its pending bit. -/
structure MsixEntry where
  addr : Word := 0
  data : BitVec 32 := 0
  masked : Bool := true
  pend : Bool := false
  deriving DecidableEq, Repr

/-- An entry of the VF BAR2 translation cache (R525): the partition, its root, and the translation. -/
structure WinEntry where
  part : PartId
  rootId : Nat
  tr : TlbEntry
  deriving DecidableEq, Repr

/-- One sample of operator profiling (R451): the time, the partition, its open requests, the requests in its tiles' hands, and the arbiters
whose last slot it used. -/
structure TraceEntry where
  time : Nat
  part : Nat
  open_ : Nat
  hand : Nat
  slots : Nat
  deriving DecidableEq, Repr

/-- PCIe functions, BARs and the trace buffer (R518–R537). -/
structure HostLink where
  width : Nat := 0
  /-- GT/s, and when the transmitter's next slot may start (R528). -/
  rate : Nat := 64
  txAt : Nat := 0
  numVfs : BitVec 16 := 0
  vfEnable : Bool := false
  mse : SMap Bool := []
  /-- ATS enabled, by function. -/
  ats : SMap Bool := []
  d3 : SMap Bool := []
  /-- The translation cache of R531: function and 4 KiB page number, oldest first, at most 512. -/
  atc : List (Nat × Nat) := []
  /-- The translation cache of VF BAR2 (R525), oldest first, at most 1,024. -/
  winTlb : List WinEntry := []
  /-- MSI-X tables, by function × 256 + vector. -/
  msix : SMap MsixEntry := []
  /-- Base addresses, by function × 3 + BAR / 2; and AER uncorrectable error status, by function (R517, R520; log entry 16). -/
  bars : SMap Word := []
  aer : SMap (BitVec 32) := []
  /-- Writes to doorbell pages that wait for earlier BAR2 writes of their VF: partition, page byte and value (R526). -/
  heldBells : List (Nat × Nat × Word) := []
  /-- The operator's trace buffer, oldest first (R451, R520; log entry 105). -/
  trace : List TraceEntry := []
  deriving DecidableEq, Repr

/-- Board pins and side interfaces (R538–R545). -/
structure Board where
  capW : BitVec 16 := 0
  /-- `FLAGS` and `THERM` as the board last read them (R535). -/
  flagsRead : BitVec 8 := 0
  thermRead : BitVec 8 := 0
  uart : List Byte := []
  /-- The TAP instruction in force. -/
  tapIr : TapOp := .idcode
  deriving DecidableEq, Repr

/-- An SPDM, IDE_KM or TDISP answer, by content (R438–R449). -/
inductive SpdmAnswer where
  | version (v : BitVec 8)
  | capabilities (names : List String)
  | algorithms (names : List String)
  | digest (d : List Byte)
  | certificate (part : List Byte) (remainder : Nat)
  | challengeAuth (nonce chainDigest measurements signature : List Byte)
  | measurements (count : Nat) (blocks nonce signature : List Byte)
  | keyExchange (session : BitVec 32) (random heartbeat signature : List Byte)
  | finish | heartbeatAck | keyUpdateAck | endSessionAck
  | ideKmAck
  | tdispVersion (v : BitVec 8)
  | tdispCapabilities
  | tdispLock (nonce : BitVec 256)
  | tdispReport (n : PartId)
  | tdispState (st : TdiState)
  | tdispStart | tdispStop
  | tdispError (e : TdispError)
  | error (e : SpdmError)
  deriving DecidableEq, Repr

/-- What leaves the device: interrupts, writes to host memory, answers on the host link, the device links, SPDM and the
board's side interfaces. This record is the model's own (log entry 3). -/
inductive Output where
  /-- `ide`: on the VF's selective IDE stream with the T bit set (R527). -/
  | msix (f : FnId) (vec : Nat) (addr : Word) (data : BitVec 32) (ide : Bool)
  /-- A DMA write; `ats`: a translated request (R531). -/
  | hostWrite (f : FnId) (addr : Word) (bytes : List Byte) (ide ats : Bool)
  | tlpData (bytes : List Byte)
  | tlpDone
  | tlpUnsupported
  | tlpRetry
  | cfgIds (vendor device : BitVec 16) (cls : BitVec 24) (rev : BitVec 8)
  | cfgWord (v : Word)
  | cfgCaps (l : List (String × Nat))
  | cfgLink (width rate : Nat)
  | doe (vendor protocol next : Nat)
  | reply (unit : Nat) (data : Option (List Byte))
  | resend (unit seq : Nat)
  | flit (l : LinkId) (bits : BitVec 2048)
  | invalidationDone (f : FnId)
  | spdm (f : FnId) (a : SpdmAnswer)
  | i3c (bytes : List Byte)
  | tap (v : BitVec 32)
  deriving DecidableEq, Repr

end Sys2Proof.Machine
end

