-- ==== Sys2Proof/Machine/State.lean ====
section
/-!
DEFINITION. The state of the block: the queue of waiting commands and everything the spec gives the device, as plain data;
the ways a step can stop; and the state right after reset.
-/

namespace Sys2Proof.Machine

structure State where
  /-- The commands that are waiting, first in, first out; a TLP in a receiver queue of the link waits among them (R529, log entry 145). -/
  pending : List Instr := []
  /-- The CI13 timestamp in ns since the end of cold reset (R50). -/
  now : Nat := 0
  boot : Boot := {}
  plant : Plant := {}
  tiles : SMap Tile := []
  parts : SMap Part := []
  /-- Memory of this device: bytes by physical address without the DEVICE bits (R64); an unlisted byte reads 0 (R218, R289). -/
  mem : List Host.Cell := []
  hbm : SMap Hbm := []
  arbs : SMap Arb := []
  links : SMap Link := []
  fabric : Fabric := {}
  ledger : SMap Ledger := []
  regions : SMap Region := []
  mbx : SMap Mailbox := []
  cfg : Configuration := {}
  eng : Engines := {}
  sec : Security := {}
  hostl : HostLink := {}
  board : Board := {}
  /-- The error ring of 4,096 records, oldest first (R494). -/
  ring : List ErrRec := []
  /-- The fatal store: a partition's entry by 0–63, device-fatal entries by 64–255 (R494). -/
  fatals : SMap (Option ErrRec) := []
  recSeq : Nat := 0
  /-- Chain steps completed within 16 ms (R327), oldest first. -/
  chainLog : List ChainItem := []
  /-- Packets between devices and between chain members. -/
  net : Net := {}
  /-- The partition whose move queue each Control Die mover served last, by mover (R349). -/
  lastMover : SMap Nat := []
  /-- The start of the last admission window (R342). -/
  lastWindow : Option Nat := none
  /-- What the device has sent out, oldest first. The model's own. -/
  out : List Output := []
  /-- How many free values have been drawn. The model's own. -/
  free : Nat := 0
  deriving DecidableEq, Repr

/-- Why a step can stop with a fault. No meaning of this model stops so: every command of the table has an effect. -/
inductive Fault where
  /-- Nothing raises it; safe, since a stop only removes behaviours. -/
  | unused
  deriving DecidableEq, Repr

/-- Why a step can be refused. -/
inductive Refusal where
  /-- A command whose meaning is not written yet; safe, since nothing is claimed of it. -/
  | notModelled (mnemonic : String)
  deriving DecidableEq, Repr

/-- The device right after a cold reset, before the start-up sequence (R546): every field at its default. -/
def State.reset : State := {}

end Sys2Proof.Machine
end

