-- ==== Sys2Proof/Machine/Ops.lean ====
section
/-!
DEFINITION. The shared operations on the state: access to its parts, configuration fields in force (R404, R405), ownership
(R56–R68), mailbox posting (R372, R373, R379, R381, R395–R397) and interrupts (R530).
-/

namespace Sys2Proof.Machine

/-! Parts of the state, by number. -/

def State.tile (s : State) (t : Nat) : Tile := SMap.get {} s.tiles t
def State.setTile (s : State) (t : Nat) (x : Tile) : State := { s with tiles := SMap.put {} s.tiles t x }
def State.updTile (s : State) (t : Nat) (f : Tile → Tile) : State := s.setTile t (f (s.tile t))

def State.part (s : State) (n : Nat) : Part := SMap.get {} s.parts n
def State.setPart (s : State) (n : Nat) (x : Part) : State := { s with parts := SMap.put {} s.parts n x }
def State.updPart (s : State) (n : Nat) (f : Part → Part) : State := s.setPart n (f (s.part n))

def State.led (s : State) (i : Nat) : Ledger := SMap.get {} s.ledger i
def State.setLed (s : State) (i : Nat) (x : Ledger) : State := { s with ledger := SMap.put {} s.ledger i x }
def State.updLed (s : State) (i : Nat) (f : Ledger → Ledger) : State := s.setLed i (f (s.led i))

def State.region (s : State) (i : Nat) : Region := SMap.get {} s.regions i
def State.setRegion (s : State) (i : Nat) (x : Region) : State := { s with regions := SMap.put {} s.regions i x }
def State.updRegion (s : State) (i : Nat) (f : Region → Region) : State := s.setRegion i (f (s.region i))

def State.box (s : State) (m : Nat) : Mailbox := SMap.get {} s.mbx m
def State.setBox (s : State) (m : Nat) (x : Mailbox) : State := { s with mbx := SMap.put {} s.mbx m x }
def State.updBox (s : State) (m : Nat) (f : Mailbox → Mailbox) : State := s.setBox m (f (s.box m))

def State.hbmc (s : State) (k : Nat) : Hbm := SMap.get {} s.hbm k
def State.setHbm (s : State) (k : Nat) (x : Hbm) : State := { s with hbm := SMap.put {} s.hbm k x }
def State.updHbm (s : State) (k : Nat) (f : Hbm → Hbm) : State := s.setHbm k (f (s.hbmc k))

def State.arb (s : State) (a : Nat) : Arb := SMap.get {} s.arbs a
def State.setArb (s : State) (a : Nat) (x : Arb) : State := { s with arbs := SMap.put {} s.arbs a x }

def State.link (s : State) (l : Nat) : Link := SMap.get {} s.links l
def State.setLink (s : State) (l : Nat) (x : Link) : State := { s with links := SMap.put {} s.links l x }
def State.updLink (s : State) (l : Nat) (f : Link → Link) : State := s.setLink l (f (s.link l))

/-- What the device sends out, in order (log entry 3). -/
def State.emit (s : State) (o : Output) : State := { s with out := s.out ++ [o] }

/-- Draw a free value: the value, and the state with the counter advanced (log entry 4). -/
def State.draw (s : State) : Word × State := (Config.freeWord s.free, { s with free := s.free + 1 })

/-- A timed event says that its moment has come: the timestamp reads at least `t` (log entry 6). -/
def State.atLeast (s : State) (t : Nat) : State := { s with now := max s.now t }

/-- CI12 runs: the I3C target answers, and the SPI flash and the UART work (R48, R49, R513, R553). -/
def State.i3cUp (s : State) : Bool := !s.plant.lost.contains 12

/-- The first 1 µs boundary of CI13 at or after `t` (R381). -/
def boundary (t : Nat) : Nat := ceilDiv t 1000 * 1000

/-- The 64 partition numbers. -/
def parts64 : List Nat := List.range 64

/-- Apply an operation for each listed number, in order. -/
def State.forEach (s : State) (l : List Nat) (f : Nat → State → State) : State := l.foldl (fun s n => f n s) s

/-! Configuration fields (R404). Kinds: 0 Base, 1 Overlay, 2 Protected. -/

/-- Size in bytes and kind of a field ID; none where the ID is not in the table (R404). -/
def fieldInfo (id : Nat) : Option (Nat × Nat) :=
  if id ∈ [0x0001, 0x0002, 0x0003, 0x0004, 0x0005, 0x0010] then some (1, 0)
  else if id = 0x0011 ∨ id = 0x0030 then some (1, 1)
  else if 0x0020 ≤ id ∧ id ≤ 0x0024 then some (2, 1)
  else if id = 0x0900 then some (1, 2)
  else if id = 0x0901 then some (1664, 2)
  else if id = 0x0902 then some (4, 2)
  else if id % 256 < 64 then
    (if 1 ≤ id / 256 ∧ id / 256 ≤ 3 then some (1, 1)
     else if id / 256 = 4 then some (2, 1)
     else if id / 256 = 8 then some (64, 2)
     else none)
  else none

/-- The default of a Base or Overlay field (R404). -/
def fieldDefault (id : Nat) : Nat :=
  if id ∈ [0x0002, 0x0003, 0x0004] then 1
  else if id = 0x0010 then 20
  else if id = 0x0011 then 4
  else if id = 0x0020 then 1450
  else if 0x0021 ≤ id ∧ id ≤ 0x0024 then 1000
  else if id = 0x0030 then 6
  else if id / 256 = 3 then 2
  else if id / 256 = 4 then 256
  else 0

/-- A field's BCR value (R404). -/
def State.bcrField (s : State) (id : Nat) : Nat :=
  match SMap.get [] s.cfg.bcr id with
  | [] => fieldDefault id
  | bs => leNat bs

/-- A field's value under overlay `o`, 0 for the BCR alone (R405). -/
def State.ovField (s : State) (o id : Nat) : Nat :=
  match SMap.get none s.cfg.overlays o with
  | some m => (match SMap.get [] m id with
    | [] => s.bcrField id
    | bs => leNat bs)
  | none => s.bcrField id

/-- A field's value in force (R405, R406, R408). -/
def State.field (s : State) (id : Nat) : Nat :=
  let cls := id / 256
  if 1 ≤ cls ∧ cls ≤ 4 then
    (match SMap.get none (s.part (id % 256)).frozen cls with
     | some v => v
     | none => s.ovField s.cfg.overlay id)
  else if id = 0x0011 then s.ovField s.cfg.overlay id
  else s.ovField (s.cfg.early.getD s.cfg.overlay) id

def State.deviceNum (s : State) : Nat := s.field 0x0001
def State.ergSize (s : State) : Nat := s.field 0x0002
def State.defaultRm (s : State) (n : Nat) : Nat := s.field (0x0100 + n)
def State.flushMode (s : State) (n : Nat) : Nat := s.field (0x0200 + n)
def State.trumpShare (s : State) (n : Nat) : Nat := s.field (0x0300 + n)
def State.handDepth (s : State) (n : Nat) : Nat := s.field (0x0400 + n)

/-- The health-pass interval of partition n in ns (R24, R406). -/
def State.healthNs (s : State) (n : Nat) : Nat :=
  (match SMap.get none (s.part n).frozen 0 with
   | some v => v
   | none => s.field 0x0011) * 1000000

/-- The power envelope in force (R388, R405, R536): the board's cap bounds it. -/
def State.envelopeW (s : State) : Nat :=
  let e := s.cfg.envelope.getD (s.field 0x0020)
  if s.board.capW = 0 then e else min e s.board.capW.toNat

/-! Ownership (R56–R61). -/

/-- The partition that owns logical tile t, if any. -/
def State.tileOwner (s : State) (t : Nat) : Option Nat :=
  parts64.find? (fun n => (s.part n).entry.valid && (s.part n).entry.tiles.getLsbD t)

/-- The locked rate of a tile's partition, if any (R45). -/
def State.lockOf (s : State) (t : Nat) : Option Nat :=
  match s.tileOwner t with
  | some n => (s.part n).paceRate
  | none => none

/-- True where a tile's units step only on tokens: it is pace-locked, or the common throttle runs (R42, R44). -/
def State.gated (s : State) (t : Nat) : Bool := (s.lockOf t).isSome || s.plant.throttle.isSome

/-- True when each listed unit of tile t may take a step now: it holds a token where its steps need one (R44). -/
def State.maySpend (s : State) (t : Nat) (us : List TileUnit) : Bool :=
  !s.gated t || us.all (fun u => decide (0 < SMap.get 0 (s.tile t).tokens u.num))

/-- The listed units take a step, each on its token (R44). -/
def State.spend (s : State) (t : Nat) (us : List TileUnit) : State :=
  s.updTile t (fun x => { x with tokens := spendTokens x.tokens us })

/-- True when an HBM offset lies in an extent (R413). -/
def inExtent (off : Nat) (e : BitVec 32 × BitVec 32) : Bool :=
  decide (1024 * e.1.toNat ≤ off) && decide (off < 1024 * (e.1.toNat + e.2.toNat))

/-- The partition whose extents hold an HBM offset, if any. -/
def State.hbmOwner (s : State) (off : Nat) : Option Nat :=
  parts64.find? (fun n => (s.part n).entry.valid && (s.part n).entry.ext.any (inExtent off))

/-- The logical tiles of partition n. -/
def State.tilesOf (s : State) (n : Nat) : List Nat :=
  if (s.part n).entry.valid then bitsOf (s.part n).entry.tiles else []

/-- The tiles of partition n that are available (R58, R501). -/
def State.availOf (s : State) (n : Nat) : List Nat :=
  (s.tilesOf n).filter (fun t => !(s.tile t).health.unavailable)

/-- The bitmap of unavailable tiles. -/
def State.unavail (s : State) : BitVec 64 :=
  bitmap 64 ((List.range 64).filter (fun t => (s.tile t).health.unavailable))

def State.isStrict (s : State) (n : Nat) : Bool := (s.part n).entry.valid && (s.part n).entry.strict
def State.anyStrict (s : State) : Bool := parts64.any s.isStrict
def State.anyConf (s : State) : Bool := parts64.any (fun n => (s.part n).conf)

/-- The partition table in force as the record and its antes give it (R413). -/
def State.valid (s : State) (n : Nat) : Bool := (s.part n).entry.valid

/-! Interrupts (R530). -/

/-- An entry of a function's MSI-X table. -/
def State.msixEntry (s : State) (f : FnId) (vec : Nat) : MsixEntry := SMap.get {} s.hostl.msix (f.val * 256 + vec)

def State.setMsix (s : State) (f : FnId) (vec : Nat) (e : MsixEntry) : State :=
  { s with hostl := { s.hostl with msix := SMap.put {} s.hostl.msix (f.val * 256 + vec) e } }

/-- VF f's TDI is in RUN: its DMA leaves on its selective IDE stream (R527). -/
def State.tdiRuns (s : State) (f : Nat) : Bool := decide (f < 64) && (SMap.get {} s.sec.tdis f).state == .run

/-- Signal a function's vector: its message leaves, or is pending while the vector is masked (R530; log entry 16). -/
def State.msix (s : State) (f : FnId) (vec : Nat) : State :=
  let e := s.msixEntry f vec
  if e.masked then s.setMsix f vec { e with pend := true } else s.emit (.msix f vec e.addr e.data (s.tdiRuns f.val))

/-! PCIe functions (R518, R519, R531). -/

/-- An access of function f ends with Unsupported Request, which AER records (R517; the status bit is PCI Express's, log entry 16). -/
def State.unsupported (s : State) (f : FnId) : State :=
  { s with hostl := { s.hostl with aer := SMap.upd 0 s.hostl.aer f.val (· ||| 0x100000) } }.emit .tlpUnsupported

/-- True where a function exists on the bus: the PF, or a VF below `NumVFs` while VFs are enabled (R519). -/
def State.fnExists (s : State) (f : Nat) : Bool :=
  f == 64 || (s.hostl.vfEnable && decide (f < s.hostl.numVfs.toNat))

/-- VF n exists and its partition's entry lets its BARs decode (R519). -/
def State.vfLive (s : State) (n : Nat) : Bool := s.fnExists n && (s.part n).entry.valid && (s.part n).entry.vfEn

/-- A DMA address of a function with ATS enabled is translated through the cache of 512 pages (R531). -/
def State.atsTouch (s : State) (f addr : Nat) : State :=
  if SMap.get false s.hostl.ats f then
    let c := s.hostl.atc.filter (fun e => e != (f, addr / 4096))
    { s with hostl := { s.hostl with atc := c.drop (c.length - 511) ++ [(f, addr / 4096)] } }
  else s

/-- The function whose mailbox m is: VF m, or the PF for the operator's. -/
def mbxFn (m : MbxId) : FnId := m

/-! Mailboxes. -/

/-- A mailbox whose answers follow fixed posting (R381). -/
def State.strictBox (s : State) (m : MbxId) : Bool := decide (m.val < 64) && s.isStrict m.val

/-- A mailbox stops holding the command of a tag, whose final answer has been posted (R372); a Strict mailbox with a waiting message takes it
2 µs later (R381). -/
def Mailbox.release (b : Mailbox) (tag : BitVec 16) (now : Nat) : Mailbox :=
  { b with
    held := b.held.filter (fun h => h.tag != tag),
    takeAt := if b.bellReq && b.takeAt.isNone then some (now + 2000) else b.takeAt }

/-- Load the next ready response into the window (R373); a final answer ends its command (R372). -/
def State.loadRsp (s : State) (m : MbxId) : State :=
  let b := s.box m
  match b.rspValid, b.rsps with
  | false, r :: rest =>
    let b := { b with rsp := r.bytes, rspValid := true, rsps := rest, loaded := some (r.tag, r.final) }
    (s.setBox m (if r.final then b.release r.tag s.now else b)).msix (mbxFn m) 0
  | _, _ => s

/-- The 128 bytes of an event slot (R395). -/
def Event.bytes (e : Event) : List Byte :=
  leBytes 2 e.kind ++ bvBytes e.tag ++ leBytes 2 e.status.code ++ leBytes 2 e.part ++ leBytes 2 e.opcode ++ zeros 6
    ++ leBytes 8 e.time ++ leBytes 8 e.seq ++ padTo 96 e.body

/-- Post held events while the ring has room (R395); a COMMAND_DONE ends its command (R372). The first argument bounds the posts of one call. -/
def State.postEvents : Nat → MbxId → State → State
  | 0, _, s => s
  | k + 1, m, s =>
    let b := s.box m
    match b.events with
    | e :: rest =>
      if (b.evtTail - b.evtHead).toNat < 16 then
        let b := { b with evt := SMap.put [] b.evt (b.evtTail.toNat % 16) e.bytes, evtTail := b.evtTail + 1, events := rest }
        State.postEvents k m ((s.setBox m (if e.kind = 1 then b.release e.tag s.now else b)).msix (mbxFn m) 0)
      else s
    | [] => s

/-- Let a mailbox that is not Strict post what it holds; a Strict one waits for its 1 µs boundary (R381). Nothing is posted
until the mailboxes open (R550, R552). -/
def State.pump (s : State) (m : MbxId) : State :=
  if s.strictBox m || !(s.box m).ready then s else State.postEvents 16 m (s.loadRsp m)

/-- True for the kinds that R396 lets Avrak drop. -/
def droppable (kind : Nat) : Bool := decide (6 ≤ kind)

/-- Drop the oldest droppable event (R397). -/
def dropOldest : List Event → Option (List Event)
  | [] => none
  | e :: t => if droppable e.kind then some t else (dropOldest t).map (fun r => e :: r)

/-- Hold an event for posting, in the order of readiness (R395, R397). -/
def State.event (s : State) (m : MbxId) (e : Event) : State :=
  let b := s.box m
  let evs := b.events ++ [{ e with seq := b.seq }]
  let b := { b with seq := b.seq + 1 }
  let b := if evs.length ≤ 512 then { b with events := evs } else
    match dropOldest evs with
    | some evs' => { b with events := evs', evtLost := BitVec.ofNat 8 (satAdd 8 b.evtLost.toNat 1) }
    | none => { b with events := evs }
  (s.setBox m b).pump m

/-- Events on several mailboxes. -/
def State.eventAll (s : State) (ms : List MbxId) (e : Event) : State := ms.foldl (fun s m => s.event m e) s

/-- The COMMAND_DONE of a Long command whose ACCEPTED has been released becomes ready to post (R379). -/
def State.finishLong (s : State) (m : MbxId) : State :=
  let b := s.box m
  match b.held.find? (fun h => h.accepted == 2 && h.done.isSome) with
  | some h =>
    (s.setBox m { b with held := b.held.map (fun x => if x.tag = h.tag then { x with accepted := 3 } else x) }).event m
      { kind := 1, tag := h.tag, status := ((h.done.map (·.1)).getD .ok), part := h.part, opcode := h.opcode,
        time := s.now, body := (h.done.map (·.2)).getD [] }
  | none => s

/-- The final status of a Long command that has answered ACCEPTED (R379). A command already discarded is ignored. -/
def State.commandDone (s : State) (m : MbxId) (tag : BitVec 16) (st : Status) (body : List Byte) : State :=
  (s.updBox m (fun b => { b with held := b.held.map (fun h => if h.tag == tag && h.done.isNone then { h with done := some (st, body) } else h) })).finishLong m

/-- The class bound of an opcode in ns: Fast 50 µs, others 5 ms to the first answer (R378). -/
def classBound (op : Nat) : Nat :=
  if op ∈ [0x0101, 0x0102, 0x0103, 0x0203, 0x0305, 0x0405, 0x0504, 0x0801, 0x0803] then 50000 else 5000000

/-- A response message (R374): RESPONSE set, the request's OPCODE, PARTITION and CRED, the status and the payload's length. -/
def rspBytes (hdr : List Byte) (tag : BitVec 16) (st : Status) (payload : List Byte) : List Byte :=
  let h := padTo 32 hdr
  leBytes 2 0x564C ++ [0x32, 0x02] ++ slice h 4 2 ++ bvBytes tag ++ leBytes 2 payload.length
    ++ [h.getD 10 0 &&& 0x7F, h.getD 11 0] ++ leBytes 2 st.code ++ zeros 18 ++ payload

/-- A ready response among the others, by the time it is due; those due at one time stay in the order they became ready (R373, R381). -/
def insertRsp (r : Rsp) : List Rsp → List Rsp
  | [] => [r]
  | x :: l => if r.due < x.due then r :: x :: l else x :: insertRsp r l

/-- A response becomes ready (R373, R381). `final` says that it ends the command under R372. -/
def State.respond (s : State) (m : MbxId) (hdr : List Byte) (tag rtag : BitVec 16) (bell : Nat) (st : Status) (final : Bool)
    (payload : List Byte) : State :=
  let due := if s.strictBox m then boundary (max s.now (bell + classBound (at' hdr 4 2))) else s.now
  (s.updBox m (fun b => { b with rsps := insertRsp { bytes := rspBytes hdr rtag st payload, due := due, tag := tag, final := final } b.rsps })).pump m

/-- Answer a held command with its final response. -/
def State.answer (s : State) (m : MbxId) (h : Held) (st : Status) (payload : List Byte) : State :=
  (s.updBox m (fun b => { b with held := b.held.map (fun x => if x.tag == h.tag then { x with served := true } else x) })).respond
    m h.hdr h.tag h.tag h.bell st true (if st = .ok then payload else [])

/-- Answer a Long command ACCEPTED (R379). -/
def State.accept (s : State) (m : MbxId) (h : Held) (payload : List Byte) : State :=
  (s.updBox m (fun b => { b with held := b.held.map (fun x => if x.tag == h.tag then { x with served := true, accepted := 1 } else x) })).respond
    m h.hdr h.tag h.tag h.bell .accepted false payload

end Sys2Proof.Machine
end

