-- ==== Sys2Proof/Machine/Faults.lean ====
section
/-!
DEFINITION. Error records and their log (R486–R495), the end of requests (R16, R352), the partition-fatal procedure (R498),
the device-fatal procedure (R502) and failed health passes (R28, R501, R512).
-/

namespace Sys2Proof.Machine

/-- A record of a type and class, to be filled in (R492). -/
def mkRec (type cls : Nat) : ErrRec := { seq := 0, time := 0, type := type, cls := cls }

/-- `UNIT` of a tile (R492). -/
def unitTile (t : Nat) : Nat := t
/-- `UNIT` of HBM controller k (R492). -/
def unitHbm (k : Nat) : Nat := 0x1000 + k
/-- `UNIT` of device link l (R492). -/
def unitLink (l : Nat) : Nat := 0x2000 + l
/-- `UNIT` of a control pair (R492). -/
def unitPair (p : Nat) : Nat := 0x3000 + p
/-- `UNIT` of a shared engine (R492). -/
def unitEngine (e : Nat) : Nat := 0x4000 + e
/-- `UNIT` of a clocked island (R492). -/
def unitIsland (i : Nat) : Nat := 0x5000 + i
/-- `UNIT` of a ledger bank (R492). -/
def unitBank (b : Nat) : Nat := 0x6000 + b
/-- `UNIT` of a router or bridge (R492). -/
def unitRouter (r : Nat) : Nat := 0x7000 + r
/-- `UNIT` of the fuses (R492). -/
def unitFuse (w : Nat) : Nat := 0x8000 + w

/-- Mailboxes a record is delivered to: the operator's, and those of its partitions (R495). -/
def recTo (r : ErrRec) : List MbxId :=
  operatorId :: ((if r.part < 64 then r.part :: r.also.filter (fun n => n != r.part) else r.also).map (fun n => Fin.ofNat 65 n))

/-- Post ERROR_LOGGED on every mailbox a record is delivered to (R495). -/
def State.deliver (s : State) (r : ErrRec) : State :=
  s.eventAll (recTo r) { kind := 6, part := if r.part < 64 then r.part else 0x7F, time := s.now, body := leBytes 8 r.seq }

/-- Drop the first record that satisfies `p`. -/
def dropFirst (p : ErrRec → Bool) : List ErrRec → Option (List ErrRec)
  | [] => none
  | r :: t => if p r then some t else (dropFirst p t).map (fun q => r :: q)

/-- Put a record into the ring of 4,096, overwriting in the order of R494. -/
def ringPut (ring : List ErrRec) (held : Nat → Bool) (r : ErrRec) : List ErrRec :=
  if ring.length < 4096 then ring ++ [r]
  else
    match dropFirst (fun x => x.cls == 0 || x.cls == 3 || x.follow) ring with
    | some q => q ++ [r]
    | none =>
      match dropFirst (fun x => held x.seq) ring with
      | some q => q ++ [r]
      | none => ring.tail ++ [r]

/-- True when the fatal store holds the record with this number. -/
def State.inFatals (s : State) (n : Nat) : Bool :=
  s.fatals.any (fun e => match e.2 with
    | some r => r.seq == n
    | none => false)

/-- The partitions that a record of class 1 makes fault-flagged. -/
def recParts (r : ErrRec) : List Nat := if r.part < 64 then [r.part] else r.also

/-- Mark the ring's record of a number as one the ring alone keeps (R494). -/
def State.markFollow (s : State) (n : Nat) : State :=
  { s with ring := s.ring.map (fun x => if x.seq = n then { x with follow := true } else x) }

/-- Give partition n's fatal-store entry to a record; an older one stays in the ring with FOLLOW set (R494). -/
def State.fatalSlot (s : State) (r : ErrRec) (n : Nat) : State :=
  let s := match SMap.get none s.fatals n with
    | some old => s.markFollow old.seq
    | none => s
  { s with fatals := SMap.put none s.fatals n (some r) }

/-- Keep the first record of an episode in the fatal store (R494). -/
def State.keepFatal (s : State) (r : ErrRec) : State :=
  if r.follow then s
  else if r.cls = 1 then
    (recParts r).foldl (fun s n => s.fatalSlot r n) s
  else if r.cls = 2 then
    (match (List.range 192).find? (fun i => SMap.get none s.fatals (64 + i) == none) with
     | some i => { s with fatals := SMap.put none s.fatals (64 + i) (some r) }
     | none => s)
  else s

/-- Raise a record: coalesced with an equal masked one of the last second (R493), else numbered, kept and delivered
(R486, R492, R494, R495). -/
def State.record (s : State) (r : ErrRec) : State :=
  if r.cls = 0 ∧ s.ring.any (fun x => x.cls == 0 && x.type == r.type && x.unit == r.unit && x.addr == r.addr && decide (s.now < x.time + 1000000000)) then
    { s with ring := s.ring.map (fun x =>
        if x.cls == 0 && x.type == r.type && x.unit == r.unit && x.addr == r.addr && decide (s.now < x.time + 1000000000)
        then { x with count := satAdd 32 x.count 1, coalesced := true } else x) }
  else
    let follow := r.follow || (r.cls == 1 || r.cls == 2) && s.boot.fault
      || r.cls == 1 && r.part < 64 && (s.part r.part).fault
    let r := { r with seq := s.recSeq, time := s.now, follow := follow }
    ({ s with ring := ringPut s.ring s.inFatals r, recSeq := s.recSeq + 1 }.keepFatal r).deliver r

/-! Routes to other devices (R304–R308). -/

/-- The links that carry packets to another device: its direction group under R305 and R306. -/
def State.routeLinks (s : State) (dev : Nat) : List Nat :=
  let ex := max 1 (s.field 0x0003)
  let ey := max 1 (s.field 0x0004)
  let me := s.deviceNum
  let dx := (dev % ex + ex - me % ex) % ex
  let dy := (dev / ex + ey - me / ex) % ey
  let group (size d first : Nat) : List Nat :=
    let plus := [first, first + 1, first + 2, first + 3]
    let minus := [first + 4, first + 5, first + 6, first + 7]
    if size = 2 then plus ++ minus else if d ≤ size - d then plus else minus
  if dx ≠ 0 then group ex dx 0 else if dy ≠ 0 then group ey dy 8 else []

/-- True where a packet to another device finds an UP link (R303). -/
def State.routeUp (s : State) (dev : Nat) : Bool := (s.routeLinks dev).any (fun l => (s.link l).state == 2)

/-- True where a packet that leaves over link l crosses the dateline of its dimension: from coordinate size − 1 to 0 in the + direction, from 0
to size − 1 in the − direction (R308). -/
def State.crosses (s : State) (l : Nat) : Bool :=
  let ex := max 1 (s.field 0x0003)
  let (size, c) := if l < 8 then (ex, s.deviceNum % ex) else (max 1 (s.field 0x0004), s.deviceNum / ex)
  if l % 8 < 4 then c + 1 == size else c == 0

/-- The even virtual channel of a packet's class (R308, R328). -/
def netChannel (p : NetPacket) : Nat :=
  match p.body with
  | .request _ _ => 0
  | .response _ => 2
  | _ => 4

/-- The payload bytes of a packet: the data that it carries; the spec gives those of chain packets alone (R323, log entry 134). -/
def netPayload (p : NetPacket) : Nat :=
  match p.body with
  | .request _ (.write bs) => bs.length
  | .request _ (.atomic _ _ _) => 16
  | .response (some bs) => bs.length
  | .rows _ c => 512 * c.data.length
  | .done _ c => 512 * c.data.length
  | .chainRecall r => 32 + 16 * r.steps.length
  | _ => 0

/-- The bytes of a packet: a 16-byte header, payload flits of 256 bytes and a CRC-32 (R58, R323). -/
def netSize (p : NetPacket) : Nat := 20 + 256 * ceilDiv (netPayload p) 256

/-- Put a packet at the egress of link (u + t) mod n of the n UP links of its direction group, u being its source unit and t its destination
device (R307); none where no link is UP. `came` is the link it came in on, and whether it was on that dimension's odd channel (R308): it travels a
dateline link on the odd channel, and stays on it in that dimension. -/
def State.netPut (s : State) (p : NetPacket) (came : Option (Nat × Bool)) : Option State :=
  let up := (s.routeLinks p.dst).filter (fun l => (s.link l).state == 2)
  if up.isEmpty then none
  else
    let l := up.getD ((p.unit + p.dst) % up.length) 0
    let odd := s.crosses l || (match came with
      | some (from_, o) => decide (from_ / 8 = l / 8) && o
      | none => false)
    some (s.updLink l (fun x => { x with
      packets := x.packets + 1,
      egress := x.egress ++ [{ key := x.packets, pkt := p, vc := (netChannel p) + b2n odd, came := came, left := ceilDiv (netSize p) 244 }] }))

/-- A packet that cannot be forwarded is logged as ROUTE_DOWN (R303). -/
def State.routeDown (s : State) (p : NetPacket) : State :=
  s.record { mkRec 0x0407 3 with part := if p.tag < 64 then p.tag else 0x7F, unit := unitRouter 0 }

/-- Send a packet where a route leads to its device. -/
def State.netSend (s : State) (p : NetPacket) : State := (s.netPut p none).getD (s.routeDown p)

/-- Answer a request (R61, R62): none is an error response. A unit of this device has its answer at once, another device's travels back on the
response channels under the request's tag and source unit (R301, R308, log entry 134). -/
def State.replyTo (s : State) (q : Requester) (tag : Nat) (data : Option (List Byte)) : State :=
  if q.dev = s.deviceNum then s.emit (.reply q.unit data)
  else s.netSend { tag := tag, src := s.deviceNum, unit := q.unit, dst := q.dev, id := q.id, body := .response data }

/-- A response reaches the access that it answers (R312). -/
def State.answerRemote (s : State) (id : Nat) (data : Option (List Byte)) : State :=
  { s with net := { s.net with remote := s.net.remote.map (fun r => if r.id = id then { r with answer := some data } else r) } }

/-- A unit's accesses to other devices end with the work that made them. -/
def State.dropRemote (s : State) (unit : Nat) : State :=
  { s with net := { s.net with remote := s.net.remote.filter (fun r => r.unit != unit) } }

/-- A chain packet waits for a member's tile of this device (R320). -/
def State.offer (s : State) (b : NetBody) : State := { s with net := { s.net with offers := s.net.offers ++ [b] } }

/-- A chain packet to a member: it waits for a tile of this device, or travels from tile t's member with partition n's tag (R308, R320). -/
def State.toMember (s : State) (n t dev : Nat) (b : NetBody) : State :=
  if dev = s.deviceNum then s.offer b
  else s.netSend { tag := n, src := s.deviceNum, unit := t, dst := dev, id := 0, body := b }

/-- Release a request's region bindings (R255). -/
def State.unbind (s : State) (i : Nat) : State :=
  let e := s.led i
  let rel (s : State) (slot ver : Nat) : State := s.updRegion slot (fun g =>
    if g.version.toNat = ver then { g with boundCur := g.boundCur - 1 } else { g with boundOld := g.boundOld - 1 })
  let s := if e.rgnValid then rel s e.rgn.toNat e.version.toNat else s
  if e.isMove then s else rel s e.progSlot.toNat e.progVersion.toNat

/-- Take a request's entries out of every hand and its partition's move queue. -/
def State.withdraw (s : State) (i : Nat) : State :=
  let e := s.led i
  let s := (s.tilesOf e.part.val).foldl (fun s t => s.updTile t (fun x =>
    { x with hand := x.hand.filter (fun h => h.ix != i), taken := (match x.taken with
      | some h => if h.ix = i then none else some h
      | none => none) })) s
  s.updPart e.part.val (fun p => { p with moveq := p.moveq.filter (fun j => j != i) })

/-- The status that a request of partition n ends with: while the device or the partition is fault-flagged, no other than that of
the flag (R16). -/
def State.endStatus (s : State) (n : Nat) (st : Status) : Status :=
  if s.boot.fault then .deviceFaulted else if (s.part n).fault then .partitionFaulted else st

/-- A chain step whose request completes with OK enters the chain log, with the time of its completion (R327, R337). -/
def State.logChain (s : State) (i : Nat) : State :=
  let e := s.led i
  match e.cstep with
  | some c =>
    if e.crun.ended then
      { s with chainLog := s.chainLog ++ [{
          time := s.now, part := e.part, chain := c.chain, msg := c.msg.toNat, digest := e.crun.digest, member := c.member,
          item := { part := e.part, ix := i, sq := e.sq, cid := e.cid.toNat, time := s.now } }] }
    else s
  | none => s

/-- A request's completion becomes ready with a status (R16, R352); its entry waits in POSTING (R333). -/
def State.endRequest (s : State) (i : Nat) (st : Status) : State :=
  let e := s.led i
  if e.state = .free then s
  else
    let s := if e.state = .posting ∧ !e.more then s else (s.withdraw i).unbind i
    let st := s.endStatus e.part.val st
    let s := if st = .ok ∧ e.state ≠ .posting then s.logChain i else s
    s.setLed i { e with state := .posting, ready := some (st, s.now), more := false }

/-- `PART_STAT` (R524). -/
def State.partStatus (s : State) (n : Nat) : Word :=
  let p := s.part n
  let st := if !p.entry.valid then 0 else if p.restart.isSome then 3 else if p.fault || s.boot.fault then 2
    else if (s.availOf n).isEmpty || s.boot.floor = 0 || s.boot.floor = 0xFF then 4 else 1
  BitVec.ofNat 64 (st + 8 * b2n p.entry.strict + 16 * b2n p.paceRate.isSome + 32 * b2n p.conf + 64 * b2n p.key.isSome
    + 128 * b2n p.seed.isSome + 256 * (if p.entry.valid then (s.availOf n).length else 0) + 65536 * b2n (p.partStat.getLsbD 16))

/-- A STATE event to partition n where an effect changes its `PART_STAT` (R396, R524). -/
def State.partChange (s : State) (n : Nat) (f : State → State) : State :=
  let s' := f s
  if n < 64 ∧ s'.valid n ∧ s'.partStatus n ≠ s.partStatus n then
    s'.event (Fin.ofNat 65 n) { kind := 7, part := n, time := s'.now, body := [BitVec.ofNat 8 (s'.partStatus n).toNat] }
  else s'

/-- The ledger indices of partition n that are in use. -/
def State.ledgerOf (s : State) (n : Nat) : List Nat :=
  (s.ledger.filter (fun e => e.2.state != .free && e.2.part.val == n)).map (·.1)

/-- Rows and DONE of a message of partition n that still wait for members on this device go. -/
def State.dropOffers (s : State) (n : Nat) (c : ChainStep) : State :=
  let mine (t : TileId) (p : ChainPacket) : Bool := (s.tilesOf n).contains t.val && p.chain.toNat == c.chain && p.msg == c.msg
  { s with net := { s.net with offers := s.net.offers.filter (fun b => match b with
    | .rows t p => !mine t p
    | .done t p => !mine t p
    | _ => true) } }

/-- BREAK to every other member of a chain's list, as far as it can reach (R324). -/
def State.sendBreak (s : State) (n : Nat) (c : ChainStep) : State :=
  match SMap.get none (s.part n).chains c.chain with
  | none => s
  | some ch =>
    let me := fld (ch.members.getD c.member 0) 0 6
    let s := s.dropOffers n c
    ((List.range ch.members.length).filter (fun j => j != c.member)).foldl (fun (s : State) j =>
      let m := ch.members.getD j 0
      let dev := fld m 6 6
      if dev = s.deviceNum ∨ s.routeUp dev then s.toMember n me dev (.brk (Fin.ofNat 64 (fld m 0 6)) (BitVec.ofNat 6 c.chain) c.msg)
      else s) s

/-- Break the chain steps of partition n that are active (R324). -/
def State.breakChains (s : State) (n : Nat) : State :=
  (s.ledgerOf n).foldl (fun s i => match (s.led i).cstep with
    | some c => if (s.led i).crun.started && !(s.led i).crun.ended && (s.led i).state == .running then s.sendBreak n c else s
    | none => s) s

/-- Stop every tile of partition n at its next step; queued instructions are discarded (R498 step 1). -/
def State.stopTiles (s : State) (n : Nat) : State :=
  (s.tilesOf n).foldl (fun s t => ((s.updTile t (fun x => { x with
    stopped := true, run := none, queue := [], taken := none, hand := [], chainHold := none })).dropRemote t).dropRemote (64 + t)) s

/-- Start the closing pass of each stopped tile of n that has not failed (R496). -/
def State.startClosing (s : State) (n : Nat) : State :=
  (s.availOf n).foldl (fun s t => s.updTile t (fun x => { x with health := { x.health with running := some .closing, pending := false } })) s

/-- A hash job ends with a status (R477). -/
def State.endHash (s : State) (n : Nat) (st : Status) (ien : Bool) : State :=
  let s := s.updPart n (fun p => { p with hash := { p.hash with job := none, done := true, status := BitVec.ofNat 16 st.code } })
  if ien then s.msix (Fin.ofNat 65 n) 1 else s

/-- End every in-flight request, region update and hash job of n with a status (R498 step 3); an OK that waits for its CQ slot
becomes that status too (R16). -/
def State.endWork (s : State) (n : Nat) (st : Status) : State :=
  let s := s.breakChains n
  let s := s.updPart n (fun p => { p with answers := p.answers.map (fun a => if a.status = .ok then { a with status := st } else a) })
  let s := (s.ledgerOf n).foldl (fun s i => s.endRequest i st) s
  let s := s.regions.foldl (fun (s : State) e =>
    if e.2.owner.map (·.val) == some n then
      let s := match e.2.running with
        | some u => s.commandDone u.mbx u.tag st []
        | none => s
      let s := match e.2.pending with
        | some u => s.commandDone u.mbx u.tag st []
        | none => s
      s.updRegion e.1 (fun g => { g with
        running := none, pending := none, state := if g.state = .updating then (if g.version = 0 then .empty else .ready) else g.state })
    else s) s
  match (s.part n).hash.job with
  | some j => s.endHash n st j.ien
  | none => s

/-- The partition-fatal procedure of R498 for partition n under record number `seq`, to the closing passes. The FAULT event of the record falls
due (step 6, R495); a partition already fault-flagged starts no second procedure (R487). -/
def State.flagPart (s : State) (n seq : Nat) : State :=
  let s := s.updPart n (fun p => { p with faultDue := p.faultDue ++ [seq] })
  if (s.part n).fault || s.boot.fault then s
  else
    let s := s.partChange n (fun s => s.updPart n (fun p => { p with fault := true }))
    ((s.stopTiles n).endWork n .partitionFaulted).startClosing n

/-- A tile becomes unavailable and its physical tile is recorded as failed (R501, R512). -/
def State.retireTile (s : State) (t : Nat) : State :=
  let s := s.partChange ((s.tileOwner t).getD 64) (fun s =>
    s.updTile t (fun x => { x with health := { x.health with unavailable := true } }))
  let p := SMap.get 0xFF s.boot.bind t
  { s with boot := { s.boot with failedPhys := if p < 68 then s.boot.failedPhys ||| BitVec.ofNat 68 (2 ^ p) else s.boot.failedPhys } }

/-- Count a partition-fatal record of types 0x0101–0x0107 against its tile (R501). -/
def State.countFatal (s : State) (r : ErrRec) : State :=
  if r.tile < 64 ∧ 0x0101 ≤ r.type ∧ r.type ≤ 0x0107 then
    let k := (s.tile r.tile).health.fatals + 1
    let s := s.updTile r.tile (fun x => { x with health := { x.health with fatals := k } })
    if 2 ≤ k then s.retireTile r.tile else s
  else s

/-- True while no fault is partition-fatal or device-fatal (R552). -/
def State.booting (s : State) : Bool := s.boot.state == .booting || s.boot.state == .reset

/-- Raise a partition-fatal record for partition n (R486, R498, R552). -/
def State.partFatal (s : State) (n : Nat) (r : ErrRec) : State :=
  let seq := s.recSeq
  if s.booting then s.record { r with cls := 3, part := n }
  else ((s.record { r with cls := 1, part := n }).flagPart n seq).countFatal r

/-- A partition-fatal record about tile t: of its owner, or of class none where no partition owns it. -/
def State.tileFatal (s : State) (t : Nat) (r : ErrRec) : State :=
  match s.tileOwner t with
  | some n => s.partFatal n { r with tile := t, unit := unitTile t }
  | none => s.record { r with cls := 3, tile := t, unit := unitTile t }

/-- A masked record about tile t (R486). -/
def State.tileMasked (s : State) (t : Nat) (r : ErrRec) : State :=
  s.record { r with
    cls := 0, tile := t, unit := unitTile t, part := (s.tileOwner t).getD 0x7F }

/-- Change DEV_STATE and tell the operator (R396, R530). -/
def State.setDev (s : State) (d : DevState) : State :=
  if s.boot.state = d then s
  else
    let v := match d with
      | .reset => 0 | .booting => 1 | .floor0 => 2 | .ready => 3 | .faulted => 4
    let s := { s with boot := { s.boot with state := d } }
    (s.event operatorId { kind := 7, time := s.now, body := leBytes 1 v }).msix operatorId 1

/-- Every tile stops, and each whose window is open takes a closing pass (R502, R496). -/
def State.closeAll (s : State) : State :=
  (List.range 64).foldl (fun s t => s.updTile t (fun x => { x with
    stopped := true,
    health := if x.health.windowOpen && !x.health.unavailable then { x.health with running := some .closing, pending := false } else x.health })) s

/-- The device-fatal procedure of R502 under record number `seq`, to the closing passes. The FAULT events of the record fall due (step 5,
R495). -/
def State.flagDevice (s : State) (seq : Nat) : State :=
  let s := { s with boot := { s.boot with faultDue := s.boot.faultDue ++ [seq] } }
  if s.boot.fault then s
  else
    let s0 := s
    let s := { s with boot := { s.boot with fault := true } }
    let s := parts64.foldl (fun (s : State) n =>
      if s.valid n && s0.partStatus n != s.partStatus n then
        s.event (Fin.ofNat 65 n) { kind := 7, part := n, time := s.now, body := [BitVec.ofNat 8 (s.partStatus n).toNat] }
      else s) s
    let s := parts64.foldl (fun s n => if s.valid n then (s.stopTiles n).endWork n .deviceFaulted else s) s
    (s.setDev .faulted).closeAll

/-- Raise a device-fatal record (R486, R502, R552). -/
def State.devFatal (s : State) (r : ErrRec) : State :=
  let seq := s.recSeq
  if s.booting then s.record { r with cls := 3, part := 0x40 }
  else (s.record { r with cls := 2, part := 0x40 }).flagDevice seq

/-! Chain recalls (R328). -/

/-- The devices other than this one that hold a member of a chain. -/
def State.chainDevs (s : State) (n chain : Nat) : List Nat :=
  match SMap.get none (s.part n).chains chain with
  | none => []
  | some ch => ((ch.members.map (fun m => fld m 6 6)).filter (fun d => d != s.deviceNum)).eraseDups

/-- Send the chain recalls that are not on their way, as firmware packets (R307, R328); one without a route stays for
CHAIN_RECALL_RESEND. -/
def State.sendRecalls (s : State) : State :=
  let todo := s.net.recalls.filter (fun r => !r.going)
  todo.foldl (fun (s : State) r =>
    match s.netPut { tag := 0x40, src := s.deviceNum, unit := 136, dst := r.dev, id := r.id, body := .chainRecall r.what } none with
    | none => s
    | some s => { s with net := { s.net with recalls := s.net.recalls.map (fun x => if x.id = r.id then { x with going := true } else x) } })
    { s with net := { s.net with resent := s.now } }

/-- The answer to a chain recall: delivered, or found no room and to be sent again (R328). -/
def State.recallAnswered (s : State) (id : Nat) (delivered : Bool) : State :=
  let todo (r : RecallSend) : RecallSend := if r.id = id then { r with going := false } else r
  let rs := s.net.recalls
  { s with net := { s.net with recalls := if delivered then rs.filter (fun r => r.id != id) else rs.map todo } }

/-- The chain recalls of a notice: one for every other device of the chains that its items name (R328). -/
def State.recallChains (s : State) (n : Nat) (x : Notice) : State :=
  let steps := x.items.filterMap (fun j => j.chain)
  let devs := (steps.map (fun c => s.chainDevs n c.1)).flatten.eraseDups
  let mk (d : Nat) : ChainRecall := {
    part := Fin.ofNat 64 n, tile := BitVec.ofNat 8 x.tile, fromDev := BitVec.ofNat 6 s.deviceNum, winStart := BitVec.ofNat 64 x.winStart,
    winEnd := BitVec.ofNat 64 x.winEnd, late := false,
    steps := (steps.filter (fun c => (s.chainDevs n c.1).contains d)).map (fun c => (BitVec.ofNat 6 c.1, BitVec.ofNat 32 c.2.1, c.2.2)) }
  { s with net := { s.net with
      nextId := s.net.nextId + devs.length,
      recalls := s.net.recalls ++ devs.mapIdx (fun i d => ({ dev := d, what := mk d, id := s.net.nextId + i } : RecallSend)) } }.sendRecalls

/-- The items of tile t's journal that partition n's notice lists (R29). -/
def State.noticeItems (s : State) (t n : Nat) : List JournalItem :=
  ((s.tile t).health.journal.filter (fun j => j.part.val == n)).foldl joinItem []

/-- Recall notices from the failed tile's journal: one for its partition and one for every other partition that it served in the
window, each with its own requests in order of completion (R28, R29, R497), with the chain recalls that they give rise to (R328). -/
def State.makeNotice (s : State) (t : Nat) : State :=
  let h := (s.tile t).health
  let ns := ((s.tileOwner t).toList ++ h.journal.map (fun j => j.part.val)).eraseDups
  ns.foldl (fun (s : State) n =>
    let x : Notice := {
      num := (s.part n).nextNotice, tile := t, fromDev := s.deviceNum, items := s.noticeItems t n,
      winStart := h.windowStart, winEnd := s.now }
    (s.updPart n (fun p => { p with nextNotice := p.nextNotice + 1, notices := p.notices ++ [x] })).recallChains n x) s

/-- A failed health pass or a tile handled as one (R28, R510): the notice is kept, the tile is retired, the partition is
fault-flagged. -/
def State.failTile (s : State) (t type : Nat) : State :=
  let num := match s.tileOwner t with
    | some n => (s.part n).nextNotice
    | none => 0
  let items := (s.noticeItems t ((s.tileOwner t).getD 64)).length
  let s := s.makeNotice t
  let s := s.retireTile t
  let s := s.updTile t (fun x => { x with stopped := true, health := { x.health with running := none, windowOpen := false, journal := [] } })
  s.tileFatal t { mkRec type 1 with detail := num, items := items }

end Sys2Proof.Machine
end

