-- ==== Sys2Proof/Machine/Hbm.lean ====
section
/-!
DEFINITION. HBM lines (10_hbm.md): the die-survival code (R263–R270), placement on the dies (R265), the memory cipher
(R279–R282), lost dies and failed controllers (R285–R288).
-/

namespace Sys2Proof.Machine

/-- The parts of a physical address (R64): device, space, offset. -/
def paDev (pa : Nat) : Nat := pa / 2 ^ 46
def paSpace (pa : Nat) : Nat := pa / 2 ^ 44 % 4
def paOff (pa : Nat) : Nat := pa % 2 ^ 44

/-- The HBM offset of line `l` of controller `k` (R64, R65). -/
def hbmOff (k l : Nat) : Nat := l * 1024 + k * 128

/-- The controller and line of an HBM offset (R64, R65). -/
def hbmAt (off : Nat) : Nat × Nat := (off / 128 % 8, off / 1024)

/-- The die that holds chunk j of line l (R265). -/
def chunkDie (l j : Nat) : Nat := (3 * (l % 4) + j) % 12

/-- The die chunk address of chunk j of line l (R265). -/
def chunkAddr (l j : Nat) : Nat := 3 * (l / 4) + j / 3

/-- The partition whose page-table area holds an offset: it owns the area's lines (R228, R269). -/
def State.fwOwner (s : State) (off : Nat) : Option Nat :=
  parts64.find? (fun n => match (s.part n).ptArea with
    | some a => (s.part n).entry.valid && decide (a ≤ off) && decide (off < a + 67108864)
    | none => false)

/-- A line that firmware uses: one of a page-table area, or one outside every extent that has been written, which only firmware may
do (R61, R228, R280). -/
def State.fwLine (s : State) (off : Nat) : Bool :=
  let (k, l) := hbmAt off
  s.hbmOwner off == none && ((s.fwOwner off).isSome || SMap.get 0 (s.hbmc k).lineKey l != 0)

/-- A key pair as one more than its 64 bytes as a number; 0 for none. -/
def keyNum (k : Option (List Byte)) : Nat :=
  match k with
  | some k => 1 + leNat k
  | none => 0

/-- The key pair of a number. -/
def keyOf (g : Nat) : Option (List Byte) := if g = 0 then none else some (leBytes 64 (g - 1))

/-- True when every access to the offset is refused for want of a key (R281). -/
def State.noKey (s : State) (off : Nat) : Bool :=
  match s.hbmOwner off with
  | some n => (s.part n).entry.cipher && (s.part n).key.isNone
  | none => false

/-- The key that a line at an offset is under, by where it lies (R280): the partition's under its cipher policy, slot 64's for a line that
firmware uses, none for a line in clear. -/
def State.genOf (s : State) (off : Nat) (fw : Bool) : Nat :=
  match s.hbmOwner off with
  | some n => if (s.part n).entry.cipher then (s.part n).keyGen else 0
  | none => if fw then keyNum s.eng.slot64 else 0

/-- The key that a line was zeroed under and not written since (R289, R454): a page-table area's lines are zeroed under slot 64. -/
def State.baseGen (s : State) (off : Nat) : Nat :=
  match s.hbmOwner off with
  | some n => (match (s.part n).zeroed.find? (fun z => decide (z.1 ≤ off) && decide (off < z.2.1)) with
    | some z => z.2.2
    | none => 0)
  | none => s.genOf off (s.fwOwner off).isSome

/-- The key that line l of controller k was last written under. -/
def State.lineGen (s : State) (k l : Nat) : Nat :=
  match SMap.get 0 (s.hbmc k).lineKey l with
  | 0 => s.baseGen (hbmOff k l)
  | g + 1 => g

/-- Encipher a line (R279). -/
def encipher (keys : Option (List Byte)) (off : Nat) (line : List Byte) : List Byte :=
  match keys with
  | some ks => xtsEncrypt ks (off / 128) line
  | none => line

/-- Decipher a line (R279). -/
def decipher (keys : Option (List Byte)) (off : Nat) (line : List Byte) : List Byte :=
  match keys with
  | some ks => xtsDecrypt ks (off / 128) line
  | none => line

/-- The XOR of byte strings of one length. -/
def xorAll (cs : List (List Byte)) : List Byte := cs.foldl xorB (zeros 16)

/-- The nine chunks of an enciphered line with their CRCs (R263, R264). -/
def encodeLine (l : Nat) (ct : List Byte) : List (BitVec 128 × BitVec 16) :=
  let data := (List.range 8).map (fun j => slice ct (16 * j) 16)
  let all := data ++ [xorAll data]
  (List.range 9).map (fun j => let c := all.getD j []
    (bytesBv 128 c, BitVec.ofNat 16 (chunkCrc j l c)))

/-- The chunk of line l that lies on controller k's lost die, if any (R286). -/
def State.lostChunk (s : State) (k l : Nat) : Option Nat :=
  let c := s.hbmc k
  if c.state = 1 then (List.range 9).find? (fun j => chunkDie l j == c.lostDie.toNat) else none

/-- The stored chunks of a line: what was written last, under the key of that time, but on a lost die what it held before (R286). -/
def State.chunks (s : State) (k l : Nat) : List (BitVec 128 × BitVec 16) :=
  let c := s.hbmc k
  let cs := match SMap.get none c.raw l with
    | some r => r.chunks
    | none => encodeLine l (encipher (keyOf (s.lineGen k l)) (hbmOff k l) (SMap.getMany 0 s.mem (hbmOff k l) 128))
  match s.lostChunk k l, SMap.get none c.lostOld l with
  | some j, some old => cs.set j old
  | _, _ => cs

/-- A write of a line is at hand: note what the lost die holds of it, which the write leaves as it is (R286). -/
def State.noteLost (s : State) (k l : Nat) : State :=
  match s.lostChunk k l, SMap.get none (s.hbmc k).lostOld l with
  | some j, none =>
    let old := (s.chunks k l).getD j (0, 0)
    s.updHbm k (fun c => { c with lostOld := SMap.put none c.lostOld l (some old) })
  | _, _ => s

/-- How a read of a line came out (R267, R286). -/
inductive Decode where
  | clean (ct : List Byte)
  | corrected (ct : List Byte) (j : Nat)
  | uncorrectable (failing : Nat)
  | poison
  deriving DecidableEq, Repr

/-- Decode nine chunks of which `upset` marks those that arrive corrupted; `lost` is the chunk on a lost die (R267, R286). -/
def decodeLine (l : Nat) (cs : List (BitVec 128 × BitVec 16)) (upset : BitVec 9) (lost : Option Nat) : Decode :=
  let js := List.range 9
  let want (c : BitVec 128) (j : Nat) : Nat := chunkCrc j l (bvBytes c)
  let good (j : Nat) : Bool := let c := cs.getD j (0, 0)
    !upset.getLsbD j && c.2.toNat == want c.1 j
  let failing := js.filter (fun j => !good j && lost != some j)
  let bytes (j : Nat) : List Byte := bvBytes (cs.getD j (0, 0)).1
  let others (x : Nat) : List Byte := xorAll ((js.filter (fun j => j != x)).map bytes)
  let line (x : Nat) (r : List Byte) : List Byte :=
    ((List.range 8).map (fun j => if j = x then r else bytes j)).flatten
  let mask := failing.foldl (fun a j => a + 2 ^ j) 0
  if js.all (fun j => let c := cs.getD j (0, 0)
      lost == some j || (!upset.getLsbD j && c.2.toNat == (want c.1 j ^^^ 0x5A5A))) then .poison
  else match lost, failing with
    | some x, [] => .clean (line x (others x))
    | some _, _ => .uncorrectable mask
    | none, [] => if allZero (xorAll (js.map bytes)) then .clean (line 9 []) else .uncorrectable 0
    | none, [x] =>
      let r := others x
      let c := (cs.getD x (0, 0)).2.toNat
      if chunkCrc x l r == c then .corrected (line x r) x
      else .uncorrectable mask
    | none, _ => .uncorrectable mask

/-- The HBM detail of a record (R291). -/
def hbmDetail (k die chunks l count : Nat) (scrub lostGroup : Bool) (owner : Nat) : Nat :=
  k + die * 2 ^ 3 + chunks * 2 ^ 7 + b2n scrub * 2 ^ 16 + b2n lostGroup * 2 ^ 17 + owner * 2 ^ 24 + l * 2 ^ 32 + count * 2 ^ 64

/-- A record about a line: its owner, or 0x40 for a firmware line, or 0x7F where scrub finds a line that nothing uses (R269, R291). -/
def State.lineRec (s : State) (type cls k l chunks die : Nat) (scrub split : Bool) : ErrRec :=
  let off := hbmOff k l
  let owner := (s.hbmOwner off).getD ((s.fwOwner off).getD (if scrub && !s.fwLine off then 0x7F else 0x40))
  { mkRec type cls with
    unit := unitHbm k, scrub := scrub, split := split, part := owner,
    addr := s.deviceNum * 2 ^ 46 + off,
    detail := hbmDetail k die chunks l 0 scrub (s.lostChunk k l).isSome owner }

/-- Raise a record about an undecodable line under R269. -/
def State.lineFatal (s : State) (r : ErrRec) : State :=
  if r.part < 64 then s.partFatal r.part r else if r.part = 0x40 then s.devFatal r else s.record { r with cls := 3 }

/-- Write a whole line at its array (R266, R280, R282): the plaintext is kept, any raw form ends, and the key is noted. -/
def State.lineStore (s : State) (k l : Nat) (bytes : List Byte) : State :=
  let off := hbmOff k l
  let g := s.genOf off true
  let s := s.noteLost k l
  { s.updHbm k (fun c => { c with raw := SMap.put none c.raw l none, lineKey := SMap.put 0 c.lineKey l (g + 1) }) with
    mem := SMap.putMany 0 s.mem off (padTo 128 bytes) }

/-- Write a line in poisoned form (R268). -/
def State.poisonLine (s : State) (k l : Nat) : State :=
  let cs := (s.chunks k l).mapIdx (fun j x => (x.1, BitVec.ofNat 16 (chunkCrc j l (bvBytes x.1) ^^^ 0x5A5A)))
  (s.noteLost k l).updHbm k (fun c => { c with raw := SMap.put none c.raw l (some { chunks := cs }) })

/-- Count a corrected chunk of line l against its die, once for each chunk address; the die enters WATCH (R285, R290). -/
def State.countCorrected (s : State) (k l j : Nat) : State :=
  let die := chunkDie l j
  let a := chunkAddr l j
  s.updHbm k (fun c =>
    let seen := c.errs.any (fun e => e.1 == die && e.2.1 == a)
    { c with
      corrected := if seen then c.corrected else SMap.upd 0 c.corrected die (fun x => BitVec.ofNat 32 (satAdd 24 x.toNat 1)),
      errs := c.errs.filter (fun e => !(e.1 == die && e.2.1 == a)) ++ [(die, a, s.now)],
      dieState := SMap.upd 0 c.dieState die (fun x => if x = 0 then 1 else x) })

/-- Free bytes: the contents of a line written under another key (R282, log entry 4). -/
def State.freeBytes : Nat → State → List Byte × State
  | 0, s => ([], s)
  | n + 1, s =>
    let (w, s) := s.draw
    let (bs, s) := State.freeBytes n s
    (bvBytes w ++ bs, s)

/-- True when a line's stored bits come from another key than the one in force (R282), unless every data chunk was since written raw. -/
def State.stale (s : State) (k l : Nat) : Bool :=
  s.lineGen k l != s.genOf (hbmOff k l) (s.fwLine (hbmOff k l)) && !(match SMap.get none (s.hbmc k).raw l with
    | some r => (List.range 8).all (fun j => r.split.contains j)
    | none => false)

/-- Write chunk j of a line anew as the XOR of the other eight where that passes the chunk's CRC (R267): nothing where the line has been
written whole since, or decodes no more. -/
def State.repairChunk (s : State) (k l j : Nat) : State :=
  match SMap.get none (s.hbmc k).raw l, s.lostChunk k l with
  | some r, none =>
    let x := xorAll (((List.range 9).filter (fun i => i != j)).map (fun i => bvBytes (r.chunks.getD i (0, 0)).1))
    let c := (r.chunks.getD j (0, 0)).2
    if chunkCrc j l x == c.toNat then
      s.updHbm k (fun h => { h with raw := SMap.put none h.raw l (some { chunks := r.chunks.set j (bytesBv 128 x, c), split := r.split.erase j }) })
    else s
  | _, _ => s

/-- Decode a line at its array (R267), with the chunk that counts as lost: its plaintext where it can be delivered. A corrected chunk's
repair write is queued for a device slot, and scrub repairs at once (R284); an uncorrectable line is poisoned, and the records are raised. -/
def State.lineLoad (s : State) (k l : Nat) (upset : BitVec 9) (lost : Option Nat) (scrub : Bool) : Option (List Byte) × State :=
  let off := hbmOff k l
  let raw := SMap.get none (s.hbmc k).raw l
  let split := match raw with
    | some r => !r.split.isEmpty
    | none => false
  let plain (ct : List Byte) (s : State) : Option (List Byte) × State :=
    if s.stale k l then (let (bs, s) := State.freeBytes 16 s
      (some bs, s)) else (some (decipher (keyOf (s.genOf off (s.fwLine off))) off ct), s)
  if raw = none ∧ upset = 0 then
    (if s.stale k l then plain [] s else (some (SMap.getMany 0 s.mem off 128), s))
  else
    match decodeLine l (s.chunks k l) upset lost with
    | .clean ct => plain ct s
    | .corrected ct j =>
      let s := (s.record (s.lineRec 0x0301 0 k l (2 ^ j) (chunkDie l j) scrub split)).countCorrected k l j
      plain ct (if scrub then s.repairChunk k l j
        else s.updHbm k (fun c => { c with waiting := c.waiting ++ [{ tag := 0x40, off := off, kind := .repair j }] }))
    | .uncorrectable f =>
      let s := s.lineFatal (s.lineRec 0x0302 0 k l f 0xF scrub split)
      (none, s.poisonLine k l)
    | .poison =>
      if scrub then (none, s) else (none, s.lineFatal (s.lineRec 0x0303 0 k l 0x1FF 0xF scrub split))

/-- The new value of an atomic (R88, R100). -/
def atomicNew (fn : Nat) (old operand expected : Word) : Word :=
  match fn with
  | 0 => old
  | 1 => operand
  | 2 => operand
  | 3 => old + operand
  | 4 => old &&& operand
  | 5 => old ||| operand
  | 6 => if old.slt operand then operand else old
  | 7 => if operand.slt old then operand else old
  | _ => if old = expected then operand else old

/-- Perform an access within one line at its array (R266): its data; none where the line cannot be decoded, and then a partial write is not
performed (R268). -/
def State.lineOp (s : State) (k l at_ : Nat) (op : MemOp) (upset : BitVec 9) (lost : Option Nat) : Option (List Byte) × State :=
  match op with
  | .read n => (match s.lineLoad k l upset lost false with
    | (some old, s) => (some (slice old at_ n), s)
    | (none, s) => (none, s))
  | .write bs =>
    if at_ = 0 ∧ bs.length = 128 then (some [], s.lineStore k l bs)
    else (match s.lineLoad k l upset lost false with
      | (some old, s) => (some [], s.lineStore k l (old.take at_ ++ bs ++ old.drop (at_ + bs.length)))
      | (none, s) => (none, s))
  | .atomic fn x e => (match s.lineLoad k l upset lost false with
    | (some old, s) =>
      let v := slice old at_ 8
      (some v, s.lineStore k l (old.take at_ ++ bvBytes (atomicNew fn.toNat (bytesBv 64 v) x e) ++ old.drop (at_ + 8)))
    | (none, s) => (none, s))

/-- An access refused for want of a key (R281, R291). -/
def State.keyRefusal (s : State) (off : Nat) : State :=
  let (k, l) := hbmAt off
  s.record (s.lineRec 0x0307 3 k l 0 0xF false false)

/-- A committed access of controller k takes effect (R276, R285). -/
def State.perform (s : State) (k : Nat) (r : HbmReq) (upset : BitVec 9) : Option (List Byte) × State :=
  let l := (hbmAt r.off).2
  if (s.hbmc k).state = 2 then (none, s)
  else match r.kind with
    | .repair j => (some [], s.repairChunk k l j)
    | .blank => s.lineOp k l 0 (.read 128) upset r.lost
    | .packet _ op => if s.noKey r.off then (none, s.keyRefusal r.off) else s.lineOp k l (r.off % 128) op upset r.lost

/-- The accesses to line l among the first n that controller k has committed take effect, in the order of their commitment (R276). -/
def State.orderLine (s : State) (k l n : Nat) : State :=
  (List.range n).foldl (fun (s : State) i => match (s.hbmc k).committed[i]? with
    | some r =>
      if (hbmAt r.off).2 = l ∧ r.result = none then
        let (x, s) := s.perform k r 0
        s.updHbm k (fun c => { c with committed := c.committed.set i { r with result := some x } })
      else s
    | none => s) s

/-- Read and decode a line (R267) after every access to it committed before (R276). -/
def State.readLine (s : State) (k l : Nat) (upset : BitVec 9) (scrub : Bool) : Option (List Byte) × State :=
  let s := s.orderLine k l (s.hbmc k).committed.length
  s.lineLoad k l upset (s.lostChunk k l) scrub

/-- Write a whole line after every access to it committed before (R276). -/
def State.writeLine (s : State) (k l : Nat) (bytes : List Byte) : State := (s.orderLine k l (s.hbmc k).committed.length).lineStore k l bytes

/-- Write bytes within one line after every access to it committed before; false where it is not performed (R266, R268). -/
def State.writeInLine (s : State) (k l at_ : Nat) (bytes : List Byte) : Bool × State :=
  let s := s.orderLine k l (s.hbmc k).committed.length
  let (r, s) := s.lineOp k l at_ (.write bytes) 0 (s.lostChunk k l)
  (r.isSome, s)

/-! Patrol scrub. -/

/-- A scrub pass whose lines are all read ends when its period is over, and the next one starts with the period that stands then (R283). -/
def Hbm.roll (now : Nat) (c : Hbm) : Hbm :=
  match c.scrub with
  | some (start, hours) =>
    let fin := start + hours * 3600000000000
    if c.nextLine = 250000000 ∧ fin ≤ now then { c with nextLine := 0, passes := c.passes + 1, scrub := some (fin, c.periodH) } else c
  | none => c

/-! Failed controllers. -/

/-- The partitions with an HBM extent. -/
def State.hbmParts (s : State) : List Nat :=
  parts64.filter (fun n => s.valid n && (s.part n).entry.ext.any (fun e => e.2 != 0))

/-- True when partition n has an HBM extent while a controller is FAILED (R515). -/
def State.hbmOut (s : State) (n : Nat) : Bool :=
  (s.part n).entry.ext.any (fun e => e.2 != 0) && (List.range 8).any (fun k => (s.hbmc k).state == 2)

/-- A record of one fault that is partition-fatal to several partitions at once (R495, R552). -/
def State.fatalTo (s : State) (ns : List Nat) (r : ErrRec) : State :=
  let seq := s.recSeq
  if s.booting then s.record { r with cls := 3, part := 0x40 }
  else
    let fresh := ns.filter (fun n => !(s.part n).fault)
    fresh.foldl (fun s n => s.flagPart n seq) (s.record { r with cls := 1, part := 0x40, also := fresh, follow := fresh.isEmpty && !ns.isEmpty })

/-- Controller k issues no further accesses (R287): partition-fatal to every partition with HBM, under a record. -/
def State.loseController (s : State) (k : Nat) (r : ErrRec) : State :=
  (s.updHbm k (fun c => { c with state := 2 })).fatalTo s.hbmParts r

/-- A controller enters FAILED (R287, R291): HBM_CONTROLLER_FAILED, after HBM_THERMAL where that stopped it (R278). -/
def State.failController (s : State) (k : Nat) (cause : Option ErrRec) : State :=
  let ns := s.hbmParts
  let r : ErrRec := { mkRec 0x0305 1 with unit := unitHbm k, detail := hbmDetail k 0xF 0 0 0 false false 0x7F }
  match cause with
  | none => s.loseController k r
  | some x => (s.loseController k x).fatalTo ns r

end Sys2Proof.Machine
end

