-- ==== Sys2Proof/Machine/Translate.lean ====
section
/-!
DEFINITION. Translation (R225–R229, R242, R243), the bindings of work to roots (R235, R236), doorbells (R330, R331), hash
job registers (R475, R476) and the partition's status register (R524).
-/

namespace Sys2Proof.Machine

/-- The permission an access needs, as a test of a leaf (R227, R229). -/
def permits (k : AccessKind) (e : Word) : Bool :=
  match k with
  | .fetch => e.getLsbD 4
  | .load => e.getLsbD 2
  | .store => e.getLsbD 3
  | .atomic => e.getLsbD 2 && e.getLsbD 3

/-! Page tables (R226–R228): three levels of 8,192 entries in HBM, each table a 64 KiB-aligned block of its partition's area. -/

/-- The physical address that an entry points to (R227). -/
def entryPa (e : Word) : Nat := fld e 16 36 * 2 ^ 16

/-- Read a table entry from HBM (R228, R239); none where its line cannot be delivered. -/
def State.readEntry (s : State) (pa : Nat) : Option Word × State :=
  let (k, l) := hbmAt (paOff pa)
  if (s.hbmc k).state = 2 then (none, s)
  else match s.readLine k l 0 false with
    | (some bs, s) => (some (bytesBv 64 (slice bs (paOff pa % 128) 8)), s)
    | (none, s) => (none, s)

/-- Walk the tables of a root for an address (R226, R229, R239): its leaf, and whether its page is 512 MiB. None where the address is beyond
the virtual space (R225), where an entry on the way is not VALID, or where a table's line cannot be delivered (log entry 7). -/
def State.walk (s : State) (root : Word) (va : Nat) : Option (Word × Bool) × State :=
  if 2 ^ 55 ≤ va || !root.getLsbD 0 then (none, s)
  else match s.readEntry (entryPa root + 8 * (va / 2 ^ 42)) with
    | (none, s) => (none, s)
    | (some e0, s) =>
      if !e0.getLsbD 0 then (none, s)
      else match s.readEntry (entryPa e0 + 8 * (va / 2 ^ 29 % 8192)) with
        | (none, s) => (none, s)
        | (some e1, s) =>
          if !e1.getLsbD 0 then (none, s)
          else if e1.getLsbD 1 then (some (e1, true), s)
          else match s.readEntry (entryPa e1 + 8 * (va / 2 ^ 16 % 8192)) with
            | (none, s) => (none, s)
            | (some e2, s) => (if e2.getLsbD 0 then some (e2, false) else none, s)

/-- The physical address that a leaf gives (R226, R227). -/
def leafPa (e : Word) (large : Bool) (va : Nat) : Nat :=
  if large then fld e 29 23 * 2 ^ 29 + va % 2 ^ 29 else fld e 16 36 * 2 ^ 16 + va % 2 ^ 16

/-- Join an extent to the list when it continues the last one (R242). -/
def joinExtent (acc : List Extent) (pa len : Nat) : List Extent :=
  match acc with
  | e :: t => if e.pa + e.len = pa then { e with len := e.len + len } :: t else { pa := pa, len := len } :: acc
  | [] => [{ pa := pa, len := len }]

/-- Extents of a range, latest first; the first argument bounds the pages. -/
def State.rangeExtents (root : Word) (k : AccessKind) : Nat → Nat → Nat → List Extent → State → Option (List Extent) × State
  | 0, _, _, acc, s => (some acc, s)
  | fuel + 1, va, len, acc, s =>
    if len = 0 then (some acc, s)
    else match s.walk root va with
      | (none, s) => (none, s)
      | (some (e, large), s) =>
        if permits k e then
          let page := if large then 2 ^ 29 else 2 ^ 16
          let n := min len (page - va % page)
          State.rangeExtents root k fuel (va + n) (len - n) (joinExtent acc (leafPa e large va) n) s
        else (none, s)

/-- The maximal physically contiguous runs of a range; none where it is unmapped in whole or in part (R242). -/
def State.range (s : State) (root : Word) (k : AccessKind) (va len : Nat) : Option (List Extent) × State :=
  if 2 ^ 55 < va + len then (none, s)
  else match State.rangeExtents root k (len / 2 ^ 16 + 2) va len [] s with
    | (some es, s) => (some es.reverse, s)
    | (none, s) => (none, s)

/-- The distinct values of a rising list. -/
def distinct : List Nat → List Nat
  | a :: b :: t => if a = b then distinct (b :: t) else a :: distinct (b :: t)
  | l => l

/-- The entries of a table that are not zero, by index, as firmware last wrote them. -/
def State.tableAt (s : State) (pa : Nat) : SMap Word :=
  let o := paOff pa
  (distinct ((s.mem.filter (fun c => decide (o ≤ c.1) && decide (c.1 < o + 65536))).map (fun c => (c.1 - o) / 8))).map
    (fun i => (i, bytesBv 64 (SMap.getMany 0 s.mem (o + 8 * i) 8)))

/-- The VALID entries of the table that an entry points to; none below an entry that is not VALID. -/
def State.below (s : State) (e : Word) : List (Nat × Word) := if e.getLsbD 0 then (s.tableAt (entryPa e)).filter (fun x => x.2.getLsbD 0) else []

/-- Every page that a root maps: its virtual address, its leaf, and whether it is 512 MiB. -/
def State.leaves (s : State) (root : Word) : List (Nat × Word × Bool) :=
  ((s.below root).map (fun x => ((s.below x.2).map (fun y =>
    if y.2.getLsbD 1 then [(x.1 * 2 ^ 42 + y.1 * 2 ^ 29, y.2, true)]
    else (s.below y.2).map (fun z => (x.1 * 2 ^ 42 + y.1 * 2 ^ 29 + z.1 * 2 ^ 16, z.2, false)))).flatten)).flatten

/-- The bytes of a page. -/
def pageLen (large : Bool) : Nat := if large then 2 ^ 29 else 2 ^ 16

/-- The tables of a root, by physical address. -/
def State.tablesOf (s : State) (root : Word) : List Nat :=
  if root.getLsbD 0 then
    entryPa root :: ((s.below root).map (fun x => entryPa x.2 :: ((s.below x.2).filter (fun y => !y.2.getLsbD 1)).map (fun y => entryPa y.2))).flatten
  else []

/-- The root with an identifier: the current one, or the draining one (R235). -/
def State.rootOf (s : State) (n id : Nat) : Word :=
  let p := s.part n
  match p.old with
  | some (i, r) => if i = id then r else p.root
  | none => p.root

/-- True while something is bound to root `id` of partition n (R236). -/
def State.rootInUse (s : State) (n id : Nat) : Bool :=
  (s.ledgerOf n).any (fun i => (s.led i).root == some id && ((s.led i).state != .posting || (s.led i).more))
  || (match (s.part n).hash.job with
      | some j => j.rootId == id
      | none => false)
  || s.regions.any (fun e => e.2.owner.map (·.val) == some n && (match e.2.running with
      | some u => u.rootId == id
      | none => false))

/-- True when partition n's hash context holds a job or a region update (R475). -/
def State.hashBusy (s : State) (n : Nat) : Bool :=
  (s.part n).hash.job.isSome || s.regions.any (fun e => e.2.owner.map (·.val) == some n && e.2.running.isSome)

/-- `HASH_STAT` (R475). -/
def State.hashStat (s : State) (n : Nat) : Word :=
  let h := (s.part n).hash
  BitVec.ofNat 64 (b2n (s.hashBusy n) + 2 * b2n h.done + 4 * b2n h.refused + h.status.toNat * 2 ^ 16 + h.rstatus.toNat * 2 ^ 32)

/-- A refused GO (R476). -/
def State.hashRefuse (s : State) (n : Nat) (st : Status) : State :=
  s.updPart n (fun p => { p with hash := { p.hash with refused := true, rstatus := BitVec.ofNat 16 st.code } })

/-- A write of `HASH_CTL` with GO set (R476): capture, check, translate, and start or refuse. -/
def State.hashGo (s : State) (n : Nat) (ctl : Word) : State :=
  let p := s.part n
  let h := p.hash
  let alg := fld ctl 0 2
  let klen := fld ctl 8 8
  let s := s.updPart n (fun p => { p with hash := { p.hash with ctl := ctl &&& 0x1FF03 } })
  if s.hashBusy n then s.hashRefuse n .hashBusy
  else if (2 ≤ alg ∧ klen = 0) ∨ ctl &&& 0xFFFFFFFF7FFE00FC ≠ 0 ∨ h.dst.toNat % 64 ≠ 0 ∨ 2 ^ 38 < h.len.toNat ∨ (2 ≤ alg ∧ 128 < klen) then
    s.hashRefuse n .badLength
  else
    let (src, s) := s.range p.root .load h.src.toNat h.len.toNat
    let (key, s) := if 2 ≤ alg then s.range p.root .load h.key.toNat klen else (some [], s)
    let (dst, s) := s.range p.root .store h.dst.toNat 64
    match src, key, dst with
    | some src, some ks, some dst =>
      if 4096 < src.length + ks.length + dst.length then s.hashRefuse n .badLength
      else
        let job : HashJob := { alg := alg, src := src, len := h.len.toNat, key := ks, keyLen := klen, dst := dst, ien := ctl.getLsbD 16, rootId := p.rootId }
        s.updPart n (fun p => { p with hash := { p.hash with job := some job } })
    | _, _, _ => s.hashRefuse n .unmapped

/-- A doorbell write that names no entry (R331). -/
def State.badDoorbell (s : State) (n : Nat) : State := s.record { mkRec 0x0409 3 with part := n, unit := unitBank 0 }

/-- A write to `SQ_TAIL_q` (R331). -/
def State.sqTail (s : State) (n q : Nat) (v : Word) : State :=
  match SMap.get none (s.part n).sqs q with
  | none => s.badDoorbell n
  | some sq =>
    if fld v 0 16 < sq.size then s.updPart n (fun p => { p with sqs := SMap.put none p.sqs q (some { sq with tail := fld v 0 16 }) })
    else s.badDoorbell n

/-- A write to `CQ_HEAD_q` (R330, R333). -/
def State.cqHead (s : State) (n q : Nat) (v : Word) : State :=
  match SMap.get none (s.part n).cqs q with
  | none => s.badDoorbell n
  | some cq =>
    if fld v 0 16 < cq.size then s.updPart n (fun p => { p with cqs := SMap.put none p.cqs q (some { cq with head := fld v 0 16 }) })
    else s.badDoorbell n

/-- `PART_CTL` (R524). -/
def Part.ctl (p : Part) : Word := BitVec.ofNat 64 (p.winBase.toNat % 2 ^ 19 + 2 ^ 19 * b2n p.winEn)

end Sys2Proof.Machine
end

