-- ==== Sys2Proof/Machine/Access.lean ====
section
/-!
DEFINITION. Accesses at their targets: the address checks (R64–R67), the tag check (R61–R63), the Local Store's words
(R217, R218, R221), HBM lines, the register units (R68, R104, R290, R467, R505, R523), and atomics (R100).
-/

namespace Sys2Proof.Machine

/-- How an access ended: with data, refused under R62, or on its way to another device (R67). -/
inductive AccRes where
  | ok (data : List Byte)
  | refused
  | remote
  deriving DecidableEq, Repr

/-- The key of a Local Store byte in memory (R64). -/
def lsKey (t off : Nat) : Nat := 2 ^ 44 + t * 2 ^ 24 + off

/-- The bytes an access covers. -/
def opLen : MemOp → Nat
  | .read n => n
  | .write bs => bs.length
  | .atomic _ _ _ => 8

/-- True for an access that changes memory. -/
def opWrites : MemOp → Bool
  | .read _ => false
  | _ => true

/-! Local Store (R217, R218). -/

/-- The 64-bit word of a Local Store. -/
def State.lsWord (s : State) (t w : Nat) : Word := BitVec.ofNat 64 (leNat (SMap.getMany 0 s.mem (lsKey t (8 * w)) 8))

/-- An uncorrectable record about a stored word of a tile; the second at one word makes the tile unavailable (R157, R217, R501). `key` is the
word, or 2^21 and the word for the ACM. -/
def State.eccFatal (s : State) (t key : Nat) (r : ErrRec) : State :=
  let again := key ∈ (s.tile t).health.eccWords
  let s := s.tileFatal t r
  let s := s.updTile t (fun x => { x with health := { x.health with eccWords := key :: x.health.eccWords } })
  if again then s.retireTile t else s

/-- The record of a stored word's syndrome: `DETAIL` holds the syndrome and the check bits read (R492), `SPLIT` that a check-split window last
wrote the word (R507). -/
def eccRec (type addr : Nat) (c : BitVec 8 × Bool) (syn : BitVec 8) (scrub : Bool) : ErrRec :=
  { mkRec type 0 with addr := addr, scrub := scrub, split := c.2, detail := syn.toNat + 256 * c.1.toNat }

/-- Check a word of a valid block before a read: a single wrong bit is corrected, written back and logged, two are reported (R217). -/
def State.lsCheck (s : State) (t w : Nat) (scrub : Bool) : State :=
  match SMap.get none (s.tile t).lsChk w with
  | none => s
  | some c =>
    if !SMap.get false (s.tile t).lsValid (w / 8) then s
    else
      let d := s.lsWord t w
      let syn := c.1 ^^^ secdedEncode d
      let r := eccRec 0x0205 (s.deviceNum * 2 ^ 46 + lsKey t (8 * w)) c syn scrub
      match secdedFind syn with
      | .clean => s
      | .double => s.eccFatal t w r
      | f =>
        let s := { s with mem := SMap.putMany 0 s.mem (lsKey t (8 * w)) (bvBytes (secdedFix d f)) }
        (s.updTile t (fun x => { x with lsChk := SMap.put none x.lsChk w none })).tileMasked t r

/-- The words of a Local Store range whose check bits are not those of their data as last written. -/
def State.plantedIn (s : State) (t off len : Nat) : List Nat :=
  ((s.tile t).lsChk.filter (fun e => decide (off / 8 ≤ e.1) && decide (8 * e.1 < off + len))).map (·.1)

/-- Those that a write of a range covers in part, so that they are read and merged (R218). -/
def State.plantedCut (s : State) (t off len : Nat) : List Nat :=
  (s.plantedIn t off len).filter (fun w => decide (8 * w < off) || decide (off + len < 8 * w + 8))

/-- Check every such word of a range. -/
def State.lsCheckAll (s : State) (t off len : Nat) : State := (s.plantedIn t off len).foldl (fun s w => s.lsCheck t w false) s

/-- The bytes of a Local Store range: every byte of an invalid block reads zero (R218). -/
def State.lsBytes (s : State) (t off len : Nat) : List Byte :=
  (SMap.getMany 0 s.mem (lsKey t off) len).mapIdx (fun i b => if SMap.get false (s.tile t).lsValid ((off + i) / 64) then b else 0)

/-- Read Local Store bytes (R217, R218). -/
def State.lsRead (s : State) (t off len : Nat) : List Byte × State :=
  let s := s.lsCheckAll t off len
  (s.lsBytes t off len, s)

/-- The 64-byte blocks that a range of at least one byte touches. -/
def blocksOf (off len : Nat) : List Nat := (List.range ((off + len - 1) / 64 - off / 64 + 1)).map (fun i => off / 64 + i)

/-- Write Local Store bytes: an invalid block touched is written whole, with zeros in its other bytes, the blocks touched become valid, and
every word written carries correct check bits (R217, R218). -/
def State.lsWrite (s : State) (t off : Nat) (bs : List Byte) : State :=
  if bs.isEmpty then s
  else
    let s := (s.plantedCut t off bs.length).foldl (fun (s : State) w => s.lsCheck t w false) s
    let blocks := blocksOf off bs.length
    let fresh := blocks.filter (fun b => !SMap.get false (s.tile t).lsValid b)
    { s.updTile t (fun x => { x with
        lsValid := blocks.foldl (fun m b => SMap.put false m b true) x.lsValid,
        lsChk := (fresh.foldl (fun m b => SMap.clearRange m (8 * b) 8) x.lsChk).filter
          (fun e => decide (e.1 < off / 8) || decide (off + bs.length ≤ 8 * e.1)) }) with
      mem := SMap.putMany 0 (fresh.foldl (fun m b => SMap.clearRange m (lsKey t (64 * b)) 64) s.mem) (lsKey t off) bs }

/-- Clear the valid bits of a tile's whole Local Store; the stored bits stay (R219, R223, R506). -/
def State.lsClear (s : State) (t : Nat) : State := s.updTile t (fun x => { x with lsValid := [] })

/-! HBM ranges, a line at a time. -/

/-- Read HBM bytes; none where a line cannot be delivered. The first argument bounds the lines. -/
def State.hbmRead : Nat → Nat → Nat → State → Option (List Byte) × State
  | 0, _, _, s => (some [], s)
  | f + 1, off, len, s =>
    if len = 0 then (some [], s)
    else
      let n := min len (128 - off % 128)
      let (k, l) := hbmAt off
      match s.readLine k l 0 false with
      | (some bs, s) =>
        (match State.hbmRead f (off + n) (len - n) s with
         | (some r, s) => (some (slice bs (off % 128) n ++ r), s)
         | (none, s) => (none, s))
      | (none, s) => (none, s)

/-- Write HBM bytes, as far as its lines can be written. The first argument bounds the lines. -/
def State.hbmWrite : Nat → Nat → List Byte → State → Bool × State
  | 0, _, _, s => (true, s)
  | f + 1, off, bs, s =>
    if bs.isEmpty then (true, s)
    else
      let n := 128 - off % 128
      let (k, l) := hbmAt off
      match s.writeInLine k l (off % 128) (bs.take n) with
      | (true, s) => State.hbmWrite f (off + n) (bs.drop n) s
      | (false, s) => (false, s)

/-! Register units. -/

/-- `TCR_ID` of a tile (R102): logical tile, owner tag, stepping. -/
def State.tcrId (s : State) (t : Nat) : Word :=
  BitVec.ofNat 64 (t + 256 * ((s.tileOwner t).getD 0x40) + 0x00B0 * 2 ^ 16)

/-- `HBM_STAT` (R290). -/
def Hbm.stat (c : Hbm) : Word :=
  BitVec.ofNat 64 (c.state.toNat + 16 * c.lostDie.toNat + 256 * c.temp.toNat + 65536 * b2n c.thermal)

/-- `ENT_STAT` (R467). -/
def Entropy.stat (e : Entropy) : Word :=
  BitVec.ofNat 64 (e.state.toNat + 4 * e.restarts.toNat + 16 * e.last.toNat + 256 * e.episodes.toNat)

/-- `SENT_BOUND` (R54). -/
def Plant.sent (p : Plant) : Word := BitVec.ofNat 64 (p.sentBound.toNat + 256 * 5)

/-- `DL_STAT_n` (R314). -/
def Link.stat (l : Link) : Word := BitVec.ofNat 64 (l.state.toNat + 256 * l.farDev.toNat + 2 ^ 14 * l.farLink.toNat)

/-- `DL_CNT_n` (R314). -/
def Link.cnt (l : Link) : Word := BitVec.ofNat 64 (l.crcErr.toNat + 2 ^ 32 * l.replays.toNat)

/-- `MBX_BELL` (R369). -/
def Mailbox.bell (b : Mailbox) : Word := BitVec.ofNat 64 (b2n b.bellReq + 2 * b2n b.rspDone + 256 * b.evtHead.toNat)

/-- `MBX_STAT` (R370). -/
def Mailbox.stat (b : Mailbox) : Word :=
  BitVec.ofNat 64 (b2n b.rspValid + 2 * b2n b.ready + 4 * b.held.length + 256 * b.evtTail.toNat + 65536 * b.evtLost.toNat)

/-- The 8 bytes of a mailbox block at an aligned offset (R368). -/
def Mailbox.word (b : Mailbox) (off : Nat) : Word :=
  if off < 0x1000 then BitVec.ofNat 64 (leNat (SMap.getMany 0 b.req off 8))
  else if off < 0x2000 then BitVec.ofNat 64 (at' (padTo 4096 b.rsp) (off - 0x1000) 8)
  else if off < 0x2800 then BitVec.ofNat 64 (at' (padTo 128 (SMap.get [] b.evt ((off - 0x2000) / 128))) ((off - 0x2000) % 128) 8)
  else if off = 0x2800 then b.bell
  else if off = 0x2808 then b.stat
  else 0

/-- A check-split register of a tile (R505). -/
def Tile.csReg (x : Tile) (off : Nat) : Word :=
  match off with
  | 0x8000 => x.csAddr
  | 0x8008 => x.csData
  | 0x8010 => BitVec.ofNat 64 x.csCheck.toNat
  | _ => BitVec.ofNat 64 (4 * b2n x.csDone + 8 * b2n x.csValid)

/-- A check-split register of an HBM controller (R505). -/
def Hbm.csReg (c : Hbm) (off : Nat) : Word :=
  match off with
  | 0x1000 => c.csLine
  | 0x1008 => BitVec.ofNat 64 c.csChunk.toNat
  | 0x1010 => BitVec.ofNat 64 (c.csChunk.toNat / 2 ^ 64)
  | 0x1018 => BitVec.ofNat 64 c.csCrc.toNat
  | _ => BitVec.ofNat 64 (4 * b2n c.csDone)

/-- The tile control registers that a firmware read returns (R102, R114, R133, R168, R188, R224). -/
def State.tcr (s : State) (t n : Nat) : Option Word :=
  let x := s.tile t
  let u := x.tsu
  if n = 0x000 then some (s.tcrId t)
  else if n = 0x001 then some (BitVec.ofNat 64 (b2n u.tip + 2 * b2n u.trd))
  else if n = 0x002 then some (BitVec.ofNat 64 u.cause.toNat)
  else if n = 0x003 then some u.epc
  else if n = 0x004 then some u.tval
  else if n = 0x005 then some u.tvec
  else if n = 0x006 then some u.scratch0
  else if n = 0x007 then some u.scratch1
  else if n = 0x010 then some (BitVec.ofNat 64 (u.rm.toNat + 256 * u.fflags.toNat))
  else if n = 0x020 then some (BitVec.ofNat 64 x.lvu.vl)
  else if n = 0x021 then some (BitVec.ofNat 64 (x.lvu.sew.toNat + 4 * x.lvu.falt.toNat))
  else if n = 0x030 then some (BitVec.ofNat 64 u.pass.toNat)
  else if n = 0x031 then some u.retired
  else if n = 0x080 then some (BitVec.ofNat 64 (x.lvu.flags.toNat + 256 * b2n x.lvu.fft))
  else if n = 0x100 then
    let f (p : Plane) : Nat := if p.loaded then p.fmt.toNat else 0xF
    some (BitVec.ofNat 64 ((x.mxu.flags &&& 0x1D).toNat + 256 * b2n x.mxu.active + 2 ^ 12 * f x.mxu.plane0 + 2 ^ 16 * f x.mxu.plane1))
  else if n = 0x101 then some (BitVec.ofNat 64 (x.mxu.sat.toNat + 2 ^ 32 * x.mxu.flush.toNat))
  else if 0x110 ≤ n ∧ n < 0x150 then some (BitVec.ofNat 64 (SMap.get 0 x.mxu.hist (n - 0x110)).toNat)
  else if n = 0x180 then some (BitVec.ofNat 64 (8 + 512 * 2 ^ 4 + 4 * 2 ^ 16 + 128 * 2 ^ 20 + 64 * 2 ^ 32 + 16 * 2 ^ 40 + 16 * 2 ^ 48))
  else if n = 0x181 then some (BitVec.ofNat 64 (x.caches.offD.length + 256 * x.caches.offI.length))
  else none

/-- Write an RW or W1C field of a tile control register (R3, R102); read-only fields keep their values. R172 makes `tcrw` of a reserved
rounding mode illegal and says nothing of a firmware write (R104): it is stored as given and rounds as RNE (log entry 123). -/
def State.tcrPut (s : State) (t n : Nat) (v : Word) : State :=
  let upd (f : Tsu → Tsu) : State := s.updTile t (fun x => { x with tsu := f x.tsu })
  match n with
  | 0x003 => upd (fun u => { u with epc := v })
  | 0x005 => upd (fun u => { u with tvec := v &&& ~~~(0x3F : Word) })
  | 0x006 => upd (fun u => { u with scratch0 := v })
  | 0x007 => upd (fun u => { u with scratch1 := v })
  | 0x010 => upd (fun u => { u with rm := BitVec.ofNat 4 v.toNat, fflags := u.fflags &&& ~~~(BitVec.ofNat 5 (fld v 8 5)) })
  | 0x080 => s.updTile t (fun x => { x with lvu := { x.lvu with
      flags := x.lvu.flags &&& ~~~(BitVec.ofNat 5 (fld v 0 5)), fft := x.lvu.fft && !v.getLsbD 8 } })
  | 0x100 => s.updTile t (fun x => { x with mxu := { x.mxu with flags := x.mxu.flags &&& ~~~(BitVec.ofNat 5 (fld v 0 5)) } })
  | _ => s

/-- The 8 bytes of a register unit at an aligned offset (R68). A register that the spec places nowhere in its unit reads a
free value (log entry 4); none means that the unit has no register there. -/
def State.unitRead (s : State) (u off : Nat) : Option Word × State :=
  if u < 64 then
    (if off < 0x8000 then (s.tcr u (off / 8), s)
     else if off < 0x8020 then (some ((s.tile u).csReg off), s) else (none, s))
  else if 0x48 ≤ u ∧ u < 0x50 then
    let c := s.hbmc (u - 0x48)
    (if off = 0 then (some c.stat, s)
     else if 0x100 ≤ off ∧ off < 0x160 then
       let d := (off - 0x100) / 8
       (some (BitVec.ofNat 64 ((SMap.get 0 c.dieState d).toNat + 256 * (SMap.get 0 c.corrected d).toNat)), s)
     else if off = 0x200 then (some (BitVec.ofNat 64 c.periodH), s)
     else if off = 0x208 then
       let c := c.roll s.now
       (some (BitVec.ofNat 64 (c.nextLine % 250000000 + 2 ^ 32 * c.passes.toNat)), s)
     else if 0x1000 ≤ off ∧ off < 0x1028 then (some (c.csReg off), s)
     else (none, s))
  else if u = 0x51 ∧ off = 0 then (some s.eng.entropy.stat, s)
  else if u = 0x53 ∧ off < 256 then
    (some (if off % 16 = 0 then (s.link (off / 16)).stat else (s.link (off / 16)).cnt), s)
  else if 0xC0 ≤ u ∧ u < 0x100 then
    let n := u - 0xC0
    (if off < 0x3000 then (some ((s.box n).word off), s)
     else if off = 0x3000 then (some (s.part n).ctl, s)
     else if off = 0x3008 then (some (s.partStatus n), s)
     else if 0x10000 ≤ off ∧ off < 0x10080 then
       (some (match SMap.get none (s.part n).sqs ((off - 0x10000) / 8) with
         | some q => BitVec.ofNat 64 q.tail
         | none => 0), s)
     else if 0x10080 ≤ off ∧ off < 0x10100 then
       (some (match SMap.get none (s.part n).cqs ((off - 0x10080) / 8) with
         | some q => BitVec.ofNat 64 q.head
         | none => 0), s)
     else if off = 0x20000 then (some (s.part n).hash.src, s)
     else if off = 0x20008 then (some (s.part n).hash.len, s)
     else if off = 0x20010 then (some (s.part n).hash.key, s)
     else if off = 0x20018 then (some (s.part n).hash.dst, s)
     else if off = 0x20020 then (some (s.part n).hash.ctl, s)
     else if off = 0x20028 then (some (s.hashStat n), s)
     else (none, s))
  else
    let (w, s) := s.draw
    (some w, s)

/-- Write the doorbell and hash job pages of partition n's register unit (R330, R475). -/
def State.pageWrite (s : State) (n off : Nat) (v : Word) : State :=
  let hash (f : HashRegs → HashRegs) : State := s.updPart n (fun p => { p with hash := f p.hash })
  if 0x10000 ≤ off ∧ off < 0x10080 then s.sqTail n ((off - 0x10000) / 8) v
  else if 0x10080 ≤ off ∧ off < 0x10100 then s.cqHead n ((off - 0x10080) / 8) v
  else match off with
    | 0x20000 => hash (fun h => { h with src := v })
    | 0x20008 => hash (fun h => { h with len := v })
    | 0x20010 => hash (fun h => { h with key := v })
    | 0x20018 => hash (fun h => { h with dst := v })
    | 0x20020 => if v.getLsbD 31 then s.hashGo n v else hash (fun h => { h with ctl := v &&& 0x1FF03 })
    | 0x20028 => hash (fun h => { h with done := h.done && !v.getLsbD 1, refused := h.refused && !v.getLsbD 2 })
    | _ => s

/-- A raw read or write through a tile's check-split window: the stored bits as they are, whatever the valid bit (R505, R506). A `WORD`
beyond its memory stores nothing and reads free values (log entry 4). -/
def State.csTile (s : State) (t : Nat) (wr : Bool) : State :=
  let x := s.tile t
  let w := fld x.csAddr 8 24
  let acm := x.csAddr.getLsbD 0
  if (if acm then 2 ^ 18 else 2 ^ 21) ≤ w then
    (if wr then s.setTile t { x with csDone := true }
     else
       let (v, s) := s.draw
       s.setTile t { x with csDone := true, csData := v, csCheck := secdedEncode v, csValid := false })
  else if wr then
    (if acm then s.updTile t (fun x => { x with
        csDone := true,
        mxu := { x.mxu with acm := SMap.put 0 x.mxu.acm w x.csData, chk := SMap.put none x.mxu.chk w (some (x.csCheck, true)),
                            rowValid := SMap.put false x.mxu.rowValid (w / 64) true } })
     else { s.updTile t (fun x => { x with
        csDone := true, lsChk := SMap.put none x.lsChk w (some (x.csCheck, true)), lsValid := SMap.put false x.lsValid (w / 8) true }) with
      mem := SMap.putMany 0 s.mem (lsKey t (8 * w)) (bvBytes x.csData) })
  else
    let d := if acm then SMap.get 0 x.mxu.acm w else s.lsWord t w
    let c := ((if acm then SMap.get none x.mxu.chk w else SMap.get none x.lsChk w).map (·.1)).getD (secdedEncode d)
    let v := if acm then SMap.get false x.mxu.rowValid (w / 64) else SMap.get false x.lsValid (w / 8)
    s.setTile t { x with csDone := true, csData := d, csCheck := c, csValid := v }

/-- A raw read or write through a controller's check-split window (R505, R506), in order with the accesses committed before it (R276). A lost
die is left unwritten (R286). -/
def State.csHbm (s : State) (k : Nat) (wr : Bool) : State :=
  let l := fld (s.hbmc k).csLine 0 28
  let j := fld (s.hbmc k).csLine 32 4
  let s := s.orderLine k l (s.hbmc k).committed.length
  let c := s.hbmc k
  let cs := s.chunks k l
  if wr ∧ s.lostChunk k l = some j then s.setHbm k { c with csDone := true }
  else if wr then
    let old := match SMap.get none c.raw l with
      | some r => r.split
      | none => []
    s.setHbm k { c with csDone := true, raw := SMap.put none c.raw l (some { chunks := cs.set j (c.csChunk, c.csCrc), split := j :: old }) }
  else
    let x := cs.getD j (0, 0)
    s.setHbm k { c with csDone := true, csChunk := x.1, csCrc := x.2 }

/-- Write 8 bytes of a register unit at an aligned offset, by access code (R3, R68, R290, R505, R524). -/
def State.unitWrite (s : State) (u off : Nat) (v : Word) : State :=
  if u < 64 then
    (if off < 0x8000 then s.tcrPut u (off / 8) v
     else match off with
       | 0x8000 => s.updTile u (fun x => { x with csAddr := v &&& 0xFFFFFF01 })
       | 0x8008 => s.updTile u (fun x => { x with csData := v })
       | 0x8010 => s.updTile u (fun x => { x with csCheck := BitVec.ofNat 8 v.toNat })
       | 0x8018 => if v.getLsbD 1 then s.csTile u true else if v.getLsbD 0 then s.csTile u false else s
       | _ => s)
  else if 0x48 ≤ u ∧ u < 0x50 then
    let k := u - 0x48
    (match off with
     | 0x200 => s.updHbm k (fun c => { c.roll s.now with periodH := fld v 0 3 })
     | 0x1000 => s.updHbm k (fun c => { c with csLine := v &&& 0xF0FFFFFFF })
     | 0x1008 => s.updHbm k (fun c => { c with csChunk := setFld c.csChunk 0 64 v.toNat })
     | 0x1010 => s.updHbm k (fun c => { c with csChunk := setFld c.csChunk 64 64 v.toNat })
     | 0x1018 => s.updHbm k (fun c => { c with csCrc := BitVec.ofNat 16 v.toNat })
     | 0x1020 => if v.getLsbD 1 then s.csHbm k true else if v.getLsbD 0 then s.csHbm k false else s
     | _ => s)
  else if 0xC0 ≤ u ∧ u < 0x100 then
    (if off = 0x3000 then s.updPart (u - 0xC0) (fun p => { p with winBase := BitVec.ofNat 40 (fld v 0 19), winEn := v.getLsbD 19 })
     else s.pageWrite (u - 0xC0) off v)
  else s

/-- Registers of a unit that are one RW field of more than 32 bits, so that writing either half keeps the other (R3). -/
def wideField (u base : Nat) : Bool :=
  if u < 64 then base ∈ [0x18, 0x28, 0x30, 0x38, 0x8008]
  else if 0x48 ≤ u ∧ u < 0x50 then base ∈ [0x1000, 0x1008, 0x1010]
  else decide (0xC0 ≤ u) && decide (0x20000 ≤ base) && decide (base < 0x20020)

/-- Write 4 or 8 bytes at byte `r` of a unit. Every other register has its fields in its low half, and its high half is RSV. -/
def State.unitPut (s : State) (u r : Nat) (bs : List Byte) : State :=
  let base := r / 8 * 8
  if bs.length = 8 then s.unitWrite u base (bytesBv 64 bs)
  else if wideField u base then
    let (w, s) := s.unitRead u base
    let old := bvBytes (w.getD 0)
    s.unitWrite u base (bytesBv 64 (if r % 8 = 0 then bs ++ old.drop 4 else old.take 4 ++ bs))
  else if r % 8 = 0 then s.unitWrite u base (bytesBv 64 bs)
  else s

/-! Doorbells that follow writes through VF BAR2. -/

/-- The unit under which VF n's BAR2 writes to other devices wait for their acknowledgements. -/
def windowUnit (n : Nat) : Nat := 200 + n

/-- A BAR2 write of VF n has not been performed at its target yet (R526). -/
def State.windowBusy (s : State) (n : Nat) : Bool := s.net.remote.any (fun r => r.unit == windowUnit n)

/-- The host writes a register of VF n's doorbell page, byte `off` of the partition register unit: it takes effect after every earlier BAR2 write of
the VF has been performed (R526). -/
def State.hostBell (s : State) (n off : Nat) (v : Word) : State :=
  if s.windowBusy n then { s with hostl := { s.hostl with heldBells := s.hostl.heldBells ++ [(n, off, v)] } }
  else s.pageWrite n off v

/-- The answered BAR2 writes are done, and the doorbells that waited for nothing else take effect in order (R526). -/
def State.windowDone (s : State) : State :=
  let s := { s with net := { s.net with remote := s.net.remote.filter (fun r => decide (r.unit < 200) || r.answer.isNone) } }
  let l := s.hostl.heldBells
  (l.filter (fun b => !s.windowBusy b.1)).foldl (fun s b => s.pageWrite b.1 b.2.1 b.2.2)
    { s with hostl := { s.hostl with heldBells := l.filter (fun b => s.windowBusy b.1) } }

/-! The checks at the target. -/

/-- True for the register units that R68 lists. -/
def unitListed (u : Nat) : Bool :=
  decide (u < 0x44) || decide (0x48 ≤ u) && decide (u < 0x54) || decide (0xC0 ≤ u)

/-- An address that R66 refuses. -/
def State.badAddress (s : State) (pa : Nat) : Bool :=
  let o := paOff pa
  decide (s.ergSize ≤ paDev pa) || (match paSpace pa with
    | 0 => decide (0x3B9ACA0000 ≤ o)
    | 1 => decide (2 ^ 30 ≤ o)
    | 2 => decide (2 ^ 32 ≤ o) || !unitListed (o / 2 ^ 24)
    | _ => true)

/-- True for a write of zeros. -/
def opZeros : MemOp → Bool
  | .write bs => allZero bs
  | _ => false

/-- The memory rows of R61: who may touch memory that `owner` owns. -/
def State.memTag (s : State) (owner : Option Nat) (tag : Nat) (op : MemOp) : Bool :=
  match owner with
  | some n =>
    if (s.part n).conf then tag == n || (tag == 0x40 && opZeros op)
    else tag == n || tag == 0x40 || tag == 0x41
  | none => tag == 0x40

/-- A run of memory cut at 1 KiB boundaries, since ownership does not change within one (R413). The first argument bounds the
pieces. -/
def cutRun : Nat → Nat → Nat → List Extent
  | 0, _, _ => []
  | k + 1, pa, len =>
    if len = 0 then []
    else
      let n := min len (1024 - pa % 1024)
      { pa := pa, len := n } :: cutRun k (pa + n) (len - n)

/-- The pieces of a list of extents. -/
def cutAll (es : List Extent) : List Extent := (es.map (fun e => cutRun (e.len / 1024 + 2) e.pa e.len)).flatten

/-- The tag check of R61 at one address, with the check-split windows of R505. -/
def State.tagOk (s : State) (tag pa : Nat) (op : MemOp) : Bool :=
  let o := paOff pa
  match paSpace pa with
  | 0 => s.memTag (s.hbmOwner o) tag op
  | 1 => s.memTag (s.tileOwner (o / 2 ^ 24)) tag op
  | _ =>
    let u := o / 2 ^ 24
    let cs := tag == 0x41 && s.boot.checkSplit != 0
    if u < 64 then s.tileOwner u == some tag || tag == 0x40 || (cs && decide (0x8000 ≤ o % 2 ^ 24))
    else if 0xC0 ≤ u then tag == u - 0xC0 || tag == 0x40
    else tag == 0x40 || (cs && decide (0x48 ≤ u) && decide (u < 0x50) && decide (0x1000 ≤ o % 2 ^ 24))

/-- The part of a register unit that an owner's tag reaches (R104, R505, R523): false is a refusal logged as
ADDRESS_INVALID. -/
def State.regOk (s : State) (tag pa : Nat) (op : MemOp) : Bool :=
  let u := paOff pa / 2 ^ 24
  let r := paOff pa % 2 ^ 24
  let aligned := decide (opLen op = 8 ∨ opLen op = 4) && decide (r % opLen op = 0)
  aligned && (
    if u < 64 then
      (if r < 0x8000 then tag == 0x40 || (r / 8 == 0 && !opWrites op)
       else
         let acm := (s.tile u).csAddr.getLsbD 0
         decide (r < 0x8020) && s.boot.checkSplit.getLsbD (if acm then 1 else 0) && (tag == 0x40 || tag == 0x41))
    else if 0xC0 ≤ u ∧ tag < 64 then
      (r / 8 * 8 == 0x3008 && !opWrites op) || (decide (0x10000 ≤ r) && decide (r < 0x11000)) || (decide (0x20000 ≤ r) && decide (r < 0x21000))
    else if 0x48 ≤ u ∧ u < 0x50 ∧ 0x1000 ≤ r then s.boot.checkSplit.getLsbD 2
    else true)

/-- The partition a refusal is delivered to besides the operator (R63). -/
def originPart (tag : Nat) : Nat := if tag < 64 then tag else 0x7F

/-- Log a refused access (R63, R66). The spec does not say which unit the record names: it names router 0 (log entry 137). -/
def State.refuse (s : State) (type tag pa : Nat) : State :=
  s.record { mkRec type 3 with part := originPart tag, addr := pa, unit := unitRouter 0 }

/-- Perform an access that passed its checks on local memory (R217, R218, R267, R276). -/
def State.memOp (s : State) (pa : Nat) (op : MemOp) : AccRes × State :=
  let o := paOff pa
  if paSpace pa = 1 then
    let t := o / 2 ^ 24
    let a := o % 2 ^ 24
    match op with
    | .read n => let (bs, s) := s.lsRead t a n
      (.ok bs, s)
    | .write bs => (.ok [], s.lsWrite t a bs)
    | .atomic fn x e =>
      let (bs, s) := s.lsRead t a 8
      (.ok bs, s.lsWrite t a (bvBytes (atomicNew fn.toNat (bytesBv 64 bs) x e)))
  else if (List.range ((o % 128 + opLen op + 127) / 128)).any (fun i => (s.hbmc (hbmAt (o + 128 * i)).1).state == 2) then (.refused, s)
  else if s.noKey o then (.refused, s.keyRefusal o)
  else match op with
    | .read n => (match State.hbmRead (n / 128 + 2) o n s with
      | (some bs, s) => (.ok bs, s)
      | (none, s) => (.refused, s))
    | .write bs => (match State.hbmWrite (bs.length / 128 + 2) o bs s with
      | (true, s) => (.ok [], s)
      | (false, s) => (.refused, s))
    | .atomic fn x e => (match State.hbmRead 2 o 8 s with
      | (some bs, s) => (match State.hbmWrite 2 o (bvBytes (atomicNew fn.toNat (bytesBv 64 bs) x e)) s with
        | (true, s) => (.ok bs, s)
        | (false, s) => (.refused, s))
      | (none, s) => (.refused, s))

/-- Perform an access that passed its checks on a register unit: 4 or 8 bytes of an 8-byte register; bytes with no register read
zero and ignore writes (R3). -/
def State.regOp (s : State) (pa : Nat) (op : MemOp) : AccRes × State :=
  let u := paOff pa / 2 ^ 24
  let r := paOff pa % 2 ^ 24
  let base := r / 8 * 8
  match op with
  | .read n => let (w, s) := s.unitRead u base
    (.ok (slice (bvBytes (w.getD 0)) (r % 8) n), s)
  | .write bs => (.ok [], s.unitPut u r bs)
  | .atomic _ _ _ => (.refused, s)

/-- The request packet of an access to another device (R67, R307). -/
def State.request (s : State) (tag unit id pa : Nat) (op : MemOp) : NetPacket :=
  { tag := tag, src := s.deviceNum, unit := unit, dst := paDev pa, id := id, body := .request (BitVec.ofNat 52 pa) op }

/-- An access to another device (R303, R312). A unit that waits for its response takes it where it has come, and else its request goes out, once;
an access that nothing waits for is only sent. An unreachable device gives an error response. -/
def State.remoteAccess (s : State) (tag pa : Nat) (op : MemOp) : AccRes × State :=
  let sent (s : State) : State := { s with net := { s.net with nextId := s.net.nextId + 1 } }
  match s.net.actor with
  | none =>
    (match s.netPut (s.request tag 136 s.net.nextId pa op) none with
     | some s => (.remote, sent s)
     | none => (.refused, s.refuse 0x0407 tag pa))
  | some u =>
    if s.net.waits then (.remote, s)
    else match s.net.remote.find? (fun r => r.unit == u && r.tag == tag && r.pa == pa && r.op == op) with
      | some r =>
        (match r.answer with
         | none => (.remote, { s with net := { s.net with waits := true } })
         | some a => (match a with
            | some bs => .ok bs
            | none => .refused, { s with net := { s.net with remote := s.net.remote.filter (fun x => x.id != r.id) } }))
      | none =>
        if s.routeUp (paDev pa) then
          (.remote, sent { s with net := { s.net with
            waits := true, remote := s.net.remote ++ [{ id := s.net.nextId, unit := u, tag := tag, pa := pa, op := op }] } })
        else (.refused, s.refuse 0x0407 tag pa)

/-- Unit u acts: its accesses to other devices wait for their responses (R312). -/
def State.acting (s : State) (u : Nat) : State := { s with net := { s.net with actor := some u, waits := false } }

/-- What unit u did, from `x`, to where `s` stood before it. -/
def State.acted (s x : State) : State := { x with net := { x.net with actor := s.net.actor, waits := s.net.waits } }

/-- What unit u does, whose accesses to other devices wait for their responses (R97, R100, R250, R312): where one has none yet, its request goes
out and nothing else happens, so that the command that comes again finds the response (log entry 135). -/
def State.retry (s : State) (u : Nat) (f : State → State) : State :=
  let x := f (s.acting u)
  if x.net.waits then
    let new := x.net.remote.filter (fun r => decide (s.net.nextId ≤ r.id))
    new.foldl (fun s r => s.netSend (s.request r.tag u r.id r.pa r.op))
      { s with net := { s.net with nextId := x.net.nextId, remote := s.net.remote ++ new } }
  else s.acted x

/-- An access at the device that owns the address, under a tag (R61–R67). -/
def State.access (s : State) (tag pa : Nat) (op : MemOp) : AccRes × State :=
  if s.badAddress pa || (opLen op != 0 && s.badAddress (pa + opLen op - 1)) then (.refused, s.refuse 0x0403 tag pa)
  else if paDev pa ≠ s.deviceNum then s.remoteAccess tag pa op
  else if !s.tagOk tag pa op || !(cutAll [⟨pa, opLen op⟩]).all (fun e => s.tagOk tag e.pa op) then (.refused, s.refuse 0x0402 tag pa)
  else if paSpace pa = 2 then
    (if s.regOk tag pa op then s.regOp pa op else (.refused, s.refuse 0x0403 tag pa))
  else s.memOp pa op

/-- A BAR2 write of VF n to another device leaves, and its acknowledgement is awaited (R312, R526). -/
def State.windowSend (s : State) (n pa : Nat) (bs : List Byte) : State :=
  if s.routeUp (paDev pa) then
    let id := s.net.nextId
    let r : Remote := { id := id, unit := windowUnit n, tag := n, pa := pa, op := .write bs }
    { s with net := { s.net with nextId := id + 1, remote := s.net.remote ++ [r] } }.netSend (s.request n 136 id pa (.write bs))
  else s.refuse 0x0407 n pa

/-- A read: until another device has answered, its data are free values (log entry 4), which nothing keeps where the unit waits. -/
def State.accessRead (s : State) (tag pa len : Nat) : Option (List Byte) × State :=
  match s.access tag pa (.read len) with
  | (.ok bs, s) => (some bs, s)
  | (.refused, s) => (none, s)
  | (.remote, s) =>
    let (bs, s) := State.freeBytes (len / 8 + 1) s
    (some (bs.take len), s)

/-- A write; false where its target refuses it, and true while another device has not answered. -/
def State.accessWrite (s : State) (tag pa : Nat) (bs : List Byte) : Bool × State :=
  match s.access tag pa (.write bs) with
  | (.refused, s) => (false, s)
  | (_, s) => (true, s)

/-- Read a list of extents in order, each piece on its own (R61, R242, R251). -/
def State.readExtents (s : State) (tag : Nat) (es : List Extent) : Option (List Byte) × State :=
  (cutAll es).foldl (fun r e => match r with
    | (some bs, s) => (match s.accessRead tag e.pa e.len with
      | (some x, s) => (some (bs ++ x), s)
      | (none, s) => (none, s))
    | (none, s) => (none, s)) (some [], s)

/-- Write bytes over a list of extents in order, each piece on its own: what was written before a refusal stays (R250). -/
def State.writeExtents (s : State) (tag : Nat) (es : List Extent) (bs : List Byte) : Bool × State :=
  ((cutAll es).foldl (fun (r : (Bool × List Byte) × State) e => match r with
    | ((true, bs), s) =>
      let (ok, s) := s.accessWrite tag e.pa (bs.take e.len)
      ((ok, bs.drop e.len), s)
    | r => r) ((true, bs), s) |> fun r => (r.1.1, r.2))

end Sys2Proof.Machine
end

