-- ==== Sys2Proof/Machine/Caches.lean ====
section
/-!
DEFINITION. The tile's memory path: the end of a pass (R107, R352), the TLB (R238–R240), the L1 data cache, the talon and the
discard buffer (R196–R211), fences and maintenance over them (R97–R99, R212–R214), clearing (R223), and a mover's way through them (R194).
-/

namespace Sys2Proof.Machine

/-! The end of a pass. -/

/-- Take the ranks of a request that have not started out of their hands (R352). -/
def State.dropRanks (s : State) (i : Nat) : State :=
  (s.tilesOf (s.led i).part.val).foldl (fun s t => s.updTile t (fun x => { x with
    hand := x.hand.filter (fun h => h.ix != i), taken := (match x.taken with
      | some h => if h.ix = i then none else some h
      | none => none) })) s

/-- The pass of tile t ends and its rank's end is kept with the request (R94, R107, R352, R356); what its units have not begun is
discarded (R107). -/
def State.endPass (s : State) (t : Nat) (e : RankEnd) : State :=
  match (s.tile t).run with
  | none => s
  | some r =>
    let m := (s.tile t).mxu
    let flags := (s.tile t).tsu.fflags ||| (s.tile t).lvu.flags ||| m.flags
    let e := { e with
      rank := r.rank, flags := flags, stats := m.stats, sat := m.sat.toNat, flush := m.flush.toNat, nan := m.nan.toNat,
      hist := SMap.getMany 0 m.hist 0 64 }
    let s := s.updTile t (fun x => { x with run := none, queue := [] })
    let s := s.updLed r.ix (fun l => { l with ends := l.ends ++ [e], done := if e.status = .ok then l.done + 1 else l.done })
    let s := s.updPart (s.led r.ix).part.val (fun p => { p with passTimes := (p.passTimes ++ [s.now - r.start]).drop ((p.passTimes.length + 1) - 1024) })
    if e.status = .ok then s else s.dropRanks r.ix

/-- The pass ends by a trap or a deferred fault with a status, a cause and a PC (R107). -/
def State.endPassTrap (s : State) (t : Nat) (st : Status) (cause pc : Nat) : State :=
  s.endPass t { rank := 0, status := st, cause := cause, pc := pc }

/-- The status of a cause that no handler takes (R105); `page` says that a vector or matrix fault is a page fault. -/
def causeStatus (cause : Nat) (page : Bool) : Status :=
  if cause ∈ [0x02, 0x03, 0x04] then .unmapped
  else if cause ∈ [0x11, 0x12] ∧ page then .unmapped
  else .notPermitted

/-- True while tile t runs a pass and is neither stopped nor held. -/
def State.running (s : State) (t : Nat) : Bool :=
  let x := s.tile t
  x.run.isSome && !x.stopped && x.health.running.isNone && x.chainHold.isNone

/-! Tree pseudo-LRU (R196): bit `node − 1` of a set's tree names the half that holds the next victim. -/

/-- Make a tree point away from a way. The first argument counts levels below `node`. -/
def plruTouch : Nat → Nat → Nat → Nat → Nat
  | 0, _, _, st => st
  | k + 1, node, way, st =>
    let b := way / 2 ^ k % 2
    let cleared := st - (st / 2 ^ (node - 1) % 2) * 2 ^ (node - 1)
    plruTouch k (2 * node + b) way (cleared + (1 - b) * 2 ^ (node - 1))

/-- The victim a tree names among the ways that `ok` allows; a half with no such way is passed over (R196). -/
def plruVictim (ok : Nat → Bool) : Nat → Nat → Nat → Nat → Nat
  | 0, _, base, _ => base
  | k + 1, node, base, st =>
    let b := st / 2 ^ (node - 1) % 2
    let live (b : Nat) : Bool := (List.range (2 ^ k)).any (fun i => ok (base + b * 2 ^ k + i))
    let b := if live b then b else 1 - b
    plruVictim ok k (2 * node + b) (base + b * 2 ^ k) st

/-- Choose a way of a set for a fill: the lowest invalid enabled way, else the victim; none where every way is disabled. -/
def chooseWay (levels : Nat) (valid : Nat → Bool) (off : Nat → Bool) (st : Nat) : Option Nat :=
  let ways := (List.range (2 ^ levels)).filter (fun w => !off w)
  match ways.find? (fun w => !valid w) with
  | some w => some w
  | none => if ways.isEmpty then none else some (plruVictim (fun w => !off w) levels 1 0 st)

/-! The TLB. -/

/-- The key of the TLB entry that translates an address, if any (R238). -/
def Tlb.find (b : Tlb) (va : Nat) : Option Nat :=
  let small := va / 2 ^ 16 % 512
  let large := va / 2 ^ 29 % 512
  let hit (set : Nat) (big : Bool) : Option Nat := ((List.range 4).map (fun w => set * 4 + w)).find? (fun k =>
    match SMap.get none b.e k with
    | some e => e.large == big && e.va == (if big then va / 2 ^ 29 * 2 ^ 29 else va / 2 ^ 16 * 2 ^ 16)
    | none => false)
  match hit small false with
  | some k => some k
  | none => hit large true

/-- Note the use of an entry. -/
def Tlb.touch (b : Tlb) (k : Nat) : Tlb := { b with plru := SMap.upd 0 b.plru (k / 4) (plruTouch 2 1 (k % 4)) }

/-- Put a walk's leaf into its set (R238). -/
def Tlb.fill (b : Tlb) (va : Nat) (leaf : Word) (large : Bool) : Tlb :=
  let set := if large then va / 2 ^ 29 % 512 else va / 2 ^ 16 % 512
  let va := if large then va / 2 ^ 29 * 2 ^ 29 else va / 2 ^ 16 * 2 ^ 16
  match chooseWay 2 (fun w => (SMap.get none b.e (set * 4 + w)).isSome) (fun _ => false) (SMap.get 0 b.plru set) with
  | some w => Tlb.touch { b with e := SMap.put none b.e (set * 4 + w) (some ⟨va, large, leaf⟩) } (set * 4 + w)
  | none => b

/-- The tag of the partition that owns tile t (R59). -/
def State.tileTag (s : State) (t : Nat) : Nat := (s.tileOwner t).getD 0x7F

/-- The root of tile t's pass (R235). -/
def State.tileRoot (s : State) (t : Nat) : Word :=
  match (s.tile t).run with
  | some r => s.rootOf (s.tileTag t) r.rootId
  | none => 0

/-- Translate an address for tile t's pass through its TLB; a miss walks the root and fills the TLB (R238, R239); none where
the address is unmapped for the access (R229). -/
def State.translateT (s : State) (t : Nat) (k : AccessKind) (va : Nat) : Option Nat × State :=
  let b := (s.tile t).tlb
  match b.find va with
  | some key =>
    let s := s.updTile t (fun x => { x with tlb := x.tlb.touch key })
    (match SMap.get none b.e key with
     | some e => (if permits k e.leaf then some (leafPa e.leaf e.large va) else none, s)
     | none => (none, s))
  | none =>
    match s.walk (s.tileRoot t) va with
    | (none, s) => (none, s)
    | (some (e, large), s) =>
      if permits k e then (some (leafPa e large va), s.updTile t (fun x => { x with tlb := x.tlb.fill va e large }))
      else (none, s)

/-- Extents of a range by tile t's TLB, latest first, or the first address that is unmapped. The first argument bounds the 64 KiB pieces. -/
def State.extentsT (t : Nat) (k : AccessKind) : Nat → Nat → Nat → List Extent → State → (List Extent ⊕ Nat) × State
  | 0, _, _, acc, s => (.inl acc, s)
  | f + 1, va, len, acc, s =>
    if len = 0 then (.inl acc, s)
    else match s.translateT t k va with
      | (none, s) => (.inr va, s)
      | (some pa, s) =>
        let n := min len (65536 - va % 65536)
        State.extentsT t k f (va + n) (len - n) (joinExtent acc pa n) s

/-- The extents of a range that tile t translates before it changes anything (R145, R214), or the first address that is unmapped. -/
def State.rangeT (s : State) (t : Nat) (k : AccessKind) (va len : Nat) : (List Extent ⊕ Nat) × State :=
  match State.extentsT t k (len / 65536 + 2) va len [] s with
  | (.inl es, s) => (.inl es.reverse, s)
  | r => r

/-! The L1 data cache. A line is named by its physical address over 128. -/

/-- The 128-byte line as bytes. -/
def Line.bytes (l : Line) : List Byte := bvBytes l.data

/-- Merge bytes, given with their offsets, into a line's bytes. -/
def mergeBytes (d : List Byte) (ws : List (Nat × Byte)) : List Byte := ws.foldl (fun d w => d.set w.1 w.2) d

/-- The key of the L1 line that holds a line, if any. -/
def Caches.find (c : Caches) (line : Nat) : Option Nat :=
  ((List.range 8).map (fun w => line % 512 * 8 + w)).find? (fun k => match SMap.get none c.l1d k with
    | some l => l.line == line
    | none => false)

/-- Note the use of an L1 line (R196). -/
def Caches.touch (c : Caches) (k : Nat) : Caches := { c with plruD := SMap.upd 0 c.plruD (k / 8) (plruTouch 3 1 (k % 8)) }

/-- The key of the way that a fill of a line takes (R196); none where every way of its set is disabled. -/
def Caches.wayFor (c : Caches) (line : Nat) : Option Nat :=
  let set := line % 512
  let key (w : Nat) : Nat := set * 8 + w
  (chooseWay 3 (fun w => (SMap.get none c.l1d (key w)).isSome) (fun w => c.offD.contains (key w)) (SMap.get 0 c.plruD set)).map key

def State.updCaches (s : State) (t : Nat) (f : Caches → Caches) : State := s.updTile t (fun x => { x with caches := f x.caches })

/-- A write that its target refused ends the pass with its deferred fault (R105, R107). -/
def State.storeRefused (s : State) (t cause pc : Nat) : State := s.endPassTrap t .notPermitted cause pc

/-- Write a line to its home with the tile's tag; a refusal is the deferred fault of the last store into the line (R105, R127, R214). -/
def State.lineHome (s : State) (t : Nat) (l : Line) : State :=
  match s.accessWrite (s.tileTag t) (l.line * 128) l.bytes with
  | (true, s) => s
  | (false, s) => s.storeRefused t l.cause l.pc

/-! Parity (R210, R211). -/

/-- A parity record; with more than 16 ways disabled it is partition-fatal and the tile waits for its replacement (R211, log
entry 115). -/
def State.parity (s : State) (t type line : Nat) (fatal : Bool) : State :=
  let c := (s.tile t).caches
  let r : ErrRec := { mkRec type 0 with addr := line * 128 }
  if 16 < c.offD.length + c.offI.length then (s.tileFatal t r).retireTile t
  else if fatal then s.tileFatal t r
  else s.tileMasked t r

/-- Invalidate a way. -/
def State.dropWay (s : State) (t k : Nat) : State := s.updCaches t (fun c => { c with l1d := SMap.put none c.l1d k none })

/-- A refetched line fails its parity check on the same access: the way that it took is disabled, and a third fetch bypasses it (R211). -/
def State.failTwice (s : State) (t line : Nat) : State :=
  match (s.tile t).caches.wayFor line with
  | some k => (s.updCaches t (fun c => { c with offD := k :: c.offD })).parity t 0x0201 line false
  | none => s

/-- The parity check of a way, and of the state bits of its set, before the way is read: a clean way with an error is invalidated, a dirty one
is not written back, and with bad state bits no line of the set is (R210, R211). -/
def State.checkWay (s : State) (t k line : Nat) : State :=
  let c := (s.tile t).caches
  if c.badSets.contains (k / 8) then
    let s := (List.range 8).foldl (fun s w => s.dropWay t (k / 8 * 8 + w)) s
    (s.updCaches t (fun c => { c with badSets := c.badSets.filter (fun i => i != k / 8) })).parity t 0x0201 line true
  else match SMap.get none c.l1d k with
    | none => s
    | some l =>
      match l.parity with
      | .good => s
      | .bad => (s.dropWay t k).parity t 0x0201 l.line l.dirty
      | .badTwice =>
        let s := (s.dropWay t k).parity t 0x0201 l.line l.dirty
        if l.dirty then s else s.failTwice t l.line

/-- The parity checks of a lookup of a line (R210). -/
def State.checkHit (s : State) (t line : Nat) : State := s.checkWay t (((s.tile t).caches.find line).getD (line % 512 * 8)) line

/-- The stored bits that an upset changes in the caches. -/
def Caches.spoil (c : Caches) (u : Upset) : Caches :=
  let mark (again : Bool) (l : Line) : Line := { l with parity := if again then .badTwice else .bad }
  match u with
  | .spoilData k again => { c with l1d := SMap.upd none c.l1d k (Option.map (mark again)) }
  | .spoilState set => { c with badSets := set.val :: c.badSets.filter (fun i => i != set.val) }
  | .spoilInstr k again => { c with l1i := SMap.upd none c.l1i k (Option.map (mark again)) }
  | .spoilTalon i => { c with talon := c.talon.modify i (mark false) }
  | .spoilDiscard i => { c with discard := c.discard.modify i (mark false) }
  | _ => c

/-- An upset changes stored bits of tile t; the checkers find them at the next read (R157, R210, R217). -/
def State.strike (s : State) (t : Nat) (u : Upset) : State :=
  let was (m : SMap (Option (BitVec 8 × Bool))) (w : Nat) (d : Word) : BitVec 8 × Bool := (SMap.get none m w).getD (secdedEncode d, false)
  match u with
  | .none | .busy | .mismatch | .audit _ | .grainMismatch | .spoilFill _ => s
  | .flipLs w d k =>
    let old := s.lsWord t w
    let c := was (s.tile t).lsChk w old
    { s.updTile t (fun x => { x with lsChk := SMap.put none x.lsChk w (some (c.1 ^^^ k, c.2)) }) with
      mem := SMap.putMany 0 s.mem (lsKey t (8 * w)) (bvBytes (old ^^^ d)) }
  | .flipAcm w d k => s.updTile t (fun x =>
    let old := SMap.get 0 x.mxu.acm w
    let c := was x.mxu.chk w old
    { x with mxu := { x.mxu with acm := SMap.put 0 x.mxu.acm w (old ^^^ d), chk := SMap.put none x.mxu.chk w (some (c.1 ^^^ k, c.2)) } })
  | u => s.updCaches t (fun c => c.spoil u)

/-! Fills, evictions and write-backs. -/

/-- The waiting stores of one line as one fill: their bytes in order, with the cause and PC of the last. -/
def joinStores (line : Nat) (go : List Fill) : Fill :=
  { line := line, writes := (go.map (·.writes)).flatten, pc := (go.getLast?.map (·.pc)).getD 0, cause := (go.getLast?.map (·.cause)).getD 0x10 }

/-- Waiting stores whose line's discard entry is gone take a fill while fewer than 16 are outstanding (R198, R209). -/
def Caches.promote (c : Caches) : Caches :=
  match c.stores.find? (fun f => !c.discard.any (fun l => l.line == f.line)) with
  | some f =>
    if c.fills.length < 16 then
      { c with stores := c.stores.filter (fun x => x.line != f.line), fills := c.fills ++ [joinStores f.line (c.stores.filter (fun x => x.line == f.line))] }
    else c
  | none => c

/-- The home acknowledges a discard entry (R207), or the entry fails its parity check and its write-back is not sent (R210); a store that
waits for it goes on (R209). -/
def State.ackDiscard (s : State) (t i : Nat) : State :=
  match (s.tile t).caches.discard[i]? with
  | none => s
  | some l =>
    let s := s.updCaches t (fun c => Caches.promote { c with discard := c.discard.eraseIdx i })
    if l.parity = .good then s.lineHome t l else s.parity t 0x0204 l.line true

/-- Acknowledge discard entries until none of them satisfies `p`. The first argument bounds them. -/
def State.ackUntil (p : Line → Bool) : Nat → Nat → State → State
  | 0, _, s => s
  | f + 1, t, s => match (s.tile t).caches.discard.findIdx? p with
    | some i => State.ackUntil p f t (s.ackDiscard t i)
    | none => s

/-- Put a line into the L1 (R196, R207): the victim is checked as it is evicted (R210), a clean one is dropped and a dirty one goes to the
discard buffer. -/
def State.l1Put (s : State) (t : Nat) (l : Line) : State :=
  let s := match (s.tile t).caches.wayFor l.line with
    | some k => s.checkWay t k l.line
    | none => s
  let c := (s.tile t).caches
  match c.wayFor l.line with
  | none => if l.dirty then s.lineHome t l else s
  | some k =>
    let s := match SMap.get none c.l1d k with
      | some v =>
        if v.dirty then
          let s := if 16 ≤ c.discard.length then s.ackDiscard t 0 else s
          s.updCaches t (fun c => { c with discard := c.discard ++ [v] })
        else s
      | none => s
    s.updCaches t (fun c => Caches.touch { c with l1d := SMap.put none c.l1d k (some l) } k)

/-- Fetch a line from its home with the tile's tag; none where it is refused. -/
def State.fetchLine (s : State) (t line : Nat) : Option (BitVec 1024) × State :=
  match s.accessRead (s.tileTag t) (line * 128) 128 with
  | (some bs, s) => (some (bytesBv 1024 bs), s)
  | (none, s) => (none, s)

/-- An outstanding store fill completes: the line is fetched, the bytes are merged and the line is dirty (R197). -/
def State.fillDone (s : State) (t : Nat) (f : Fill) : State :=
  let s := s.updCaches t (fun c => Caches.promote { c with fills := c.fills.filter (fun x => x.line != f.line) })
  match s.fetchLine t f.line with
  | (some d, s) =>
    s.l1Put t { line := f.line, data := bytesBv 1024 (mergeBytes (bvBytes d) f.writes), dirty := true, cause := f.cause, pc := f.pc }
  | (none, s) => s.storeRefused t f.cause f.pc

/-- A miss with 16 fills outstanding waits until one completes (R198). -/
def State.fillRoom (s : State) (t : Nat) : State :=
  match (s.tile t).caches.fills with
  | f :: _ => if 16 ≤ (s.tile t).caches.fills.length then s.fillDone t f else s
  | [] => s

/-- Complete fills until no store of a line waits for one of its own. The first argument bounds them. -/
def State.fillsFor (line : Nat) : Nat → Nat → State → State
  | 0, _, s => s
  | k + 1, t, s => if (s.tile t).caches.stores.any (fun f => f.line == line) then State.fillsFor line k t (s.fillRoom t) else s

/-- Complete the outstanding fill of a line, if any, and what a waiting store of it waits for (R206, R209). -/
def State.settleLine (s : State) (t line : Nat) : State :=
  let s := if (s.tile t).caches.stores.any (fun f => f.line == line) then
      State.fillsFor line 16 t (State.ackUntil (fun l => l.line == line) 16 t s) else s
  match (s.tile t).caches.fills.find? (fun f => f.line == line) with
  | some f => s.fillDone t f
  | none => s

/-- Complete every outstanding store of the tile whose line satisfies `p`. -/
def State.settle (s : State) (t : Nat) (p : Nat → Bool) : State :=
  let c := (s.tile t).caches
  ((c.fills ++ c.stores).map (·.line)).eraseDups.foldl (fun s l => if p l then s.settleLine t l else s) s

/-- A talon fill arrives (R203): the line enters the talon, which drops its oldest line to make room. A line that meanwhile
entered the L1 is not kept; a refused prefetch is dropped (R214). -/
def State.talonFill (s : State) (t line : Nat) : State :=
  let s := s.updCaches t (fun c => { c with talonFills := c.talonFills.filter (fun l => l != line) })
  let s := State.ackUntil (fun l => l.line == line) 16 t s
  let c := (s.tile t).caches
  if (c.find line).isSome || c.fills.any (fun f => f.line == line) then s
  else match s.fetchLine t line with
    | (some d, s) => s.updCaches t (fun c => { c with
        talon := (if 64 ≤ c.talon.length then c.talon.tail else c.talon) ++ [{ line := line, data := d }] })
    | (none, s) => s

/-- Wait for the outstanding talon fills of the lines that satisfy `p` (R206). -/
def State.awaitTalon (s : State) (t : Nat) (p : Nat → Bool) : State :=
  ((s.tile t).caches.talonFills.filter p).foldl (fun s l => s.talonFill t l) s

/-- Bring a line from the talon into the L1, waiting for an outstanding talon fill of it (R204, R206); one whose parity check fails is dropped
and logged (R210). -/
def State.fromTalon (s : State) (t line : Nat) : State :=
  let s := if (s.tile t).caches.talonFills.contains line then s.talonFill t line else s
  match (s.tile t).caches.talon.find? (fun l => l.line == line) with
  | some l =>
    let s := s.updCaches t (fun c => { c with talon := c.talon.filter (fun x => x.line != line) })
    if l.parity = .good then s.l1Put t l else s.parity t 0x0203 line false
  | none => s

/-- The data of an L1 line, which is used (R196). -/
def State.hitData (s : State) (t line : Nat) : Option (BitVec 1024) × State :=
  match (s.tile t).caches.find line with
  | some k => (((SMap.get none (s.tile t).caches.l1d k).map (·.data)), s.updCaches t (fun c => c.touch k))
  | none => (none, s)

/-- The data of a line for a load (R197, R204, R206, R208); none where its home refuses it, or where a parity error has stopped the tile
(R210). -/
def State.lineData (s : State) (t line : Nat) : Option (BitVec 1024) × State :=
  let s := (s.settleLine t line).checkHit t line
  if (s.tile t).stopped then (none, s)
  else if ((s.tile t).caches.find line).isSome then s.hitData t line
  else match (s.tile t).caches.discard.findIdx? (fun l => l.line == line) with
    | some i =>
      let l := (s.tile t).caches.discard.getD i {}
      if l.parity = .good then (some l.data, s)
      else (none, (s.updCaches t (fun c => { c with discard := c.discard.eraseIdx i })).parity t 0x0204 line true)
    | none =>
      let s := s.fromTalon t line
      if ((s.tile t).caches.find line).isSome then s.hitData t line
      else match (s.fillRoom t).fetchLine t line with
        | (some d, s) => (some d, s.l1Put t { line := line, data := d })
        | (none, s) => (none, s)

/-- True for the tile's own Local Store and for register space, which bypass the L1 (R194, R195). -/
def State.uncached (s : State) (t pa : Nat) : Bool :=
  paSpace pa == 2 || (paDev pa == s.deviceNum && paSpace pa == 1 && paOff pa / 2 ^ 24 == t)

/-- Read bytes that lie in one 128-byte line. -/
def State.loadPa (s : State) (t pa len : Nat) : Option (List Byte) × State :=
  if s.uncached t pa then s.accessRead (s.tileTag t) pa len
  else match s.lineData t (pa / 128) with
    | (some d, s) => (some (slice (bvBytes d) (pa % 128) len), s)
    | (none, s) => (none, s)

/-- Write bytes that lie in one 128-byte line (R197, R198, R209). -/
def State.storePa (s : State) (t pa : Nat) (bs : List Byte) (cause pc : Nat) : State :=
  if s.uncached t pa then
    (match s.accessWrite (s.tileTag t) pa bs with
     | (true, s) => s
     | (false, s) => s.storeRefused t cause pc)
  else
    let line := pa / 128
    let ws := bs.mapIdx (fun i b => (pa % 128 + i, b))
    let s := s.checkHit t line
    if (s.tile t).stopped then s
    else
      let s := if ((s.tile t).caches.find line).isSome then s else s.fromTalon t line
      let c := (s.tile t).caches
      match c.find line with
      | some k => s.updCaches t (fun c => Caches.touch { c with l1d := SMap.upd none c.l1d k (fun l => l.map (fun l =>
          { l with data := bytesBv 1024 (mergeBytes l.bytes ws), dirty := true, cause := cause, pc := pc })) } k)
      | none =>
        if c.fills.any (fun f => f.line == line) then
          s.updCaches t (fun c => { c with fills := c.fills.map (fun f => if f.line = line then { f with writes := f.writes ++ ws, cause := cause, pc := pc } else f) })
        else if c.discard.any (fun l => l.line == line) || c.stores.any (fun f => f.line == line) then
          s.updCaches t (fun c => { c with stores := c.stores ++ [⟨line, ws, pc, cause⟩] })
        else if bs.length = 128 then s.l1Put t { line := line, data := bytesBv 1024 bs, dirty := true, cause := cause, pc := pc }
        else (s.fillRoom t).updCaches t (fun c => { c with fills := c.fills ++ [⟨line, ws, pc, cause⟩] })

/-! Fences, maintenance and clearing. -/

/-- True when a line holds a byte that a virtual range maps to, by the pages of a root (R97, R99). -/
def holdsLine (pages : List (Nat × Word × Bool)) (va len line : Nat) : Bool :=
  pages.any (fun p =>
    let n := pageLen p.2.2
    let v := p.1 + line * 128 % n
    len != 0 && line * 128 / n == leafPa p.2.1 p.2.2 0 / n && decide (va < v + 128) && decide (v < va + len))

/-- Write back the L1 line of a way where it is dirty; its parity is checked first (R97, R210). -/
def State.cleanWay (s : State) (t k : Nat) : State :=
  let s := s.checkWay t k (((SMap.get none (s.tile t).caches.l1d k).map (·.line)).getD 0)
  match SMap.get none (s.tile t).caches.l1d k with
  | some l =>
    if l.dirty then (s.updCaches t (fun c => { c with l1d := SMap.put none c.l1d k (some { l with dirty := false }) })).lineHome t l else s
  | none => s

/-- Write back the dirty L1 lines that satisfy `p`, which become clean (R97). -/
def State.cleanL1 (s : State) (t : Nat) (p : Nat → Bool) : State :=
  (s.tile t).caches.l1d.foldl (fun (s : State) e => match e.2 with
    | some l => if p l.line then s.cleanWay t e.1 else s
    | none => s) s

/-- Invalidate the L1 and talon lines that satisfy `p`, once their outstanding talon fills have arrived (R98, R205, R206). -/
def State.dropLines (s : State) (t : Nat) (p : Nat → Bool) : State :=
  (s.awaitTalon t p).updCaches t (fun c => { c with
    l1d := c.l1d.filter (fun e => match e.2 with
      | some l => !p l.line
      | none => true),
    talon := c.talon.filter (fun l => !p l.line) })

/-- `fence.rel` over the lines that satisfy `p` (R97). -/
def State.fenceRel (s : State) (t : Nat) (p : Nat → Bool) : State :=
  let s := s.settle t (fun _ => true)
  let s := State.ackUntil (fun l => p l.line) 16 t s
  s.cleanL1 t p

/-- `fence.acq` over the lines that satisfy `p` (R98). -/
def State.fenceAcq (s : State) (t : Nat) (p : Nat → Bool) : State :=
  ((s.settle t (fun _ => true)).cleanL1 t p).dropLines t p

/-- `cwb` and `cwbi` over the lines that satisfy `p` (R212). -/
def State.cacheClean (s : State) (t : Nat) (p : Nat → Bool) (inv : Bool) : State :=
  let s := s.settle t p
  let s := (State.ackUntil (fun l => p l.line) 16 t s).cleanL1 t p
  if inv then s.dropLines t p else s

/-- Allocate a line dirty and zero without fetching it (R212); an older copy or an outstanding fetch of it ends first. -/
def State.zeroLine (s : State) (t line pc : Nat) : State :=
  let s := s.settleLine t line
  let s := State.ackUntil (fun l => l.line == line) 16 t s
  (s.dropLines t (fun l => l == line)).l1Put t { line := line, dirty := true, pc := pc }

/-- A mover of tile t reads bytes of one line: by the tile's own port, or through its L1 (R194, R251). -/
def State.moverRead (s : State) (t pa len : Nat) : Option (List Byte) × State := s.loadPa t pa len

/-- A mover of tile t writes bytes of one line: by the tile's own port, or through its L1, from which the line is written back at once, since
the move waits for its home's acknowledgement (R194, R248, R250; log entry 131). False where the home refuses it. -/
def State.moverWrite (s : State) (t pa : Nat) (bs : List Byte) : Bool × State :=
  if s.uncached t pa then s.accessWrite (s.tileTag t) pa bs
  else
    let line := pa / 128
    let s := State.ackUntil (fun l => l.line == line) 16 t (s.settleLine t line)
    match (if bs.length = 128 then (some 0, s.checkHit t line) else s.lineData t line) with
    | (none, s) => (false, s)
    | (some d, s) =>
      if (s.tile t).stopped then (false, s)
      else
        let l : Line := { line := line, data := bytesBv 1024 (mergeBytes (bvBytes d) (bs.mapIdx (fun i b => (pa % 128 + i, b)))) }
        let s := s.dropLines t (fun x => x == line)
        match s.accessWrite (s.tileTag t) (line * 128) l.bytes with
        | (true, s) => (true, s.l1Put t l)
        | (false, s) => (false, s)

/-- Cut a run at 128-byte lines. The first argument bounds the pieces. -/
def cutLines : Nat → Nat → Nat → List Extent
  | 0, _, _ => []
  | k + 1, pa, len =>
    if len = 0 then []
    else
      let n := min len (128 - pa % 128)
      { pa := pa, len := n } :: cutLines k (pa + n) (len - n)

/-- The pieces of a list of extents by line. -/
def linesOf (es : List Extent) : List Extent := (es.map (fun e => cutLines (e.len / 128 + 2) e.pa e.len)).flatten

/-- A mover of tile t reads a list of extents in order. -/
def State.moverReadAll (s : State) (t : Nat) (es : List Extent) : Option (List Byte) × State :=
  (linesOf es).foldl (fun r e => match r with
    | (some bs, s) => (match s.moverRead t e.pa e.len with
      | (some x, s) => (some (bs ++ x), s)
      | (none, s) => (none, s))
    | (none, s) => (none, s)) (some [], s)

/-- A mover of tile t writes bytes over a list of extents in order: what was written before a refusal stays (R250). -/
def State.moverWriteAll (s : State) (t : Nat) (es : List Extent) (bs : List Byte) : Bool × State :=
  ((linesOf es).foldl (fun (r : (Bool × List Byte) × State) e => match r with
    | ((true, bs), s) =>
      let (ok, s) := s.moverWrite t e.pa (bs.take e.len)
      ((ok, bs.drop e.len), s)
    | r => r) ((true, bs), s) |> fun r => (r.1.1, r.2))

/-- The caches after an invalidation that keeps only the disabled ways (R211, R223). -/
def Caches.cleared (c : Caches) : Caches := { offD := c.offD, offI := c.offI }

/-- Clear a tile's caches, Local Store and ACM valid bits without writing anything back (R223). -/
def State.clearTile (s : State) (t : Nat) : State :=
  (s.lsClear t).updTile t (fun x => { x with caches := x.caches.cleared, mxu := { x.mxu with rowValid := [] } })

/-- Write back everything dirty of a tile with its owner's tag (R223). -/
def State.flushTile (s : State) (t : Nat) : State := s.fenceRel t (fun _ => true)

/-- A tile leaves its owner at a commit: what is dirty is written back first, then it is cleared (R223). -/
def State.leaveTile (s : State) (t : Nat) : State := (s.flushTile t).clearTile t

end Sys2Proof.Machine
end

