-- ==== Sys2Proof/Machine/Requests.lean ====
section
/-!
DEFINITION. Requests (12_requests_experts.md): completion entries and their posting (R333, R334, R337), admission (R340–R347,
R356), move lists (R246–R250), binding (R254), the numeric record (R191, R192) and the journal (R30).
-/

namespace Sys2Proof.Machine

/-! Completion entries. -/

/-- The fields of a completion entry but for PHASE and SQ_HEAD (R337). -/
structure Completion where
  status : Status
  cid : BitVec 16
  sq : Nat
  trd : Bool := false
  more : Bool := false
  noout : Bool := false
  cause : Nat := 0
  ledger : Nat := 0
  app : Nat := 0
  aux : Nat := 0
  pc : Nat := 0
  time : Nat
  deriving DecidableEq, Repr

/-- The 32 bytes of a completion entry (R337). -/
def Completion.bytes (c : Completion) (phase : Bool) (sqHead : Nat) : List Byte :=
  leBytes 32 (c.status.code + c.cid.toNat * 2 ^ 16 + c.sq * 2 ^ 32 + b2n phase * 2 ^ 36 + b2n c.trd * 2 ^ 37
    + b2n c.more * 2 ^ 38 + b2n c.noout * 2 ^ 39 + c.cause * 2 ^ 40 + sqHead * 2 ^ 48 + c.ledger * 2 ^ 64
    + c.app * 2 ^ 84 + c.aux % 2 ^ 32 * 2 ^ 96 + c.pc % 2 ^ 55 * 2 ^ 128 + c.time * 2 ^ 192)

/-- A CQ slot that Avrak may write: one slot stays free, so that equal indices mean empty (R333, log entry 13). -/
def Cq.room (c : Cq) : Bool := !c.stopped && (c.tail + 1) % c.size != c.head

/-- Write bytes to partition n's queue memory: host memory, or device memory through the current root (R329). -/
def State.queueWrite (s : State) (n : Nat) (host : Bool) (addr : Nat) (bs : List Byte) : State :=
  if host then (s.atsTouch n addr).emit (.hostWrite (Fin.ofNat 65 n) (BitVec.ofNat 64 addr) bs (s.tdiRuns n) (SMap.get false s.hostl.ats n))
  else match s.range (s.part n).root .store addr bs.length with
    | (some es, s) => (s.writeExtents n es bs).2
    | (none, s) => s

/-- Write a completion entry at the tail of CQ q and signal it (R333, R334); unchanged without room. -/
def State.cqPut (s : State) (n q : Nat) (c : Completion) : State :=
  match SMap.get none (s.part n).cqs q with
  | none => s
  | some cq =>
    if cq.room then
      let head := match SMap.get none (s.part n).sqs c.sq with
        | some sq => sq.head
        | none => 0
      let s := s.queueWrite n cq.host (cq.base.toNat + 32 * cq.tail) (c.bytes cq.phase head)
      let wrap := cq.tail + 1 == cq.size
      let cq := { cq with tail := if wrap then 0 else cq.tail + 1, phase := cq.phase != wrap }
      let s := s.updPart n (fun p => { p with cqs := SMap.put none p.cqs q (some cq) })
      if cq.ien then s.msix (Fin.ofNat 65 n) (4 + q) else s
    else s

/-- True when CQ q of partition n can take an entry. -/
def State.cqRoom (s : State) (n q : Nat) : Bool :=
  match SMap.get none (s.part n).cqs q with
  | some cq => cq.room
  | none => false

/-- Post the waiting answers of requests that hold no ledger entry, while there is room (R338). -/
def State.postAnswers : Nat → Nat → State → State
  | 0, _, s => s
  | k + 1, n, s =>
    match (s.part n).answers with
    | [] => s
    | a :: rest =>
      if s.cqRoom n a.cq then
        State.postAnswers k n ((s.cqPut n a.cq { status := a.status, cid := a.cid, sq := a.sq, aux := a.aux, time := a.time }).updPart n
          (fun p => { p with answers := rest }))
      else s

/-- Answer a request without a ledger entry; a Strict partition's answer waits for its window (R342). -/
def State.answerReq (s : State) (n q : Nat) (cid : BitVec 16) (st : Status) (aux : Nat) : State :=
  let cq := match SMap.get none (s.part n).sqs q with
    | some sq => sq.cq
    | none => 0
  let s := s.updPart n (fun p => { p with answers := p.answers ++ [⟨q, cq, cid, st, aux, s.now⟩] })
  if s.isStrict n then s else State.postAnswers 1 n s

/-- The lowest-ranked rank that ended by a trap, if any (R352). -/
def Ledger.trapped (e : Ledger) : Option RankEnd :=
  (e.ends.filter (fun r => r.status != .ok)).foldl (fun a r => match a with
    | some x => if r.rank < x.rank then some r else a
    | none => some r) none

/-- The end of rank 0, if it has ended. -/
def Ledger.rank0 (e : Ledger) : Option RankEnd := e.ends.find? (fun r => r.rank == 0)

/-- The completion entry of a request (R337, R338). -/
def Ledger.completion (e : Ledger) (i : Nat) (st : Status) (t : Nat) : Completion :=
  { status := st, cid := e.cid, sq := e.sq, trd := e.trd, more := e.more, noout := e.noout,
    cause := (match e.trapped with
      | some r => r.cause
      | none => 0),
    ledger := i,
    app := (match e.rank0 with
      | some r => r.app.toNat
      | none => 0),
    aux := if e.noout then e.lastSeq else if e.stream && st == .ok then e.seq.toNat else 0,
    pc := (match e.trapped with
      | some r => r.pc
      | none => 0),
    time := t }

/-- Enter a completed request in the journal of every tile that served it (R30, R392). -/
def State.journal (s : State) (i : Nat) (e : Ledger) (t : Nat) : State :=
  let chain := match e.cstep with
    | some c => some (c.chain, c.msg.toNat, (match SMap.get none (s.part e.part.val).chains c.chain with
        | some ch => ch.digest
        | none => 0))
    | none => none
  let q := if e.stream then e.seq.toNat else 0
  e.ranks.eraseDups.foldl (fun s tl => s.updTile tl (fun x => { x with
    health := x.health.enter ⟨e.part, i, e.sq, e.cid.toNat, t, e.stream, q, q, chain⟩ })) s

/-- The journals of a request's tiles have room for one more of their 32,768 items (R30). -/
def State.journalRoom (s : State) (e : Ledger) : Bool := e.ranks.all (fun t => decide ((s.tile t).health.journal.length < 32768))

/-- Free a request's entry; what a stream's open entry still binds is released (R255). -/
def State.freeEntry (s : State) (i : Nat) : State := (if (s.led i).more then s.unbind i else s).setLed i {}

/-- Post a ready completion (R333): the CQ slot is written, the journal is kept and the entry is freed, or a stream goes on. While a
journal is full, an OK completion waits for the health pass that empties it (R29, R30, log entry 120). -/
def State.postLedger (s : State) (i : Nat) : State :=
  let e := s.led i
  let n := e.part.val
  match e.ready with
  | none => s
  | some (st, t) =>
    match SMap.get none (s.part n).cqs e.cq with
    | none => s.freeEntry i
    | some cq =>
      if cq.stopped then s.freeEntry i
      else if cq.room && (st != .ok || e.noout || s.journalRoom e) then
        let s := s.cqPut n e.cq (e.completion i st t)
        let s := if st = .ok && !e.noout then s.journal i e t else s
        if e.more && st = .ok then s.setLed i { e with state := .running, ready := none, ends := [], lastSeq := e.seq.toNat }
        else s.setLed i {}
      else s

/-! Capacity and dealing. -/

/-- The first index that a ledger lists nothing at, from `lo`, of a ledger that lists nothing below it. -/
def firstFree : Nat → SMap Ledger → Nat
  | lo, [] => lo
  | lo, (a, _) :: t => if lo < a then lo else firstFree (a + 1) t

/-- Ledger capacity: 131,072 entries for each bank present (R516). -/
def State.capacity (s : State) : Nat := s.boot.banks * 131072

/-- Strict partitions whose antes are reserved, in ascending order, and the entries reserved (R344, R516). -/
def State.reserved (s : State) : List Nat × Nat :=
  parts64.foldl (fun r n =>
    if s.isStrict n && decide (r.2 + (s.part n).ante ≤ s.capacity) then (r.1 ++ [n], r.2 + (s.part n).ante) else r) ([], 0)

/-- Ledger entries in use by Lent partitions. -/
def State.lentUse (s : State) : Nat := (s.ledger.filter (fun e => e.2.state != .free && !s.isStrict e.2.part.val)).length

/-- Where partition n's ledger entries lie: a Strict partition's reserved ante (R344) after those of the Strict partitions before it; a
Lent partition's ante after the reserved ones and those of the Lent partitions before it, modulo the entries that are shared. So an index
depends on no other partition's activity (R13, R17) while the antes fit into the ledger (log entry 21). -/
def State.ledgerBase (s : State) (n : Nat) : Nat :=
  let antes (l : List Nat) : Nat := (l.map (fun k => (s.part k).ante)).sum
  if s.isStrict n then antes (s.reserved.1.filter (fun k => decide (k < n)))
  else s.reserved.2 + antes ((List.range n).filter (fun k => s.valid k && !s.isStrict k)) % max 1 (s.capacity - s.reserved.2)

/-- The ledger index of partition n's next request: the first free one from its own base up, then from the first shared one
(log entry 21). -/
def State.freeIndex (s : State) (n : Nat) : Nat :=
  let from_ (b : Nat) : Nat := firstFree b (s.ledger.filter (fun e => decide (b ≤ e.1)))
  let i := from_ (s.ledgerBase n)
  if i < s.capacity then i else from_ (if s.isStrict n then 0 else s.reserved.2)

/-- Ante and ledger room for one more request of partition n (R343, R344). -/
def State.ledgerRoom (s : State) (n : Nat) (trump : Bool) : Bool :=
  let used := (s.ledgerOf n).length
  let ante := (s.part n).ante
  let lim := if trump then ante else ante - ante * s.trumpShare n / 16
  decide (used < lim) && (s.isStrict n || decide (s.reserved.2 + s.lentUse < s.capacity))

/-- The target set of R346 among tiles that may be unavailable. -/
def State.targets (s : State) (n : Nat) (set : BitVec 64) : List Nat :=
  (s.tilesOf n).filter (fun t => set == 0 || set.getLsbD t)

/-- Room in a tile's hand for a class (R345). -/
def State.handRoom (s : State) (n t : Nat) (trump : Bool) : Bool :=
  let d := s.handDepth n
  decide ((s.tile t).hand.length < if trump then d else d - d * s.trumpShare n / 16)

/-- The tile of a list with the shortest hand; the lowest number breaks ties (R346). -/
def State.shortest (s : State) (ts : List Nat) : Option Nat :=
  ts.foldl (fun a t => match a with
    | some b => if (s.tile t).hand.length < (s.tile b).hand.length then some t else a
    | none => some t) none

/-- Choose `k` distinct tiles, rank 0 first (R346). -/
def State.choose (s : State) : Nat → List Nat → List Nat
  | 0, _ => []
  | k + 1, ts => match s.shortest ts with
    | some t => t :: State.choose s k (ts.filter (fun x => x != t))
    | none => []

/-- Join a hand: a normal entry at the back, a trump entry behind the last trump entry (R347). -/
def handJoin (hand : List HandEntry) (h : HandEntry) : List HandEntry :=
  if h.trump then
    let ts := hand.filter (·.trump)
    ts ++ [h] ++ hand.filter (fun x => !x.trump)
  else hand ++ [h]

/-- Deal one entry for each rank to its tile. -/
def State.dealRanks (s : State) (i : Nat) (tiles : List Nat) (trump : Bool) : State :=
  (tiles.mapIdx (fun r t => (r, t))).foldl (fun s x =>
    s.updTile x.2 (fun y => { y with hand := handJoin y.hand { ix := i, rank := x.1, trump := trump } })) s

/-- The retry hint of a declined request: ⌈H × S⌉ µs, at least 1 (R356). -/
def State.retryHint (s : State) (n : Nat) (ts : List Nat) : Nat :=
  let h := match s.shortest ts with
    | some t => (s.tile t).hand.length
    | none => 0
  let times := (s.part n).passTimes
  max 1 (if times.isEmpty then h else ceilDiv (h * times.sum) (times.length * 1000))

/-! Move lists. -/

/-- The outcome of translating a request's ranges (R242, R243, R247). -/
inductive TransRes where
  | ok (moves : List Move) (nrec : List Extent) (total : Nat)
  | unmapped
  | badLength
  deriving DecidableEq, Repr

/-- A move descriptor from its 32 bytes (R246). -/
def moveOf (d : Nat) : Move :=
  { src := BitVec.ofNat 64 d, dst := BitVec.ofNat 64 (d / 2 ^ 64), len := d / 2 ^ 128 % 2 ^ 32, phase := d / 2 ^ 160 % 4,
    kind := d / 2 ^ 162 % 4, srcLocal := d / 2 ^ 164 % 2 == 1, dstLocal := d / 2 ^ 165 % 2 == 1, pattern := BitVec.ofNat 64 (d / 2 ^ 192) }

/-- The form of a move descriptor (R247); `isMove` for a MOVE request. -/
def moveOk (d : Nat) (m : Move) (isMove : Bool) : Bool :=
  let fill := m.kind != 0
  decide (m.phase < 3) && decide (m.kind < 3) && d / 2 ^ 167 % 2 ^ 25 == 0 && decide (8 ≤ m.len) && m.len % 8 == 0
    && m.dst.toNat % 8 == 0 && (fill || m.src.toNat % 8 == 0) && ((m.phase == 2) == isMove)
    && !(isMove && (m.srcLocal || m.dstLocal))
    && (!m.dstLocal || decide (m.dst.toNat + m.len ≤ 2 ^ 24)) && (fill || !m.srcLocal || decide (m.src.toNat + m.len ≤ 2 ^ 24))

/-- Read the move list: descriptors as numbers up to LAST; `none` inside for a list that is unmapped. -/
def State.readMoves (n : Nat) (r : Word) : Nat → Nat → List Nat → State → (Option (List Nat) × Bool) × State
  | 0, _, acc, s => ((some acc.reverse, false), s)
  | f + 1, va, acc, s =>
    match s.range r .load va 32 with
    | (none, s) => ((none, false), s)
    | (some es, s) =>
      match s.readExtents n es with
      | (none, s) => ((none, false), s)
      | (some bs, s) =>
        let d := leNat bs
        if d / 2 ^ 166 % 2 = 1 then ((some (d :: acc).reverse, true), s)
        else State.readMoves n r f (va + 32) (d :: acc) s

/-- The extent of a local range of tile t. -/
def State.localExtent (s : State) (t off len : Nat) : List Extent := [{ pa := s.deviceNum * 2 ^ 46 + lsKey t off, len := len }]

/-- A move whose local ranges lie in the Local Store of the tile that serves rank 0 (R246). -/
def State.relocal (s : State) (t : Nat) (m : Move) : Move :=
  { m with
    srcExt := if m.kind = 0 ∧ m.srcLocal then s.localExtent t m.src.toNat m.len else m.srcExt
    dstExt := if m.dstLocal then s.localExtent t m.dst.toNat m.len else m.dstExt }

/-- Translate one range of a request after `tot` extents (R242, R243): its extents, or the outcome that ends the request. -/
def State.transRange (s : State) (r : Word) (k : AccessKind) (va len tot : Nat) : (List Extent ⊕ TransRes) × State :=
  match s.range r k va len with
  | (none, s) => (.inr .unmapped, s)
  | (some es, s) => (if 4096 < tot + es.length then .inr .badLength else .inl es, s)

/-- One side of a descriptor: a range of the dealt tile's Local Store, which is one extent, or of the partition's memory (R246). -/
def State.transSide (s : State) (r : Word) (tile : Nat) (k : AccessKind) (isLocal : Bool) (va len tot : Nat) : (List Extent ⊕ TransRes) × State :=
  if isLocal then (if 4096 < tot + 1 then .inr .badLength else .inl (s.localExtent tile va len), s) else s.transRange r k va len tot

/-- Translate each descriptor, `SRC` before `DST` (R243). -/
def State.transMoves (r : Word) (tile : Nat) : List Move → Nat → List Move → State → TransRes × State
  | [], tot, acc, s => (.ok acc.reverse [] tot, s)
  | m :: ms, tot, acc, s =>
    match (if m.kind ≠ 0 then (.inl [], s) else s.transSide r tile .load m.srcLocal m.src.toNat m.len tot) with
    | (.inr x, s) => (x, s)
    | (.inl se, s) =>
      match s.transSide r tile .store m.dstLocal m.dst.toNat m.len (tot + se.length) with
      | (.inr x, s) => (x, s)
      | (.inl de, s) => State.transMoves r tile ms (tot + se.length + de.length) ({ m with srcExt := se, dstExt := de } :: acc) s

/-- Translate the ranges of a request whose descriptors have been read, in the order of R243. -/
def State.transList (s : State) (r : Word) (tile movesVa : Nat) (ms : List Move) (nrec : Bool) (nrecVa : Nat) : TransRes × State :=
  match (if movesVa = 0 then (.inl [], s) else s.transRange r .load movesVa (32 * ms.length) 0) with
  | (.inr x, s) => (x, s)
  | (.inl le, s) =>
    match State.transMoves r tile ms le.length [] s with
    | (.ok ms _ tot, s) =>
      if nrec then
        (match s.transRange r .store nrecVa 288 tot with
         | (.inr x, s) => (x, s)
         | (.inl es, s) => (.ok ms es (tot + es.length), s))
      else (.ok ms [] tot, s)
    | x => x

/-- Read a request's move list and translate its ranges (R242, R243, R247). -/
def State.transAll (s : State) (n : Nat) (r : Word) (tile : Nat) (movesVa : Nat) (isMove nrec : Bool) (nrecVa : Nat) :
    TransRes × State :=
  if movesVa = 0 then s.transList r tile 0 [] nrec nrecVa
  else match State.readMoves n r 64 movesVa [] s with
    | ((none, _), s) => (.unmapped, s)
    | ((some _, false), s) => (.badLength, s)
    | ((some ds, true), s) =>
      if (ds.zip (ds.map moveOf)).all (fun x => moveOk x.1 x.2 isMove) then s.transList r tile movesVa (ds.map moveOf) nrec nrecVa
      else (.badLength, s)

/-- A pattern repeated over `len` bytes. -/
def patternBytes (p : Word) (len : Nat) : List Byte := (List.replicate (len / 8) (bvBytes p)).flatten

/-- Run the moves of a phase in list order (R248, R249): those of a dealt request by movers of its tile (R194), those of a MOVE request by
movers of the Control Die; false where a target refuses one (R250). -/
def State.runMoves (s : State) (n : Nat) (tile : Option Nat) (phase : Nat) : List Move → Bool × State
  | [] => (true, s)
  | m :: ms =>
    if m.phase ≠ phase then State.runMoves s n tile phase ms
    else
      let (src, s) :=
        if m.kind = 1 then (some (zeros m.len), s)
        else if m.kind = 2 then (some (patternBytes m.pattern m.len), s)
        else match tile with
          | some t => s.moverReadAll t m.srcExt
          | none => s.readExtents n m.srcExt
      match src with
      | none => (false, s)
      | some bs =>
        let (ok, s) := match tile with
          | some t => s.moverWriteAll t m.dstExt bs
          | none => s.writeExtents n m.dstExt bs
        if ok then State.runMoves s n tile phase ms else (false, s)

/-- Run the moves of a phase of a request (R246, R248). -/
def State.runPhase (s : State) (i phase : Nat) : Bool × State :=
  let e := s.led i
  s.runMoves e.part.val (if e.isMove then none else some e.tile) phase e.moves

/-! The numeric record. -/

/-- The 288 bytes of the numeric record (R191, R192). -/
def numericRecord (es : List RankEnd) : List Byte :=
  let flags := es.foldl (fun a r => a ||| r.flags) (0 : BitVec 5)
  let stats := es.any (·.stats)
  let bins := (List.range 64).map (fun i => min (2 ^ 32 - 1) ((es.map (fun r => (r.hist.getD i 0).toNat)).sum))
  leBytes 2 1 ++ leBytes 2 es.length ++ leBytes 4 (flags.toNat + 32 * b2n stats) ++ leBytes 8 (es.map (·.sat)).sum
    ++ leBytes 8 (es.map (·.flush)).sum ++ leBytes 8 (es.map (·.nan)).sum ++ (bins.map (leBytes 4)).flatten

/-! Admission. -/

/-- A field of a submission entry (R335). -/
def ent (e : BitVec 1024) (lo len : Nat) : Nat := fld e lo len

/-- The form checks of R335 and R336 that need no region. -/
def entryForm (e : BitVec 1024) : Option Status :=
  let op := ent e 0 8
  let rest (keep : List (Nat × Nat)) : Bool := (keep.foldl (fun x k => setFld x k.1 k.2 0) e) == 0
  if ent e 38 26 ≠ 0 ∨ ent e 13 3 ≠ 0 ∨ ent e 280 8 ≠ 0 ∨ ent e 688 336 ≠ 0 then some .badHeader
  else if op = 0 ∨ 4 < op then some .unknownOpcode
  else if 2 ≤ ent e 8 2 then some .badHeader
  else if op = 4 then (if rest [(0, 8), (672, 16)] then none else some .badHeader)
  else if op = 2 then (if rest [(0, 10), (16, 16), (224, 32), (288, 64)] then none else some .badHeader)
  else if ent e 672 16 ≠ 0 then some .badHeader
  else if e.getLsbD 11 ∧ (ent e 32 6 ≠ 0 ∨ op ≠ 1) then some .badHeader
  else if ent e 160 32 % 4 ≠ 0 then some .badLength
  else if ent e 288 64 % 32 ≠ 0 then some .badLength
  else if e.getLsbD 10 ∧ ent e 352 64 % 32 ≠ 0 then some .badLength
  else none

/-- The chain step of an entry (R317). -/
def stepOf (e : BitVec 1024) : ChainStep :=
  let c := ent e 416 256
  { chain := c % 64, rows := c / 2 ^ 8 % 128, member := c / 2 ^ 16 % 4096, srcRow := c / 2 ^ 32 % 4096,
    msg := BitVec.ofNat 32 (c / 2 ^ 64), dst := c / 2 ^ 96 % 2 ^ 24 }

/-- The number of ACM rows' bytes a message writes at `DST`: 512 bytes a row. -/
def ChainStep.bytes (c : ChainStep) : Nat := 512 * c.rows

/-- The checks of R318 and R327 on a chain step: the status and hint that answer it, or the member's tile. -/
def State.chainCheck (s : State) (n : Nat) (e : BitVec 1024) : (Status × Nat) ⊕ Nat :=
  let c := stepOf e
  let raw := ent e 416 256
  match SMap.get none (s.part n).chains c.chain with
  | none => .inl (.notPermitted, 0)
  | some ch =>
    let m := ch.members.getD c.member 0
    let fp64 := ch.header.getLsbD 8
    if ch.members.length ≤ c.member ∨ fld m 6 6 ≠ s.deviceNum then .inl (.notPermitted, 0)
    else if raw / 2 ^ 120 ≠ 0 ∨ raw / 2 ^ 44 % 2 ^ 20 ≠ 0 ∨ raw / 2 ^ 28 % 16 ≠ 0 ∨ raw / 2 ^ 15 % 2 ≠ 0 ∨ raw / 2 ^ 6 % 4 ≠ 0
      ∨ c.rows = 0 ∨ 64 < c.rows ∨ 4096 < c.srcRow + c.rows ∨ (fp64 ∧ (c.rows % 2 ≠ 0 ∨ c.srcRow % 2 ≠ 0))
      ∨ 2 ^ 24 < c.dst + c.bytes ∨ c.dst % 64 ≠ 0 then .inl (.badLength, 0)
    else if 65536 ≤ s.chainLog.length then
      let old := match s.chainLog with
        | x :: _ => x.time
        | [] => s.now
      .inl (.declined, ceilDiv (old + 16000000 - s.now) 1000)
    else .inr (fld m 0 6)

/-- True when a bound region serves the request: READY or UPDATING with a version (R253). -/
def Region.serves (g : Region) : Bool := (g.state == .ready || g.state == .updating) && g.version != 0

/-- The tile of the member that a chain step names, where it is one of this device (R346). -/
def State.chainTile (s : State) (n : Nat) (e : BitVec 1024) : Option Nat :=
  let c := stepOf e
  match SMap.get none (s.part n).chains c.chain with
  | none => none
  | some ch =>
    let m := ch.members.getD c.member 0
    if c.member < ch.members.length ∧ fld m 6 6 = s.deviceNum then some (fld m 0 6) else none

/-- True when the member a chain step names sits in an unavailable tile of this device: its target set is empty (R345, R346, R501). -/
def State.chainDown (s : State) (n : Nat) (e : BitVec 1024) : Bool :=
  match s.chainTile n e with
  | some t => (s.tile t).health.unavailable
  | none => false

/-- The region checks of R340 step 6 for one slot. -/
def State.regionCheck (s : State) (n slot : Nat) (weights : Bool) : Option Status :=
  let g := s.region slot
  if g.owner.map (·.val) ≠ some n ∨ g.weights ≠ weights then some .notPermitted
  else if g.serves then none
  else some .regionBusy

/-- True when the present floor lacks a unit the request needs (R340 step 3, R515). -/
def State.floorLacks (s : State) (n : Nat) : Bool :=
  s.boot.floor = 0 || s.boot.floor = 0xFF || (s.availOf n).isEmpty
  || s.hbmOut n
  || (s.isStrict n && !(s.reserved.1.contains n))

/-- STREAM_CLOSE (R355). -/
def State.closeStream (s : State) (n q : Nat) (cid target : BitVec 16) : State :=
  match (s.ledgerOf n).find? (fun i => let e := s.led i
      e.stream && e.sq == q && e.cid == target && !e.closing && !e.noout) with
  | none => s.answerReq n q cid .notPermitted 0
  | some i =>
    let s := s.updLed i (fun e => { e with closing := true })
    let running := (s.tilesOf n).any (fun t => match (s.tile t).run, (s.tile t).taken with
      | some r, _ => r.ix == i
      | none, some h => h.ix == i
      | none, none => false)
    let s := if running || !(s.led i).ends.isEmpty || (s.led i).state == .posting then s
      else (s.endRequest i .ok).updLed i (fun e => { e with noout := true, more := false })
    s.answerReq n q cid .ok 0

/-- The extents that partition n's requests hold. -/
def State.extentsOf (s : State) (n : Nat) : Nat := ((s.ledgerOf n).map (fun i => (s.led i).extents)).sum

/-- Count a request against the version it binds (R254, R255). -/
def State.bindRegion (s : State) (slot : Nat) : State := s.updRegion slot (fun g => { g with boundCur := g.boundCur + 1 })

/-- Join a partition's move queue: a normal request at the back, a trump request behind the last trump request (R349). -/
def State.joinMoves (s : State) (n i : Nat) (trump : Bool) : State :=
  let q := (s.part n).moveq
  let q' := if trump then q.filter (fun j => (s.led j).trump) ++ [i] ++ q.filter (fun j => !(s.led j).trump) else q ++ [i]
  s.updPart n (fun p => { p with moveq := q' })

/-- Steps 5 to 9 of R340 for a request of an admissible form; `ctile` is a chain step's target set (R346). A chain step that names no
member of this device has no tile: no hand is checked for it, and step 7 answers it (log entry 121). -/
def State.admitRoom (s : State) (n q : Nat) (e : BitVec 1024) (ctile : Option (List Nat)) : State :=
  let op := ent e 0 8
  let cid := BitVec.ofNat 16 (ent e 16 16)
  let trump := ent e 8 2 == 1
  let isMove := op == 2
  let set := BitVec.ofNat 64 (ent e 64 64)
  let passes := ent e 32 6 + 1
  let all := match ctile with
    | some ts => ts
    | none => (s.targets n set).filter (fun t => !(s.tile t).health.unavailable)
  let free := all.filter (fun t => s.handRoom n t trump)
  let handless := isMove || (ctile.isSome && all.isEmpty)
  let i := s.freeIndex n
  if !s.ledgerRoom n trump || (!handless && decide (free.length < passes)) || decide (s.capacity ≤ i) then
    s.answerReq n q cid .declined (s.retryHint n (if isMove then s.availOf n else all))
  else
    let ps := ent e 128 16
    let ws := ent e 144 16
    let wen := e.getLsbD 12
    match (if isMove then none else s.regionCheck n ps false), (if !isMove && wen then s.regionCheck n ws true else none) with
    | some st, _ => s.answerReq n q cid st 0
    | none, some st => s.answerReq n q cid st 0
    | none, none =>
      let chk : Option (Status × Nat) := if e.getLsbD 11 && !isMove then
          (match s.chainCheck n e with
           | .inl x => some x
           | .inr _ => none)
        else none
      match chk with
      | some (st, aux) => s.answerReq n q cid st aux
      | none =>
        let tiles := if isMove then [] else s.choose passes free
        match s.transAll n (s.part n).root (tiles.headD 0) (ent e 288 64) isMove (e.getLsbD 10 && !isMove) (ent e 352 64) with
        | (.unmapped, s) => s.answerReq n q cid .unmapped 0
        | (.badLength, s) => s.answerReq n q cid .badLength 0
        | (.ok ms nr tot, s) =>
          if 8 * (s.part n).ante < s.extentsOf n + tot then
            s.answerReq n q cid .declined (s.retryHint n (if isMove then s.availOf n else all))
          else
            let us := ent e 224 32
            let w := s.region ws
            let led : Ledger := {
              state := .dealt, stream := op == 3, trump := trump, part := Fin.ofNat 64 n, sq := q, cid := cid,
              rgn := if wen && !isMove then BitVec.ofNat 16 ws else 0, rgnValid := wen && !isMove, version := if wen && !isMove then w.version else 0,
              epoch := (s.part n).epoch, grainBase := BitVec.ofNat 24 (ent e 256 24),
              deadline := if us = 0 then 0 else s.now + 1000 * us, tile := tiles.headD 0, passes := passes - 1, extents := tot,
              isMove := isMove, arg := BitVec.ofNat 32 (ent e 192 32), tileset := set, progSlot := BitVec.ofNat 16 ps,
              progVersion := (s.region ps).version, progOff := BitVec.ofNat 32 (ent e 160 32), progBuf := (s.region ps).buf,
              wgtBuf := w.buf, movesVa := BitVec.ofNat 64 (ent e 288 64), moves := ms, nrec := e.getLsbD 10 && !isMove,
              nrecVa := BitVec.ofNat 64 (ent e 352 64), nrecExt := nr, cstep := if e.getLsbD 11 && !isMove then some (stepOf e) else none,
              cq := (match SMap.get none (s.part n).sqs q with
                | some sq => sq.cq
                | none => 0), ranks := tiles }
            let s := s.setLed i led
            if isMove then s.joinMoves n i trump
            else
              let s := s.bindRegion ps
              let s := if wen then s.bindRegion ws else s
              s.dealRanks i tiles trump

/-- The admission stage acts on one submission entry, in the order of R340. -/
def State.admitEntry (s : State) (n q : Nat) (e : BitVec 1024) : State :=
  let op := ent e 0 8
  let cid := BitVec.ofNat 16 (ent e 16 16)
  let set := BitVec.ofNat 64 (ent e 64 64)
  let passes := ent e 32 6 + 1
  let g := s.region (ent e 128 16)
  if s.boot.fault then s.answerReq n q cid .deviceFaulted 0
  else if (s.part n).fault then s.answerReq n q cid .partitionFaulted 0
  else match entryForm e with
    | some st => s.answerReq n q cid st 0
    | none =>
      let run := op == 1 || op == 3
      if run && g.owner.map (·.val) == some n && decide (g.size ≤ ent e 160 32) then s.answerReq n q cid .badLength 0
      else if run && decide ((s.targets n set).length < passes) then s.answerReq n q cid .badLength 0
      else if s.floorLacks n then s.answerReq n q cid .floorInsufficient 0
      else if e.getLsbD 11 && s.chainDown n e then s.answerReq n q cid .floorInsufficient 0
      else if run && !e.getLsbD 11
          && decide (((s.targets n set).filter (fun t => !(s.tile t).health.unavailable)).length < passes) then
        s.answerReq n q cid .floorInsufficient 0
      else if op = 4 then s.closeStream n q cid (BitVec.ofNat 16 (ent e 672 16))
      else
        s.admitRoom n q e (if e.getLsbD 11 then some (s.chainTile n e).toList else none)

/-- The SQ the stage reads next in partition n (R332, R333, R409): announced, not stopped, with CQ room. -/
def State.pickSq (s : State) (n : Nat) : Option Nat :=
  let p := s.part n
  if p.hold || !p.entry.valid || s.boot.floor = 0xFF then none
  else ((List.range 16).map (fun i => (p.lastSq + 1 + i) % 16)).find? (fun q => match SMap.get none p.sqs q with
    | some sq => !sq.stopped && sq.head != sq.tail && s.cqRoom n sq.cq
    | none => false)

/-- The bytes of an SQ entry: what the host's memory returned, or the partition's own memory (R329). -/
def State.sqEntry (s : State) (n : Nat) (sq : Sq) (given : BitVec 1024) : BitVec 1024 × State :=
  if sq.host then (given, s.atsTouch n (sq.base.toNat + 128 * sq.head))
  else match s.range (s.part n).root .load (sq.base.toNat + 128 * sq.head) 128 with
    | (some es, s) => (match s.readExtents n es with
      | (some bs, s) => (bytesBv 1024 bs, s)
      | (none, s) => (0, s))
    | (none, s) => (0, s)

/-- Read the next entry of partition n: the entry, its SQ, and the state with the SQ head advanced (R331, R332). -/
def State.takeEntry (s : State) (n : Nat) (given : BitVec 1024) : Option (Nat × BitVec 1024 × State) :=
  match s.pickSq n with
  | none => none
  | some q =>
    match SMap.get none (s.part n).sqs q with
    | none => none
    | some sq =>
      let (e, s) := s.sqEntry n sq given
      some (q, e, s.updPart n (fun p => { p with
        lastSq := q, sqs := SMap.put none p.sqs q (some { sq with head := if sq.head + 1 = sq.size then 0 else sq.head + 1 }) }))

/-- A ledger ECC error that the stage meets (R489). -/
def State.ledgerEcc (s : State) (x : LedgerEcc) : State :=
  match x with
  | .clean => s
  | .single i d => s.record { mkRec 0x0207 0 with unit := unitBank (i.toNat / 131072), ledger := i.toNat, detail := d.toNat }
  | .doubleWord0 i d => s.devFatal { mkRec 0x0207 2 with unit := unitBank (i.toNat / 131072), ledger := i.toNat, detail := d.toNat }
  | .doubleOther i d =>
    let e := s.led i.toNat
    let r : ErrRec := { mkRec 0x0207 3 with unit := unitBank (i.toNat / 131072), ledger := i.toNat, detail := d.toNat }
    if e.state = .free then s.record r else s.partFatal e.part.val r

/-- The stage reads an entry of SQ q whose opcode `want` accepts: a Lent partition's decision takes effect at once; a Strict
partition's entry is taken only at the start of a window, at most one in each, and decided at the next (R341, R342). -/
def State.submit (s : State) (n q : Nat) (given : BitVec 1024) (want : Nat → Bool) : State :=
  match s.takeEntry n given with
  | none => s
  | some (q', e, s') =>
    if q' ≠ q ∨ !want (ent e 0 8) then s
    else if s.isStrict n then
      (if (s.part n).deferred.isSome || s.lastWindow != some s.now then s else s'.updPart n (fun p => { p with deferred := some (q, e) }))
    else s'.admitEntry n q e

/-- SUBMIT_PASS: PASS, and an entry whose opcode is not listed (R335, R340). -/
def execSubmitPass (n : PartId) (q : Fin 16) (entry : BitVec 1024) (ecc : LedgerEcc) (s : State) : Host.Outcome State Fault Refusal :=
  .next (s.retry 136 (fun s => (s.ledgerEcc ecc).submit n q entry (fun op => op != 2 && op != 3 && op != 4)))

/-- SUBMIT_MOVE (R340, R349). -/
def execSubmitMove (n : PartId) (q : Fin 16) (entry : BitVec 1024) (s : State) : Host.Outcome State Fault Refusal :=
  .next (s.retry 136 (fun s => s.submit n q entry (fun op => op == 2)))

/-- SUBMIT_STREAM (R340, R353). -/
def execSubmitStream (n : PartId) (q : Fin 16) (entry : BitVec 1024) (s : State) : Host.Outcome State Fault Refusal :=
  .next (s.retry 136 (fun s => s.submit n q entry (fun op => op == 3)))

/-- SUBMIT_STREAM_CLOSE (R340, R355). -/
def execSubmitStreamClose (n : PartId) (q : Fin 16) (entry : BitVec 1024) (s : State) : Host.Outcome State Fault Refusal :=
  .next (s.retry 136 (fun s => s.submit n q entry (fun op => op == 4)))

/-- SQ_TAIL_WRITE (R331, R526). -/
def execSqTailWrite (n : PartId) (q : Fin 16) (v : Word) (s : State) : Host.Outcome State Fault Refusal :=
  .next (s.hostBell n (0x10000 + 8 * q.val) v)

/-- CQ_HEAD_WRITE (R333, R526). -/
def execCqHeadWrite (n : PartId) (q : Fin 16) (v : Word) (s : State) : Host.Outcome State Fault Refusal :=
  .next (s.hostBell n (0x10080 + 8 * q.val) v)

/-- Apply the deferred decision of a Strict partition and post its ready completions (R342). -/
def State.windowApply (s : State) (n : Nat) : State :=
  let d := (s.part n).deferred
  let s := s.updPart n (fun p => { p with deferred := none })
  let s := match d with
    | some (q, e) => s.admitEntry n q e
    | none => s
  (State.postAnswers 16 n s).forEach (s.ledgerOf n) (fun i s => s.postLedger i)

/-- ADMISSION_WINDOW: a 1 µs window of CI13 starts; each Strict partition's decision applies, its completions post, and at
most one entry of it is taken (R342). -/
def execAdmissionWindow (entries : List (PartId × BitVec 1024)) (s : State) : Host.Outcome State Fault Refusal :=
  .next (s.retry 136 (fun s =>
    let s := s.atLeast (boundary (match s.lastWindow with
      | some w => max s.now (w + 1)
      | none => s.now))
    let s := { s with lastWindow := some s.now }
    let s := s.forEach (parts64.filter s.isStrict) (fun n s => s.windowApply n)
    s.forEach (parts64.filter s.isStrict) (fun n s =>
      let given := ((entries.find? (fun x => x.1.val == n)).map (·.2)).getD 0
      match s.takeEntry n given with
      | some (q, e, s') => s'.updPart n (fun p => { p with deferred := some (q, e) })
      | none => s)))

/-- COMPLETION_POST (R333, R334): a Strict partition's posts at the first window after it is ready (R342). -/
def execCompletionPost (ix : LedgerIx) (s : State) : Host.Outcome State Fault Refusal :=
  let e := s.led ix.toNat
  .next (match e.ready with
    | some (_, t) => (if s.isStrict e.part.val then s.atLeast (boundary t) else s).postLedger ix.toNat
    | none => s)

/-- True while a rank of the request is in a hand, taken, running or holds its tile for a chain step. -/
def State.active (s : State) (i : Nat) : Bool :=
  (s.tilesOf (s.led i).part.val).any (fun t =>
    let x := s.tile t
    x.hand.any (fun h => h.ix == i) || (match x.taken with
      | some h => h.ix == i
      | none => false) || (match x.run with
      | some r => r.ix == i
      | none => false) || x.chainHold == some i)

/-- COMPLETION_READY (R352): every rank has ended; the moves of phase 1 and the numeric record are written, and the
completion becomes ready. A MOVE request is ready once its moves of phase 2 have run. -/
def execCompletionReady (ix : LedgerIx) (s : State) : Host.Outcome State Fault Refusal :=
  let i := ix.toNat
  let e := s.led i
  let n := e.part.val
  .next (
    if e.state ≠ .running ∨ e.ready.isSome ∨ e.more ∨ s.active i ∨ (!e.isMove && e.ends.isEmpty) then s
    else s.retry (64 + e.tile) (fun s => match e.trapped with
    | some r => s.endRequest i r.status
    | none =>
      let (ok, s) := s.runPhase i 1
      if !ok then s.endRequest i .notPermitted
      else
        let (ok, s) := if e.nrec then s.writeExtents n e.nrecExt (numericRecord e.ends) else (true, s)
        if !ok then s.endRequest i .notPermitted
        else if e.stream && !e.closing && (match e.rank0 with
            | some r => r.more
            | none => false) && s.endStatus n .ok == .ok then
          s.setLed i { e with more := true, state := .posting, ready := some (.ok, s.now) }
        else s.endRequest i .ok))

/-- STREAM_NEXT_PASS (R353, R354): the next pass of a stream whose output has posted is dealt; a closing stream ends. -/
def execStreamNextPass (ix : LedgerIx) (s : State) : Host.Outcome State Fault Refusal :=
  let i := ix.toNat
  let e := s.led i
  .next (
    if e.state = .running ∧ e.more ∧ e.ready = none then
      if e.closing then (s.endRequest i .ok).updLed i (fun e => { e with noout := true, more := false })
      else
        let ts := (s.targets e.part.val e.tileset).filter (fun t => !(s.tile t).health.unavailable)
        let tiles := s.choose (e.passes + 1) ts
        (s.setLed i { e with moves := e.moves.map (s.relocal (tiles.headD 0)), seq := e.seq + 1, more := false, ends := [], ranks := tiles, tile := tiles.headD 0, phase0 := false, done := 0 }).dealRanks i tiles e.trump
    else s)

/-- The translation of a request whose epoch is stale is made again, from the descriptors read at admission (R244, R246). -/
def State.retranslate (s : State) (i : Nat) : Option Status × State :=
  let e := s.led i
  let n := e.part.val
  if e.epoch = (s.part n).epoch then (none, s)
  else match s.transList (s.part n).root e.tile e.movesVa.toNat e.moves e.nrec e.nrecVa.toNat with
    | (.ok ms nr tot, s) => (none, s.setLed i { e with moves := ms, nrecExt := nr, extents := tot, epoch := (s.part n).epoch })
    | (.unmapped, s) => (some .unmapped, s)
    | (.badLength, s) => (some .badLength, s)

/-- The first dispatch of a request (R348, R244, R235): deadline, epoch, root, and the moves of a phase. -/
def State.firstDispatch (s : State) (i phase : Nat) : State :=
  let e := s.led i
  if e.deadline ≠ 0 ∧ e.deadline < s.now then s.endRequest i .declined
  else match s.retranslate i with
    | (some st, s) => s.endRequest i st
    | (none, s) =>
      let s := s.updLed i (fun e => { e with state := .running, root := some (s.part e.part.val).rootId })
      let (ok, s) := s.runPhase i phase
      if ok then s.updLed i (fun e => { e with phase0 := true }) else s.endRequest i .notPermitted

/-- DISPATCH (R244, R347, R348): an idle tile takes the front of its hand; a request's first dispatch checks the deadline and
the epoch and runs the moves of phase 0, which a stream runs again for every pass (R353). -/
def execDispatch (t : TileId) (s : State) : Host.Outcome State Fault Refusal :=
  let x := s.tile t
  .next (match x.hand with
    | [] => s
    | h :: rest =>
      if x.stopped || x.run.isSome || x.taken.isSome || x.chainHold.isSome || x.health.running.isSome || x.health.pending || x.health.unavailable then s
      else s.retry (64 + t.val) (fun s =>
        let s := s.setTile t { x with hand := rest, taken := some h }
        let e := s.led h.ix
        if e.state = .dealt then s.firstDispatch h.ix 0
        else if e.phase0 then s
        else
          let (ok, s) := s.runPhase h.ix 0
          if ok then s.updLed h.ix (fun e => { e with phase0 := true }) else s.endRequest h.ix .notPermitted))

/-- MOVE_DISPATCH (R349): a free Control Die mover serves the next move queue after the one it served last, and the moves of phase 2
run. -/
def execMoveDispatch (mover : Fin 8) (s : State) : Host.Outcome State Fault Refusal :=
  .next (match ((List.range 64).map (fun i => (SMap.get 63 s.lastMover mover.val + 1 + i) % 64)).find? (fun n =>
      !(s.part n).moveq.isEmpty && !(s.part n).fault && !s.boot.fault) with
    | none => s
    | some n =>
      s.retry (128 + mover.val) (fun s =>
        let i := (s.part n).moveq.headD 0
        let s := { s.updPart n (fun p => { p with moveq := p.moveq.tail }) with lastMover := SMap.put 63 s.lastMover mover.val n }
        s.firstDispatch i 2))

/-- The SQs and CQs of a queue pair: an SQ with its CQ, or a CQ with the SQs bound to it (R532). -/
def Part.pair (p : Part) (isCq : Bool) (q : Nat) : List Nat × List Nat :=
  if isCq then ((List.range 16).filter (fun i => match SMap.get none p.sqs i with
      | some x => x.cq == q
      | none => false), [q])
  else ([q], match SMap.get none p.sqs q with
      | some x => [x.cq]
      | none => [])

/-- Stop a queue pair: the SQ is no longer read, completions bound for the CQ are discarded and their entries freed,
`QFAIL` is set with a STATE event, and the partition gets a record (R532). -/
def State.stopQueue (s : State) (n : Nat) (isCq : Bool) (q : Nat) : State :=
  let (sqs, cqs) := (s.part n).pair isCq q
  let s := s.updPart n (fun p => { p with
    sqs := sqs.foldl (fun m i => SMap.put none m i ((SMap.get none m i).map (fun x => { x with stopped := true }))) p.sqs,
    cqs := cqs.foldl (fun m i => SMap.put none m i ((SMap.get none m i).map (fun x => { x with stopped := true }))) p.cqs,
    answers := p.answers.filter (fun a => !cqs.contains a.cq),
    partStat := p.partStat ||| 0x10000 })
  let s := s.forEach ((s.ledgerOf n).filter (fun i => (s.led i).state == .posting && cqs.contains (s.led i).cq)) (fun i s => s.freeEntry i)
  let s := s.record { mkRec 0x0403 3 with part := n, unit := unitIsland 1 }
  s.event (Fin.ofNat 65 n) { kind := 7, part := n, time := s.now, body := [BitVec.ofNat 8 (fld (s.partStatus n) 0 3)] }

/-- QUEUE_DMA_FAILURE (R532): a queue in host memory fails; a queue that does not exist or lies in device memory is untouched. -/
def execQueueDmaFailure (n : PartId) (isCq : Bool) (q : Fin 16) (s : State) : Host.Outcome State Fault Refusal :=
  let host := if isCq then (match SMap.get none (s.part n).cqs q with
      | some x => x.host
      | none => false) else (match SMap.get none (s.part n).sqs q with
      | some x => x.host
      | none => false)
  .next (if host then s.stopQueue n isCq q else s)

end Sys2Proof.Machine
end

