-- ==== Sys2Proof/Machine/Mailbox.lean ====
section
/-!
DEFINITION. The mailbox protocol (R366–R379, R381), the control pairs' interrupts (R367), work that waits for the shared engines (R465,
R469, R480), signed commands (R382, R383) and the serving of a held command (R375, R385, R565).
-/

namespace Sys2Proof.Machine

/-! The DRBG as firmware draws from it (R468, R469). -/

/-- True when a generate must reseed first (R469). -/
def State.reseedDue (s : State) (fresh : Bool) : Bool :=
  fresh || decide (65536 ≤ s.eng.drbg.served) || decide (s.eng.drbg.seededAt + 10000000000 ≤ s.now)

/-- The personalisation string: fuse word 24 and 32 zero bytes (R468). -/
def State.persString (s : State) : List Byte := bvBytes (SMap.get 0 s.sec.latched 24) ++ zeros 32

/-- A generate of `n` bytes, reseeding from a conditioned window when due; none while it must wait, and before the DRBG is instantiated
(R459, R465, R468, R469). -/
def State.drbgGen (s : State) (fresh : Bool) (n : Nat) : Option (List Byte) × State :=
  let u := s.eng.drbg
  if !u.live then (none, s)
  else if s.reseedDue fresh then
    match s.eng.entropy.ready with
    | [] => (none, s)
    | w :: rest =>
      let (bs, d) := (u.d.reseed w).generate n
      (some bs, { s with eng := { s.eng with entropy := { s.eng.entropy with ready := rest }, drbg := { u with d := d, served := 1, seededAt := s.now } } })
  else
    let (bs, d) := u.d.generate n
    (some bs, { s with eng := { s.eng with drbg := { u with d := d, served := u.served + 1 } } })

/-- True while the unit is permanently failed (R464). -/
def State.entropyDead (s : State) : Bool := s.eng.entropy.state == 3

/-- A generate can be served now: the DRBG is instantiated, and no reseed is due or a conditioned window is there (R465, R468, R469). -/
def State.canDraw (s : State) (fresh : Bool) : Bool := s.eng.drbg.live && (!s.reseedDue fresh || !s.eng.entropy.ready.isEmpty)

/-! Work that waits for the shared engines. -/

def State.setTasks (s : State) (f : List Task → List Task) : State := { s with eng := { s.eng with tasks := f s.eng.tasks } }

/-- The context on whose slots a piece of work is done (R469, R480): a VF's own; the operator's 65; the security monitor's 64 for the PF's
responder and for the device report. A partition report that the operator asks for is the operator's (log entry 139). -/
def Work.ctx (w : Work) : Nat :=
  let box (m : MbxId) : Nat := if m.val = 64 then 65 else m.val
  match w with
  | .grainSeed n _ => n.val
  | .report m _ dev => if dev then 64 else box m
  | .nonce m => box m
  | .signed m _ => box m
  | .image m _ _ _ => box m
  | .spdm f _ => f.val

/-- The task waits for entropy: its next need is a generate that cannot be served now (R465). -/
def State.starved (s : State) (t : Task) : Bool :=
  match t.needs with
  | .gen fresh _ :: _ => !s.canDraw fresh
  | _ => false

/-- An answer leaves a function's DOE mailbox and raises vector 2 (R438, R530). -/
def State.spdm (s : State) (f : FnId) (a : SpdmAnswer) : State := (s.emit (.spdm f a)).msix f 2

def State.spdmError (s : State) (f : FnId) (e : SpdmError) : State := s.spdm f (.error e)

/-- The responder of function f (R438). -/
def State.responder (s : State) (f : FnId) : Responder := SMap.get {} s.sec.responders f.val

def State.updResponder (s : State) (f : FnId) (g : Responder → Responder) : State :=
  { s with sec := { s.sec with responders := SMap.upd {} s.sec.responders f.val g } }

/-- An SPDM request is deferred under the responder's next token: ERROR ResponseNotReady (R438, R441). -/
def State.deferSpdm (s : State) (f : FnId) (q : SpdmReq) (since : Nat) : State :=
  let r := s.responder f
  (s.updResponder f (fun r => { r with wait := some ⟨r.nextToken, q, since⟩, nextToken := r.nextToken + 1 })).spdmError f
    (.responseNotReady r.nextToken)

/-- A held command of a mailbox that has not been answered. -/
def State.heldOf (s : State) (m : MbxId) (tag : BitVec 16) (ops : List Nat) : Option Held :=
  (s.box m).held.find? (fun h => h.tag == tag && ops.contains h.opcode && !h.served)

/-- Work that cannot have its entropy ends (R441, R465). A mailbox whose nonce is due has none until a draw gives it one; while the unit can
still recover the draw goes on waiting (log entry 141). -/
def State.failTask (s : State) (t : Task) : State :=
  let gone := s.setTasks (fun ts => ts.filter (fun x => x.work != t.work))
  let unavailable (m : MbxId) (tag : BitVec 16) (ops : List Nat) : State :=
    match gone.heldOf m tag ops with
    | some h => gone.answer m h .entropyUnavailable []
    | none => gone
  match t.work with
  | .grainSeed n tag => unavailable (Fin.ofNat 65 n) tag [0x0703]
  | .report m tag _ => unavailable m tag [0x0701, 0x0702]
  | .nonce _ => if s.entropyDead then gone else s.setTasks (fun ts => ts.map (fun x => if x.work = t.work then { x with since := s.now } else x))
  | .spdm f _ => gone.spdmError f .unspecified
  | _ => gone

/-- Work begins to wait for its engines (R76, R465), once; while the unit is permanently failed, work that needs it ends at once. -/
def State.addTask (s : State) (w : Work) (needs : List Need) : State :=
  if s.eng.tasks.any (fun t => t.work == w) then s
  else
    let t : Task := { work := w, needs := needs, since := s.now }
    let s := s.setTasks (fun ts => ts ++ [t])
    if s.entropyDead && s.starved t then s.failTask t else s

/-! The header (R374). -/

def hMagic (h : List Byte) : Nat := at' h 0 2
def hVersion (h : List Byte) : Nat := at' h 2 1
def hFlags (h : List Byte) : Nat := at' h 3 1
def hOpcode (h : List Byte) : Nat := at' h 4 2
def hTag (h : List Byte) : BitVec 16 := BitVec.ofNat 16 (at' h 6 2)
def hLength (h : List Byte) : Nat := at' h 8 2
def hPart (h : List Byte) : Nat := at' h 10 1
def hCred (h : List Byte) : Nat := at' h 11 1
def hStatus (h : List Byte) : Nat := at' h 12 2
def hSeg (h : List Byte) : Nat := at' h 16 1 % 16

/-- Step 1 of R375: a well-formed request header. -/
def headerOk (h : List Byte) : Bool :=
  hMagic h == 0x564C && hVersion h == 0x32 && hFlags h / 2 % 2 == 0 && hFlags h / 8 == 0 && hPart h < 128
    && hStatus h == 0 && at' h 14 2 == 0 && at' h 16 16 / 16 == 0 && hTag h != 0xFFFF

/-- The request lengths that an opcode's payload table allows (R386); none for an opcode not in the catalogue (R384). -/
def lengthOk (op : Nat) : Option (Nat → Bool) :=
  match op with
  | 0x0101 | 0x0102 | 0x0103 | 0x0305 | 0x0705 | 0x0802 => some (· == 0)
  | 0x0201 | 0x0501 | 0x0801 => some (· == 24)
  | 0x0202 | 0x0203 | 0x0404 | 0x0405 | 0x0502 | 0x0503 | 0x0602 | 0x0803 | 0x0901 | 0x0902 | 0x0A01 | 0x0A02 => some (· == 8)
  | 0x0301 => some (fun l => decide (96 ≤ l) && decide (l ≤ 4064))
  | 0x0302 => some (· == 152)
  | 0x0303 | 0x0304 => some (· == 104)
  | 0x0401 => some (fun l => decide (32 ≤ l) && decide (l ≤ 8 + 24 * 256) && (l - 8) % 24 == 0)
  | 0x0402 => some (· == 64)
  | 0x0403 => some (· == 72)
  | 0x0504 => some (· == 16)
  | 0x0601 => some (fun l => decide (18 ≤ l) && decide (l ≤ 16 + 2 * 4096) && l % 2 == 0)
  | 0x0701 | 0x0702 | 0x0703 => some (· == 40)
  | 0x0704 => some (· == 104)
  | _ => none

/-- True for the commands that may be segmented (R376, R386). -/
def segmentable (op : Nat) : Bool := op == 0x0401 || op == 0x0601

/-- The callers of the catalogue and the PARTITION of R377: the operator names the partition that a command targets, or
0x7F for a command about the device. -/
def State.callerOk (s : State) (m : MbxId) (op part : Nat) : Bool :=
  if m.val < 64 then
    part == m.val && !(op ∈ [0x0201, 0x0202, 0x0503, 0x0901, 0x0902, 0x0A01])
  else
    let opt := decide (part < 64)
    if op ∈ [0x0703, 0x0704, 0x0705] then false
    else if op ∈ [0x0401, 0x0402, 0x0403, 0x0404, 0x0501, 0x0502, 0x0504, 0x0601, 0x0602, 0x0702, 0x0803] then opt && !(s.part part).conf
    else if op ∈ [0x0405, 0x0503, 0x0802, 0x0A02] then opt
    else if op ∈ [0x0203, 0x0801, 0x0902] then opt || part == 0x7F
    else part == 0x7F

/-- A response that refuses a message in steps 1 and 2 of R375: TAG 0xFFFF and the refused header. -/
def State.refuseHeader (s : State) (m : MbxId) (h : List Byte) : State :=
  s.respond m h 0xFFFF 0xFFFF (s.box m).bellTime .badHeader false (padTo 32 h)

/-- Drop a segmented command with BAD_LENGTH (R376). -/
def State.dropSeg (s : State) (m : MbxId) : State :=
  match (s.box m).seg with
  | none => s
  | some g => (s.updBox m (fun b => { b with seg := none })).respond m g.hdr g.tag g.tag s.now .badLength true []

/-- Hold a command (R372). -/
def State.hold (s : State) (m : MbxId) (h : Held) : State :=
  s.updBox m (fun b => { b with held := b.held.filter (fun x => x.tag != h.tag) ++ [h] })

/-- The checks of steps 3 to 5 of R375 and the joining of segments (R376). A refused command is held until its answer is posted (R372). -/
def State.takeChecked (s : State) (m : MbxId) (h pay : List Byte) (seg : Option Seg) : State :=
  let op := hOpcode h
  let bell := (s.box m).bellTime
  let more := hFlags h % 2 == 1
  let whole := (match seg with
    | some g => g.payload
    | none => []) ++ pay
  let reject (st : Status) : State :=
    let c : Held := { tag := hTag h, opcode := op, part := hPart h, cred := hCred h, hdr := h, payload := [], bell := bell, served := true }
    ((s.hold m c).updBox m (fun b => { b with seg := if seg.isSome then none else b.seg })).respond m h (hTag h) (hTag h) bell st true []
  match lengthOk op with
  | none => reject .unknownOpcode
  | some ok =>
    if 4064 < hLength h ∨ (more ∧ (!segmentable op ∨ hLength h ≠ 4064 ∨ hSeg h = 15)) ∨ (!more ∧ !ok whole.length) then reject .badLength
    else if !s.callerOk m op (hPart h) then reject .notPermitted
    else
      let c : Held := { tag := hTag h, opcode := if more then 0x10000 else op, part := hPart h, cred := hCred h, hdr := h,
                        payload := whole, bell := bell }
      let s := s.hold m c
      s.updBox m (fun b => { b with seg := if more then some ⟨hTag h, h, whole, hSeg h, s.now + 5000000000⟩ else
        (if seg.isSome then none else b.seg) })

/-- Avrak takes the message in `MBX_REQ`, clears REQ and checks the header (R371, R372, R375, R376). -/
def State.takeMessage (s : State) (m : MbxId) : State :=
  let b := s.box m
  if !b.bellReq || !b.ready || decide (8 ≤ b.held.length) then s
  else
    let s := s.updBox m (fun b => { b with bellReq := false, takeAt := none })
    let h := SMap.getMany 0 b.req 0 32
    let pay := SMap.getMany 0 b.req 32 (min 4064 (hLength h))
    if !headerOk h then s.refuseHeader m h
    else match b.seg with
    | some g =>
      if g.tag = hTag h then
        (if hSeg h = g.index + 1 ∧ slice h 4 2 = slice g.hdr 4 2 ∧ slice h 10 2 = slice g.hdr 10 2 then s.takeChecked m h pay (some g)
         else s.refuseHeader m h)
      else
        let s := s.dropSeg m
        if (s.box m).held.any (fun x => x.tag == hTag h) || hSeg h != 0 then s.refuseHeader m h else s.takeChecked m h pay none
    | none =>
      if b.held.any (fun x => x.tag == hTag h) || hSeg h != 0 then s.refuseHeader m h else s.takeChecked m h pay none

/-! Control pairs (R366, R367). -/

def State.irq (s : State) (p : Nat) : ControlPair := SMap.get {} s.boot.irqs p

def State.setIrq (s : State) (p : Nat) (x : ControlPair) : State := { s with boot := { s.boot with irqs := SMap.put {} s.boot.irqs p x } }

/-- The pair that serves mailbox m (R366, R514): pair 0 at Floor 0, else pair 1 or 2 by role; the lowest present pair takes an absent one's
role. -/
def State.servingPair (s : State) (m : MbxId) : Nat :=
  let role := if m.val = 64 then 1 else 2
  if s.boot.floor = 0 ∨ s.boot.floor = 0xFF then 0
  else if s.boot.pairs.getLsbD role then role
  else ([1, 2, 3].find? (fun p => s.boot.pairs.getLsbD p)).getD 0

/-- Insert an interrupt source in ascending order, once. -/
def insertSource (m : Nat) : List Nat → List Nat
  | [] => [m]
  | x :: t => if m < x then m :: x :: t else if m = x then x :: t else x :: insertSource m t

/-- The handler of mailbox m's bell: the message is taken; a Strict mailbox's is taken 2 µs after the bell (R371, R372, R381). -/
def State.bellHandler (s : State) (m : MbxId) : State :=
  let b := s.box m
  if s.strictBox m then
    (if b.bellReq && b.takeAt.isNone && decide (b.held.length < 8) then s.updBox m (fun b => { b with takeAt := some (b.bellTime + 2000) }) else s)
  else s.takeMessage m

/-- Pair p runs its pending handlers in ascending source number in the handler bank, each to its end, and returns to the working bank: an entry
is 20 steps, a handoff 5 and the return 12 (R367). The first argument bounds the handlers. -/
def State.runHandlers (p : Nat) : Nat → State → State
  | 0, s => s
  | k + 1, s =>
    let x := s.irq p
    match x.pending with
    | [] => if x.handler.isSome then s.setIrq p { x with handler := none, steps := x.steps + 12 } else s
    | m :: rest =>
      let s := s.setIrq p { pending := rest, handler := some m, steps := x.steps + if x.handler.isSome then 5 else 20 }
      State.runHandlers p k (s.bellHandler (Fin.ofNat 65 m))

/-- Every pair takes its pending interrupts. -/
def State.takeIrqs (s : State) : State := [0, 1, 2, 3].foldl (fun s p => s.runHandlers p 66) s

/-- `MBX_BELL.REQ` is set: an interrupt at the serving pair (R366, R369). A bell of a mailbox that no pair serves yet waits (R550, R551). -/
def State.setReq (s : State) (m : MbxId) : State :=
  if (s.box m).bellReq then s
  else
    let s := s.updBox m (fun b => { b with bellReq := true, bellTime := s.now })
    if !(s.box m).ready then s
    else
      let p := s.servingPair m
      let x := s.irq p
      s.setIrq p { x with pending := insertSource m.val x.pending }

/-- The mailboxes open: a message that came before is taken (R551). -/
def State.raiseHeld (s : State) : State :=
  ((List.range 65).map (Fin.ofNat 65)).foldl (fun (s : State) (m : MbxId) =>
    if (s.box m).bellReq && (s.box m).ready then
      let p := s.servingPair m
      s.setIrq p { s.irq p with pending := insertSource m.val (s.irq p).pending }
    else s) s

/-- `MBX_BELL.REQ` is written 1 (R369, R371). -/
def State.ringReq (s : State) (m : MbxId) : State := (s.setReq m).takeIrqs

/-- MBX_BELL_REQ (R366, R367, R369, R371, R372): bells that ring at once; the serving pairs take them in ascending source number
(log entry 146). -/
def execMbxBellReq (ms : List MbxId) (s : State) : Host.Outcome State Fault Refusal := .next (ms.foldl State.setReq s).takeIrqs

/-- A control pair's comparator finds a mismatch (R502, R552): device-fatal, but while the device boots the pair counts as absent. -/
def State.pairMismatch (s : State) (p : Nat) : State :=
  let t := s.devFatal { mkRec 0x0501 2 with unit := unitPair p }
  if s.booting then
    { t with boot := { t.boot with sharedFail := unitPair p :: t.boot.sharedFail, pairs := t.boot.pairs &&& ~~~(BitVec.ofNat 4 (2 ^ p)) } }
  else t

/-- MBX_MESSAGE_TAKE (R372, R381): a waiting message is taken once fewer than 8 commands are held, on a Strict mailbox exactly 2 µs after the bell
or after the posting that made room. -/
def execMbxMessageTake (m : MbxId) (cc : Option (Fin 4)) (s : State) : Host.Outcome State Fault Refusal :=
  .next (match cc with
    | some p => s.pairMismatch p.val
    | none =>
      if s.strictBox m then
        (match (s.box m).takeAt with
         | some t => (s.atLeast t).takeMessage m
         | none => s)
      else s.takeMessage m)

/-- `MBX_BELL.RSP_DONE` is set (R373, R379). Where no response is loaded there is no window to release, and the bit is cleared as it is set:
the spec does not say what follows such a bell (log entry 138). -/
def State.ringDone (s : State) (m : MbxId) : State :=
  let b := s.box m
  if b.rspValid then
    let held := match b.loaded with
      | some (tag, false) => b.held.map (fun h => if h.tag = tag ∧ h.accepted = 1 then { h with accepted := 2 } else h)
      | _ => b.held
    ((s.setBox m { b with rspValid := false, rspDone := false, loaded := none, held := held }).finishLong m).pump m
  else s

/-- MBX_BELL_RSP_DONE (R373, R379): the window is released, an ACCEPTED counts as released, and the next answer loads. -/
def execMbxBellRspDone (m : MbxId) (s : State) : Host.Outcome State Fault Refusal := .next (s.ringDone m)

/-- `MBX_BELL.EVT_HEAD` is written (R369, R395). -/
def State.setEvtHead (s : State) (m : MbxId) (v : BitVec 8) : State := (s.updBox m (fun b => { b with evtHead := v })).pump m

/-- MBX_EVT_HEAD_WRITE (R369, R395): slots are freed and held events post. -/
def execMbxEvtHeadWrite (m : MbxId) (v : BitVec 8) (s : State) : Host.Outcome State Fault Refusal := .next (s.setEvtHead m v)

/-- SEGMENT_GAP_TIMEOUT (R376). -/
def execSegmentGapTimeout (m : MbxId) (s : State) : Host.Outcome State Fault Refusal :=
  .next (match (s.box m).seg with
    | some g => (s.atLeast (g.deadline + 1)).dropSeg m
    | none => s)

/-- The next response is due at the coming boundary, or no event can post there, so that the next boundary that counts is the response's. -/
def State.rspTurn (s : State) (m : MbxId) (r : Rsp) : Bool :=
  let b := s.box m
  decide (r.due ≤ boundary s.now) || b.events.isEmpty || decide (16 ≤ (b.evtTail - b.evtHead).toNat)

/-- STRICT_MAILBOX_POST (R381): at a 1 µs boundary a Strict partition's answers and events that are due are posted. -/
def execStrictMailboxPost (m : MbxId) (s : State) : Host.Outcome State Fault Refusal :=
  let b := s.box m
  .next (if s.strictBox m then
      match b.rspValid, b.rsps with
      | false, r :: _ =>
        if s.rspTurn m r then
          let s := s.atLeast (max r.due (boundary s.now))
          State.postEvents 16 m (s.loadRsp m)
        else State.postEvents 16 m (s.atLeast (boundary s.now))
      | _, _ => State.postEvents 16 m (s.atLeast (boundary s.now))
    else s)

/-! Serving a held command. -/

/-- The Floor 0 set (R385). -/
def floor0Set (op : Nat) : Bool := op == 0x0101 || op == 0x0102 || op == 0x0801 || op == 0x0701

/-- The commands that need HBM for a partition with an HBM extent (R515): MAP_UPDATE, REGION_CREATE, REGION_UPDATE, QUEUE_CREATE
and CONFIDENTIAL_ENTER (log entry 114). -/
def hbmSet (op : Nat) : Bool := op == 0x0401 || op == 0x0402 || op == 0x0403 || op == 0x0501 || op == 0x0705

/-- The answers that any command may get after its payload checks (R385). -/
def State.gate (s : State) (m : MbxId) (h : Held) : Option Status :=
  let target := if m.val < 64 then m.val else h.part
  if s.boot.fault && !floor0Set h.opcode then some .deviceFaulted
  else if target < 64 && (s.part target).fault
      && !(h.opcode ∈ [0x0101, 0x0102, 0x0801, 0x0803, 0x0504, 0x0701, 0x0702, 0x0802]) then some .partitionFaulted
  else if (s.boot.floor = 0 || s.boot.floor = 0xFF) && !floor0Set h.opcode then some .floorInsufficient
  else if target < 64 && hbmSet h.opcode && s.hbmOut target then some .floorInsufficient
  else none

/-- Serve the held command with this tag and opcode: the payload checks of R565, the answers of R385, then its meaning.
Where the mailbox holds no such command, nothing happens (log entry 2). -/
def State.serve (s : State) (m : MbxId) (tag : BitVec 16) (op : Nat) (chk : List Byte → Option Status)
    (run : Held → State → State) : State :=
  match (s.box m).held.find? (fun h => h.tag == tag && h.opcode == op && !h.served) with
  | none => s
  | some h =>
    match chk h.payload with
    | some st => s.answer m h st []
    | none =>
      match s.gate m h with
      | some st => s.answer m h st []
      | none => run h s

/-- The partition a command targets: the VF's own, or the header's. -/
def targetOf (m : MbxId) (h : Held) : Nat := if m.val < 64 then m.val else h.part

/-- NOT_PERMITTED unless reserved bytes are zero (R565). -/
def reservedZero (p : List Byte) (ranges : List (Nat × Nat)) : Option Status :=
  if ranges.all (fun r => allZero (slice p r.1 r.2)) then none else some .notPermitted

/-- The first status of a list of checks. -/
def firstOf (l : List (Option Status)) : Option Status := l.findSome? (fun x => x)

/-- A check that fails with a status. -/
def need (ok : Bool) (st : Status) : Option Status := if ok then none else some st

/-- Verify a signed command (R382). -/
def State.signedOk (s : State) (m : MbxId) (h : Held) : Bool :=
  let c := SMap.get {} s.cfg.prot.auth h.cred
  let hd := slice h.hdr 0 6 ++ zeros 2 ++ slice h.hdr 8 4 ++ zeros 2 ++ slice h.hdr 14 2 ++ [h.hdr.getD 16 0 &&& 0xF0] ++ slice h.hdr 17 15
  let n := h.payload.length - 96
  decide (h.cred < 16) && c.role != 0 && (at' h.hdr 3 1 / 4 % 2 == 1) && !(s.box m).nonce.isEmpty
    && verifyMsg c.keyX.toNat c.keyY.toNat ((s.box m).nonce ++ hd ++ h.payload.take n) (h.payload.drop n)

/-- A signed command waits for its signature check on the signature engine (R382, R480). -/
def State.askSigned (s : State) (m : MbxId) (h : Held) : State := s.addTask (.signed m h.tag) [.p384]

/-- A mailbox's protection nonce is replaced with a DRBG value: it has none until the draw (R383). -/
def State.newNonce (s : State) (m : MbxId) : State := (s.updBox m (fun b => { b with nonce := [] })).addTask (.nonce m) [.gen false 32]

/-- The first nonce of a mailbox, as start-up draws it (R383). -/
def State.firstNonce (s : State) (m : MbxId) : State :=
  match s.drbgGen false 32 with
  | (some bs, s) => s.updBox m (fun b => { b with nonce := bs })
  | (none, s) => s.newNonce m

/-! Writes into a mailbox block. -/

/-- A write to `MBX_BELL` (R369): all its fields at once. -/
def State.bellWrite (s : State) (m : MbxId) (v : Word) : State :=
  let s := s.setEvtHead m (BitVec.ofNat 8 (fld v 8 8))
  let s := if v.getLsbD 0 then s.ringReq m else s
  if v.getLsbD 1 then s.ringDone m else s

/-- True for a write that a register takes: 4 or 8 bytes, aligned. -/
def regTlp (off : Nat) (bs : List Byte) : Bool := decide (bs.length = 4 ∨ bs.length = 8) && decide (off % bs.length = 0)

/-- A write into a mailbox block (R368, R371, R563): the request window takes whole aligned 4-byte words and ignores them while `REQ`
is 1; the answer and event windows are Avrak's. None where the access is malformed. -/
def State.boxPut (s : State) (m : MbxId) (off : Nat) (bs : List Byte) : Option State :=
  if off < 0x2800 then
    let top := if off < 0x1000 then 0x1000 else if off < 0x2000 then 0x2000 else 0x2800
    if off % 4 ≠ 0 ∨ bs.length % 4 ≠ 0 ∨ bs = [] ∨ 512 < bs.length ∨ top < off + bs.length then none
    else if off < 0x1000 ∧ !(s.box m).bellReq then some (s.updBox m (fun b => { b with req := SMap.putMany 0 b.req off bs }))
    else some s
  else if !regTlp off bs then none
  else if off = 0x2800 then some (s.bellWrite m (bytesBv 64 bs))
  else some s

end Sys2Proof.Machine
end

