-- ==== Sys2Proof/Machine/Tables.lean ====
section
/-!
DEFINITION. Partition tables, the Protection Authority List (R413–R416), dealt rotations (R69–R73, R561) and configuration
images (R400–R404).
-/

namespace Sys2Proof.Machine

/-! The partition table entry (R413). -/

/-- An entry from its 64 bytes. -/
def PartEntry.ofBv (x : BitVec 512) : PartEntry :=
  { tiles := BitVec.ofNat 64 (fld x 0 64),
    ext := (List.range 4).map (fun i => (BitVec.ofNat 32 (fld x (64 + 64 * i) 32), BitVec.ofNat 32 (fld x (96 + 64 * i) 32))),
    ante := BitVec.ofNat 32 (fld x 320 32), regionQuota := BitVec.ofNat 16 (fld x 352 16), chainQuota := BitVec.ofNat 7 (fld x 368 7),
    share := BitVec.ofNat 8 (fld x 376 8), valid := bit x 384, strict := bit x 385, conf := bit x 386, cipher := bit x 387,
    vfEn := bit x 388 }

/-- The 64 bytes of an entry, as a number. -/
def PartEntry.toNat (e : PartEntry) : Nat :=
  e.tiles.toNat + (e.ext.mapIdx (fun i x => x.1.toNat * 2 ^ (64 + 64 * i) + x.2.toNat * 2 ^ (96 + 64 * i))).sum
    + e.ante.toNat * 2 ^ 320 + e.regionQuota.toNat * 2 ^ 352 + e.chainQuota.toNat * 2 ^ 368 + e.share.toNat * 2 ^ 376
    + b2n e.valid * 2 ^ 384 + b2n e.strict * 2 ^ 385 + b2n e.conf * 2 ^ 386 + b2n e.cipher * 2 ^ 387 + b2n e.vfEn * 2 ^ 388

/-- The 64 bytes of an entry. -/
def PartEntry.bytes (e : PartEntry) : List Byte := leBytes 64 e.toNat

/-- The ranges of R413, of an entry that has VALID set. -/
def entryRange (x : BitVec 512) : Bool :=
  let e := PartEntry.ofBv x
  !e.valid || (decide (1 ≤ e.ante.toNat) && decide (e.ante.toNat ≤ 262144) && decide (e.chainQuota.toNat ≤ 64) && decide (e.share.toNat ≤ 248))

/-- The ranges of R413; an entry with VALID clear has every other field zero (R414). Its reserved bits are not looked at (R4). -/
def entryOk (x : BitVec 512) : Bool :=
  let e := PartEntry.ofBv x
  if e.valid then entryRange x else e == PartEntry.ofBv 0

/-- The reserved bits of an entry are zero (R413). -/
def entryRsv (x : BitVec 512) : Bool := !bit x 375 && fld x 389 123 == 0

/-- True when the partition has an HBM extent. -/
def PartEntry.hasHbm (e : PartEntry) : Bool := e.ext.any (fun x => x.2 != 0)

/-! The authority list (R415, R416). -/

/-- An authority entry from its 104 bytes. -/
def credOf (x : BitVec 832) : Credential :=
  { role := BitVec.ofNat 8 (fld x 0 8), part := BitVec.ofNat 6 (fld x 8 6), keyX := BitVec.ofNat 384 (fld x 64 384),
    keyY := BitVec.ofNat 384 (fld x 448 384) }

/-- The 104 bytes of an authority entry. -/
def Credential.bytes (c : Credential) : List Byte :=
  leBytes 104 (c.role.toNat + c.part.toNat * 2 ^ 8 + c.keyX.toNat * 2 ^ 64 + c.keyY.toNat * 2 ^ 448)

/-- The 1,664 bytes of an authority list. -/
def authBytes (a : SMap Credential) : List Byte := ((List.range 16).map (fun i => (SMap.get {} a i).bytes)).flatten

/-- A list from its bytes; none for a reserved role, or a PART in an entry that is no TENANT's. Reserved bits are not looked at (R4). -/
def authOf (bs : List Byte) : Option (SMap Credential) :=
  let xs := (List.range 16).map (fun i => bytesBv 832 (slice bs (104 * i) 104))
  if bs.length == 1664 && xs.all (fun x => decide (fld x 0 8 ≤ 3) && (fld x 8 6 == 0 || fld x 0 8 == 3)) then
    some (SMap.putMany {} [] 0 (xs.map credOf))
  else none

/-- The reserved bits of a list's entries are zero (R415). -/
def authRsv (bs : List Byte) : Bool := (List.range 16).all (fun i => fld (bytesBv 832 (slice bs (104 * i) 104)) 14 50 == 0)

/-- The credentials of a list that are not empty. -/
def creds (a : SMap Credential) : List Credential := (a.map (·.2)).filter (fun c => c.role != 0)

/-- True when the list has a TENANT(n) entry. -/
def hasTenant (a : SMap Credential) (n : Nat) : Bool := (creds a).any (fun c => c.role == 3 && c.part.toNat == n)

/-- A valid authority list (R416). -/
def authListOk (a : SMap Credential) : Bool :=
  let cs := creds a
  cs.any (fun c => c.role == 1)
  && parts64.all (fun n => decide ((cs.filter (fun c => c.role == 3 && c.part.toNat == n)).length ≤ 1))
  && cs.all (fun c => validPoint c.keyX.toNat c.keyY.toNat)
  && cs.all (fun c => (cs.filter (fun d => d.keyX == c.keyX && d.keyY == c.keyY)).length == 1)

/-! Rotations. -/

/-- True when partition n's current root maps a page of another device (R561). -/
def State.mapsRemote (s : State) (n : Nat) : Bool :=
  (s.leaves (s.part n).root).any (fun p => paDev (leafPa p.2.1 p.2.2 0) != s.deviceNum)

/-- The participants of an arbiter, numbered as `CONFIG_READ` numbers them (R69, R386, R561), under a partition table that comes into force
now. Every HBM extent lies on all eight controllers (R413), so it lies behind every die. -/
def State.takesPart (s : State) (tab : SMap PartEntry) (a n : Nat) : Bool :=
  let e := SMap.get {} tab n
  e.valid && (
    if a < 8 then e.hasHbm || fld e.tiles (16 * (a % 4)) 16 != 0
    else if a < 10 then e.tiles != 0
    else if a < 18 then e.hasHbm
    else if a < 34 then (if e.strict then decide (1 < s.ergSize) else e.chainQuota != 0 || s.mapsRemote n)
    else true)

/-- The participants of an arbiter in force: the device links' are fixed between commits (R78, R561). -/
def State.joined (s : State) (a n : Nat) : Bool :=
  if 18 ≤ a ∧ a < 34 then (s.part n).linkPart else s.takesPart (s.parts.map (fun e => (e.1, e.2.entry))) a n

/-- The shares on an arbiter by partition, and the unclaimed slots last (R72, R73). -/
def State.shares (s : State) (tab : SMap PartEntry) (a : Nat) : List Nat :=
  let l := parts64.map (fun n => if s.takesPart tab a n then (SMap.get {} tab n).share.toNat else 0)
  l ++ [248 - l.sum]

/-- The shares on an arbiter fit its rotation (R72). -/
def State.sharesFit (s : State) (tab : SMap PartEntry) (a : Nat) : Bool := decide (((s.shares tab a).take 64).sum ≤ 248)

/-- One placement of R73: the credits after every participant has earned its share, and the winner. -/
def rotPick (share : List Nat) (credit : List Int) : Nat × List Int :=
  let c := (credit.zip share).map (fun x => x.1 + (x.2 : Int))
  let best := (List.range 65).foldl (fun b p =>
    if share.getD p 0 = 0 then b
    else match b with
      | none => some p
      | some q => if c.getD q 0 < c.getD p 0 then some p else b) none
  match best with
  | some p => (p, c.set p (c.getD p 0 - 248))
  | none => (64, c)

/-- The slot owners of a rotation from index `i` on (R71, R73); 64 at a device slot is 0x40, unassigned is 0x7F. -/
def rotFrom (share : List Nat) : Nat → Nat → List Int → List Nat
  | 0, _, _ => []
  | k + 1, i, credit =>
    if i % 32 = 0 then 0x40 :: rotFrom share k (i + 1) credit
    else
      let (p, c) := rotPick share credit
      (if p = 64 then 0x7F else p) :: rotFrom share k (i + 1) c

/-- The 256 owners of a rotation built from shares (R73). -/
def dealRotation (share : List Nat) : List Nat := rotFrom share 256 0 (List.replicate 65 0)

/-- A `DEAL_ROT` entry (R78). -/
def State.rotByte (s : State) (o : Nat) : BitVec 8 := BitVec.ofNat 8 (o + 128 * b2n (decide (o < 64) && s.isStrict o))

/-- The links that a packet takes from one place of a die's mesh to another: along X, then along Y (R70, log entry 144). -/
def meshPath (die : Nat) (a b : Nat × Nat) : List MeshLink :=
  (List.range (b.1 - a.1)).map (fun i => ⟨die, (a.1 + i, a.2), 0⟩) ++ (List.range (a.1 - b.1)).map (fun i => ⟨die, (a.1 - i, a.2), 1⟩)
    ++ (List.range (b.2 - a.2)).map (fun i => ⟨die, (b.1, a.2 + i), 2⟩) ++ (List.range (a.2 - b.2)).map (fun i => ⟨die, (b.1, a.2 - i), 3⟩)

/-- The routers of a die between which a partition's packets go: its tiles' physical routers, those of the controllers where it has an HBM
extent, and the bridge's (R57, R70). -/
def State.routersOf (s : State) (e : PartEntry) (d : Nat) : List Nat :=
  let ts := ((List.range 16).map (fun i => 16 * d + i)).filter (fun t => bit e.tiles t && !(s.tile t).health.unavailable)
  let ends := ts.map (fun t => SMap.get 0xFF s.boot.bind t % 17) ++ (if e.hasHbm then [17, 18] else [])
  if ends.isEmpty then [] else ends ++ [19]

/-- The mesh links of a die that can carry a partition's packets (R70). -/
def State.meshOf (s : State) (e : PartEntry) (d : Nat) : List MeshLink :=
  let rs := s.routersOf e d
  (rs.map (fun a => (rs.map (fun b => meshPath d (Config.routerAt a) (Config.routerAt b))).flatten)).flatten.eraseDups

/-- The mesh links that can carry packets of two or more partitions of a table (R70). -/
def State.dealtLinks (s : State) (tab : SMap PartEntry) : List MeshLink :=
  let uses := ((tab.filter (fun x => x.2.valid)).map (fun x => ([0, 1, 2, 3].map (s.meshOf x.2)).flatten))
  let all := uses.flatten
  (all.filter (fun l => decide (2 ≤ (all.filter (· == l)).length))).eraseDups

/-- Fix the participants, mark the dealt mesh links and put the rotations of the partition table in force into every arbiter; their slot indices run on (R70, R77, R561). -/
def State.setRotations (s : State) : State :=
  let tab := s.parts.map (fun e => (e.1, e.2.entry))
  let joins := parts64.filter (fun n => s.takesPart tab 18 n)
  let s := (parts64.filter s.valid).foldl (fun (s : State) n => s.updPart n (fun p => { p with linkPart := joins.contains n })) s
  let s := { s with fabric := { s.fabric with dealt := s.dealtLinks tab } }
  let s := (List.range 34).foldl (fun (s : State) a => s.setArb a { s.arb a with
    rot := SMap.putMany 0x7F [] 0 ((dealRotation (s.shares tab a)).map s.rotByte) }) s
  [34, 35].foldl (fun (s : State) a => s.setArb a { s.arb a with
    rot := SMap.putMany 0x7F [] 0 ((List.range 66).map s.rotByte) }) s

/-! The validity of a partition table (R414). -/

/-- The bytes of an extent, as an interval. -/
def extSpan (x : BitVec 32 × BitVec 32) : Nat × Nat := (1024 * x.1.toNat, 1024 * (x.1.toNat + x.2.toNat))

/-- The used extents of an entry as intervals of HBM offsets. -/
def PartEntry.spans (e : PartEntry) : List (Nat × Nat) := (e.ext.filter (fun x => x.2 != 0)).map extSpan

/-- Bytes of an HBM granule (R271, R422). -/
def granule : Nat := 4000000000

/-- The granules an interval touches. -/
def granulesOf (x : Nat × Nat) : List Nat :=
  (List.range ((x.2 - 1) / granule + 1 - x.1 / granule)).map (fun i => x.1 / granule + i)

/-- The granules an entry touches. -/
def PartEntry.granules (e : PartEntry) : List Nat := (e.spans.map granulesOf).flatten.eraseDups

/-- True when two intervals share no byte. -/
def apart (x y : Nat × Nat) : Bool := decide (x.2 ≤ y.1) || decide (y.2 ≤ x.1)

/-- True when no two intervals of a list overlap. -/
def allApart : List (Nat × Nat) → Bool
  | [] => true
  | x :: t => t.all (apart x) && allApart t

/-- Insert an interval into a list in order of its start. -/
def insertSpan (x : Nat × Nat) : List (Nat × Nat) → List (Nat × Nat)
  | [] => [x]
  | y :: t => if x.1 ≤ y.1 then x :: y :: t else y :: insertSpan x t

/-- True when the intervals of a list cover an interval. -/
def covered (x : Nat × Nat) (spans : List (Nat × Nat)) : Bool :=
  decide (x.2 ≤ (spans.foldr insertSpan []).foldl (fun c y => if y.1 ≤ c then max c y.2 else c) x.1)

/-- The highest granule that an entry touches. -/
def PartEntry.topGranule (e : PartEntry) : Nat := e.granules.foldl max 0

/-- Bytes of a page-table area (R228). -/
def areaLen : Nat := 67108864

/-- The HBM that no chosen page-table area may touch: every extent, and the granules of Strict extents (R228). -/
def areaBlocked (tab : SMap PartEntry) : List (Nat × Nat) :=
  ((tab.filter (fun x => x.2.valid)).map (fun x =>
    x.2.spans ++ if x.2.strict then x.2.granules.map (fun g => (g * granule, (g + 1) * granule)) else [])).flatten

/-- The lowest 64 KiB-aligned place for an area outside the blocked intervals (R228, log entry 31). -/
def chooseArea (blocked : List (Nat × Nat)) : Option Nat :=
  ((0 :: blocked.map (fun x => ceilDiv x.2 65536 * 65536)).foldr (fun a l => insertSpan (a, a + areaLen) l) []).find? (fun x =>
    blocked.all (apart x) && decide (x.2 ≤ 64 * granule)) |>.map (·.1)

/-- The area that R228 gives a Strict partition with an extent: the top 64 MiB of its highest granule. -/
def PartEntry.ownArea (e : PartEntry) : Option Nat := if e.strict && e.hasHbm then some ((e.topGranule + 1) * granule - areaLen) else none

/-- The page-table areas under a table, by partition, where the areas already chosen stay (R228, R414): none where one of them lies in the
way, or where no room is left. A Strict partition without an extent has its area chosen as a Lent one has (log entry 31). -/
def areasOf (tab : SMap PartEntry) (kept : Nat → Option Nat) : Option (SMap (Option Nat)) :=
  let vs := tab.filter (fun x => x.2.valid)
  let hard := areaBlocked tab
  let fixed := vs.filterMap (fun x => match x.2.ownArea with
    | some _ => none
    | none => (kept x.1).map (fun a => (x.1, a)))
  if !fixed.all (fun f => hard.all (apart (f.2, f.2 + areaLen))) then none
  else vs.foldl (fun (r : Option (SMap (Option Nat))) x => match r with
    | none => none
    | some m => match x.2.ownArea with
      | some a => some (SMap.put none m x.1 (some a))
      | none => match kept x.1 with
        | some a => some (SMap.put none m x.1 (some a))
        | none =>
          (chooseArea (hard ++ fixed.map (fun f => (f.2, f.2 + areaLen)) ++ m.filterMap (fun y => y.2.map (fun a => (a, a + areaLen))))).map
            (fun a => SMap.put none m x.1 (some a))) (some [])

/-- The page-table areas under a new table: a chosen area is kept until a commit clears its partition's VALID (R228). -/
def State.newAreas (s : State) (tab : SMap PartEntry) : Option (SMap (Option Nat)) :=
  areasOf tab (fun n => if s.valid n && (s.part n).entry.ownArea.isNone then (s.part n).ptArea else none)

/-- The Strict rules of R272 for partition n of a table: granules that no other extent touches, the top 64 MiB free. -/
def strictOk (tab : SMap PartEntry) (n : Nat) : Bool :=
  let e := SMap.get {} tab n
  let gs := e.granules
  let others := (tab.filter (fun x => x.1 != n && x.2.valid)).map (fun x => x.2.granules)
  let top := e.topGranule
  others.all (fun os => os.all (fun g => !gs.contains g))
  && e.spans.all (fun x => apart x ((top + 1) * granule - 67108864, (top + 1) * granule))

/-- The regions and chains that partition n holds. -/
def State.regionsOf (s : State) (n : Nat) : List Region :=
  (s.regions.filter (fun e => e.2.owner.map (·.val) == some n && e.2.state != .free)).map (·.2)

/-- The chains that partition n has defined. -/
def State.chainsOf (s : State) (n : Nat) : List Chain := (s.part n).chains.filterMap (·.2)

/-- True when partition n may let go of what entry `e` takes from it: chains keep their tiles, region buffers their memory,
and the quotas cover what is held (R414). -/
def State.keepsHeld (s : State) (n : Nat) (e : PartEntry) : Bool :=
  let old := (s.part n).entry
  let gone := old.tiles &&& ~~~e.tiles
  decide ((s.regionsOf n).length ≤ e.regionQuota.toNat) && decide ((s.chainsOf n).length ≤ e.chainQuota.toNat)
  && (s.chainsOf n).all (fun c => c.members.all (fun m => fld m 6 6 != s.deviceNum || !bit gone (fld m 0 6)))
  && (s.regionsOf n).all (fun g => [g.paA, g.paB].all (fun pa =>
    let o := paOff pa.toNat
    if paDev pa.toNat ≠ s.deviceNum then true
    else if paSpace pa.toNat = 0 then
      covered (o, o + g.size) e.spans || old.spans.all (fun x => apart x (o, o + g.size))
    else (List.range ((o + g.size - 1) / 2 ^ 24 - o / 2 ^ 24 + 1)).all (fun i => !bit gone (o / 2 ^ 24 + i))))
  && (e.valid || ((s.regionsOf n).isEmpty && (s.chainsOf n).isEmpty))

/-- A partition table and authority list that satisfy R414. -/
def State.tableOk (s : State) (tab : SMap PartEntry) (auth : SMap Credential) : Bool :=
  let vs := tab.filter (fun x => x.2.valid)
  let spans := (vs.map (fun x => x.2.spans)).flatten
  let strict := vs.filter (fun x => x.2.strict)
  (vs.foldl (fun (r : Bool × BitVec 64) x => (r.1 && (r.2 &&& x.2.tiles) == 0, r.2 ||| x.2.tiles)) (true, 0)).1
  && spans.all (fun x => decide (x.2 ≤ 256000000000)) && allApart spans
  && strict.all (fun x => strictOk tab x.1 && decide (1 ≤ x.2.share.toNat))
  && [0, 1, 2, 3, 8, 10, 18].all (s.sharesFit tab)
  && decide ((strict.map (fun x => x.2.ante.toNat)).sum ≤ 1048576)
  && decide ((vs.map (fun x => x.2.regionQuota.toNat)).sum ≤ 65536)
  && (s.newAreas tab).isSome
  && vs.all (fun x => !x.2.conf || (x.2.strict && x.2.cipher && hasTenant auth x.1))
  && parts64.all (fun n => s.keepsHeld n (SMap.get {} tab n))

/-! Configuration images. -/

/-- The patches of a record (R401); none where a patch runs past the record. The first argument bounds the patches. -/
def patches : Nat → List Byte → Option (List (Nat × List Byte))
  | 0, bs => if bs.isEmpty then some [] else none
  | f + 1, bs =>
    if bs.isEmpty then some []
    else
      let sz := at' bs 2 2
      let tot := 4 + ceilDiv sz 4 * 4
      if bs.length < tot then none
      else (patches f (bs.drop tot)).map (fun r => (at' bs 0 2, slice bs 4 sz) :: r)

/-- Patches whose IDs ascend strictly and whose sizes are those of R404. -/
def patchForm : List (Nat × List Byte) → Bool
  | [] => true
  | (i, v) :: t =>
    (match fieldInfo i with
     | some (n, _) => v.length == n
     | none => true)
    && (match t with
        | (j, _) :: _ => decide (i < j)
        | [] => true) && patchForm t

/-- The offset and length of record i of an image (R400). -/
def imageDir (img : List Byte) (i : Nat) : Nat × Nat := (at' img (32 + 8 * i) 4, at' img (36 + 8 * i) 4)

/-- The bytes of record i. -/
def imageRecord (img : List Byte) (i : Nat) : List Byte := slice img (imageDir img i).1 (imageDir img i).2

/-- The patches of record i. -/
def imagePatches (img : List Byte) (i : Nat) : Option (List (Nat × List Byte)) :=
  let r := imageRecord img i
  patches (r.length / 4) r

/-- The records present besides the BCR. -/
def imageOverlays (img : List Byte) : List Nat := (List.range 16).filter (fun i => decide (1 ≤ i) && (imageDir img i).2 != 0)

/-- Check 1 of R403. -/
def imageForm (img : List Byte) : Bool :=
  let n := at' img 16 4
  let here := 0 :: imageOverlays img
  at' img 0 4 == 0x46434A53 && at' img 4 2 == 1 && n == img.length && n % 4 == 0 && decide (n ≤ 1048576) && decide (256 ≤ n)
  && (imageDir img 0).2 != 0
  && here.all (fun i => let d := imageDir img i
      decide (160 ≤ d.1) && d.1 % 4 == 0 && decide (d.1 + d.2 ≤ n - 96) && (i == 0 || decide (d.2 ≤ 4096)))
  && allApart (here.map (fun i => ((imageDir img i).1, (imageDir img i).1 + (imageDir img i).2)))
  && here.all (fun i => match imagePatches img i with
      | some ps => patchForm ps
      | none => false)

/-- The range of a Base or Overlay field, and of `DEBUG_POLICY` (R404); `SENT_BOUND` is clamped, not checked (R403). -/
def fieldRange (id : Nat) (bs : List Byte) : Bool :=
  let v := leNat bs
  let r (lo hi : Nat) : Bool := decide (lo ≤ v) && decide (v ≤ hi)
  if id = 0x0001 then r 0 63
  else if id = 0x0002 ∨ id = 0x0003 then r 1 64
  else if id = 0x0004 then r 1 8
  else if id = 0x0005 then r 0 15
  else if id = 0x0011 then r 1 4
  else if id = 0x0020 then r 1100 1700
  else if 0x0021 ≤ id ∧ id ≤ 0x0024 then r 700 1300
  else if id = 0x0030 then r 1 6
  else if id = 0x0900 then r 0 1
  else match id / 256 with
    | 1 => r 0 5
    | 2 => r 0 2
    | 3 => r 0 8
    | 4 => r 16 256
    | _ => true

/-- True for an image with `PROVISION` set. -/
def imageProvision (img : List Byte) : Bool := at' img 6 1 % 2 == 1

/-- The value of a field in a record's patches. -/
def patchOf (ps : List (Nat × List Byte)) (id : Nat) : Option (List Byte) := (ps.find? (fun p => p.1 == id)).map (·.2)

/-- Check 2 of R403: the signature of R402. -/
def imageSigned (img : List Byte) (auth : SMap Credential) : Bool :=
  let list := if imageProvision img then
      (((imagePatches img 0).bind (fun ps => patchOf ps 0x0901)).bind authOf).getD []
    else auth
  let c := SMap.get {} list (at' img 7 1)
  let n := img.length - 96
  decide (at' img 7 1 < 16) && c.role == 1 && verifyMsg c.keyX.toNat c.keyY.toNat (img.take n) (img.drop n)

/-- True when an erg's size and shape keep the rules of R304: one device, a ring or a torus. -/
def ergShape (size x y : Nat) : Bool :=
  decide (x * y = size) && (size == 1 || (y == 1 && decide (2 ≤ x) && decide (x ≤ 64))
    || (decide (2 ≤ x) && decide (x ≤ 8) && decide (2 ≤ y) && decide (y ≤ 8)))

/-- An image's value of a one-byte Base field (R404). -/
def imageField (img : List Byte) (id : Nat) : Nat := leNat ((patchOf ((imagePatches img 0).getD []) id).getD [BitVec.ofNat 8 (fieldDefault id)])

/-- The range of a Protected field that an image carries (R404, R413, R415). -/
def protRange (p : Nat × List Byte) : Bool :=
  if p.1 = 0x0901 then (authOf p.2).isSome else if p.1 / 256 = 8 then entryRange (bytesBv 512 p.2) else true

/-- The checks of R403 but for those on `SEQUENCE` and on the booted slot. The range of `ERG_X` and
`ERG_Y` is "under R304" (R404). Reserved bits and bytes are not looked at (R4). -/
def imageCheck (img : List Byte) (auth : SMap Credential) (provisioned : Bool) : Option Status :=
  if !imageForm img then some .badLength
  else if !imageSigned img auth then some .badSignature
  else
    let bcr := (imagePatches img 0).getD []
    let ovs := imageOverlays img
    let all := (ovs.map (fun i => (imagePatches img i).getD [])).flatten
    let kind (id : Nat) : Option Nat := (fieldInfo id).map (·.2)
    if all.any (fun p => kind p.1 == some 2) || (!imageProvision img && bcr.any (fun p => kind p.1 == some 2)) then some .protectedField
    else
      let start := leNat ((patchOf bcr 0x0005).getD [0])
      if (imageProvision img && provisioned) || (bcr ++ all).any (fun p => (kind p.1).isNone || p.1 == 0x0902 || !fieldRange p.1 p.2 || !protRange p)
        || all.any (fun p => kind p.1 == some 0)
          || !ergShape (imageField img 0x0002) (imageField img 0x0003) (imageField img 0x0004) || (start != 0 && !ovs.contains start) || at' img 8 8 == 0 then some .notPermitted
      else none

/-- True when the latched `SEC` word says PROVISIONED (R412, R430). -/
def State.provisioned (s : State) : Bool := (SMap.get 0 s.sec.latched 6).getLsbD 2

/-- The bytes of the image the device booted from. -/
def Configuration.image (c : Configuration) : List Byte :=
  match c.booted with
  | some true => c.slotB
  | some false => c.slotA
  | none => []

/-- The Protected Record as field values: `PART_ENTRY`, `DEBUG_POLICY`, `AUTHORITY_LIST` and `PROTECT_EPOCH`. -/
def ProtRecord.field (r : ProtRecord) (id : Nat) : List Byte :=
  if id = 0x0900 then bvBytes r.debug
  else if id = 0x0901 then authBytes r.auth
  else if id = 0x0902 then bvBytes r.epoch
  else (SMap.get {} r.parts (id % 256)).bytes

/-- Apply a Protected-field patch to a record. -/
def ProtRecord.patch (r : ProtRecord) (p : Nat × List Byte) : ProtRecord :=
  if p.1 = 0x0900 then { r with debug := BitVec.ofNat 8 (leNat p.2) }
  else if p.1 = 0x0901 then { r with auth := (authOf p.2).getD [] }
  else if p.1 / 256 = 8 then { r with parts := SMap.put {} r.parts (p.1 % 256) (PartEntry.ofBv (bytesBv 512 p.2)) }
  else r

/-- True when a Protected-field patch has values that its table lists. -/
def patchValues (p : Nat × List Byte) : Bool :=
  if p.1 = 0x0900 then fieldRange p.1 p.2
  else if p.1 = 0x0901 then (authOf p.2).isSome
  else if p.1 / 256 = 8 then entryOk (bytesBv 512 p.2)
  else false

/-- The reserved bits of a Protected-field patch are zero, as R565 asks of a proposal's (R413, R415). -/
def patchRsv (p : Nat × List Byte) : Bool :=
  if p.1 = 0x0901 then authRsv p.2 else if p.1 / 256 = 8 then entryRsv (bytesBv 512 p.2) else true

/-- A Protected Record whose contents satisfy R414 and R416. -/
def State.recordOk (s : State) (r : ProtRecord) : Bool :=
  s.tableOk r.parts r.auth && authListOk r.auth

end Sys2Proof.Machine
end

