-- ==== Sys2Proof/Machine/Attest.lean ====
section
/-!
DEFINITION. Fuse values (R430–R434), measurement blocks (R442), the device and partition reports (R443, R444), report
snapshots (R445), commitments (R446, R447) and the signatures of reports (R437, R469, R480, R514).
-/

namespace Sys2Proof.Machine

/-- The resolved `SEC` word (R430). -/
def State.secWord (s : State) : BitVec 128 := SMap.get 0 s.sec.latched 6

/-- The anti-rollback count C (R434). -/
def State.arcCount (s : State) : Nat :=
  let w := fld (SMap.get 0 s.sec.latched 9) 0 64
  if w = 0 then 0 else w.log2 + 1

/-- `FUSE_HEALTH` (R442). -/
def State.fuseHealth (s : State) : Nat :=
  if !s.sec.undecided.isEmpty then 2 else if !s.sec.marginal.isEmpty then 1 else 0

/-- True while the debug facilities are available (R451). -/
def State.debugOn (s : State) : Bool := !bit s.secWord 0 && !s.anyConf && s.cfg.prot.debug == 1

/-- The failed physical tiles of die d. -/
def State.failedOn (s : State) (d : Nat) : Nat := popc 17 (fld s.boot.failedPhys (17 * d) 17)

/-- The lost dies of controller k in the order of their loss, 0xF where there is none. -/
def State.lostNibbles (s : State) (k : Nat) : Nat :=
  let l := (s.boot.lostDies.filter (fun x => x / 12 == k)).map (· % 12)
  l.getD 0 0xF + 16 * l.getD 1 0xF

/-- The bytes of the overlay in force as block 8 hashes them: its number and its record. -/
def State.overlayBytes (s : State) : List Byte :=
  BitVec.ofNat 8 s.cfg.overlay :: (if s.cfg.overlay = 0 then [] else imageRecord s.cfg.image s.cfg.overlay)

/-- The Protected fields in field-ID order (R442). -/
def ProtRecord.layout (r : ProtRecord) : List Byte :=
  (parts64.map (fun n => r.field (0x0800 + n))).flatten ++ r.field 0x0900 ++ r.field 0x0901 ++ r.field 0x0902

/-- The content of measurement blocks 1–10 (R442), and whether it is raw. -/
def State.block (s : State) (i : Nat) : List Byte × Bool :=
  match i with
  | 5 => ([BitVec.ofNat 8 (fld s.secWord 0 8), BitVec.ofNat 8 s.arcCount, BitVec.ofNat 8 s.sec.fwSvn, BitVec.ofNat 8 s.fuseHealth,
           BitVec.ofNat 8 (b2n (s.sec.undecided.any (· < 6)))] ++ zeros 3 ++ bvBytes (bitmap 64 s.sec.marginal)
           ++ bvBytes (bitmap 64 s.sec.undecided), true)
  | 6 => ([s.cfg.prot.debug, BitVec.ofNat 8 (b2n s.cfg.debugSinceCold), BitVec.ofNat 8 (b2n (bit s.secWord 0)),
           BitVec.ofNat 8 (b2n s.anyConf), BitVec.ofNat 8 (b2n (s.boot.checkSplit != 0))] ++ zeros 3, true)
  | 7 => (sha384 (imageRecord s.cfg.image 0), false)
  | 8 => (sha384 s.overlayBytes, false)
  | 9 => (sha384 s.cfg.prot.layout, false)
  | 10 => (((List.range 4).map (fun d => leBytes 4 (SMap.get 0xFF s.boot.spares d + 256 * s.failedOn d))).flatten
           ++ bvBytes s.unavail ++ (List.range 8).map (fun k => BitVec.ofNat 8 (s.lostNibbles k)), true)
  | _ => (padTo 48 (SMap.get [] s.sec.blocks i), false)

/-- The DMTF value type of a block: raw blocks have bit 7 set (DSP0274; log entry 14). -/
def blockType (i : Nat) : Nat :=
  match i with
  | 1 => 0x00 | 2 => 0x01 | 3 => 0x01 | 4 => 0x01 | 5 => 0x82 | 6 => 0x85 | 10 => 0x82 | _ => 0x03

/-- A block in DSP0274 measurement-block form (R443). -/
def measBlock (i : Nat) (v : List Byte) : List Byte :=
  leBytes 1 i ++ [1] ++ leBytes 2 (3 + v.length) ++ leBytes 1 (blockType i) ++ leBytes 2 v.length ++ v

/-- Blocks 1–10 as the device report carries them. -/
def State.blocks10 (s : State) : List Byte := ((List.range 10).map (fun i => measBlock (i + 1) (s.block (i + 1)).1)).flatten

/-- The private key that signs reports: the alias key, or the DeviceID key where there is none (R437). -/
def State.signKey (s : State) : Nat := if s.sec.aliasKey = 0 then beNat s.sec.deviceSecret else s.sec.aliasKey

/-- A report and its signature with a per-signature secret (R443, R480). -/
def State.signWith (s : State) (secret : Nat) (body : List Byte) : List Byte := body ++ sigBytes (ecdsaSign s.signKey secret (sha384 body))

/-- The secret of the deterministic signature that pair 0 makes in software at Floor 0 (R514). -/
def State.floor0Secret (s : State) (body : List Byte) : Nat := detSecret s.signKey (sha384 body)

/-- The device report without its signature (R443). -/
def State.deviceReport (s : State) (nonce : List Byte) : List Byte :=
  let chain := Config.certificateChain s.sec.aliasKey
  leBytes 4 0x54505244 ++ leBytes 2 1 ++ [s.boot.floor, BitVec.ofNat 8 s.sec.failCode] ++ padTo 32 nonce ++ leBytes 8 s.now
    ++ [10, 0, 0, 0] ++ leBytes 4 chain.length ++ s.blocks10 ++ chain

/-- The region records of partition n (R444). -/
def State.regionRecords (s : State) (n : Nat) : List (List Byte) :=
  let rec1 (slot : Nat) (g : Region) (role : Nat) (v : BitVec 32) (d : List Byte) : List Byte :=
    leBytes 2 slot ++ [BitVec.ofNat 8 (b2n (!g.weights)), BitVec.ofNat 8 role] ++ bvBytes v ++ leBytes 4 (g.size / 65536) ++ zeros 4 ++ padTo 48 d
  ((s.regions.filter (fun e => e.2.owner.map (·.val) == some n)).map (fun e =>
    let g := e.2
    let cur := if g.version = 0 then [] else [rec1 e.1 g 0 g.version g.digest]
    let old := if g.boundOld = 0 then [] else [rec1 e.1 g 1 g.oldVersion g.oldDigest]
    if g.oldVersion.toNat < g.version.toNat then old ++ cur else cur ++ old)).flatten

/-- `SEED_COMMIT` (R446). -/
def seedCommit (n : Nat) (seed : List Byte) : List Byte := sha384 ([0x47, 0x52, 0x4E, 0x31, BitVec.ofNat 8 n] ++ seed)

/-- `KEY_ID` (R447). -/
def keyId (key : List Byte) : List Byte := (sha384 (ascii "AVRAK KEYID" ++ key)).take 8

/-- The partition report without its signature (R444). -/
def State.partReport (s : State) (n : Nat) (nonce : List Byte) : List Byte :=
  let p := s.part n
  let recs := s.regionRecords n
  let flags := b2n p.conf + 2 * b2n p.entry.strict + 4 * b2n p.paceRate.isSome + 8 * b2n p.entry.cipher + 16 * b2n p.key.isSome
    + 32 * b2n p.fault + 64 * b2n p.seed.isSome
  leBytes 4 0x54505250 ++ leBytes 2 1 ++ leBytes 1 n ++ leBytes 1 flags ++ padTo 32 nonce ++ leBytes 8 s.now ++ bvBytes s.cfg.prot.epoch
    ++ leBytes 4 recs.length ++ leBytes 2 (p.paceRate.getD 0) ++ zeros 6 ++ sha384 s.blocks10 ++ p.entry.bytes
    ++ padTo 48 (match p.seed with
      | some d => seedCommit n d
      | none => [])
    ++ padTo 8 (match p.key with
      | some k => keyId k
      | none => [])
    ++ zeros 24 ++ recs.flatten

/-- Measurement block 11 of VF n (R442). -/
def State.block11 (s : State) (n : Nat) : List Byte := sha384 ((s.partReport n []).drop 48)

/-- A page of a report: at most 4,048 bytes (R386, R445). -/
def pageOf (rep : List Byte) (page : Nat) : List Byte :=
  let b := slice rep (4048 * page) 4048
  leBytes 2 (ceilDiv rep.length 4048) ++ leBytes 2 page ++ leBytes 2 b.length ++ zeros 2 ++ b

/-- The report that a held attestation request asks for: the device's, or its target partition's. -/
def State.reportOf (s : State) (m : MbxId) (h : Held) : List Byte :=
  let nonce := slice h.payload 0 32
  if h.opcode = 0x0701 then s.deviceReport nonce else s.partReport (targetOf m h) nonce

/-- The report is built and signed with a secret: it is the mailbox's snapshot, and page 0 answers (R445). -/
def State.giveReport (s : State) (m : MbxId) (h : Held) (secret : List Byte → Nat) : State :=
  let body := s.reportOf m h
  let rep := s.signWith (secret body) body
  let part : Option PartId := if h.opcode = 0x0701 then none else some (Fin.ofNat 64 (targetOf m h))
  (s.updBox m (fun b => { b with snap := some ⟨slice h.payload 0 32, part, rep, s.now + 60000000000⟩ })).answer m h .ok (pageOf rep 0)

/-- Answer ATTEST_DEVICE or ATTEST_PARTITION (R445): page 0 builds a snapshot once its secret is drawn and its signature made, at Floor 0 at
once (R514); later pages read it, and a request with another nonce ends it. `part` is none for the device report. -/
def State.attest (s : State) (m : MbxId) (h : Held) (part : Option PartId) : State :=
  let nonce := slice h.payload 0 32
  let page := at' h.payload 32 2
  if page = 0 then
    let s := s.updBox m (fun b => { b with snap := b.snap.filter (fun sn => sn.nonce == nonce) })
    if s.boot.floor = 0 then s.giveReport m h s.floor0Secret
    else s.addTask (.report m h.tag part.isNone) [.gen false 48, .p384]
  else match (s.box m).snap with
    | some sn =>
      if sn.nonce = nonce ∧ sn.part = part ∧ page < ceilDiv sn.bytes.length 4048 ∧ s.now ≤ sn.until_ then
        s.answer m h .ok (pageOf sn.bytes page)
      else (if sn.nonce = nonce then s else s.updBox m (fun b => { b with snap := none })).answer m h .notPermitted []
    | none => s.answer m h .notPermitted []

/-- The payload checks of an attestation request (R565). -/
def attestChk (p : List Byte) : Option Status := reservedZero p [(34, 6)]

/-- ATTEST_DEVICE (R443, R445). -/
def execAttestDevice (m : MbxId) (tag : BitVec 16) (s : State) : Host.Outcome State Fault Refusal :=
  .next (s.serve m tag 0x0701 attestChk (fun h s => s.attest m h none))

/-- ATTEST_PARTITION (R444, R445). -/
def execAttestPartition (m : MbxId) (tag : BitVec 16) (s : State) : Host.Outcome State Fault Refusal :=
  .next (s.serve m tag 0x0702 attestChk (fun h s => s.attest m h (some (Fin.ofNat 64 (targetOf m h)))))

/-- REPORT_SNAPSHOT_EXPIRY (R445): 60 s after it was built, a snapshot is gone. -/
def execReportSnapshotExpiry (m : MbxId) (s : State) : Host.Outcome State Fault Refusal :=
  .next (match (s.box m).snap with
    | some sn => (s.atLeast sn.until_).updBox m (fun b => { b with snap := none })
    | none => s)

/-! Grain seeds and keys. -/

/-- Give partition n its grain seed: every tile's pipeline is loaded before the answer (R471). -/
def State.giveSeed (s : State) (n : Nat) (seed : List Byte) : State :=
  let s := s.partChange n (fun s => s.updPart n (fun p => { p with seed := some seed, commit := seedCommit n seed }))
  (s.tilesOf n).foldl (fun s t => s.updTile t (fun x => { x with seed := some seed })) s

/-- The payload checks of GRAIN_SEED (R471, R446, R515). -/
def grainSeedChk : List Byte → Option Status :=
  fun p => firstOf [reservedZero p [(1, 7)], need (decide (at' p 0 1 ≤ 1)) .notPermitted,
    need (at' p 0 1 == 1 || allZero (slice p 8 32)) .notPermitted]

/-- Answer GRAIN_SEED with a seed that is in force (R471, R446). -/
def State.answerSeed (s : State) (m : MbxId) (h : Held) (seed : List Byte) : State :=
  (s.giveSeed m seed).answer m h .ok (seedCommit m seed)

/-- GRAIN_SEED (R471, R446, R515): MODE 0 waits for a fresh draw, MODE 1 takes the seed from the request. -/
def execGrainSeed (m : MbxId) (tag : BitVec 16) (s : State) : Host.Outcome State Fault Refusal :=
  .next (s.serve m tag 0x0703 grainSeedChk
    (fun h s =>
      if at' h.payload 0 1 = 1 then s.answerSeed m h (slice h.payload 8 32)
      else if s.boot.floor ≠ 2 then s.answer m h .floorInsufficient []
      else s.addTask (.grainSeed (Fin.ofNat 64 m) h.tag) [.gen true 32]))

/-- A partition's quiet point: nothing of it is DEALT or RUNNING (R407). -/
def State.isQuiet (s : State) (n : Nat) : Bool :=
  (s.ledgerOf n).all (fun i => (s.led i).state == .posting)

/-- A key comes into force in slot n (R282, R482): lines written under another key can no longer be read. -/
def State.applyKey (s : State) (n : Nat) (key : List Byte) : State :=
  s.partChange n (fun s => s.updPart n (fun p => { p with key := some key, pendKey := none, keyGen := 1 + leNat key }))

/-- The payload checks of KEY_INSTALL (R450, R482). -/
def keyInstallChk : List Byte → Option Status :=
  fun p => reservedZero p [(4, 4), (100, 4)]

/-- KEY_INSTALL (R450): the key is unwrapped under the session's secret and applies at the next quiet point (R482). -/
def execKeyInstall (m : MbxId) (tag : BitVec 16) (s : State) : Host.Outcome State Fault Refusal :=
  .next (s.serve m tag 0x0704 keyInstallChk
    (fun h s =>
      let n := m.val
      let p := h.payload
      let id : BitVec 32 := BitVec.ofNat 32 (at' p 0 4)
      let r := SMap.get {} s.sec.responders n
      if s.boot.floor ≠ 2 then s.answer m h .floorInsufficient []
      else match r.sessions.find? (fun x => x.id == id && x.established) with
        | none => s.answer m h .notPermitted []
        | some se =>
          let key := hkdfExpand se.secret (ascii "AVRAK KEYWRAP" ++ leBytes 1 n) 32
          match gcmOpen key (slice p 8 12) (leBytes 1 n ++ slice p 0 4 ++ ascii "XTS1") (slice p 20 64) (slice p 84 16) with
          | none => s.answer m h .badSignature []
          | some ks =>
            if ks.take 32 = ks.drop 32 ∨ !(s.part n).entry.cipher then s.answer m h .notPermitted []
            else
              let s := s.updPart n (fun p => { p with keyFresh := true })
              let s := if s.isQuiet n then s.applyKey n ks else s.updPart n (fun p => { p with pendKey := some ks })
              s.answer m h .ok []))

end Sys2Proof.Machine
end

