-- ==== Sys2Proof/Machine/Float.lean ====
section
/-!
DEFINITION. The number formats and the numeric rules of 07_formats.md: layouts (R169), rounding (R171, R174), overflow and
NaN (R178, R179), minimum and maximum (R180), conversions (R181, R182), subnormals and flushing (R183, R184) and
classification (R193). Every operation is computed exactly on integers and rounded once.
-/

namespace Sys2Proof.Machine

/-- What a format does at the top of its exponent range (R169). -/
inductive FKind where
  | ieee | e4m3 | finite
  deriving DecidableEq, Repr

/-- A format: its exponent and mantissa widths, bias and top encodings (R169). -/
structure Fmt where
  ebits : Nat
  mbits : Nat
  bias : Nat
  kind : FKind
  deriving DecidableEq, Repr

def Fmt.fp64 : Fmt := ⟨11, 52, 1023, .ieee⟩
def Fmt.fp32 : Fmt := ⟨8, 23, 127, .ieee⟩
def Fmt.fp16 : Fmt := ⟨5, 10, 15, .ieee⟩
def Fmt.bf16 : Fmt := ⟨8, 7, 127, .ieee⟩
def Fmt.e4m3 : Fmt := ⟨4, 3, 7, .e4m3⟩
def Fmt.e5m2 : Fmt := ⟨5, 2, 15, .ieee⟩
def Fmt.e3m2 : Fmt := ⟨3, 2, 3, .finite⟩
def Fmt.e2m3 : Fmt := ⟨2, 3, 1, .finite⟩
def Fmt.e2m1 : Fmt := ⟨2, 1, 1, .finite⟩

/-- The width of an encoding. -/
def Fmt.width (f : Fmt) : Nat := f.ebits + f.mbits + 1

/-- The magnitude bits of the largest finite value (R169). -/
def Fmt.maxMag (f : Fmt) : Nat :=
  match f.kind with
  | .ieee => (2 ^ f.ebits - 1) * 2 ^ f.mbits - 1
  | .e4m3 => 2 ^ (f.ebits + f.mbits) - 2
  | .finite => 2 ^ (f.ebits + f.mbits) - 1

/-- The sign bit in place. -/
def Fmt.signBit (f : Fmt) (s : Bool) : Nat := if s then 2 ^ (f.ebits + f.mbits) else 0

/-- The canonical NaN (R169). A format without NaN never asks for it. -/
def Fmt.nan (f : Fmt) : Nat :=
  match f.kind with
  | .ieee => (2 ^ f.ebits - 1) * 2 ^ f.mbits + 2 ^ (f.mbits - 1)
  | .e4m3 => 0x7F
  | .finite => f.maxMag

/-- The magnitude bits of infinity. -/
def Fmt.infMag (f : Fmt) : Nat := (2 ^ f.ebits - 1) * 2 ^ f.mbits

/-- A decoded value: a NaN, an infinity, or ± m · 2^e. -/
inductive FVal where
  | nan (signalling : Bool)
  | inf (neg : Bool)
  | fin (neg : Bool) (m : Nat) (e : Int)
  deriving DecidableEq, Repr

/-- Numeric flags in the order NV, DZ, OF, UF, NX (R84, R133). -/
abbrev FFlags := BitVec 5

def flNV : FFlags := 1
def flDZ : FFlags := 2
def flOF : FFlags := 4
def flUF : FFlags := 8
def flNX : FFlags := 16

/-- An encoded result and the flags it raises. -/
abbrev FRes := Nat × FFlags

/-- The rounding modes (R171). -/
inductive RMode where
  | rne | rtz | rdn | rup | rna | sr
  deriving DecidableEq, Repr

/-- The rounding-mode field: values 6 to 15 are reserved (R171). -/
def rmOf (n : Nat) : Option RMode :=
  match n with
  | 0 => some .rne | 1 => some .rtz | 2 => some .rdn | 3 => some .rup | 4 => some .rna | 5 => some .sr
  | _ => none

/-- Everywhere but `vfcvt.to` and the drain, SR rounds as RNE (R173). -/
def RMode.plain : RMode → RMode
  | .sr => .rne
  | m => m

/-- Decode an encoding (R169). -/
def Fmt.decode (f : Fmt) (x : Nat) : FVal :=
  let s := x / 2 ^ (f.ebits + f.mbits) % 2 == 1
  let ef := x / 2 ^ f.mbits % 2 ^ f.ebits
  let m := x % 2 ^ f.mbits
  let v := if ef = 0 then FVal.fin s m (1 - (f.bias : Int) - f.mbits)
    else FVal.fin s (m + 2 ^ f.mbits) ((ef : Int) - f.bias - f.mbits)
  match f.kind with
  | .ieee =>
    if ef = 2 ^ f.ebits - 1 then
      (if m = 0 then .inf s else .nan (m < 2 ^ (f.mbits - 1)))
    else v
  | .e4m3 => if ef = 15 ∧ m = 7 then .nan false else v
  | .finite => v

/-- True for a subnormal encoding. -/
def Fmt.isSub (f : Fmt) (x : Nat) : Bool :=
  x / 2 ^ f.mbits % 2 ^ f.ebits == 0 && x % 2 ^ f.mbits != 0

/-- An operand as its unit reads it: in flush mode 2 a subnormal reads as zero of its sign (R183). -/
def Fmt.read (f : Fmt) (flush : Nat) (x : Nat) : FVal :=
  if flush = 2 && f.isSub x then .fin (x / 2 ^ (f.ebits + f.mbits) % 2 == 1) 0 0 else f.decode x

/-- Round m · 2^e to a multiple of 2^q: the multiple, and whether anything was discarded (R171, R174). -/
def roundAt (rm : RMode) (g : Nat) (neg : Bool) (m : Nat) (e q : Int) : Nat × Bool :=
  if q ≤ e then (m * 2 ^ (e - q).toNat, false)
  else
    let k := (q - e).toNat
    let t := m / 2 ^ k
    let r := m % 2 ^ k
    let half := 2 ^ (k - 1)
    let up := match rm with
      | .rne => decide (half < r) || (r == half && t % 2 == 1)
      | .rtz => false
      | .rdn => neg && r != 0
      | .rup => !neg && r != 0
      | .rna => decide (half ≤ r)
      | .sr => decide (65536 ≤ r * 65536 / 2 ^ k + g)
    (t + b2n up, r != 0)

/-- True where the overflow result of the mode is an infinity. -/
def overflowsToInf (rm : RMode) (neg : Bool) : Bool :=
  match rm with
  | .rtz => false
  | .rdn => neg
  | .rup => !neg
  | _ => true

/-- The result of an out-of-range value (R178). -/
def Fmt.outOfRange (f : Fmt) (rm : RMode) (sat neg : Bool) : FRes :=
  let big := f.signBit neg + f.maxMag
  let v := if sat || !overflowsToInf rm neg then big else
    match f.kind with
    | .ieee => f.signBit neg + f.infMag
    | .e4m3 => f.nan
    | .finite => big
  (v, flOF ||| flNX)

/-- Round ± m · 2^e into a format (R174, R178, R184). `flush` is 0 where the unit keeps subnormals. -/
def Fmt.round (f : Fmt) (rm : RMode) (g flush : Nat) (sat neg : Bool) (m : Nat) (e : Int) : FRes :=
  if m = 0 then (f.signBit neg, 0)
  else
    let lg : Int := (m.log2 : Int) + e
    let emin : Int := 1 - (f.bias : Int)
    let q : Int := (if lg < emin then emin else lg) - f.mbits
    let (t, inexact) := roundAt rm g neg m e q
    let mag := t + (q + f.mbits + f.bias - 1).toNat * 2 ^ f.mbits
    if f.maxMag < mag then f.outOfRange rm sat neg
    else
      let tiny := decide (lg < emin) &&
        !(lg == emin - 1 && (roundAt rm g neg m e (lg - f.mbits)).1 == 2 ^ (f.mbits + 1))
      if flush ≠ 0 ∧ mag ≠ 0 ∧ mag < 2 ^ f.mbits then (f.signBit neg, flUF ||| flNX)
      else (f.signBit neg + mag, (if tiny && inexact then flUF else 0) ||| (if inexact then flNX else 0))

/-- The canonical NaN, with NV where `nv`. -/
def Fmt.nanRes (f : Fmt) (nv : Bool) : FRes := (f.nan, if nv then flNV else 0)

/-- Encode a value that arithmetic produced (R178, R179). -/
def Fmt.ofVal (f : Fmt) (rm : RMode) (g flush : Nat) (sat : Bool) : FVal → FRes
  | .nan s => f.nanRes s
  | .inf neg =>
    if sat then f.outOfRange .rne true neg
    else match f.kind with
      | .ieee => (f.signBit neg + f.infMag, 0)
      | _ => f.outOfRange .rne false neg
  | .fin neg m e => f.round rm g flush sat neg m e

def FVal.isNan : FVal → Bool
  | .nan _ => true
  | _ => false

def FVal.isSNan : FVal → Bool
  | .nan s => s
  | _ => false

def FVal.neg : FVal → FVal
  | .nan s => .nan s
  | .inf s => .inf (!s)
  | .fin s m e => .fin (!s) m e

def FVal.isZero : FVal → Bool
  | .fin _ 0 _ => true
  | _ => false

def FVal.sign : FVal → Bool
  | .nan _ => false
  | .inf s => s
  | .fin s _ _ => s

/-- The integer multiple of 2^q that a finite value is, where q ≤ e. -/
def scaled (neg : Bool) (m : Nat) (e q : Int) : Int :=
  let v : Int := (m * 2 ^ (e - q).toNat : Nat)
  if neg then -v else v

/-- The exact sum of two finite values; a zero sum is −0 only for two negative zeros, or under RDN (IEEE 754-2019). -/
def addFin (rm : RMode) (s1 : Bool) (m1 : Nat) (e1 : Int) (s2 : Bool) (m2 : Nat) (e2 : Int) : FVal :=
  let q := if e1 < e2 then e1 else e2
  let v := scaled s1 m1 e1 q + scaled s2 m2 e2 q
  if v = 0 then .fin (if s1 == s2 then s1 else rm == .rdn) 0 0
  else .fin (decide (v < 0)) v.natAbs q

/-- The exact sum; the second part says that the operation is invalid. -/
def addVal (rm : RMode) (a b : FVal) : FVal × Bool :=
  match a, b with
  | .nan s, b => (.nan false, s || b.isSNan)
  | a, .nan s => (.nan false, a.isSNan || s)
  | .inf s, .inf t => if s = t then (.inf s, false) else (.nan false, true)
  | .inf s, _ => (.inf s, false)
  | _, .inf t => (.inf t, false)
  | .fin s1 m1 e1, .fin s2 m2 e2 => (addFin rm s1 m1 e1 s2 m2 e2, false)

/-- The exact product. -/
def mulVal (a b : FVal) : FVal × Bool :=
  match a, b with
  | .nan s, b => (.nan false, s || b.isSNan)
  | a, .nan s => (.nan false, a.isSNan || s)
  | .inf s, b => if b.isZero then (.nan false, true) else (.inf (s != b.sign), false)
  | a, .inf t => if a.isZero then (.nan false, true) else (.inf (a.sign != t), false)
  | .fin s1 m1 e1, .fin s2 m2 e2 => (.fin (s1 != s2) (m1 * m2) (e1 + e2), false)

/-- Finish an exact result: NV for an invalid operation, else round. -/
def Fmt.finish (f : Fmt) (rm : RMode) (flush : Nat) (r : FVal × Bool) : FRes :=
  if r.2 then f.nanRes true else f.ofVal rm 0 flush false r.1

def Fmt.add (f : Fmt) (rm : RMode) (flush x y : Nat) : FRes :=
  f.finish rm.plain flush (addVal rm.plain (f.read flush x) (f.read flush y))

def Fmt.sub (f : Fmt) (rm : RMode) (flush x y : Nat) : FRes :=
  f.finish rm.plain flush (addVal rm.plain (f.read flush x) (f.read flush y).neg)

def Fmt.mul (f : Fmt) (rm : RMode) (flush x y : Nat) : FRes :=
  f.finish rm.plain flush (mulVal (f.read flush x) (f.read flush y))

/-- The fused product-sum ± (a × b) ± c, rounded once (R179). -/
def Fmt.fma (f : Fmt) (rm : RMode) (flush : Nat) (negProd negAdd : Bool) (x y z : Nat) : FRes :=
  let p := mulVal (f.read flush x) (f.read flush y)
  let c := f.read flush z
  if p.2 || c.isSNan then f.nanRes true
  else f.finish rm.plain flush
    (addVal rm.plain (if negProd then p.1.neg else p.1) (if negAdd then c.neg else c))

/-- The exact quotient to 130 bits, with a sticky bit below. -/
def divFin (s : Bool) (m1 : Nat) (e1 : Int) (m2 : Nat) (e2 : Int) : FVal :=
  let l := m2.log2 + 130
  let n := m1 * 2 ^ l
  .fin s (2 * (n / m2) + b2n (n % m2 != 0)) (e1 - e2 - l - 1)

def Fmt.div (f : Fmt) (rm : RMode) (flush x y : Nat) : FRes :=
  match f.read flush x, f.read flush y with
  | .nan s, b => f.nanRes (s || b.isSNan)
  | a, .nan s => f.nanRes (a.isSNan || s)
  | .inf s, .inf _ => f.nanRes (s || true)
  | .inf s, .fin t _ _ => (f.signBit (s != t) + f.infMag, 0)
  | .fin s _ _, .inf t => (f.signBit (s != t), 0)
  | .fin s m1 e1, .fin t m2 e2 =>
    if m2 = 0 then (if m1 = 0 then f.nanRes true else (f.signBit (s != t) + f.infMag, flDZ))
    else f.ofVal rm.plain 0 flush false (divFin (s != t) m1 e1 m2 e2)

/-- The integer square root, one bit at a time. -/
def isqrt : Nat → Nat → Nat → Nat
  | 0, _, r => r
  | k + 1, n, r => if (r + 2 ^ k) * (r + 2 ^ k) ≤ n then isqrt k n (r + 2 ^ k) else isqrt k n r

def Fmt.sqrt (f : Fmt) (rm : RMode) (flush x : Nat) : FRes :=
  match f.read flush x with
  | .nan s => f.nanRes s
  | .inf s => if s then f.nanRes true else (f.infMag, 0)
  | .fin s m e =>
    if m = 0 then (f.signBit s, 0)
    else if s then f.nanRes true
    else
      let odd := e % 2 == 1
      let n := (if odd then 2 * m else m) * 2 ^ 260
      let h := (if odd then e - 1 else e) / 2
      let r := isqrt 170 n 0
      f.ofVal rm.plain 0 flush false (.fin false (2 * r + b2n (r * r != n)) (h - 131))

/-- Order two values that are not NaN: an integer comparison at a common scale; −0 = +0. -/
def ltVal (a b : FVal) : Bool :=
  match a, b with
  | .inf s, .inf t => s && !t
  | .inf s, _ => s
  | _, .inf t => !t
  | .fin s1 m1 e1, .fin s2 m2 e2 =>
    let q := if e1 < e2 then e1 else e2
    decide (scaled s1 m1 e1 q < scaled s2 m2 e2 q)
  | _, _ => false

/-- Equality of two values that are not NaN; −0 = +0. -/
def eqVal (a b : FVal) : Bool := !a.isNan && !b.isNan && !ltVal a b && !ltVal b a

/-- Minimum and maximum: a NaN gives the canonical NaN, and −0 orders below +0 (R180). -/
def Fmt.minmax (f : Fmt) (max : Bool) (flush x y : Nat) : FRes :=
  let a := f.read flush x
  let b := f.read flush y
  if a.isNan || b.isNan then f.nanRes (a.isSNan || b.isSNan)
  else
    let aBelow := ltVal a b || (!ltVal b a && a.sign)
    f.ofVal .rne 0 flush false (if aBelow == max then b else a)

/-- Equality raises NV for a signalling NaN only; the ordered comparisons for any NaN (IEEE 754-2019). -/
def Fmt.eq (f : Fmt) (flush x y : Nat) : Bool × FFlags :=
  let a := f.read flush x
  let b := f.read flush y
  (eqVal a b, if a.isSNan || b.isSNan then flNV else 0)

def Fmt.lt (f : Fmt) (flush x y : Nat) : Bool × FFlags :=
  let a := f.read flush x
  let b := f.read flush y
  if a.isNan || b.isNan then (false, flNV) else (ltVal a b, 0)

def Fmt.le (f : Fmt) (flush x y : Nat) : Bool × FFlags :=
  let a := f.read flush x
  let b := f.read flush y
  if a.isNan || b.isNan then (false, flNV) else (!ltVal b a, 0)

/-- The exact float-to-float conversion of R181 and R178. -/
def cvtFloat (src dst : Fmt) (rm : RMode) (g flush : Nat) (sat : Bool) (x : Nat) : FRes :=
  dst.ofVal rm g flush sat (src.read flush x)

/-- Conversion to an integer of `bits` bits (R182): NV alone outside the range and for NaN. -/
def cvtToInt (f : Fmt) (rm : RMode) (flush : Nat) (bits : Nat) (signed : Bool) (x : Nat) : Int × FFlags :=
  let lo : Int := if signed then -(2 ^ (bits - 1) : Nat) else 0
  let hi : Int := if signed then (2 ^ (bits - 1) : Nat) - 1 else (2 ^ bits : Nat) - 1
  match f.read flush x with
  | .nan _ => (hi, flNV)
  | .inf s => (if s then lo else hi, flNV)
  | .fin s m e =>
    let r := roundAt rm.plain 0 s m e 0
    let v : Int := if s then -(r.1 : Int) else r.1
    if v < lo then (lo, flNV) else if hi < v then (hi, flNV) else (v, if r.2 then flNX else 0)

/-- Conversion from an integer (R173: SR rounds as RNE). -/
def cvtFromInt (f : Fmt) (rm : RMode) (flush : Nat) (v : Int) : FRes :=
  f.round rm.plain 0 flush false (decide (v < 0)) v.natAbs 0

/-- The class mask of R193. -/
def Fmt.classify (f : Fmt) (x : Nat) : Nat :=
  match f.decode x with
  | .nan s => if s then 256 else 512
  | .inf s => if s then 1 else 128
  | .fin s m _ =>
    if m = 0 then (if s then 8 else 16)
    else if f.isSub x then (if s then 4 else 32)
    else if s then 2 else 64

/-- The sign of `x` replaced (R179, R560). -/
def Fmt.withSign (f : Fmt) (x : Nat) (s : Bool) : Nat := x % 2 ^ (f.ebits + f.mbits) + f.signBit s

/-- The sign bit of an encoding. -/
def Fmt.signOf (f : Fmt) (x : Nat) : Bool := x / 2 ^ (f.ebits + f.mbits) % 2 == 1

/-- ⌊log2 |v|⌋ of a finite non-zero value. -/
def lgVal (m : Nat) (e : Int) : Int := (m.log2 : Int) + e

/-- The histogram bin of a drained value (R188). -/
def histBin (f : Fmt) (x : Nat) : Nat :=
  match f.decode x with
  | .nan _ => 63
  | .inf _ => 63
  | .fin _ m e =>
    if m = 0 then 0
    else if lgVal m e ≤ -31 then 1
    else if 31 ≤ lgVal m e then 63
    else (lgVal m e + 32).toNat

end Sys2Proof.Machine
end

