-- ==== Sys2Proof/Machine/Velna.lean ====
section
/-!
DEFINITION. Velna commands that answer at once: queries of the device (R386, R40, R54), queues, antes and the ledger
(R329, R344, R390, R391), chain tables (R315, R316), the error log and recall notices (R391–R393, R492, R495), check-split
(R504) and the power envelope (R388, R536).
-/

namespace Sys2Proof.Machine

/-- No payload check beyond the length. -/
def noChk (_ : List Byte) : Option Status := none

/-- A payload check of reserved bytes and of conditions with their statuses (R565). -/
def payChk (reserved : List (Nat × Nat)) (conds : List Byte → List (Option Status)) (p : List Byte) : Option Status :=
  firstOf (reservedZero p reserved :: conds p)

/-! Device queries. -/

/-- The code of a device state (R386). -/
def DevState.code : DevState → Nat
  | .reset => 0 | .booting => 1 | .floor0 => 2 | .ready => 3 | .faulted => 4

/-- The `DEV_INFO` answer (R386). -/
def State.devInfo (s : State) (m : MbxId) : List Byte :=
  padTo 16 (ascii "SJ-AV64") ++ leBytes 2 0x00B0 ++ padTo 3 s.sec.fwVersion ++ [0x32]
    ++ [0x0001, 0x0002, 0x0003, 0x0004].map (fun i => BitVec.ofNat 8 (s.field i))
    ++ [BitVec.ofNat 8 (if m.val < 64 then m.val else 0x41)] ++ zeros 5

/-- DEV_INFO (R386). -/
def execDevInfo (m : MbxId) (tag : BitVec 16) (s : State) : Host.Outcome State Fault Refusal :=
  .next (s.serve m tag 0x0101 noChk (fun h s => s.answer m h .ok (s.devInfo m)))

/-- Partitions that satisfy a test, as a bitmap. -/
def State.partMap (s : State) (f : Part → Bool) : BitVec 64 := bitmap 64 (parts64.filter (fun n => f (s.part n)))

/-- `DEV_STATUS.FLAGS` (R386). -/
def State.devFlags (s : State) : Byte :=
  BitVec.ofNat 8 (b2n (!s.boot.lostDies.isEmpty) + 2 * b2n ((List.range 4).any (fun d => decide (1 < s.failedOn d)))
    + 4 * b2n s.cfg.debugSinceCold + 8 * b2n s.entropyDead)

/-- The `DEV_STATUS` answer (R386): whole to the operator, a partition's own bits to a partition. -/
def State.devStatus (s : State) (m : MbxId) : List Byte :=
  let head := [BitVec.ofNat 8 s.boot.state.code, s.boot.floor, BitVec.ofNat 8 s.sec.marginal.length, s.devFlags]
  let faulted := s.partMap (·.fault)
  let conf := s.partMap (·.conf)
  if m.val < 64 then
    let own (t : BitVec 64) : List Byte := bvBytes (t &&& BitVec.ofNat 64 (2 ^ m.val))
    head ++ zeros 4 ++ bvBytes (s.unavail &&& (if s.valid m.val then (s.part m.val).entry.tiles else 0)) ++ zeros 328
      ++ own faulted ++ own conf
  else
    head ++ (bvBytes s.plant.sent).take 4 ++ bvBytes s.unavail
      ++ ((List.range 8).map (fun k => bvBytes (s.hbmc k).stat)).flatten
      ++ ((List.range 16).map (fun l => bvBytes (s.link l).stat)).flatten
      ++ ((List.range 16).map (fun l => bvBytes (s.link l).cnt)).flatten
      ++ bvBytes (bitmap 64 s.sec.marginal) ++ bvBytes faulted ++ bvBytes conf

/-- DEV_STATUS (R386). -/
def execDevStatus (m : MbxId) (tag : BitVec 16) (s : State) : Host.Outcome State Fault Refusal :=
  .next (s.serve m tag 0x0102 noChk (fun h s => s.answer m h .ok (s.devStatus m)))

/-- The key of a reader's own minimum of a pace monitor (R39): readers are partitions 0–63, the operator 64 and pair 3, 65. -/
def minKey (reader monitor : Nat) : Nat := reader * 128 + monitor

/-- The monitors a caller may read (R40). -/
def State.paceVisible (s : State) (m : MbxId) (n : Nat) : Bool :=
  if m.val < 64 then decide (n < 64) && s.tileOwner n == some m.val else true

/-- The measured record of a pace monitor with a reader's own minimum (R39). -/
def State.paceMeasured (s : State) (reader n : Nat) : Word :=
  let p := SMap.get {} s.plant.pace n
  let min := ((SMap.get none s.plant.minByReader (minKey reader n)).getD 0).toNat
  BitVec.ofNat 64 (p.pace.toNat + min * 2 ^ 16 + p.railMv.toNat * 2 ^ 32 + p.tj.toNat * 2 ^ 44 + b2n p.locked * 2 ^ 62
    + b2n p.valid * 2 ^ 63)

/-- The record of a pace monitor as a caller reads it (R40). -/
def State.paceRecord (s : State) (m : MbxId) (n : Nat) : Word :=
  match (if n < 64 then s.tileOwner n else none) with
  | none => s.paceMeasured m.val n
  | some o =>
    if m.val < 64 then
      (match (s.part o).paceRate with
       | some r => BitVec.ofNat 64 (r + r * 2 ^ 16 + 2 ^ 62 + 2 ^ 63)
       | none => s.paceMeasured m.val n)
    else if (s.part o).conf then 0
    else s.paceMeasured m.val n

/-- PACE_REPORT (R39, R40): a read clears the reader's own minimum of each monitor it returns. -/
def execPaceReport (m : MbxId) (tag : BitVec 16) (s : State) : Host.Outcome State Fault Refusal :=
  .next (s.serve m tag 0x0103 noChk (fun h s =>
    let ns := (List.range 76).filter (s.paceVisible m)
    let body := bvBytes (bitmap 128 ns) ++ (ns.map (fun n => bvBytes (s.paceRecord m n))).flatten
    let mins := ns.foldl (fun x n => SMap.put none x (minKey m.val n) none) s.plant.minByReader
    { s with plant := { s.plant with minByReader := mins } }.answer m h .ok body))

/-- A field's value in force as bytes (R404, R405); none for an ID not in the table. -/
def State.fieldBytes (s : State) (id : Nat) : Option (List Byte) :=
  match fieldInfo id with
  | none => none
  | some (_, 2) => some (s.cfg.prot.field id)
  | some (n, _) => some (leBytes n (if id = 0x0010 then s.plant.sentBound.toNat
      else if id = 0x0020 then s.cfg.envelope.getD (s.field id) else if id / 256 = 0 ∧ id = 0x0011 then s.ovField s.cfg.overlay id
      else s.field id))

/-- The entries of an arbiter's rotation (R78, R386). -/
def State.rotBytes (s : State) (a : Nat) : List Byte := SMap.getMany 0x7F (s.arb a).rot 0 (if a < 34 then 256 else 66)

/-- The answer's value, or the status of a refusal (R384, R386). -/
def State.configValue (s : State) (m : MbxId) (h : Held) : Except Status (List Byte) × State :=
  let p := h.payload
  let sel := at' p 0 1
  let unit := at' p 1 1
  let id := at' p 2 2
  let off := at' p 4 4
  let own := m.val < 64
  let n := targetOf m h
  let no : Except Status (List Byte) := .error .notPermitted
  if own ∧ (sel = 0 ∨ sel = 3) then (no, s)
  else match sel with
    | 0 => (match s.fieldBytes id with
      | some bs => (.ok bs, s)
      | none => (no, s))
    | 1 => if 36 ≤ id ∨ (own ∧ id < 34 ∧ !s.joined id m.val) then (no, s) else (.ok (s.rotBytes id), s)
    | 2 => if n < 64 then (.ok (({ (s.part n).entry with ante := if s.valid n then BitVec.ofNat 32 (s.part n).ante else 0 } : PartEntry).bytes), s)
      else (no, s)
    | 3 =>
      if 0x40 ≤ unit ∧ unit ≤ 0x53 ∧ unitListed unit ∧ off < 2 ^ 24 then
        (match s.unitRead unit off with
         | (some w, s) => (.ok (bvBytes w), s)
         | (none, s) => (no, s))
      else (no, s)
    | _ => if n < 64 then (.ok (bvBytes (if !own && !s.vfLive n then s.partStatus n &&& ~~~(7 : Word) else s.partStatus n)), s) else (no, s)

/-- The payload checks of CONFIG_READ (R386). -/
def configReadChk : List Byte → Option Status :=
  payChk [] (fun p => [need (decide (at' p 0 1 ≤ 4)) .notPermitted,
    need (match at' p 0 1 with
      | 0 => (fieldInfo (at' p 2 2)).isSome
      | 1 => decide (at' p 2 2 < 36)
      | 3 => decide (0x40 ≤ at' p 1 1) && decide (at' p 1 1 ≤ 0x53)
      | _ => true) .notPermitted,
    need (at' p 0 1 != 3 || at' p 4 4 % 8 == 0) .badLength])

/-- CONFIG_READ (R386). -/
def execConfigRead (m : MbxId) (tag : BitVec 16) (s : State) : Host.Outcome State Fault Refusal :=
  .next (s.serve m tag 0x0203 configReadChk
    (fun h s => match s.configValue m h with
      | (.ok bs, s) => s.answer m h .ok (leBytes 2 bs.length ++ zeros 6 ++ bs)
      | (.error st, s) => s.answer m h st []))

/-! Queues, antes and the ledger. -/

/-- The payload checks of QUEUE_CREATE (R329, R386). -/
def queueCreateChk : List Byte → Option Status :=
  payChk [(17, 7)] (fun p => [
    need (decide (at' p 0 1 ≤ 1) && decide (at' p 1 1 ≤ 15) && decide (at' p 2 1 ≤ 1) && decide (at' p 3 1 ≤ 1)) .notPermitted,
    need (decide (2 ≤ at' p 4 4) && decide (at' p 4 4 ≤ 65536) && at' p 8 8 % 4096 == 0) .badLength])

/-- QUEUE_CREATE (R329, R386): an existing queue is not replaced; an SQ's CQ must exist; a queue in device memory must be
mapped, for reading where it is an SQ and for writing where it is a CQ. -/
def execQueueCreate (m : MbxId) (tag : BitVec 16) (s : State) : Host.Outcome State Fault Refusal :=
  .next (s.serve m tag 0x0501 queueCreateChk
    (fun h s =>
      let n := targetOf m h
      let p := h.payload
      let q := at' p 1 1
      let isCq := at' p 0 1 == 1
      let host := at' p 2 1 == 0
      let size := at' p 4 4
      let base := at' p 8 8
      let cq := at' p 16 1
      let x := s.part n
      let there := if isCq then (SMap.get none x.cqs q).isSome else (SMap.get none x.sqs q).isSome
      if !s.valid n || there || (!isCq && (SMap.get none x.cqs cq).isNone) then s.answer m h .notPermitted []
      else
        let (es, s) := if host then (some [], s) else s.range x.root (if isCq then .store else .load) base (size * if isCq then 32 else 128)
        if es.isNone then s.answer m h .unmapped []
        else
          let s := if isCq then s.updPart n (fun x => { x with cqs := SMap.put none x.cqs q (some { host := host, ien := at' p 3 1 == 1, base := BitVec.ofNat 64 base, size := size }) })
            else s.updPart n (fun x => { x with sqs := SMap.put none x.sqs q (some { host := host, base := BitVec.ofNat 64 base, size := size, cq := cq }) })
          s.answer m h .ok []))

/-- The payload checks of QUEUE_DESTROY (R390). -/
def queueDestroyChk : List Byte → Option Status :=
  payChk [(2, 6)] (fun p => [need (decide (at' p 0 1 ≤ 1) && decide (at' p 1 1 ≤ 15)) .notPermitted])

/-- QUEUE_DESTROY (R390). -/
def execQueueDestroy (m : MbxId) (tag : BitVec 16) (s : State) : Host.Outcome State Fault Refusal :=
  .next (s.serve m tag 0x0502 queueDestroyChk
    (fun h s =>
      let n := targetOf m h
      let q := at' h.payload 1 1
      let x := s.part n
      if at' h.payload 0 1 = 0 then
        if !s.valid n || (SMap.get none x.sqs q).isNone then s.answer m h .notPermitted []
        else
          let s := s.updPart n (fun x => { x with
            sqs := SMap.put none x.sqs q none, deferred := (match x.deferred with
              | some d => if d.1 = q then none else some d
              | none => none) })
          s.answer m h .ok []
      else if !s.valid n || (SMap.get none x.cqs q).isNone || x.sqs.any (fun e => match e.2 with
          | some sq => sq.cq == q
          | none => false) then s.answer m h .notPermitted []
      else if (s.ledgerOf n).any (fun i => (s.led i).cq == q) || x.answers.any (fun a => a.cq == q) then s.answer m h .notQuiet []
      else (s.updPart n (fun x => { x with cqs := SMap.put none x.cqs q none })).answer m h .ok []))

/-- The payload checks of ANTE_SET (R343, R344, R390). -/
def anteSetChk : List Byte → Option Status :=
  payChk [(4, 4)] (fun p => [need (decide (1 ≤ at' p 0 4) && decide (at' p 0 4 ≤ 262144)) .notPermitted])

/-- ANTE_SET (R343, R344, R390). -/
def execAnteSet (m : MbxId) (tag : BitVec 16) (s : State) : Host.Outcome State Fault Refusal :=
  .next (s.serve m tag 0x0503 anteSetChk
    (fun h s =>
      let n := targetOf m h
      let s' := s.updPart n (fun x => { x with ante := at' h.payload 0 4 })
      let strict := ((parts64.filter s'.isStrict).map (fun i => (s'.part i).ante)).sum
      if !s.valid n || (s.isStrict n && decide (1048576 < strict)) then s.answer m h .notPermitted []
      else s'.answer m h .ok (leBytes 4 (s.ledgerOf n).length ++ leBytes 4 s'.reserved.2)))

/-- The code of a ledger state (R339). -/
def LState.code : LState → Nat
  | .free => 0 | .dealt => 1 | .running => 2 | .posting => 3

/-- The 64 bytes of a ledger entry (R339). -/
def Ledger.bytes (e : Ledger) (i extPtr : Nat) : List Byte :=
  leBytes 64 (e.state.code + b2n e.stream * 2 ^ 3 + b2n e.trump * 2 ^ 4 + b2n e.trd * 2 ^ 5 + b2n e.closing * 2 ^ 6
    + e.part.val * 2 ^ 8 + e.sq * 2 ^ 14 + e.cid.toNat * 2 ^ 18 + e.rgn.toNat * 2 ^ 34 + b2n e.rgnValid * 2 ^ 50
    + e.version.toNat * 2 ^ 64 + e.epoch.toNat * 2 ^ 96 + e.grainBase.toNat * 2 ^ 128 + i * 2 ^ 24 * 2 ^ 152
    + e.deadline * 2 ^ 256 + e.tile * 2 ^ 320 + e.passes * 2 ^ 326 + e.done * 2 ^ 332 + e.seq.toNat * 2 ^ 340
    + e.extents % 4096 * 2 ^ 372 + extPtr * 2 ^ 384)

/-- The bytes of several entries: the place of an entry's extents in the partition's list is firmware's choice, so `EXT_PTR`
is a free value, not zero for 4,096 extents and zero for none (log entry 4). -/
def State.ledgerBytes (s : State) (is : List Nat) : List Byte × State :=
  is.foldl (fun r i =>
    let e := r.2.led i
    let (w, s) := r.2.draw
    let ptr := if e.extents = 0 then 0 else if e.extents = 4096 then fld w 0 24 % (2 ^ 24 - 1) + 1 else fld w 0 24
    (r.1 ++ e.bytes i ptr, s)) ([], s)

/-- The payload checks of LEDGER_QUERY (R386, R391). -/
def ledgerQueryChk : List Byte → Option Status :=
  payChk [(10, 6)] (fun p => [need (decide (at' p 0 1 ≤ 1)) .notPermitted,
    need (decide (1 ≤ at' p 8 2) && decide (at' p 8 2 ≤ 63)) .badLength])

/-- LEDGER_QUERY (R386, R391). -/
def execLedgerQuery (m : MbxId) (tag : BitVec 16) (s : State) : Host.Outcome State Fault Refusal :=
  .next (s.serve m tag 0x0504 ledgerQueryChk
    (fun h s =>
      let p := h.payload
      let all := (s.ledgerOf (targetOf m h)).filter (fun i =>
        decide (at' p 4 4 ≤ i) && (at' p 0 1 == 0 || (s.led i).sq == at' p 1 1 && (s.led i).cid.toNat == at' p 2 2))
      let now := all.take (at' p 8 2)
      let next := (all.drop (at' p 8 2)).headD 0xFFFFFFFF
      let (bs, s) := s.ledgerBytes now
      s.answer m h .ok (leBytes 2 now.length ++ zeros 2 ++ leBytes 4 next ++ zeros 8 ++ bs)))

/-! Chain tables. -/

/-- The digest of a chain table (R315): the first 8 bytes of the SHA-384, as a little-endian number. -/
def chainDigest (p : List Byte) : Word := bytesBv 64 ((sha384 (slice p 0 8 ++ p.drop 16)).take 8)

/-- The payload checks of CHAIN_DEFINE (R315, R316). -/
def chainDefineChk : List Byte → Option Status :=
  fun p =>
    let hd : Word := BitVec.ofNat 64 (at' p 0 8)
    firstOf [need (hd &&& 0xFFFFFC00F000FCC0 == 0 && allZero (slice p 8 8) && decide (fld hd 32 10 ≤ 1000)) .notPermitted,
      need ((List.range ((p.length - 16) / 2)).all (fun i => at' p (16 + 2 * i) 2 < 4096)) .notPermitted,
      need (p.length == 16 + 2 * (fld hd 16 12 + 1)) .badLength]

/-- CHAIN_DEFINE (R315, R316). -/
def execChainDefine (m : MbxId) (tag : BitVec 16) (s : State) : Host.Outcome State Fault Refusal :=
  .next (s.serve m tag 0x0601 chainDefineChk
    (fun h s =>
      let n := targetOf m h
      let p := h.payload
      let hd : Word := BitVec.ofNat 64 (at' p 0 8)
      let ms : List (BitVec 16) := (List.range (fld hd 16 12 + 1)).map (fun i => BitVec.ofNat 16 (at' p (16 + 2 * i) 2))
      let c := fld hd 0 6
      if !s.valid n || (SMap.get none (s.part n).chains c).isSome
          || decide ((s.part n).entry.chainQuota.toNat ≤ (s.chainsOf n).length)
          || ms.eraseDups.length != ms.length || ms.any (fun x => decide (s.ergSize ≤ fld x 6 6)
            || (fld x 6 6 == s.deviceNum && !(s.availOf n).contains (fld x 0 6))) then s.answer m h .notPermitted []
      else
        let d := chainDigest p
        (s.updPart n (fun x => { x with chains := SMap.put none x.chains c (some ⟨hd, ms, d⟩) })).answer m h .ok (bvBytes d)))

/-- True while a chain step of chain c of partition n is active here (R316). -/
def State.chainActive (s : State) (n c : Nat) : Bool :=
  (s.ledgerOf n).any (fun i => (s.led i).state != .posting && (match (s.led i).cstep with
    | some x => x.chain == c && (s.led i).crun.started && !(s.led i).crun.ended && (s.led i).state == .running
    | none => false))

/-- The payload checks of CHAIN_RELEASE (R316). -/
def chainReleaseChk : List Byte → Option Status :=
  payChk [(1, 7)] (fun p => [need (decide (at' p 0 1 ≤ 63)) .notPermitted])

/-- CHAIN_RELEASE (R316). -/
def execChainRelease (m : MbxId) (tag : BitVec 16) (s : State) : Host.Outcome State Fault Refusal :=
  .next (s.serve m tag 0x0602 chainReleaseChk
    (fun h s =>
      let n := targetOf m h
      let c := at' h.payload 0 1
      if !s.valid n || (SMap.get none (s.part n).chains c).isNone then s.answer m h .notPermitted []
      else if s.chainActive n c then s.answer m h .notQuiet []
      else (s.updPart n (fun x => { x with chains := SMap.put none x.chains c none })).answer m h .ok []))

/-! The error log and recall notices. -/

/-- True when a record is delivered to partition n (R495). -/
def ErrRec.toPart (r : ErrRec) (n : Nat) : Bool := r.part == n || r.also.contains n

/-- The operator's redacted copy of a record about a confidential partition (R32, R291, R495): no address, ledger index or
detail, but for the HBM fields other than `LINE` and `CHUNKS`; a failed health pass gives its item count in `COUNT`. -/
def ErrRec.redact (r : ErrRec) : ErrRec :=
  let d : BitVec 128 := BitVec.ofNat 128 r.detail
  { r with
    addr := 0, ledger := 0, count := if r.type = 0x0104 then r.items else r.count,
    detail := if r.type / 256 = 3 then (setFld (setFld d 32 28 0) 7 9 0).toNat else 0 }

/-- The 64 bytes of a record (R492). -/
def ErrRec.bytes (r : ErrRec) (redacted : Bool) : List Byte :=
  leBytes 64 (r.seq + r.time * 2 ^ 64 + r.type * 2 ^ 128 + r.cls * 2 ^ 144 + b2n redacted * 2 ^ 152 + b2n r.split * 2 ^ 153
    + b2n r.coalesced * 2 ^ 154 + b2n r.scrub * 2 ^ 155 + b2n r.follow * 2 ^ 156 + r.part * 2 ^ 160 + r.tile * 2 ^ 168
    + r.unit * 2 ^ 176 + r.addr % 2 ^ 52 * 2 ^ 192 + r.count % 2 ^ 32 * 2 ^ 256 + r.ledger * 2 ^ 288 + r.detail % 2 ^ 128 * 2 ^ 384)

/-- A record as a caller receives it (R495). The spec does not say how a record raised in confidential mode reads once a warm reset
has ended that mode (R457): the mode at the time of the read decides (log entry 117). -/
def State.recordFor (s : State) (m : MbxId) (r : ErrRec) : List Byte :=
  if m.val = 64 ∧ r.part < 64 ∧ (s.part r.part).conf then r.redact.bytes true else r.bytes false

/-- Insert a record in order of its number, once. -/
def insertRec (r : ErrRec) : List ErrRec → List ErrRec
  | [] => [r]
  | x :: t => if r.seq < x.seq then r :: x :: t else if r.seq = x.seq then x :: t else x :: insertRec r t

/-- The records still held that a caller may read, in order of `SEQ` (R391, R495). -/
def State.recordsOf (s : State) (m : MbxId) : List ErrRec :=
  let fatal := s.fatals.filterMap (·.2)
  (fatal.foldl (fun l r => insertRec r l) s.ring).filter (fun r => m.val = 64 || r.toPart m.val)

/-- The 24 bytes of a recall item (R392). -/
def JournalItem.bytes (j : JournalItem) : List Byte :=
  leBytes 24 (j.ix + j.sq * 2 ^ 20 + b2n j.stream * 2 ^ 24 + j.cid % 2 ^ 16 * 2 ^ 32 + j.time % 2 ^ 64 * 2 ^ 64 + j.firstSeq * 2 ^ 128
    + j.lastSeq * 2 ^ 160)

/-- Insert an item in order of completion time (R392). -/
def insertItem (j : JournalItem) : List JournalItem → List JournalItem
  | [] => [j]
  | x :: t => if x.time ≤ j.time then x :: insertItem j t else j :: x :: t

/-- A page of records or items: its count, the next index and the bytes. -/
def logPage (count next : Nat) (bytes : List Byte) : List Byte := leBytes 2 count ++ zeros 6 ++ leBytes 8 next ++ bytes

/-- The payload checks of ERROR_LOG_READ (R391, R392, R495). -/
def errorLogReadChk : List Byte → Option Status :=
  payChk [(1, 3), (18, 6)] (fun p => [need (decide (at' p 0 1 ≤ 1)) .notPermitted,
    need (decide (1 ≤ at' p 16 2) && decide (at' p 16 2 ≤ if at' p 0 1 = 0 then 63 else 168)) .badLength])

/-- ERROR_LOG_READ (R391, R392, R495). -/
def execErrorLogRead (m : MbxId) (tag : BitVec 16) (s : State) : Host.Outcome State Fault Refusal :=
  .next (s.serve m tag 0x0801 errorLogReadChk
    (fun h s =>
      let p := h.payload
      let n := targetOf m h
      let first := at' p 8 8
      let max := at' p 16 2
      let none64 := 2 ^ 64 - 1
      if at' p 0 1 = 0 then
        let rs := (s.recordsOf m).filter (fun r => decide (first ≤ r.seq))
        let next := match rs.drop max with
          | r :: _ => r.seq
          | [] => none64
        s.answer m h .ok (logPage (rs.take max).length next ((rs.take max).map (s.recordFor m)).flatten)
      else if 64 ≤ n ∨ (m.val = 64 ∧ (s.part n).conf) then s.answer m h .notPermitted []
      else match (s.part n).notices.find? (fun x => x.num == at' p 4 4 && x.posted) with
        | none => s.answer m h .notPermitted []
        | some x =>
          let is := (x.items.foldr insertItem []).drop first
          let next := if (is.drop max).isEmpty then none64 else first + max
          s.answer m h .ok (logPage (is.take max).length next ((is.take max).map JournalItem.bytes).flatten)))

/-- The payload checks of RECALL_ACK (R393). -/
def recallAckChk : List Byte → Option Status :=
  payChk [(4, 4)] (fun _ => [])

/-- RECALL_ACK (R393). -/
def execRecallAck (m : MbxId) (tag : BitVec 16) (s : State) : Host.Outcome State Fault Refusal :=
  .next (s.serve m tag 0x0803 recallAckChk
    (fun h s =>
      let n := targetOf m h
      let k := at' h.payload 0 4
      if (s.part n).notices.any (fun x => x.num == k && x.posted && !x.acked) then
        (s.updPart n (fun x => { x with notices := x.notices.map (fun y => if y.num = k then { y with acked := true } else y) })).answer m h .ok []
      else s.answer m h .notPermitted []))

/-! Check-split and the power envelope. -/

/-- The payload checks of CHECK_SPLIT_ENABLE (R390, R504). -/
def checkSplitEnableChk : List Byte → Option Status :=
  payChk [(2, 6)] (fun p => [need (decide (at' p 0 1 ≤ 1) && decide (at' p 1 1 ≤ 7)) .notPermitted])

/-- CHECK_SPLIT_ENABLE (R390, R504). -/
def execCheckSplitEnable (m : MbxId) (tag : BitVec 16) (s : State) : Host.Outcome State Fault Refusal :=
  .next (s.serve m tag 0x0901 checkSplitEnableChk
    (fun h s =>
      if s.anyConf then s.answer m h .notPermitted []
      else
        let sp : BitVec 3 := BitVec.ofNat 3 (at' h.payload 1 1)
        { s with boot := { s.boot with checkSplit := if at' h.payload 0 1 = 1 then s.boot.checkSplit ||| sp else 0 } }.answer m h .ok []))

/-- The payload checks of POWER_ENVELOPE (R388, R536). -/
def powerEnvelopeChk : List Byte → Option Status :=
  payChk [(2, 6)] (fun p => [need (at' p 0 2 == 0 || (decide (1100 ≤ at' p 0 2) && decide (at' p 0 2 ≤ 1700))) .notPermitted])

/-- POWER_ENVELOPE (R388, R536). -/
def execPowerEnvelope (m : MbxId) (tag : BitVec 16) (s : State) : Host.Outcome State Fault Refusal :=
  .next (s.serve m tag 0x0A01 powerEnvelopeChk
    (fun h s =>
      let w := at' h.payload 0 2
      let s := if w = 0 then s else { s with cfg := { s.cfg with envelope := some w } }
      s.answer m h .ok (leBytes 2 s.envelopeW ++ leBytes 2 s.plant.watts.toNat ++ zeros 4)))

end Sys2Proof.Machine
end

