-- ==== Sys2Proof/Machine/Maps.lean ====
section
/-!
DEFINITION. Mapping changes (R228–R237) and model regions (R252–R261).
-/

namespace Sys2Proof.Machine

/-! Changes of a root. -/

/-- A page-table leaf (R227): `perm` holds `READ`, `WRITE`, `EXEC` and `RGN` in bits 0–3. -/
def mkLeaf (pa perm : Nat) : Word := BitVec.ofNat 64 (3 + perm * 4 + pa)

/-- A pointer entry (R227). -/
def pointer (pa : Nat) : Word := BitVec.ofNat 64 (1 + pa)

/-- A mapping change (R230): its virtual and physical base, pages, page size and permissions. -/
structure Change where
  va : Nat
  pa : Nat
  pages : Nat
  map : Bool
  large : Bool
  perm : Nat
  deriving DecidableEq, Repr

/-- The bytes of a change's page. -/
def Change.page (c : Change) : Nat := if c.large then 2 ^ 29 else 2 ^ 16

/-- The bytes of a change's range. -/
def Change.len (c : Change) : Nat := c.pages * c.page

/-- The leaf that a change gives its page number `p`, by virtual address over the page size; 0 unmaps it. -/
def Change.leaf (c : Change) (p : Nat) : Word := if c.map then mkLeaf (c.pa + (p - c.va / c.page) * c.page) c.perm else 0

/-- Write a table into its block, a line at a time. -/
def State.putTable (s : State) (pa : Nat) (t : SMap Word) : State :=
  (List.range 512).foldl (fun (s : State) i =>
    let (k, l) := hbmAt (paOff pa + 128 * i)
    s.writeLine k l ((List.range 16).map (fun j => bvBytes (SMap.get 0 t (16 * i + j)))).flatten) s

/-- Firmware at work on a root: the state, the blocks of the area that no root uses, the tables that it edits in place because this work made
them, and whether it has run out of blocks. -/
structure Build where
  s : State
  free : List Nat
  own : List Nat := []
  short : Bool := false

/-- The entries of the table that an entry points to. -/
def Build.table (b : Build) (e : Word) : SMap Word := if e.getLsbD 0 then b.s.tableAt (entryPa e) else []

/-- Keep an edited table: in its own block where this work made it, else in a free one (R228, R234). -/
def Build.store (b : Build) (old : Option Nat) (t : SMap Word) : Word × Build :=
  match old with
  | some pa =>
    if b.own.contains pa then (pointer pa, { b with s := b.s.putTable pa t })
    else (match b.free with
      | a :: free => (pointer a, { s := b.s.putTable a t, free := free, own := a :: b.own, short := b.short })
      | [] => (0, { b with short := true }))
  | none =>
    (match b.free with
      | a :: free => (pointer a, { s := b.s.putTable a t, free := free, own := a :: b.own, short := b.short })
      | [] => (0, { b with short := true }))

/-- Edit the entries [lo, hi) of the table that an entry points to: the entry that stands for it afterwards. A table that is left with no
entry goes (log entry 7). -/
def Build.edit (b : Build) (e : Word) (lo hi : Nat) (f : Nat → Word → Build → Word × Build) : Word × Build :=
  let t := b.table e
  let (t', b) := (List.range (hi - lo)).foldl (fun (r : SMap Word × Build) i =>
    let (w, b) := f (lo + i) (SMap.get 0 t (lo + i)) r.2
    (SMap.put 0 r.1 (lo + i) w, b)) (t, b)
  if t' = [] then (0, b) else if t' = t then (e, b) else b.store (if e.getLsbD 0 then some (entryPa e) else none) t'

/-- The 8,192 leaves that a 512 MiB leaf is split into when a change of 64 KiB pages touches it (R226, R230). -/
def splitLeaf (e : Word) : SMap Word := (List.range 8192).map (fun i => (i, e + BitVec.ofNat 64 (i * 2 ^ 16)))

/-- Edit the level-2 entries [lo, hi) below a level-1 entry. -/
def Build.pages (b : Build) (e : Word) (lo hi : Nat) (g : Nat → Word) : Word × Build :=
  if e.getLsbD 0 && e.getLsbD 1 then
    let t := (List.range (hi - lo)).foldl (fun m i => SMap.put 0 m (lo + i) (g (lo + i))) (splitLeaf e)
    if t = [] then (0, b) else b.store none t
  else b.edit e lo hi (fun i _ b => (g i, b))

/-- Apply one change to a root (R226, R230): level by level, only the tables that it touches. -/
def Build.change (b : Build) (root : Word) (c : Change) : Word × Build :=
  let per := if c.large then 8192 else 8192 * 8192
  let p0 := c.va / c.page
  let p1 := p0 + c.pages
  b.edit root (p0 / per) ((p1 - 1) / per + 1) (fun i e b =>
    let base := i * per
    let lo := max p0 base - base
    let hi := min p1 (base + per) - base
    if c.large then b.edit e lo hi (fun j _ b => (c.leaf (base + j), b))
    else b.edit e (lo / 8192) ((hi - 1) / 8192 + 1) (fun j e b =>
      let base := base + 8192 * j
      b.pages e (max p0 base - base) (min p1 (base + 8192) - base) (fun k => c.leaf (base + k))))

/-- Apply changes in order. -/
def Build.changes (b : Build) (root : Word) (cs : List Change) : Word × Build :=
  cs.foldl (fun (r : Word × Build) c => r.2.change r.1 c) (root, b)

/-- The 64 KiB-aligned blocks of partition n's page-table area, by physical address (R228), below a Strict partition's blank lines (log entry
132). -/
def State.ptBlocks (s : State) (n : Nat) : List Nat :=
  match (s.part n).ptArea with
  | none => []
  | some a =>
    let first := ceilDiv a 65536
    (List.range ((a + areaLen - (if s.isStrict n then 8192 else 0)) / 65536 - first)).map (fun i => s.deviceNum * 2 ^ 46 + 65536 * (first + i))

/-- Partition n's root after changes, and the state with its new tables; none where the tables of both roots do not fit the area
(R228, R231, R234). -/
def State.changed (s : State) (n : Nat) (cs : List Change) : Option (Word × State) :=
  let root := (s.part n).root
  let used := s.tablesOf root
  let (r, b) := Build.changes { s := s, free := (s.ptBlocks n).filter (fun a => !used.contains a) } root cs
  if b.short then none else some (r, b.s)

/-- Partition n's root after pages are unmapped in place, with no root to drain (R422). -/
def State.unmapped (s : State) (n : Nat) (cs : List Change) : Word × State :=
  let root := (s.part n).root
  let (r, b) := Build.changes { s := s, free := [], own := s.tablesOf root } root cs
  (r, b.s)

/-- Copy partition n's tables into another area (R228): the new root and the state. -/
def State.moveTables (s : State) (n area : Nat) : State :=
  let root := (s.part n).root
  let pages := s.leaves root
  let s := s.updPart n (fun p => { p with ptArea := some area, root := 0 })
  let (r, b) := Build.changes { s := s, free := s.ptBlocks n } 0 (pages.map (fun p =>
    { va := p.1, pa := leafPa p.2.1 p.2.2 0, pages := 1, map := true, large := p.2.2, perm := fld p.2.1 2 4 }))
  b.s.updPart n (fun p => { p with root := r })

/-- True when a range of virtual addresses holds a page of a region buffer (R232). -/
def hasRgn (pages : List (Nat × Word × Bool)) (va len : Nat) : Bool :=
  pages.any (fun p => p.2.1.getLsbD 5 && decide (p.1 < va + len) && decide (va < p.1 + pageLen p.2.2))

/-- True when a change of partition n touches a page of a region buffer (R232). -/
def State.rgnTouched (s : State) (n : Nat) (cs : List Change) : Bool :=
  let pages := s.leaves (s.part n).root
  cs.any (fun c => hasRgn pages c.va c.len)

/-- True when partition n may map a physical range of pages (R231). -/
def State.physOk (s : State) (n pa len page : Nat) : Bool :=
  let e := (s.part n).entry
  let o := paOff pa
  decide (0 < len) && decide (pa + len ≤ 2 ^ 52) && decide ((pa + len - 1) / 2 ^ 44 = pa / 2 ^ 44) && decide (paSpace pa < 2)
  && decide (paDev pa < s.ergSize)
  && (paDev pa != s.deviceNum || (if paSpace pa = 0 then covered (o, o + len) e.spans
      else decide (page ≤ 2 ^ 24) && (List.range ((o + len - 1) / 2 ^ 24 - o / 2 ^ 24 + 1)).all (fun i =>
        decide (o / 2 ^ 24 + i < 64) && e.tiles.getLsbD (o / 2 ^ 24 + i))))

/-! Roots coming into force and draining. -/

/-- Release a draining root that nothing uses (R236): a held command completes, or MAP_DRAINED is posted where one is due. -/
def State.releaseRoot (s : State) (n : Nat) : State :=
  let p := s.part n
  match p.old with
  | none => s
  | some (id, _) =>
    if s.rootInUse n id then s
    else
      let s := s.updPart n (fun p => { p with old := none, mapWait := none, drainedEvent := false })
      match p.mapWait with
      | some w => s.commandDone w.mbx w.tag .ok w.body
      | none =>
        if p.drainedEvent then s.event (Fin.ofNat 65 n) { kind := 3, part := n, time := s.now, body := bvBytes p.oldEpoch } else s

/-- A new root becomes current and the epoch advances (R234); the old root drains. -/
def State.newRoot (s : State) (n : Nat) (r : Word) (w : Option MapWait) : State :=
  (s.updPart n (fun p => { p with
    old := some (p.rootId, p.root), oldEpoch := p.epoch, root := r, rootId := p.rootId + 1, epoch := p.epoch + 1,
    mapWait := w, drainedEvent := false })).releaseRoot n

/-- ROOT_DRAINED (R236). -/
def execRootDrained (n : PartId) (s : State) : Host.Outcome State Fault Refusal := .next (s.releaseRoot n.val)

/-- MAP_UPDATE_DRAIN_TIMEOUT (R236): 1.998 s after the bell the command completes with NOT_QUIET; MAP_DRAINED will follow. -/
def execMapUpdateDrainTimeout (n : PartId) (s : State) : Host.Outcome State Fault Refusal :=
  let p := s.part n.val
  .next (match p.mapWait with
    | some w =>
      let s := (s.atLeast w.deadline).updPart n.val (fun p => { p with mapWait := none, drainedEvent := true })
      s.commandDone w.mbx w.tag .notQuiet []
    | none => s)

/-! MAP_UPDATE. -/

/-- A change from its 24 bytes. -/
def changeOf (b : List Byte) : Change :=
  let ctl := at' b 20 4
  { va := at' b 0 8, pa := at' b 8 8, pages := at' b 16 4, map := ctl % 2 == 1, large := ctl / 2 % 2 == 1, perm := ctl / 4 % 8 }

/-- The changes of a payload. -/
def changesOf (p : List Byte) : List Change := (List.range (at' p 0 2)).map (fun i => changeOf (slice p (8 + 24 * i) 24))

/-- The form of a change (R230). -/
def Change.formOk (c : Change) : Bool :=
  c.va % c.page == 0 && (!c.map || c.pa % c.page == 0) && decide (1 ≤ c.pages) && decide (c.va + c.len ≤ 2 ^ 55)

/-- The payload checks of MAP_UPDATE (R230, R565). -/
def mapChk (p : List Byte) : Option Status :=
  firstOf [reservedZero p [(2, 6)],
    need (decide (1 ≤ at' p 0 2) && decide (at' p 0 2 ≤ 256) && p.length == 8 + 24 * at' p 0 2) .badLength,
    need ((List.range (at' p 0 2)).all (fun i => decide (at' p (28 + 24 * i) 4 < 32))) .notPermitted,
    need ((changesOf p).all Change.formOk) .badLength]

/-- MAP_UPDATE (R230–R237). -/
def execMapUpdate (m : MbxId) (tag : BitVec 16) (s : State) : Host.Outcome State Fault Refusal :=
  .next (s.serve m tag 0x0401 mapChk (fun h s =>
    let n := targetOf m h
    let cs := changesOf h.payload
    let p := s.part n
    if !s.valid n then s.answer m h .notPermitted []
    else if p.old.isSome then s.answer m h .notQuiet []
    else if cs.any (fun c => c.map && !s.physOk n c.pa c.len c.page) then s.answer m h .notPermitted []
    else match s.changed n cs with
      | none => s.answer m h .notPermitted []
      | some (r, s') =>
        if s.rgnTouched n cs then s.answer m h .regionBusy []
        else
          let e := bvBytes (p.epoch + 1)
          (s'.accept m h e).newRoot n r (some ⟨m, h.tag, e, none, h.bell + 1998000000⟩)))

/-! Regions. -/

/-- The bytes that a buffer's pages cover: its size rounded up to the page size. -/
def Region.span (g : Region) : Nat := if g.large then ceilDiv g.size (2 ^ 29) * 2 ^ 29 else g.size

/-- The changes that map or unmap a region's two buffers (R252, R260). -/
def Region.changes (g : Region) (map : Bool) : List Change :=
  let page := if g.large then 2 ^ 29 else 2 ^ 16
  [(g.vaA, g.paA), (g.vaB, g.paB)].map (fun x =>
    { va := x.1.toNat, pa := x.2.toNat, pages := g.span / page, map := map, large := g.large, perm := 8 + 1 + (if g.weights then 0 else 4) })

/-- True when two ranges of one length each share a byte. -/
def meet (a la b lb : Nat) : Bool := !apart (a, a + la) (b, b + lb)

/-- True when a buffer of one region meets the other buffer or a buffer of another region, in virtual or physical addresses
(R252). -/
def State.regionMeets (s : State) (n : Nat) (g : Region) : Bool :=
  meet g.vaA.toNat g.span g.vaB.toNat g.span || meet g.paA.toNat g.span g.paB.toNat g.span
  || (s.regionsOf n).any (fun o => [(g.vaA, o.vaA), (g.vaA, o.vaB), (g.vaB, o.vaA), (g.vaB, o.vaB), (g.paA, o.paA), (g.paA, o.paB),
      (g.paB, o.paA), (g.paB, o.paB)].any (fun x => meet x.1.toNat g.span x.2.toNat o.span))

/-- The first slot at or after `lo` that no region holds. -/
def freeSlot : Nat → SMap Region → Nat
  | lo, [] => lo
  | lo, (a, _) :: t => if a < lo then freeSlot lo t else if a = lo then freeSlot (lo + 1) t else lo

/-- The slots that are set apart for partition n: as many as its quota, after those of the partitions below it (log entry 130). -/
def State.slotSpan (s : State) (n : Nat) : Nat × Nat :=
  (((List.range n).map (fun k => (s.part k).entry.regionQuota.toNat)).sum, (s.part n).entry.regionQuota.toNat)

/-- A free region slot for partition n, from a place that only the partition table and its own regions determine (R252). -/
def State.chooseSlot (s : State) (n : Nat) : Nat :=
  let (base, quota) := s.slotSpan n
  let own := (s.regions.filter (fun e => e.2.owner.map (·.val) == some n)).map (·.1)
  let start := Config.regionSlot (n :: base :: quota :: own) % max 1 quota
  let k := freeSlot (base + start) s.regions
  if k < base + quota then k
  else
    let k := freeSlot base s.regions
    if k < base + quota then k else freeSlot 0 s.regions

/-- The region that REGION_CREATE's payload describes. -/
def regionOf (n : Nat) (p : List Byte) : Region :=
  let w (o : Nat) : Word := BitVec.ofNat 64 (at' p o 8)
  { owner := some (Fin.ofNat 64 n), weights := at' p 0 1 == 0, large := at' p 1 1 == 1, size := at' p 8 8, vaA := w 16, vaB := w 24,
    paA := w 32, paB := w 40, name := BitVec.ofNat 128 (at' p 48 16), state := .empty }

/-- The payload checks of REGION_CREATE (R252). -/
def regionCreateChk : List Byte → Option Status :=
  payChk [(2, 6)] (fun p =>
    let g := regionOf 0 p
    [need (decide (at' p 0 1 ≤ 1) && decide (at' p 1 1 ≤ 1)) .notPermitted,
     need (decide (0 < g.size) && g.size % 65536 == 0 && decide (g.size ≤ 2 ^ 35) && (g.changes true).all Change.formOk) .badLength])

/-- REGION_CREATE (R252). -/
def execRegionCreate (m : MbxId) (tag : BitVec 16) (s : State) : Host.Outcome State Fault Refusal :=
  .next (s.serve m tag 0x0402 regionCreateChk
    (fun h s =>
      let n := targetOf m h
      let p := s.part n
      let g := regionOf n h.payload
      let cs := g.changes true
      if !s.valid n then s.answer m h .notPermitted []
      else if p.old.isSome then s.answer m h .notQuiet []
      else if cs.any (fun c => !s.physOk n c.pa c.len c.page) || decide (p.entry.regionQuota.toNat ≤ (s.regionsOf n).length) || s.regionMeets n g
          || s.rgnTouched n cs then s.answer m h .notPermitted []
      else match s.changed n cs with
        | none => s.answer m h .notPermitted []
        | some (r, s) =>
          let slot := s.chooseSlot n
          let body := leBytes 2 slot ++ zeros 2 ++ bvBytes (p.epoch + 1)
          ((s.setRegion slot g).accept m h (leBytes 2 slot)).newRoot n r (some ⟨m, h.tag, body, some slot, h.bell + 1998000000⟩)))

/-- True when partition n holds a slot. -/
def State.holdsSlot (s : State) (n slot : Nat) : Bool :=
  (s.region slot).owner.map (·.val) == some n && (s.region slot).state != .free

/-- The payload checks of REGION_UPDATE (R256). -/
def regionUpdateChk : List Byte → Option Status :=
  payChk [(3, 5)] (fun p => [need (decide (at' p 2 1 ≤ 1)) .notPermitted])

/-- REGION_UPDATE (R256): the update becomes pending; one it replaces ends with SUPERSEDED. -/
def execRegionUpdate (m : MbxId) (tag : BitVec 16) (s : State) : Host.Outcome State Fault Refusal :=
  .next (s.serve m tag 0x0403 regionUpdateChk
    (fun h s =>
      let n := targetOf m h
      let p := h.payload
      let slot := at' p 0 2
      let g := s.region slot
      if !s.holdsSlot n slot then s.answer m h .notPermitted []
      else if g.state = .retiring then s.answer m h .regionBusy []
      else if at' p 16 8 ≠ g.size then s.answer m h .badLength []
      else
        let s := s.accept m h []
        let s := match g.pending with
          | some u => s.commandDone u.mbx u.tag .superseded []
          | none => s
        let u : RUpdate := { mbx := m, tag := h.tag, src := BitVec.ofNat 64 (at' p 8 8), expect := if at' p 2 1 = 1 then some (slice p 24 48) else none }
        s.updRegion slot (fun g => { g with pending := some u })))

/-- The payload checks of REGION_RETIRE (R260). -/
def regionRetireChk : List Byte → Option Status :=
  payChk [(2, 6)] (fun _ => [])

/-- REGION_RETIRE (R260). -/
def execRegionRetire (m : MbxId) (tag : BitVec 16) (s : State) : Host.Outcome State Fault Refusal :=
  .next (s.serve m tag 0x0404 regionRetireChk
    (fun h s =>
      let n := targetOf m h
      let slot := at' h.payload 0 2
      let g := s.region slot
      if !s.holdsSlot n slot then s.answer m h .notPermitted []
      else if g.state = .retiring then s.answer m h .regionBusy []
      else
        let s := s.accept m h []
        let s := match g.pending with
          | some u => s.commandDone u.mbx u.tag .superseded []
          | none => s
        s.updRegion slot (fun g => { g with state := .retiring, pending := none, retire := some (m, h.tag) })))

/-- The code of a region state (R253). -/
def RState.code : RState → Nat
  | .free => 0 | .empty => 1 | .ready => 2 | .updating => 3 | .retiring => 4

/-- The payload checks of REGION_STATUS (R261). -/
def regionStatusChk : List Byte → Option Status :=
  payChk [(2, 6)] (fun _ => [])

/-- REGION_STATUS (R261). -/
def execRegionStatus (m : MbxId) (tag : BitVec 16) (s : State) : Host.Outcome State Fault Refusal :=
  .next (s.serve m tag 0x0405 regionStatusChk
    (fun h s =>
      let n := targetOf m h
      let slot := at' h.payload 0 2
      let g := s.region slot
      if !s.holdsSlot n slot ∧ !(m.val = 64 ∧ g.state = .free) then s.answer m h .notPermitted []
      else if m.val = 64 ∧ (s.part n).conf then s.answer m h .ok (padTo 80 (leBytes 1 g.state.code))
      else s.answer m h .ok (leBytes 1 g.state.code ++ leBytes 1 (b2n (!g.weights)) ++ zeros 2 ++ bvBytes g.version ++ leBytes 8 g.size
        ++ leBytes 4 g.boundCur ++ leBytes 4 g.boundOld ++ leBytes 1 (b2n g.running.isSome + 2 * b2n g.pending.isSome) ++ zeros 7
        ++ padTo 48 g.digest)))

/-- The part of a list of extents from byte `off` on, `len` bytes long. -/
def cutExtents : Nat → Nat → List Extent → List Extent
  | _, _, [] => []
  | off, len, e :: t =>
    if e.len ≤ off then cutExtents (off - e.len) len t
    else
      let n := min len (e.len - off)
      (if n = 0 then [] else [⟨e.pa + off, n⟩]) ++ cutExtents 0 (len - n) t

/-- End a region's running update (R258): its command completes and the region returns to its state before. -/
def State.endUpdate (s : State) (slot : Nat) (st : Status) (body : List Byte) : State :=
  let g := s.region slot
  match g.running with
  | none => s
  | some u =>
    (s.updRegion slot (fun g => { g with
      running := none, state := if g.state = .retiring then .retiring else if g.version = 0 then .empty else .ready })).commandDone u.mbx u.tag st body

/-- REGION_UPDATE_START (R256, R257): the pending update starts on the free buffer and translates its source. -/
def execRegionUpdateStart (slot : SlotId) (s : State) : Host.Outcome State Fault Refusal :=
  let k := slot.toNat
  let g := s.region k
  .next (match g.owner, g.running, g.pending with
    | some n, none, some u =>
      if g.boundOld ≠ 0 ∨ g.state = .retiring then s
      else
        let p := s.part n.val
        let run (s : State) (u : RUpdate) : State := s.updRegion k (fun g => { g with pending := none, running := some u, state := .updating })
        match s.range p.root .load u.src.toNat g.size with
        | (some es, s) => run s { u with srcExt := es, rootId := p.rootId }
        | (none, s) => (run s { u with rootId := p.rootId }).endUpdate k .unmapped []
    | _, _, _ => s)

/-- The next version number (R255). -/
def nextVersion (v : BitVec 32) : BitVec 32 := if v + 1 = 0 then 1 else v + 1

/-- The buffer that a region's update writes: A for the first version, then the one that does not hold the current version (R257). -/
def Region.freeBuf (g : Region) : Bool := g.version != 0 && !g.buf

/-- The segments of 64 KiB that an update hashes. -/
def Region.segments (g : Region) : Nat := ceilDiv g.size 65536

/-- A Control Die mover copies the next 64 KiB of a running update into the free buffer under the partition's tag (R257, R258). -/
def State.copySegment (s : State) (k n : Nat) (u : RUpdate) : State :=
  let g := s.region k
  let at_ := u.data.length
  if g.size ≤ at_ then s
  else
    match s.readExtents n (cutExtents at_ 65536 u.srcExt) with
    | (none, s) => s.endUpdate k .notPermitted []
    | (some bs, s) =>
      let (ok, s) := s.writeExtents n [⟨(if g.freeBuf then g.paB else g.paA).toNat + at_, bs.length⟩] bs
      if ok then s.updRegion k (fun g => { g with running := g.running.map (fun u => { u with data := u.data ++ bs }) })
      else s.endUpdate k .notPermitted []

/-- A slot of partition n's hash context for its running update: the next segment is copied, and hashed unless a hash job holds the context
(R257, R479). -/
def State.updateSlot (s : State) (k n : Nat) (hashes : Bool) : State :=
  match (s.region k).running with
  | none => s
  | some u =>
    let s := s.copySegment k n u
    if hashes then s.updRegion k (fun g => { g with running := g.running.map (fun u =>
      if u.segs * 65536 < u.data.length then { u with segs := u.segs + 1 } else u) })
    else s

/-- REGION_UPDATE_COMPLETE (R257, R258): once the whole source is copied and hashed, the buffer becomes current with the next version. -/
def execRegionUpdateComplete (slot : SlotId) (s : State) : Host.Outcome State Fault Refusal :=
  let k := slot.toNat
  let g := s.region k
  .next (match g.running with
    | some u =>
      let d := sha384 u.data
      if u.segs < g.segments then s
      else if u.expect != none && u.expect != some d then s.endUpdate k .badSignature []
      else
        let v := nextVersion g.version
        let s := s.updRegion k (fun g => { g with
          oldVersion := g.version, oldDigest := g.digest, boundOld := g.boundCur, boundCur := 0, version := v, buf := g.freeBuf, digest := d })
        s.endUpdate k .ok (bvBytes v ++ zeros 4 ++ d)
    | none => s)

/-- REGION_RETIRE_COMPLETE (R260): the buffers are unmapped, the slot is freed and the command completes. -/
def execRegionRetireComplete (slot : SlotId) (s : State) : Host.Outcome State Fault Refusal :=
  let k := slot.toNat
  let g := s.region k
  .next (match g.owner with
    | some n =>
      let p := s.part n.val
      if g.state = .retiring ∧ g.running = none ∧ g.boundCur = 0 ∧ g.boundOld = 0 ∧ p.old = none then
        match s.changed n.val (g.changes false) with
        | none => s
        | some (r, s) =>
          let s := (s.setRegion k {}).newRoot n.val r none
          match g.retire with
          | some (m, tag) => s.commandDone m tag .ok []
          | none => s
      else s
    | none => s)

end Sys2Proof.Machine
end

