-- ==== Sys2Proof/Machine/Protect.lean ====
section
/-!
DEFINITION. Quiet points (R407–R410), mode changes (R405–R409), configuration loads (R387, R403), two-party protection
changes and their commit (R411, R417–R423).
-/

namespace Sys2Proof.Machine

/-! Held admission and what waits for quiet. -/

/-- Hold admission of a list of partitions (R409). -/
def State.holdAll (s : State) (ns : List Nat) : State := ns.foldl (fun s n => s.updPart n (fun p => { p with hold := true })) s

/-- True while CONFIDENTIAL_ENTER waits for partition p's quiet point, which holds its admission (R454, log entry 34). -/
def Part.awaitsConf (p : Part) : Bool := p.quiet.any (fun j => match j with
  | .confEnter _ _ => true
  | _ => false)

/-- Resume admission of a list of partitions, but where CONFIDENTIAL_ENTER still holds it (R409). -/
def State.resume (s : State) (ns : List Nat) : State := ns.foldl (fun s n => s.updPart n (fun p => { p with hold := p.awaitsConf })) s

/-- True while a waiting mode change or commit holds admission of partition n (R409, R421). -/
def State.heldByWait (s : State) (n : Nat) : Bool :=
  match s.cfg.wait with
  | some (.setMode _ _ _ aff _) => aff.contains n
  | some (.commit _ _ _ aff _) => aff.contains n
  | some (.committing _ _ _ aff) => aff.contains n
  | none => false

/-- True when every listed partition is quiet (R409). -/
def State.allQuiet (s : State) (ns : List Nat) : Bool := ns.all s.isQuiet

/-- Set the registers that hold device fields in force (R290, R404). -/
def State.applyDevice (s : State) : State :=
  (List.range 8).foldl (fun (s : State) k => s.updHbm k (fun c => { c.roll s.now with periodH := s.field 0x0030 })) s

/-- STATE events to the partitions whose `PART_STAT` differs from an earlier state's (R396, R524). -/
def State.statusEvents (s0 s : State) : State :=
  parts64.foldl (fun (s : State) n =>
    if s.valid n && s0.partStatus n != s.partStatus n then
      s.event (Fin.ofNat 65 n) { kind := 7, part := n, time := s.now, body := [BitVec.ofNat 8 (s.partStatus n).toNat] }
    else s) s

/-! SET_MODE. -/

/-- A per-partition field's value under an overlay differs from the one in force (R408). -/
def State.fieldMoves (s : State) (o n : Nat) : Bool :=
  [1, 2, 3, 4].any (fun c => s.field (c * 256 + n) != s.ovField o (c * 256 + n)) || s.healthNs n != s.ovField o 0x0011 * 1000000

/-- The affected partitions of an overlay (R406, R408). -/
def State.affectedBy (s : State) (o : Nat) : List Nat :=
  parts64.filter (fun n => s.valid n && !(s.part n).conf && s.fieldMoves o n)

/-- Apply an overlay as a whole (R405, R406, R409). -/
def State.applyOverlay (s : State) (o : Nat) : State :=
  let s := { s with cfg := { s.cfg with overlay := o, early := none, wait := none } }
  (parts64.foldl (fun s n => if (s.part n).conf then s else s.updPart n (fun p => { p with frozen := [] })) s).applyDevice

/-! Protected changes. -/

/-- The patches of a proposal body (R417); none for a malformed one. -/
def bodyPatches (b : List Byte) : Option (List (Nat × List Byte)) :=
  match patches (b.length / 4) (b.drop 16) with
  | some ps =>
    if 16 ≤ b.length ∧ at' b 0 2 = 1 ∧ at' b 2 2 = ps.length ∧ allZero (slice b 8 8) ∧ patchForm ps
        ∧ ps.all (fun p => patchValues p && patchRsv p && (p.1 / 256 == 8 && decide (p.1 % 256 < 64) || p.1 == 0x0900 || p.1 == 0x0901)) then some ps
    else none
  | none => none

/-- The patches of a body as far as they can be read, for conflicts (R419). -/
def loosePatches (b : List Byte) : List (Nat × List Byte) := (patches (b.length / 4) (b.drop 16)).getD []

/-- The record that patches make of the one in force. -/
def ProtRecord.patched (r : ProtRecord) (ps : List (Nat × List Byte)) : ProtRecord := ps.foldl ProtRecord.patch r

/-- The TENANT entry of partition n in a list. -/
def tenantOf (a : SMap Credential) (n : Nat) : Option Credential := (creds a).find? (fun c => c.role == 3 && c.part.toNat == n)

/-- The affected partitions of a proposal (chapter 14, before R417). -/
def State.affectedOf (s : State) (ps : List (Nat × List Byte)) : List Nat :=
  let r := s.cfg.prot
  let r' := r.patched ps
  parts64.filter (fun n => SMap.get {} r.parts n != SMap.get {} r'.parts n || tenantOf r.auth n != tenantOf r'.auth n || r.debug != r'.debug)

/-- The credential in a slot of the list in force. -/
def State.cred (s : State) (slot : Nat) : Credential := SMap.get {} s.cfg.prot.auth slot

/-- The last two rules of R418 for one credential: at most one confidential partition is affected, and a TENANT acts only on
what affects its partition. -/
def State.mayAct (s : State) (slot : Nat) (aff : List Nat) : Bool :=
  decide ((aff.filter (fun n => (s.part n).conf)).length ≤ 1) && ((s.cred slot).role != 3 || aff.contains (s.cred slot).part.toNat)

/-- R418 for both credentials. -/
def State.pairOk (s : State) (a b : Nat) (aff : List Nat) : Bool :=
  a != b && s.mayAct a aff && s.mayAct b aff
  && (match aff.find? (fun n => (s.part n).conf) with
      | some n => [a, b].any (fun c => (s.cred c).role == 3 && (s.cred c).part.toNat == n)
      | none => [a, b].any (fun c => (s.cred c).role == 1))

/-- A proposal with an identifier. -/
def State.proposal (s : State) (id : BitVec 32) : Option Proposal := s.cfg.proposals.find? (fun p => p.id == id)

/-- Replace or drop a proposal. -/
def State.setProposal (s : State) (id : BitVec 32) (f : Proposal → Option Proposal) : State :=
  { s with cfg := { s.cfg with proposals := s.cfg.proposals.filterMap (fun p => if p.id = id then f p else some p) } }

/-- PROPOSAL events (R396): to the proposer, the approver, the operator and the affected partitions. -/
def State.proposalEvent (s : State) (p : Proposal) (st : Nat) : State :=
  let aff := (s.affectedOf ((bodyPatches p.body).getD [])).map (fun n => Fin.ofNat 65 n)
  let ms := ([p.propMbx] ++ p.apprMbx.toList ++ [operatorId] ++ aff).eraseDups
  s.eventAll ms { kind := 4, time := s.now, body := bvBytes p.id ++ leBytes 1 st ++ zeros 3 ++ sha384 p.body }

/-- The signed part of a payload. -/
def unsigned (p : List Byte) : List Byte := p.take (p.length - 96)

/-- What PROTECT_PROPOSE does once its signature verifies (R417–R419). -/
def State.propose (s : State) (m : MbxId) (h : Held) : State :=
  let body := unsigned h.payload
  let loose := loosePatches body
  let pend := s.cfg.proposals
  let aff := s.affectedOf loose
  let shares (p : Proposal) : Bool :=
    let q := loosePatches p.body
    q.any (fun x => loose.any (fun y => x.1 == y.1)) || (s.affectedOf q).any aff.contains
  if at' body 4 4 ≠ s.cfg.prot.epoch.toNat ∨ pend.any shares then s.answer m h .proposalConflict []
  else match bodyPatches body with
    | none => s.answer m h .notPermitted []
    | some ps =>
      let r := s.cfg.prot.patched ps
      if !s.recordOk r || !s.mayAct h.cred aff || (r.debug == 1 && (s.anyConf || bit s.secWord 0)) || decide (8 ≤ pend.length) then
        s.answer m h .notPermitted []
      else
        let id := BitVec.ofNat 32 s.cfg.nextProposal
        let exp := h.bell + 600000000000
        let s := { s with cfg := { s.cfg with
          nextProposal := s.cfg.nextProposal + 1, proposals := pend ++ [({ id := id, body := body, proposer := h.cred, propMbx := m, expires := exp } : Proposal)] } }
        s.answer m h .ok (bvBytes id ++ zeros 4 ++ leBytes 8 exp ++ sha384 body)

/-- PROTECT_PROPOSE (R382, R417–R419): the signature is checked first. -/
def execProtectPropose (m : MbxId) (tag : BitVec 16) (s : State) : Host.Outcome State Fault Refusal :=
  .next (s.serve m tag 0x0301 noChk (fun h s => s.askSigned m h))

/-- The payload checks of PROTECT_APPROVE (R420). -/
def protectApproveChk : List Byte → Option Status :=
  payChk [(4, 4)] (fun _ => [])

/-- What PROTECT_APPROVE does once its signature verifies (R420). -/
def State.approve (s : State) (m : MbxId) (h : Held) : State :=
  let id := BitVec.ofNat 32 (at' h.payload 0 4)
  match s.proposal id with
  | none => s.answer m h .proposalExpired []
  | some p =>
    if p.expires < s.now then s.answer m h .proposalExpired []
    else if slice h.payload 8 48 ≠ sha384 p.body then s.answer m h .badSignature []
    else if p.approver.isSome || !s.pairOk p.proposer h.cred (s.affectedOf ((bodyPatches p.body).getD [])) then s.answer m h .notPermitted []
    else
      let by_ := h.bell + 600000000000
      let p := { p with approver := some h.cred, apprMbx := some m, commitBy := by_ }
      ((s.setProposal id (fun _ => some p)).answer m h .ok (leBytes 8 by_)).proposalEvent p 1

/-- PROTECT_APPROVE (R382, R420). -/
def execProtectApprove (m : MbxId) (tag : BitVec 16) (s : State) : Host.Outcome State Fault Refusal :=
  .next (s.serve m tag 0x0302 protectApproveChk (fun h s => s.askSigned m h))

/-! The commit (R422). -/

/-- The parts of an interval that no interval of a list covers. -/
def cutSpan (x : Nat × Nat) : List (Nat × Nat) → List (Nat × Nat)
  | [] => if x.1 < x.2 then [x] else []
  | y :: t =>
    if apart x y then cutSpan x t
    else ((if x.1 < y.1 then cutSpan (x.1, y.1) t else []) ++ (if y.2 < x.2 then cutSpan (y.2, x.2) t else []))

/-- The HBM that leaves a partition when its entry changes. -/
def leaving (e e' : PartEntry) : List (Nat × Nat) := (e.spans.map (fun x => cutSpan x e'.spans)).flatten

/-- Write an interval of HBM as encoded zero (R289, R422, R454); its lines count as unwritten under the key in force. -/
def State.zeroHbm (s : State) (x : Nat × Nat) : State :=
  let s := { s with mem := SMap.clearRange s.mem x.1 (x.2 - x.1) }
  (List.range 8).foldl (fun (s : State) k =>
    let keep (l : Nat) : Bool := decide (hbmOff k l < x.1) || decide (x.2 ≤ hbmOff k l)
    s.updHbm k (fun c => { c with
      lineKey := c.lineKey.filter (fun e => keep e.1), raw := c.raw.filter (fun e => keep e.1) })) s

/-- Note intervals zeroed as a whole under the key that partition n has in force. -/
def Part.noteZeroed (p : Part) (xs : List (Nat × Nat)) : Part :=
  let g := if p.entry.cipher then p.keyGen else 0
  let keep := (p.zeroed.map (fun z => (cutSpan (z.1, z.2.1) xs).map (fun y => (y.1, y.2, z.2.2)))).flatten
  { p with zeroed := keep ++ (if g = 0 then [] else xs.map (fun x => (x.1, x.2, g))) }

/-- True when a page of physical address `pa` on this device meets memory that a partition loses. -/
def State.lost (s : State) (hbm : List (Nat × Nat)) (tiles : BitVec 64) (pa page : Nat) : Bool :=
  paDev pa == s.deviceNum && (if paSpace pa = 0 then hbm.any (fun x => !apart x (paOff pa, paOff pa + page))
    else paSpace pa == 1 && (List.range (page / 2 ^ 24 + 1)).any (fun i =>
      let t := paOff pa / 2 ^ 24 + i
      decide (t * 2 ^ 24 < paOff pa + page) && decide (t < 64) && bit tiles t))

/-- The pages of partition n that map memory it loses, as changes that unmap them (R422). -/
def State.lostPages (s : State) (n : Nat) (hbm : List (Nat × Nat)) (tiles : BitVec 64) : List Change :=
  ((s.leaves (s.part n).root).filter (fun p => s.lost hbm tiles (leafPa p.2.1 p.2.2 0) (pageLen p.2.2))).map
    (fun p => { va := p.1, pa := 0, pages := 1, map := false, large := p.2.2, perm := 0 })

/-- A partition whose `VALID` a commit clears keeps only its number's history: epoch, notices and error state. -/
def Part.invalidated (p : Part) : Part :=
  { epoch := p.epoch, rootId := p.rootId + 1, notices := p.notices, nextNotice := p.nextNotice, ante := p.ante, winBase := p.winBase }

/-- A TDI leaves RUN or a locked state for ERROR when its partition's entry changes; while the partition is confidential this
is a partition-fatal TDI_ERROR (R456). -/
def State.tdiError (s : State) (n : Nat) (fatal : Bool) : State :=
  let t := SMap.get {} s.sec.tdis n
  if t.state = .configLocked ∨ t.state = .run then
    let s := { s with sec := { s.sec with tdis := SMap.put {} s.sec.tdis n { t with state := .error } } }
    if fatal && t.state == .run && (s.part n).conf then s.partFatal n { mkRec 0x0505 1 with unit := unitIsland 1 } else s
  else s

/-- The tiles an entry gives a partition. -/
def PartEntry.owned (e : PartEntry) : BitVec 64 := if e.valid then e.tiles else 0

/-- What leaves partition n at a commit, while the old table is in force (R422): departing tiles are written back and cleared,
HBM that leaves its extents is zeroed, and so is all of a partition whose `CONF` clears. -/
def State.commitLeave (s : State) (n : Nat) (e' : PartEntry) : State :=
  let p := s.part n
  let s := (bitsOf (p.entry.owned &&& ~~~e'.owned)).foldl (fun s t => s.leaveTile t) s
  let endsConf := p.conf && !e'.conf
  let s := if endsConf then (s.tilesOf n).foldl (fun s t => s.clearTile t) s else s
  (leaving p.entry e' ++ (if endsConf then e'.spans else [])).foldl State.zeroHbm s

/-- Partition n's new entry comes into force (R422): mappings to memory it loses go, its key empties where the cipher policy
or `VALID` clears, a new Strict partition is pace-locked at the default rate, and joining tiles take its seed. -/
def State.commitEntry (s : State) (n : Nat) (e' : PartEntry) : State :=
  let p := s.part n
  let e := p.entry
  let hbm := leaving e e'
  let gone := s.lostPages n hbm (e.owned &&& ~~~e'.owned)
  let (root, s) := s.unmapped n gone
  let dropKey := !e'.valid || !e'.cipher
  let endsConf := p.conf && !e'.conf
  let s := s.updPart n (fun p =>
    let p : Part := { p with
      entry := e', ante := e'.ante.toNat, root := root, rootId := if gone.isEmpty then p.rootId else p.rootId + 1,
      epoch := if gone.isEmpty then p.epoch else p.epoch + 1, conf := p.conf && e'.conf,
      key := if dropKey then none else p.key, pendKey := if dropKey then none else p.pendKey,
      keyGen := if dropKey then 0 else p.keyGen,
      paceRate := if e'.valid && e'.strict && p.paceRate.isNone then some 680 else p.paceRate,
      zeroed := (p.zeroed.map (fun z => (cutSpan (z.1, z.2.1) hbm).map (fun y => (y.1, y.2, z.2.2)))).flatten }
    let p := if endsConf then p.noteZeroed e'.spans else p
    if e'.valid then p else p.invalidated)
  let s := (bitsOf (e'.owned &&& ~~~e.owned)).foldl (fun s t => s.updTile t (fun x => { x with
    tlb := {}, seed := (s.part n).seed, hand := [], taken := none, stopped := (s.part n).fault || s.boot.fault, caches := { x.caches with prog := none } })) s
  if e = e' then s else s.tdiError n true

/-- Put the page-table areas of a table in force (R228): tables of an area that moves are copied into the new one. -/
def State.setAreas (s : State) (areas : SMap (Option Nat)) : State :=
  (parts64.filter s.valid).foldl (fun (s : State) n =>
    match SMap.get none areas n with
    | some a => if (s.part n).ptArea = some a then s else s.moveTables n a
    | none => s) s

/-- Apply a committed record (R422). -/
def State.applyCommit (s : State) (r : ProtRecord) : State :=
  let s0 := s
  let areas := (s.newAreas r.parts).getD []
  let moved := parts64.filter (fun n => SMap.get {} s.cfg.prot.parts n != SMap.get {} r.parts n)
  let s := moved.foldl (fun s n => s.commitLeave n (SMap.get {} r.parts n)) s
  let s := (moved.foldl (fun s n => s.commitEntry n (SMap.get {} r.parts n)) s).setAreas areas
  let s := { s with cfg := { s.cfg with
    prot := { r with epoch := s.cfg.prot.epoch }, debugSinceCold := s.cfg.debugSinceCold || r.debug == 1 } }
  s0.statusEvents s.setRotations

/-- The antes of the entries that a commit writes come into force (R413). -/
def State.writtenAntes (s : State) (ps : List (Nat × List Byte)) : State :=
  (ps.filter (fun p => p.1 / 256 == 8)).foldl (fun (s : State) p => s.updPart (p.1 % 256) (fun x =>
    if x.entry.valid then { x with ante := x.entry.ante.toNat } else x)) s

/-- The zeroing time of a commit in ns: at 307.2 GB/s (R421, R422). -/
def State.zeroTime (s : State) (r : ProtRecord) : Nat :=
  let bytes := (parts64.map (fun n =>
    let e := (s.part n).entry
    let e' := SMap.get {} r.parts n
    ((leaving e e').map (fun x => x.2 - x.1)).sum + (if (s.part n).conf && !e'.conf then (e'.spans.map (fun x => x.2 - x.1)).sum else 0))).sum
  ceilDiv (bytes * 10) 3072

/-- Release what a waiting command held, with its final status. -/
def State.endWait (s : State) (m : MbxId) (tag : BitVec 16) (aff : List Nat) (st : Status) (body : List Byte) : State :=
  ({ s with cfg := { s.cfg with wait := none } }.resume aff).commandDone m tag st body

/-- A waiting mode change or commit whose partitions are not all quiet in time ends with NOT_QUIET; device fields applied early return to the
overlay in force, and a proposal stays approved (R409, R421). -/
def State.waitLate (s : State) : State :=
  match s.cfg.wait with
  | some (.setMode m tag _ aff _) => ({ s with cfg := { s.cfg with early := none } }.applyDevice).endWait m tag aff .notQuiet []
  | some (.commit m tag id aff _) => (s.setProposal id (fun p => some { p with committing := false })).endWait m tag aff .notQuiet []
  | _ => s

/-- Go on with a waiting mode change or commit once every affected partition is quiet, in time (R409, R421). -/
def State.checkWait (s : State) : State :=
  match s.cfg.wait with
  | some (.setMode m tag o aff d) =>
    if !s.allQuiet aff then s else if d < s.now then s.waitLate
    else (s.applyOverlay o).endWait m tag aff .ok (leBytes 1 o)
  | some (.commit m tag id aff d) =>
    if !s.allQuiet aff then s else if d < s.now then s.waitLate
    else
      (match s.proposal id with
       | none => s.endWait m tag aff .proposalExpired []
       | some p =>
         let ps := (bodyPatches p.body).getD []
         let r := s.cfg.prot.patched ps
         if s.recordOk r then
           let s := (s.applyCommit r).writtenAntes ps
           { s with cfg := { s.cfg with wait := some (.committing m tag id aff) } }
         else (s.setProposal id (fun p => some { p with committing := false })).endWait m tag aff .notPermitted [])
  | _ => s

/-- The payload checks of SET_MODE (R405, R410). -/
def setModeChk : List Byte → Option Status :=
  payChk [(1, 7)] (fun p => [need (decide (at' p 0 1 ≤ 15)) .notPermitted])

/-- SET_MODE (R405–R410). -/
def execSetMode (m : MbxId) (tag : BitVec 16) (s : State) : Host.Outcome State Fault Refusal :=
  .next (s.serve m tag 0x0202 setModeChk
    (fun h s =>
      let o := at' h.payload 0 1
      if (o != 0 && (SMap.get none s.cfg.overlays o).isNone) || s.cfg.wait.isSome then s.answer m h .notPermitted []
      else
        let s := s.accept m h []
        let aff := s.affectedBy o
        let s := { s with cfg := { s.cfg with
          envelope := none, early := some o, wait := some (.setMode m h.tag o aff (h.bell + 1998000000)) } }
        ((s.holdAll aff).applyDevice).checkWait))

/-- The payload checks of PROTECT_COMMIT (R421). -/
def protectCommitChk : List Byte → Option Status :=
  payChk [(4, 4)] (fun _ => [])

/-- What PROTECT_COMMIT does once its signature verifies (R421). -/
def State.commitAsk (s : State) (m : MbxId) (h : Held) : State :=
  let id := BitVec.ofNat 32 (at' h.payload 0 4)
  match s.proposal id with
  | none => s.answer m h .proposalExpired []
  | some p =>
    let ps := (bodyPatches p.body).getD []
    let aff := s.affectedOf ps
    if p.proposer ≠ h.cred ∧ p.approver ≠ some h.cred then s.answer m h .notPermitted []
    else match p.approver with
      | none => s.answer m h .proposalExpired []
      | some a =>
        if p.commitBy < s.now then s.answer m h .proposalExpired []
        else if p.committing || s.cfg.wait.isSome || !s.pairOk p.proposer a aff then s.answer m h .notPermitted []
        else
          let s := (s.accept m h []).setProposal id (fun p => some { p with committing := true })
          let deadline := h.bell + 1898000000 - s.zeroTime (s.cfg.prot.patched ps)
          let s := { s with cfg := { s.cfg with wait := some (.commit m h.tag id aff deadline) } }
          (s.holdAll aff).checkWait

/-- PROTECT_COMMIT (R382, R421). -/
def execProtectCommit (m : MbxId) (tag : BitVec 16) (s : State) : Host.Outcome State Fault Refusal :=
  .next (s.serve m tag 0x0303 protectCommitChk (fun h s => s.askSigned m h))

/-- The payload checks of PROTECT_WITHDRAW (R389, R423). -/
def protectWithdrawChk : List Byte → Option Status :=
  payChk [(4, 4)] (fun _ => [])

/-- What PROTECT_WITHDRAW does once its signature verifies (R389, R423). -/
def State.withdrawProposal (s : State) (m : MbxId) (h : Held) : State :=
  let id := BitVec.ofNat 32 (at' h.payload 0 4)
  match s.proposal id with
  | none => s.answer m h .proposalExpired []
  | some p =>
    if (p.proposer ≠ h.cred ∧ p.approver ≠ some h.cred) ∨ p.committing then s.answer m h .notPermitted []
    else ((s.setProposal id (fun _ => none)).answer m h .ok []).proposalEvent p 4

/-- PROTECT_WITHDRAW (R382, R389, R423). -/
def execProtectWithdraw (m : MbxId) (tag : BitVec 16) (s : State) : Host.Outcome State Fault Refusal :=
  .next (s.serve m tag 0x0304 protectWithdrawChk (fun h s => s.askSigned m h))

/-- A signed command's check on the signature engine ends (R382, R383): BAD_SIGNATURE where it does not verify, else a new nonce and the
command's meaning. -/
def State.runSigned (s : State) (m : MbxId) (h : Held) : State :=
  if !s.signedOk m h then s.answer m h .badSignature []
  else
    let s := s.newNonce m
    if h.opcode = 0x0301 then s.propose m h
    else if h.opcode = 0x0302 then s.approve m h
    else if h.opcode = 0x0303 then s.commitAsk m h
    else s.withdrawProposal m h

/-- AUTHORITY_LIST (R386). -/
def execAuthorityList (m : MbxId) (tag : BitVec 16) (s : State) : Host.Outcome State Fault Refusal :=
  .next (s.serve m tag 0x0305 noChk (fun h s =>
    let a := s.cfg.prot.auth
    s.answer m h .ok (padTo 32 (s.box m).nonce ++ leBytes 1 (creds a).length ++ zeros 7 ++ authBytes a)))

/-- PROPOSAL_EXPIRY (R423). -/
def execProposalExpiry (id : BitVec 32) (s : State) : Host.Outcome State Fault Refusal :=
  .next (match s.proposal id with
    | none => s
    | some p =>
      if p.committing then s
      else
        let s := s.atLeast ((if p.approver.isSome then p.commitBy else p.expires) + 1)
        (s.setProposal id (fun _ => none)).proposalEvent p 3)

/-- PROTECTED_RECORD_WRITTEN (R411, R421): the older copy holds the record in force with the next epoch; admission resumes and
the command completes. No flash write completes once CI12 has lost its clock (R49). -/
def execProtectedRecordWritten (s : State) : Host.Outcome State Fault Refusal :=
  .next (if !s.i3cUp then s else match s.cfg.wait with
    | some (.committing m tag id aff) =>
      let r := { s.cfg.prot with epoch := s.cfg.prot.epoch + 1, authentic := true }
      let b := !s.cfg.protInB
      let s := { s with cfg := { s.cfg with prot := r, protInB := b, protA := if b then s.cfg.protA else r, protB := if b then r else s.cfg.protB } }
      (match s.proposal id with
       | some p =>
         ((s.setProposal id (fun _ => none)).endWait m tag aff .ok (bvBytes id)).eventAll
           (([p.propMbx] ++ p.apprMbx.toList ++ [operatorId] ++ aff.map (fun n => Fin.ofNat 65 n)).eraseDups)
           { kind := 4, time := s.now, body := bvBytes p.id ++ leBytes 1 2 ++ zeros 3 ++ sha384 p.body }
       | none => s.endWait m tag aff .ok (bvBytes id))
    | _ => s)

/-! Configuration images. -/

/-- The payload checks of CONFIG_LOAD (R386, R565). -/
def configLoadChk : List Byte → Option Status :=
  payChk [(1, 7), (20, 4)] (fun p => [need (decide (at' p 0 1 ≤ 1)) .notPermitted,
    need (at' p 16 4 % 4 == 0 && decide (0 < at' p 16 4) && decide (at' p 16 4 ≤ 1048576)) .badLength])

/-- The checks of R403 in order, on an image for slot A or B. -/
def State.loadCheck (s : State) (img : List Byte) (toB : Bool) : Option Status :=
  match imageCheck img s.cfg.prot.auth s.provisioned with
  | some st => some st
  | none =>
    if (s.cfg.booted.isSome && decide (at' img 8 8 ≤ at' s.cfg.image 8 8)) || s.cfg.booted == some toB then some .notPermitted
    else none

/-- The digest of an image and the check of its signature have been made (R387, R403): it goes to flash, or the command ends. -/
def State.imageRead (s : State) (m : MbxId) (tag : BitVec 16) (toB : Bool) (img : List Byte) : State :=
  match s.loadCheck img toB with
  | some st => s.commandDone m tag st []
  | none => { s with cfg := { s.cfg with flash := s.cfg.flash ++ [(m, tag, toB, img)] } }

/-- CONFIG_LOAD (R387, R403, R474, R480, R532): `image` is what the host's memory returned, none for a failed read. Its digest and the check of its
signature wait for the operator's engine slots. -/
def execConfigLoad (m : MbxId) (tag : BitVec 16) (image : Option (List Byte)) (s : State) : Host.Outcome State Fault Refusal :=
  .next (s.serve m tag 0x0201 configLoadChk (fun h s =>
    let s := (s.accept m h []).atsTouch 64 (at' h.payload 8 8)
    let toB := at' h.payload 0 1 == 1
    match image with
    | none => s.commandDone m h.tag .notPermitted []
    | some bs =>
      let img := padTo (at' h.payload 16 4) bs
      s.addTask (.image m h.tag toB img) [.segments (ceilDiv img.length 65536), .p384]))

/-- FLASH_WRITE_COMPLETE (R403); no flash write completes once CI12 has lost its clock (R49). -/
def execFlashWriteComplete (s : State) : Host.Outcome State Fault Refusal :=
  .next (if !s.i3cUp then s else match s.cfg.flash with
    | [] => s
    | (m, tag, toB, img) :: rest =>
      let s := { s with cfg := { s.cfg with flash := rest, slotA := if toB then s.cfg.slotA else img, slotB := if toB then img else s.cfg.slotB } }
      s.commandDone m tag .ok (sha384 img))

end Sys2Proof.Machine
end

