-- ==== Sys2Proof/Machine/Restart.lean ====
section
/-!
DEFINITION. What waits for one partition's quiet point: pace lock (R45), self-tests (R508–R510), confidential mode (R453–R457),
key changes (R482); and partition restart and FLR (R499, R500, R534).
-/

namespace Sys2Proof.Machine

/-! Quiet jobs. -/

/-- Enter confidential mode at quiet (R454): Local Store and ACM are cleared, the extents are zeroed under the key, the fields
in force are kept (R406), the debug facilities and boundary scan go (R451), and the partition is confidential. -/
def State.enterConf (s : State) (n : Nat) : State :=
  let s := (s.tilesOf n).foldl (fun s t => (s.lsClear t).updTile t (fun x => { x with mxu := { x.mxu with rowValid := [] } })) s
  let spans := (s.part n).entry.spans
  let s := spans.foldl State.zeroHbm s
  let kept : SMap (Option Nat) := (0, some (s.ovField s.cfg.overlay 0x0011)) :: [1, 2, 3, 4].map (fun c => (c, some (s.field (c * 256 + n))))
  let s := { s with board := { s.board with tapIr := match s.board.tapIr with
    | .boundaryScan => .bypass
    | .debug _ => .bypass
    | o => o } }
  s.partChange n (fun s => s.updPart n (fun p => { p.noteZeroed spans with conf := true, frozen := kept, hold := s.heldByWait n }))

/-- The bell of a held command. -/
def State.bellOf (s : State) (m : MbxId) (tag : BitVec 16) : Nat :=
  match (s.box m).held.find? (fun h => h.tag == tag) with
  | some h => h.bell
  | none => 0

/-- Who asked for a job, and under which tag. -/
def QuietJob.asker : QuietJob → MbxId × BitVec 16
  | .paceLock m tag _ => (m, tag)
  | .selfTest m tag => (m, tag)
  | .confEnter m tag => (m, tag)

/-- The last moment at which partition n's quiet point is in time for a job (R409): 1.998 s after the bell, and for confidential mode the time
that its extents' zeroing takes at 307.2 GB/s earlier (R454). -/
def State.jobDeadline (s : State) (n : Nat) (j : QuietJob) : Nat :=
  s.bellOf j.asker.1 j.asker.2 + 1998000000 - (match j with
    | .confEnter _ _ => ceilDiv (((s.part n).entry.spans.map (fun x => x.2 - x.1)).sum * 10) 3072
    | _ => 0)

/-- A job of partition n's quiet point that is too late ends with NOT_QUIET. -/
def State.jobLate (s : State) (n : Nat) (j : QuietJob) : State :=
  let s := s.updPart n (fun p =>
    let p := { p with quiet := p.quiet.filter (fun x => x != j) }
    { p with hold := s.heldByWait n || p.awaitsConf })
  s.commandDone j.asker.1 j.asker.2 .notQuiet []

/-- Do one waiting job of partition n at its quiet point (R45, R454, R510). An unlock that waits on a partition which has become Strict
since is refused: a Strict partition is always pace-locked (R45). -/
def State.runJob (s : State) (n : Nat) (j : QuietJob) : State :=
  if s.jobDeadline n j < s.now then s.jobLate n j else
  match j with
  | .paceLock m tag rate =>
    if rate = 0 && s.isStrict n then s.commandDone m tag .notPermitted [] else
    let s := s.partChange n (fun s => s.updPart n (fun p => { p with paceRate := if rate = 0 then none else some rate }))
    s.commandDone m tag .ok (leBytes 2 rate)
  | .selfTest m tag => { s with cfg := { s.cfg with tests := s.cfg.tests ++ [(m, tag, some n)] } }
  | .confEnter m tag =>
    if (s.part n).conf then s.commandDone m tag .notPermitted [] else (s.enterConf n).commandDone m tag .ok []

/-- What partition n's quiet point lets happen: a waiting key comes into force, its jobs run in order, and a device-wide wait
goes on once all are quiet (R409, R482). -/
def State.quietPoint (s : State) (n : Nat) : State :=
  if s.isQuiet n then
    let s := match (s.part n).pendKey with
      | some k => s.applyKey n k
      | none => s
    let js := (s.part n).quiet
    let s := s.updPart n (fun p => { p with quiet := [] })
    (js.foldl (fun s j => s.runJob n j) s).checkWait
  else s

/-- QUIET_POINT_REACHED (R407, R409). -/
def execQuietPointReached (n : PartId) (s : State) : Host.Outcome State Fault Refusal := .next (s.quietPoint n.val)

/-- Add a job for partition n's quiet point. -/
def State.addJob (s : State) (n : Nat) (j : QuietJob) : State := (s.updPart n (fun p => { p with quiet := p.quiet ++ [j] })).quietPoint n

/-- The payload checks of PACE_LOCK (R45, R390). -/
def paceLockChk : List Byte → Option Status :=
  payChk [(4, 4)] (fun p => [need (decide (at' p 0 1 ≤ 1)) .notPermitted,
    need (at' p 0 1 == 0 || (decide (340 ≤ at' p 2 2) && decide (at' p 2 2 ≤ 680) && at' p 2 2 % 10 == 0)) .notPermitted])

/-- PACE_LOCK (R45, R390). -/
def execPaceLock (m : MbxId) (tag : BitVec 16) (s : State) : Host.Outcome State Fault Refusal :=
  .next (s.serve m tag 0x0A02 paceLockChk
    (fun h s =>
      let n := targetOf m h
      let lock := at' h.payload 0 1 == 1
      if !s.valid n || (!lock && s.isStrict n) then s.answer m h .notPermitted []
      else (s.accept m h []).addJob n (.paceLock m h.tag (if lock then at' h.payload 2 2 else 0))))

/-- The payload checks of SELF_TEST_RUN (R510). -/
def selfTestRunChk : List Byte → Option Status :=
  payChk [(1, 7)] (fun p => [need (decide (at' p 0 1 ≤ 1)) .notPermitted])

/-- SELF_TEST_RUN (R510). -/
def execSelfTestRun (m : MbxId) (tag : BitVec 16) (s : State) : Host.Outcome State Fault Refusal :=
  .next (s.serve m tag 0x0902 selfTestRunChk
    (fun h s =>
      let n := h.part
      if at' h.payload 0 1 = 0 then
        let s := s.accept m h []
        { s with cfg := { s.cfg with tests := s.cfg.tests ++ [(m, h.tag, none)] } }
      else if !s.valid n then s.answer m h .notPermitted []
      else (s.accept m h []).addJob n (.selfTest m h.tag)))

/-- `UNIT` of a failed group of shared units (R492, R508). -/
def groupUnit (g : Nat) : Nat :=
  match g with
  | 9 => unitRouter 0 | 12 => unitPair 0 | 13 => unitBank 0 | 14 => unitHbm 0 | 15 => unitLink 0 | 16 => unitEngine 0
  | 17 => unitEngine 2 | _ => unitIsland 0

/-- KNOWN_PATTERN_TEST_END (R510): the oldest running self-test ends with its groups and the tiles that failed one. -/
def execKnownPatternTestEnd (failed : BitVec 64) (tiles : BitVec 64) (s : State) : Host.Outcome State Fault Refusal :=
  .next (match s.cfg.tests with
    | [] => s
    | (m, tag, scope) :: rest =>
      let s := { s with cfg := { s.cfg with tests := rest } }
      match scope with
      | some n =>
        let f := failed &&& 0x1FF
        let bad := if f = 0 then [] else (s.tilesOf n).filter (fun t => tiles.getLsbD t)
        (bad.foldl (fun s t => s.failTile t 0x0104) s).commandDone m tag .ok (bvBytes f)
      | none =>
        let f := failed &&& 0x7FE00
        ((bitsOf f).foldl (fun s g => s.devFatal { mkRec 0x0108 2 with unit := groupUnit g }) s).commandDone m tag .ok (bvBytes f))

/-- The conditions of confidential mode, in order (R453). -/
def State.confCheck (s : State) (n : Nat) : Option Status :=
  let p := s.part n
  firstOf [need (s.boot.floor == 2) .floorInsufficient,
    need (bit s.secWord 1 && p.entry.conf && !p.conf) .notPermitted,
    need (s.isStrict n && p.paceRate.isSome && p.entry.cipher) .notPermitted,
    need ((p.key.isSome || p.pendKey.isSome) && p.keyFresh) .notPermitted,
    need ((SMap.get {} s.sec.tdis n).state == .run && (SMap.get {} s.sec.ide n).keyed && (SMap.get {} s.sec.ide n).secure) .notPermitted,
    need (s.cfg.prot.debug == 0 && !s.cfg.debugSinceCold) .notPermitted,
    need (s.boot.checkSplit == 0) .notPermitted,
    need ((s.regionsOf n).isEmpty) .notPermitted]

/-- CONFIDENTIAL_ENTER (R453, R454): admission is held while it waits. -/
def execConfidentialEnter (m : MbxId) (tag : BitVec 16) (s : State) : Host.Outcome State Fault Refusal :=
  .next (s.serve m tag 0x0705 noChk (fun h s =>
    let n := m.val
    match s.confCheck n with
    | some st => s.answer m h st []
    | none => ((s.accept m h []).updPart n (fun p => { p with hold := true })).addJob n (.confEnter m h.tag)))

/-- The waiting job that a timeout names. -/
def jobIs (w : QuietWaiter) (j : QuietJob) : Bool :=
  match w, j with
  | .confidential _, .confEnter _ _ => true
  | .paceLock _, .paceLock _ _ _ => true
  | .selfTest _, .selfTest _ _ => true
  | _, _ => false

/-- Partition n's first waiting job of a kind is at its deadline: it is done where the partition is quiet by then, and else ends with
NOT_QUIET (R409). -/
def State.timeoutJob (s : State) (n : Nat) (w : QuietWaiter) : State :=
  match (s.part n).quiet.find? (jobIs w) with
  | none => s
  | some j =>
    let s := s.atLeast (s.jobDeadline n j)
    if s.isQuiet n then s.quietPoint n else s.jobLate n j

/-- A waiting mode change or commit is at its deadline: it goes on where every affected partition is quiet by then, and else ends with
NOT_QUIET (R409, R421). -/
def State.timeoutWait (s : State) (aff : List Nat) (deadline : Nat) : State :=
  let s := s.atLeast deadline
  if s.allQuiet aff then s.checkWait else s.waitLate

/-- QUIET_TIMEOUT (R409, R421, R454). -/
def execQuietTimeout (w : QuietWaiter) (s : State) : Host.Outcome State Fault Refusal :=
  .next (match w with
    | .modeOrCommit =>
      (match s.cfg.wait with
       | some (.setMode _ _ _ aff d) => s.timeoutWait aff d
       | some (.commit _ _ _ aff d) => s.timeoutWait aff d
       | _ => s)
    | .confidential n => s.timeoutJob n.val w
    | .paceLock n => s.timeoutJob n.val w
    | .selfTest n => s.timeoutJob n.val w)

/-! Restart. -/

/-- A mailbox whose windows and ring are cleared and which holds only the commands of `keep` (R499). -/
def Mailbox.cleared (b : Mailbox) (keep : List Held) : Mailbox := { ready := b.ready, nonce := b.nonce, held := keep }

/-- A command's tag once a restart of partition n has discarded the command (R379, R433). -/
def orphanTag (n : Nat) (keep : Option (BitVec 16)) (m : MbxId) (t : BitVec 16) : BitVec 16 := if m.val = n ∧ some t ≠ keep then 0xFFFF else t

/-- A region whose updates go on without the commands that a restart of partition n has discarded. -/
def Region.orphan (n : Nat) (keep : Option (BitVec 16)) (x : Region) : Region :=
  let upd (u : RUpdate) : RUpdate := { u with tag := orphanTag n keep u.mbx u.tag }
  { x with
    running := x.running.map upd, pending := x.pending.map upd,
    retire := x.retire.map (fun (r : MbxId × BitVec 16) => (r.1, orphanTag n keep r.1 r.2)) }

/-- The effects of partition n's discarded commands go on without an answer (R379, R534): what would end under one of their tags ends under none,
since no command is held under the tag 0xFFFF (R375). `keep` is a tag that stays. -/
def State.orphan (s : State) (n : Nat) (keep : Option (BitVec 16)) : State :=
  let tag := orphanTag n keep
  let s := { s with
    regions := (s.regions.map (fun (e : Nat × Region) => (e.1, e.2.orphan n keep))).filter (fun (e : Nat × Region) => e.2 != ({} : Region)),
    cfg := { s.cfg with wait := s.cfg.wait.map (fun (w : ModeWait) => match w with
      | .setMode m t o aff d => .setMode m (tag m t) o aff d
      | .commit m t id aff d => .commit m (tag m t) id aff d
      | .committing m t id aff => .committing m (tag m t) id aff) } }
  s.setTasks (fun ts => ts.filter (fun t => match t.work with
    | .grainSeed k _ => k.val != n
    | .report m _ _ => m.val != n
    | .signed m _ => m.val != n
    | _ => true))

/-- The draining root goes without MAP_DRAINED (R236). -/
def State.restartRoot (s : State) (n : Nat) : State :=
  (s.updPart n (fun p => { p with
    drainedEvent := false, mapWait := (match p.mapWait with
      | some w => if w.mbx.val = n then none else some w
      | none => none) })).releaseRoot n

/-- Post what partition n has ready and its CQs have room for, in ledger order, before its queues go (R333, R499). -/
def State.postOut (s : State) (n : Nat) : State :=
  let s := (s.ledgerOf n).foldl (fun s i => s.postLedger i) s
  State.postAnswers (s.part n).answers.length n s

/-- Steps 1 to 3 of R499: partition n stops, its work ends, its requests' completions post where there is room, its mailbox, queues and
ledger entries are cleared, and its tiles take restart passes; a tile in its closing pass takes one afterwards (R534). What R498 ends at a
fault ends here too (log entry 148). `keep` is the command that asked. -/
def State.beginRestart (s : State) (n : Nat) (who : Option (MbxId × BitVec 16)) (keep : List Held) : State :=
  let s := s.partChange n (fun s => s.updPart n (fun p => { p with restart := some who }))
  let s := ((s.stopTiles n).endWork n .partitionFaulted).postOut n
  let s := (s.updBox (Fin.ofNat 65 n) (fun b => b.cleared keep)).orphan n (keep.head?.map (·.tag))
  let s := (s.ledgerOf n).foldl (fun s i => s.setLed i {}) s
  let s := s.updPart n (fun p => { p with
    sqs := [], cqs := [], answers := [], deferred := none, moveq := [], lastSq := 15, partStat := 0, hold := s.heldByWait n,
    quiet := p.quiet.filter (fun j => j.asker.1.val != n) })
  let s := s.restartRoot n
  ((s.availOf n).foldl (fun s t => s.updTile t (fun x =>
    if x.health.running = some .closing then x
    else { x with health := { x.health with running := some .restart, pending := false } })) s).checkWait

/-- True when a restart of partition n may begin (R31, R499). -/
def State.mayRestart (s : State) (n : Nat) : Bool :=
  s.valid n && (s.part n).restart.isNone && (s.part n).notices.all (·.acked)
  && (s.tilesOf n).all (fun t => (s.tile t).health.running != some .closing)

/-- PARTITION_RESTART (R499, R31). -/
def execPartitionRestart (m : MbxId) (tag : BitVec 16) (s : State) : Host.Outcome State Fault Refusal :=
  .next (s.serve m tag 0x0802 noChk (fun h s =>
    let n := targetOf m h
    if s.mayRestart n then
      let keep := if m.val = n then [h] else []
      (s.beginRestart n (some (m, h.tag)) keep).accept m h []
    else s.answer m h .notPermitted []))

/-- The PCIe state of VF n after an FLR (R534): memory decode and ATS off, MSI-X masked, and no SPDM request under way. -/
def State.resetVf (s : State) (n : Nat) : State :=
  let s := s.setTasks (fun ts => ts.filter (fun t => match t.work with
    | .spdm f _ => f.val != n
    | _ => true))
  let s := s.updResponder (Fin.ofNat 65 n) (fun r => { r with wait := none })
  { s with hostl := { s.hostl with
      bars := s.hostl.bars.filter (fun e => e.1 / 3 != n), aer := SMap.put 0 s.hostl.aer n 0, mse := SMap.put false s.hostl.mse n false, d3 := SMap.put false s.hostl.d3 n false, ats := SMap.put false s.hostl.ats n false,
      atc := s.hostl.atc.filter (fun e => e.1 != n), msix := s.hostl.msix.filter (fun e => e.1 / 256 != n) } }

/-- VF_FLR (R449, R534): the TDI moves to ERROR; the partition restarts and cannot refuse; a faulted device resets only the VF's PCIe state. -/
def execVfFlr (n : PartId) (s : State) : Host.Outcome State Fault Refusal :=
  let s := (s.resetVf n.val).tdiError n false
  .next (if s.boot.fault || !s.valid n.val then s
    else if (s.part n.val).restart.isSome then
      ((s.updBox (Fin.ofNat 65 n.val) (fun b => b.cleared [])).orphan n.val none).updPart n.val (fun p => { p with
        restart := p.restart.map (fun w => w.map (fun x => if x.1.val = n.val then (x.1, 0xFFFF) else x)) })
    else s.beginRestart n.val none [])

/-- Rewrite the poisoned lines that partition n owns as zero (R270). -/
def State.clearPoison (s : State) (n : Nat) : State :=
  (List.range 8).foldl (fun (s : State) k =>
    (s.hbmc k).raw.foldl (fun (s : State) e =>
      let off := hbmOff k e.1
      let mine := s.hbmOwner off == some n || s.fwOwner off == some n
      if mine && decodeLine e.1 (s.chunks k e.1) 0 (s.lostChunk k e.1) == .poison then s.writeLine k e.1 (zeros 128) else s) s) s

/-- A tile of a restarted partition serves again with a new exposure window (R24, R499). -/
def State.reviveTile (s : State) (n t : Nat) : State :=
  (s.clearTile t).updTile t (fun x => { x with
    stopped := false, hand := [], taken := none, run := none, chainHold := none,
    health := { x.health with running := none, pending := false, journal := [], windowStart := s.now, windowOpen := true,
                              due := s.now + s.healthNs n } })

/-- Steps 6 and 7 of R499: SPDM sessions end, a confidential partition's key slot empties and its TDI is in ERROR, the fault
flag clears, and the command completes; after an FLR the notices stay (R534). -/
def State.finishRestart (s : State) (n : Nat) (who : Option (MbxId × BitVec 16)) : State :=
  let conf := (s.part n).conf
  let s := { s with sec := { s.sec with responders := SMap.upd {} s.sec.responders n (fun r => { r with sessions := [] }) } }
  let s := if conf then s.tdiError n false else s
  let s := { s with fatals := SMap.put none s.fatals n none }
  let s := s.partChange n (fun s => s.updPart n (fun p => { p with
    fault := false, restart := none, keyFresh := false, notices := if who.isNone then p.notices else [],
    key := if conf then none else p.key, pendKey := if conf then none else p.pendKey, keyGen := if conf then 0 else p.keyGen }))
  match who with
  | some (m, tag) => s.commandDone m tag .ok []
  | none => s

/-- A partition-fatal record that starts no procedure (R499); its FAULT event falls due (R495). -/
def State.fatalNote (s : State) (n : Nat) (r : ErrRec) : State :=
  let seq := s.recSeq
  (s.record r).updPart n (fun p => { p with faultDue := p.faultDue ++ [seq] })

/-- RESTART_PASS_END (R499, R500): the restart passes of partition n end, failed ones with an unavailable tile and no notice, and
the restart goes on to its end. -/
def execRestartPassEnd (n : PartId) (failed : BitVec 64) (s : State) : Host.Outcome State Fault Refusal :=
  .next (match (s.part n.val).restart with
    | none => s
    | some who =>
      if (s.tilesOf n.val).any (fun t => (s.tile t).health.running == some .closing) then s
      else
        let bad := (s.availOf n.val).filter (fun t => failed.getLsbD t)
        let s := bad.foldl (fun (s : State) t => (s.retireTile t).fatalNote n.val { mkRec 0x0104 1 with part := n.val, tile := t, unit := unitTile t }) s
        let s := (s.tilesOf n.val).foldl (fun s t => s.reviveTile n.val t) s
        (s.clearPoison n.val).finishRestart n.val who)

end Sys2Proof.Machine
end

