-- ==== Sys2Proof/Machine/Rows.lean ====
section
/-!
DEFINITION. The instruction decoder of the tile (R85–R88, R113, R116–R118, R124, R130, R132, R182, R212, R359), its registers (R83) and its
precise traps (R105–R107).
-/

namespace Sys2Proof.Machine

/-! Fields of an instruction word (R85). -/

def wMajor (w : BitVec 32) : Nat := fld w 26 6
def wRd (w : BitVec 32) : Nat := fld w 21 5
def wRa (w : BitVec 32) : Nat := fld w 16 5
def wRb (w : BitVec 32) : Nat := fld w 11 5
def wRc (w : BitVec 32) : Nat := fld w 6 5
def wFn (w : BitVec 32) : Nat := fld w 0 6
def wImm (w : BitVec 32) : Nat := fld w 0 16
/-- `MEN`, `KM` and `MZ` of format V. -/
def wMen (w : BitVec 32) : Bool := bit w 10
def wKm (w : BitVec 32) : Nat := fld w 7 3
def wMz (w : BitVec 32) : Bool := bit w 6
/-- The mask fields [10:6] as a whole. -/
def wMask (w : BitVec 32) : Nat := fld w 6 5

/-- A row where a condition on the word holds. -/
def rowIf (ok : Bool) (r : SisRow) : Option SisRow := if ok then some r else none

/-- The scalar rows in format A and I (R85–R88, R212); unused fields are zero (R86). -/
def scalarRow (w : BitVec 32) : Option SisRow :=
  let mj := wMajor w
  let rd := wRd w
  let ra := wRa w
  let rb := wRb w
  let rc := wRc w
  let fn := wFn w
  if mj = 0x01 then
    rowIf (decide (fn ≤ 0x11) && (fn == 0x0E || rc == 0) && (decide (fn < 0x0F) || rb == 0)) .integerAlu
  else if (2 ≤ mj ∧ mj ≤ 5) ∨ mj = 7 then some .aluImmediate
  else if mj = 0x06 then rowIf (decide (wImm w < 256)) .shiftImmediate
  else if mj = 0x08 then some .movhi
  else if mj = 0x09 then some .pcrel
  else if mj = 0x0A then rowIf (decide (fn < 8) && rc == 0) .multiplyDivide
  else if (0x10 ≤ mj ∧ mj ≤ 0x17) ∨ mj = 0x1D then some .load
  else if (0x18 ≤ mj ∧ mj ≤ 0x1C) ∨ mj = 0x1E then some .store
  else if mj = 0x1F then rowIf (decide (fn ≤ 8) && (fn == 8 || rc == 0) && (fn != 0 || rb == 0)) .atomic
  else if mj = 0x20 then rowIf (decide (fld w 13 3 < 6)) .branch
  else if mj = 0x21 then some .jl
  else if mj = 0x22 then some .jlr
  else if mj = 0x23 then
    (match fn with
     | 1 => rowIf (rd == 0) .trap
     | 2 => rowIf (fld w 6 20 == 0) .tret
     | 3 => rowIf (fld w 6 15 == 0) .rdtime
     | 4 => rowIf (rd == 0 && fld w 6 10 == 0) .pdone
     | 5 => rowIf (fld w 6 20 == 0) .brk
     | _ => none)
  else if mj = 0x24 then
    (match fld w 12 4 with
     | 0 => rowIf (ra == 0) .tcrr
     | 1 => rowIf (ra == 0) .tcrw
     | _ => none)
  else if mj = 0x25 then
    let two := rd == 0 && rc == 0
    let zero := fld w 6 20 == 0
    (match fn with
     | 0x01 => rowIf two .fenceRel
     | 0x02 => rowIf two .fenceAcq
     | 0x03 => rowIf zero .fenceRelAll
     | 0x04 => rowIf zero .fenceAcqAll
     | 0x08 => rowIf two .cpf
     | 0x09 => rowIf two .cwb
     | 0x0A => rowIf two .cwbi
     | 0x0B => rowIf two .czero
     | 0x0C => rowIf two .iinv
     | 0x0D => rowIf zero .iinvAll
     | _ => none)
  else if mj = 0x26 then
    let lo := fn % 32
    if 7 ≤ lo ∧ lo ≤ 9 then rowIf (rc == 0) .fpSign
    else if lo = 0x0D then rowIf (rc == 0 && rb == 0) .fkind
    else rowIf (decide (lo ≤ 0x0C) && rc == 0 && (lo != 4 || rb == 0)) .fpArithmetic
  else if mj = 0x27 then rowIf (decide (fn % 32 ≤ 3)) .fpFused
  else if mj = 0x28 then rowIf (decide (fn % 32 ≤ 7) && (decide (2 ≤ fn % 32) || fn < 32) && rb == 0 && rc == 0) .fpConversion
  else none

/-- The vector memory rows (R118, R119, R124). -/
def vecMemRow (w : BitVec 32) : Option SisRow :=
  let form := fld w 2 3
  let rb := wRb w
  if wMajor w = 0x31 then
    (match form with
     | 0 => rowIf (rb == 0) .vld
     | 1 => rowIf (rb == 0) .vldu
     | 2 => rowIf (rb == 0) .vldFf
     | 3 => rowIf (wRd w != rb) .vlx
     | _ => none)
  else if bit w 5 || wMz w then none
  else
    (match form with
     | 0 => rowIf (rb == 0) .vst
     | 1 => rowIf (rb == 0) .vstu
     | 3 => some .vsx
     | _ => none)

/-- The vector rows (R113, R116, R129, R130, R132, R182, the table of vector function codes, R359). `vfsqrt` is taken to read `VA`, so that its
`VB` and `FN`[5] are fields it does not use (log entry 124). -/
def vectorRow (w : BitVec 32) : Option SisRow :=
  let mj := wMajor w
  let vd := wRd w
  let va := wRa w
  let vb := wRb w
  let fn := wFn w
  let lo := fn % 32
  let mask := wMask w
  if mj = 0x30 then
    if fn = 0x20 then rowIf (fld w 6 15 == 0) .vgetvl
    else rowIf (vb == 0 && mask == 0 && decide (fn < (if fn % 4 < 2 then 8 else 4))) .setvl
  else if mj = 0x31 ∨ mj = 0x32 then vecMemRow w
  else if mj = 0x33 then
    if lo = 0x0F then rowIf (wMen w && !wMz w) .vmerge
    else if 0x10 ≤ lo ∧ lo ≤ 0x15 then rowIf (decide (vd < 8)) .vectorCompare
    else rowIf (decide (lo ≤ 0x17) && (lo != 0x16 || va == 0)) .vectorInteger
  else if mj = 0x34 then
    if lo ≤ 0x0D then
      rowIf ((lo != 4 || (vb == 0 && fn < 32)) && (lo != 0x0D || va == 0) && (decide (lo < 0x0A) || lo == 0x0D || decide (vd < 8))) .vectorFloat
    else if 0x10 ≤ lo ∧ lo ≤ 0x14 then rowIf (vb == 0 && fn < 32) .vfcvtFrom
    else if 0x18 ≤ lo ∧ lo ≤ 0x1C then rowIf (vb == 0) .vfcvtTo
    else if 0x1E ≤ lo then rowIf (vb == 0 && fn < 32) .vfcvtInteger
    else none
  else if mj = 0x35 then
    if mask ≠ 0 then none
    else if fn ≤ 3 then rowIf (decide (vd < 8) && decide (va < 8) && decide (vb < 8)) .maskLogic
    else if fn = 4 then rowIf (decide (vd < 8) && decide (va < 8) && vb == 0) .maskLogic
    else if fn = 5 ∨ fn = 6 then rowIf (decide (vd < 8) && va == 0 && vb == 0) .maskLogic
    else if fn = 8 ∨ fn = 9 then rowIf (decide (va < 8) && vb == 0) .kpopcKfirst
    else if fn = 0x10 ∨ fn = 0x11 then rowIf (decide (vd < 8) && vb == 0) .vlmVsm
    else none
  else if mj = 0x36 then
    if fn ≤ 0x0A then rowIf (vb == 0 && !wMz w) .vectorReduction
    else if 0x10 ≤ fn ∧ fn ≤ 0x13 then rowIf (mask == 0) .vectorScalarMove
    else if fn = 0x14 ∨ fn = 0x15 then rowIf (vd != va) .vectorPermutation
    else if fn = 0x16 then rowIf (vd != va && vd != vb) .vectorPermutation
    else if fn = 0x17 then rowIf (vd != va && vb == 0 && !wMen w && !wMz w) .vectorPermutation
    else if fn = 0x18 then rowIf (va == 0) .vectorPermutation
    else none
  else if mj = 0x37 then
    if wMz w then none
    else if fn < 8 then some .vxDeal
    else if fn = 0x08 then some .vxCombinePut
    else if fn = 0x10 then rowIf (mask == 0 && va == 0) .vxCombineSum
    else none
  else none

/-- The row of a word, and of its extension word for format M; none for a word that R86 makes illegal. -/
def sisRow (w : BitVec 32) (matrix : BitVec 32 → Option SisRow) : Option SisRow :=
  if 0x30 ≤ wMajor w ∧ wMajor w ≤ 0x37 then vectorRow w
  else if wMajor w = 0x38 then matrix w
  else scalarRow w

/-! Registers. -/

/-- Read an X register; X0 reads as zero (R83). -/
def Tsu.xr (u : Tsu) (r : Nat) : Word := if r = 0 then 0 else SMap.get 0 u.x r

/-- Write an X register; writes to X0 are discarded (R83). -/
def Tsu.setX (u : Tsu) (r : Nat) (v : Word) : Tsu := if r = 0 then u else { u with x := SMap.put 0 u.x r v }

/-- Read an F register. -/
def Tsu.fr (u : Tsu) (r : Nat) : Word := SMap.get 0 u.f r

/-- Write an F register. -/
def Tsu.setF (u : Tsu) (r : Nat) (v : Word) : Tsu := { u with f := SMap.put 0 u.f r v }

def State.updTsu (s : State) (t : Nat) (f : Tsu → Tsu) : State := s.updTile t (fun x => { x with tsu := f x.tsu })
def State.xr (s : State) (t r : Nat) : Word := (s.tile t).tsu.xr r
def State.fr (s : State) (t r : Nat) : Word := (s.tile t).tsu.fr r
def State.setX (s : State) (t r : Nat) (v : Word) : State := s.updTsu t (fun u => u.setX r v)
def State.setF (s : State) (t r : Nat) (v : Word) : State := s.updTsu t (fun u => u.setF r v)

/-- The rounding mode in force (R171); `tcrw` never writes a reserved one (R172). -/
def Tsu.rmode (u : Tsu) : RMode := (rmOf u.rm.toNat).getD .rne

/-- Raise sticky flags of `TCR_FPCSR` (R90). -/
def Tsu.raise (u : Tsu) (f : FFlags) : Tsu := { u with fflags := u.fflags ||| f }

/-! Traps. -/

/-- A precise trap (R106, R107): to the handler, or the end of the pass. -/
def State.trapT (s : State) (t cause : Nat) (tval : Word) : State :=
  let u := (s.tile t).tsu
  if u.tvec = 0 ∨ u.tip then s.endPassTrap t (causeStatus cause false) cause 0
  else s.updTsu t (fun u => { u with
    epc := u.pc, cause := BitVec.ofNat 8 cause, tval := tval, tip := true, pc := u.tvec })

end Sys2Proof.Machine
end

