-- ==== Sys2Proof/Machine/Vector.lean ====
section
/-!
DEFINITION. The Long Vector Unit (05_long_vector.md): configuration, element-wise arithmetic, masks, conversions, reductions
and permutations, each as what the unit does when it takes the instruction from its queue (R91).
-/

namespace Sys2Proof.Machine

/-! Registers, elements and masks (R112, R116). -/

/-- The element width in bits (R113). -/
def Lvu.w (u : Lvu) : Nat := 8 * 2 ^ u.sew.toNat
/-- VLMAX (R112). -/
def Lvu.max (u : Lvu) : Nat := 16384 / u.w
/-- Element i of a V register. -/
def Lvu.el (u : Lvu) (r i : Nat) : Nat := fld (SMap.get 0 u.v r) (i * u.w) u.w
/-- Bit i of a K register. -/
def Lvu.kbit (u : Lvu) (r i : Nat) : Bool := (SMap.get 0 u.k r).getLsbD i
/-- True where the mask of a format V word lets an element be active (R116). -/
def Lvu.on (u : Lvu) (w : BitVec 32) (i : Nat) : Bool := !wMen w || u.kbit (wKm w) i
/-- The indices below VL. -/
def Lvu.ix (u : Lvu) : List Nat := List.range u.vl
/-- The active indices, ascending. -/
def Lvu.actives (u : Lvu) (w : BitVec 32) : List Nat := u.ix.filter (fun i => u.on w i)
/-- A value for each element below VL: `f i` where it is active. -/
def Lvu.each {α : Type} (u : Lvu) (w : BitVec 32) (f : Nat → α) : List (Option α) :=
  u.ix.map (fun i => if u.on w i then some (f i) else none)

/-- The number whose `w`-bit digits are listed, lowest first. -/
def joinW (w : Nat) : List Nat → Nat
  | [] => 0
  | x :: t => x % 2 ^ w + 2 ^ w * joinW w t

/-- Write the elements below VL: `none` marks a masked-off element (R116). -/
def Lvu.write (u : Lvu) (vd : Nat) (mz : Bool) (rs : List (Option Nat)) : Lvu :=
  let old := (SMap.get 0 u.v vd).toNat
  let n := rs.length * u.w
  let low := joinW u.w (rs.mapIdx (fun i r => match r with
    | some v => v
    | none => if mz then 0 else u.el vd i))
  { u with v := SMap.put 0 u.v vd (BitVec.ofNat 16384 (low + old >>> n <<< n)) }

/-- Write the bits of a K register below VL. -/
def Lvu.writeK (u : Lvu) (kd : Nat) (mz : Bool) (rs : List (Option Bool)) : Lvu :=
  let old := (SMap.get 0 u.k kd).toNat
  let n := rs.length
  let low := joinW 1 (rs.mapIdx (fun i r => match r with
    | some v => b2n v
    | none => if mz then 0 else b2n (u.kbit kd i)))
  { u with k := SMap.put 0 u.k kd (BitVec.ofNat 2048 (low + old >>> n <<< n)) }

/-- OR flags into `TCR_VSTAT` (R133). -/
def Lvu.raise (u : Lvu) (f : FFlags) : Lvu := { u with flags := u.flags ||| f }

/-- Write floating results and raise the flags of the active elements (R133). -/
def Lvu.writeF (u : Lvu) (vd : Nat) (mz : Bool) (rs : List (Option FRes)) : Lvu :=
  (u.write vd mz (rs.map (fun r => r.map (·.1)))).raise (rs.foldl (fun f r => match r with
    | some x => f ||| x.2
    | none => f) 0)

def State.lvu (s : State) (t : Nat) : Lvu := (s.tile t).lvu
def State.updLvu (s : State) (t : Nat) (f : Lvu → Lvu) : State := s.updTile t (fun x => { x with lvu := f x.lvu })

/-- Flush mode of the LVU: SEW 64 keeps subnormals (R183). -/
def State.vFlush (s : State) (t : Nat) : Nat :=
  if (s.lvu t).sew = 3 then 0
  else match (s.tile t).run with
    | some r => r.flush
    | none => 0

/-- The floating format of the SEW in force (R113). -/
def Lvu.fmt (u : Lvu) : Fmt :=
  if u.sew = 3 then Fmt.fp64 else if u.sew = 2 then Fmt.fp32 else if u.falt = 1 then Fmt.bf16 else Fmt.fp16

/-- True where SEW is at least 16 bits (R130, R136). -/
def Lvu.wide (u : Lvu) : Bool := u.sew != 0

/-! Configuration (R113, R129). -/

/-- The vector length that a `setvl` word sets from its operand (R113). -/
def setvlLen (w : BitVec 32) (x : Word) : Nat := min x.toNat (16384 / (8 * 2 ^ (BitVec.ofNat 2 (wFn w)).toNat))

/-- SETVL in the vector queue (R92, R113): VL and the element width. -/
def State.setvlOp (s : State) (t : Nat) (w : BitVec 32) : State :=
  let vl := setvlLen w (s.xr t (wRa w))
  s.updLvu t (fun v => { v with vl := vl, sew := BitVec.ofNat 2 (wFn w), falt := BitVec.ofNat 2 (wFn w / 4) })

/-- VGETVL (R129). -/
def State.vgetvlOp (s : State) (t : Nat) (w : BitVec 32) : State := s.setX t (wRd w) (BitVec.ofNat 64 (s.lvu t).vl)

/-! Integer operations. -/

/-- An integer modulo 2^w. -/
def wrapI (w : Nat) (x : Int) : Nat := (x % ((2 ^ w : Nat) : Int)).toNat

/-- Element-wise integer operations by `FN`[4:0]; `d` is the old destination element (R116, table of vector codes). -/
def vint (w fn a b d : Nat) : Nat :=
  let sa := sval w a
  let sb := sval w b
  match fn with
  | 0x00 => wrapI w (sa + sb)
  | 0x01 => wrapI w (sa - sb)
  | 0x02 => wrapI w (sa * sb)
  | 0x03 => wrapI w (sa * sb / ((2 ^ w : Nat) : Int))
  | 0x04 => a * b / 2 ^ w
  | 0x05 => a &&& b
  | 0x06 => a ||| b
  | 0x07 => a ^^^ b
  | 0x08 => a <<< (b % w) % 2 ^ w
  | 0x09 => a >>> (b % w)
  | 0x0A => wrapI w (sa / ((2 ^ (b % w) : Nat) : Int))
  | 0x0B => if sb < sa then b else a
  | 0x0C => if sa < sb then b else a
  | 0x0D => if b < a then b else a
  | 0x0E => if a < b then b else a
  | 0x16 => b
  | _ => (d + a * b) % 2 ^ w

/-- The element of the second operand: a vector element, or the low SEW bits of X[`VB`] in the vector-scalar form. -/
def State.vb (s : State) (t : Nat) (w : BitVec 32) (i : Nat) : Nat :=
  if bit w 5 then (s.xr t (wRb w)).toNat % 2 ^ (s.lvu t).w else (s.lvu t).el (wRb w) i

/-- VECTOR_INTEGER. -/
def State.vectorIntegerOp (s : State) (t : Nat) (w : BitVec 32) : State :=
  let v := s.lvu t
  s.updLvu t (fun v' => v'.write (wRd w) (wMz w) (v.each w (fun i =>
    vint v.w (wFn w % 32) (v.el (wRa w) i) (s.vb t w i) (v.el (wRd w) i))))

/-- VMERGE (R116): every element below VL is written, from `VB` where its mask bit is set. -/
def State.vmergeOp (s : State) (t : Nat) (w : BitVec 32) : State :=
  let v := s.lvu t
  s.updLvu t (fun v' => v'.write (wRd w) false (v.ix.map (fun i =>
    some (if v.kbit (wKm w) i then s.vb t w i else v.el (wRa w) i))))

/-- The comparisons by `FN`[4:0]. -/
def vcmp (w fn a b : Nat) : Bool :=
  match fn with
  | 0x10 => a == b
  | 0x11 => a != b
  | 0x12 => decide (sval w a < sval w b)
  | 0x13 => decide (a < b)
  | 0x14 => decide (sval w a ≤ sval w b)
  | _ => decide (a ≤ b)

/-- VECTOR_COMPARE. -/
def State.vectorCompareOp (s : State) (t : Nat) (w : BitVec 32) : State :=
  let v := s.lvu t
  s.updLvu t (fun v' => v'.writeK (wRd w) (wMz w) (v.each w (fun i => vcmp v.w (wFn w % 32) (v.el (wRa w) i) (s.vb t w i))))

/-! Floating operations (R130–R133). -/

/-- The element of the second floating operand: a vector element, or the low SEW bits of F[`VB`]. -/
def State.vfb (s : State) (t : Nat) (w : BitVec 32) (i : Nat) : Nat :=
  if bit w 5 then (s.fr t (wRb w)).toNat % 2 ^ (s.lvu t).w else (s.lvu t).el (wRb w) i

/-- Element-wise floating operations by `FN`[4:0]; `d` is the old destination element. -/
def vfloat (f : Fmt) (rm : RMode) (flush fn a b d : Nat) : FRes :=
  match fn with
  | 0x00 => f.add rm flush a b
  | 0x01 => f.sub rm flush a b
  | 0x02 => f.mul rm flush a b
  | 0x03 => f.div rm flush a b
  | 0x04 => f.sqrt rm flush a
  | 0x05 => f.minmax false flush a b
  | 0x06 => f.minmax true flush a b
  | 0x07 => f.fma rm flush false false a b d
  | 0x08 => f.fma rm flush true false a b d
  | 0x09 => (f.withSign a (f.signOf b), 0)
  | _ => (b, 0)

/-- The floating comparisons by `FN`[4:0]. -/
def vfcmp (f : Fmt) (flush fn a b : Nat) : Bool × FFlags :=
  match fn with
  | 0x0A => f.eq flush a b
  | 0x0B => f.lt flush a b
  | _ => f.le flush a b

/-- VECTOR_FLOAT: the comparisons write a K register. -/
def State.vectorFloatOp (s : State) (t : Nat) (w : BitVec 32) : State :=
  let v := s.lvu t
  let f := v.fmt
  let fl := s.vFlush t
  let fn := wFn w % 32
  if 0x0A ≤ fn ∧ fn ≤ 0x0C then
    let rs := v.each w (fun i => vfcmp f fl fn (v.el (wRa w) i) (s.vfb t w i))
    s.updLvu t (fun v' => (v'.writeK (wRd w) (wMz w) (rs.map (fun r => r.map (·.1)))).raise
      (rs.foldl (fun a r => match r with
        | some x => a ||| x.2
        | none => a) 0))
  else
    let rm := (s.tile t).tsu.rmode
    s.updLvu t (fun v' => v'.writeF (wRd w) (wMz w) (v.each w (fun i =>
      vfloat f rm fl fn (v.el (wRa w) i) (s.vfb t w i) (v.el (wRd w) i))))

/-- The format that a conversion code names by its low three bits (R132). -/
def cvtFmt (n : Nat) : Fmt :=
  match n % 8 with
  | 0 => Fmt.e4m3
  | 1 => Fmt.e5m2
  | 2 => Fmt.fp16
  | 3 => Fmt.bf16
  | _ => Fmt.fp32

/-- VFCVT_FROM (R132, R181): exact widening of the low bits of each element. -/
def State.vfcvtFromOp (s : State) (t : Nat) (w : BitVec 32) : State :=
  let src := cvtFmt (wFn w)
  let v := s.lvu t
  let fl := s.vFlush t
  s.updLvu t (fun v' => v'.writeF (wRd w) (wMz w) (v.each w (fun i =>
    cvtFloat src v.fmt .rne 0 fl false (v.el (wRa w) i % 2 ^ src.width))))

/-- A vector fault ends the pass and names the instruction (R105, R107). -/
def State.vecFault (s : State) (t : Nat) (st : Status) : State := s.endPassTrap t st 0x11 (s.tile t).tsu.pc.toNat

/-- The draw for position `pos` of a unit's counter in the running pass: grain index of R175. -/
def PassCtx.draw (r : PassCtx) (seed : List Byte) (unit pos : Nat) : Nat :=
  grainDraw seed (r.base * 2 ^ 40 + r.rank % 64 * 2 ^ 34 + unit * 2 ^ 33 + pos % 2 ^ 33)

/-- VFCVT_TO (R132, R173–R178): under SR each element draws by its position and the counter advances by VL. -/
def State.vfcvtToOp (s : State) (t : Nat) (w : BitVec 32) (u : Upset) : State :=
  let dst := cvtFmt (wFn w)
  let v := s.lvu t
  let fl := s.vFlush t
  let rm := (s.tile t).tsu.rmode
  let go (g : Nat → Nat) : List (Option FRes) := v.each w (fun i => cvtFloat v.fmt dst rm (g i) fl (bit w 5) (v.el (wRa w) i))
  if rm = .sr then
    match (s.tile t).run with
    | none => s
    | some r =>
      match r.seed with
      | none => s.vecFault t .notPermitted
      | some seed =>
        if u = .grainMismatch then s.tileFatal t (mkRec 0x0105 1)
        else s.updLvu t (fun v' =>
          { v'.writeF (wRd w) (wMz w) (go (fun i => r.draw seed 0 (v.grain + i))) with grain := (v.grain + v.vl) % 2 ^ 33 })
  else s.updLvu t (fun v' => v'.writeF (wRd w) (wMz w) (go (fun _ => 0)))

/-- VFCVT_INTEGER (R182): `vfcvt.x` to and `vfcvt.f` from signed integers of the element width. -/
def State.vfcvtIntegerOp (s : State) (t : Nat) (w : BitVec 32) : State :=
  let v := s.lvu t
  let fl := s.vFlush t
  let rm := (s.tile t).tsu.rmode
  s.updLvu t (fun v' => v'.writeF (wRd w) (wMz w) (v.each w (fun i =>
    let x := v.el (wRa w) i
    if wFn w = 0x1E then (let r := cvtToInt v.fmt rm fl v.w true x
      (wrapI v.w r.1, r.2)) else cvtFromInt v.fmt rm fl (sval v.w x))))

/-! Mask operations. -/

/-- Mask logic by `FN`: all 2,048 bits, whatever VL is. -/
def klogic (fn : Nat) (a b : BitVec 2048) : BitVec 2048 :=
  match fn with
  | 0 => a &&& b
  | 1 => a ||| b
  | 2 => a ^^^ b
  | 3 => a &&& ~~~b
  | 4 => ~~~a
  | 5 => BitVec.allOnes 2048
  | _ => 0

/-- MASK_LOGIC. -/
def State.maskLogicOp (s : State) (t : Nat) (w : BitVec 32) : State :=
  s.updLvu t (fun v => { v with k := SMap.put 0 v.k (wRd w) (klogic (wFn w) (SMap.get 0 v.k (wRa w)) (SMap.get 0 v.k (wRb w))) })

/-- KPOPC_KFIRST: over the bits below VL. -/
def State.kpopcKfirstOp (s : State) (t : Nat) (w : BitVec 32) : State :=
  let v := s.lvu t
  let set := v.ix.filter (fun i => v.kbit (wRa w) i)
  s.setX t (wRd w) (if wFn w = 8 then BitVec.ofNat 64 set.length else
    match set with
    | i :: _ => BitVec.ofNat 64 i
    | [] => BitVec.allOnes 64)

/-! Reductions (R134–R136). -/

/-- One level of the tree: a node with one present child takes its value. -/
def redLevel {α : Type} (op : α → α → α) : List (Option α) → List (Option α)
  | some a :: some b :: r => some (op a b) :: redLevel op r
  | none :: x :: r => x :: redLevel op r
  | x :: none :: r => x :: redLevel op r
  | l => l

/-- The tree of R134 over `n` leaves; the first argument counts its levels. -/
def redTree {α : Type} (op : α → α → α) : Nat → List (Option α) → Option α
  | 0, l => l.headD none
  | k + 1, l => redTree op k (redLevel op l)

/-- The leaves of a reduction: VLMAX of them, present where active. -/
def Lvu.leaves {α : Type} (u : Lvu) (w : BitVec 32) (f : Nat → α) : List (Option α) :=
  (List.range u.max).map (fun i => if decide (i < u.vl) && u.on w i then some (f i) else none)

/-- The integer reductions by `FN` on the elements as integers: signed for `vredsum`, `vredmax` and `vredmin`. -/
def redInt (fn : Nat) (a b : Int) : Int :=
  match fn with
  | 0 => (a + b) % 2 ^ 64
  | 1 => ((a.toNat &&& b.toNat : Nat) : Int)
  | 2 => ((a.toNat ||| b.toNat : Nat) : Int)
  | 3 => ((a.toNat ^^^ b.toNat : Nat) : Int)
  | 4 | 6 => if a < b then b else a
  | _ => if b < a then b else a

/-- True for the integer reductions that read signed elements. -/
def redSigned (fn : Nat) : Bool := fn == 0 || fn == 4 || fn == 5

/-- The identities of R135 for the integer reductions. -/
def redId (w fn : Nat) : Int :=
  match fn with
  | 1 | 7 => ((2 ^ w - 1 : Nat) : Int)
  | 4 => -((2 ^ (w - 1) : Nat) : Int)
  | 5 => ((2 ^ (w - 1) - 1 : Nat) : Int)
  | _ => 0

/-- VECTOR_REDUCTION (R134–R136). -/
def State.vectorReductionOp (s : State) (t : Nat) (w : BitVec 32) : State :=
  let v := s.lvu t
  let fn := wFn w
  let levels := v.max.log2
  if fn < 8 then
    let l := v.leaves w (fun i => if redSigned fn then sval v.w (v.el (wRa w) i) else ((v.el (wRa w) i : Nat) : Int))
    s.setX t (wRd w) (BitVec.ofInt 64 ((redTree (redInt fn) levels l).getD (redId v.w fn)))
  else
    let f := if v.sew = 3 then Fmt.fp64 else Fmt.fp32
    let fl := s.vFlush t
    let rm := (s.tile t).tsu.rmode
    let leaf (i : Nat) : FRes :=
      if v.sew = 1 then Fmt.fp32.ofVal .rne 0 0 false (v.fmt.read fl (v.el (wRa w) i)) else (v.el (wRa w) i, 0)
    let op (a b : FRes) : FRes :=
      let r := if fn = 8 then f.add rm fl a.1 b.1 else f.minmax (fn == 9) fl a.1 b.1
      (r.1, a.2 ||| b.2 ||| r.2)
    let idn : FRes := (if fn = 8 then 0 else f.signBit (fn == 9) + f.infMag, 0)
    let r := (redTree op levels (v.leaves w leaf)).getD idn
    (s.setF t (wRd w) (BitVec.ofNat 64 r.1)).updLvu t (fun v => v.raise r.2)

/-! Scalar moves and permutations. -/

/-- VECTOR_SCALAR_MOVE: `vp.get`, `vp.put`, `vp.fget` and `vp.fput`. -/
def State.vectorScalarMoveOp (s : State) (t : Nat) (w : BitVec 32) : State :=
  let v := s.lvu t
  let get : Nat :=
    let i := (s.xr t (wRb w)).toNat
    if i < v.vl then v.el (wRa w) i else 0
  let put (x : Word) : State :=
    let i := (s.xr t (wRa w)).toNat
    if v.vl = 0 ∨ v.max ≤ i then s
    else s.updLvu t (fun v => { v with v := SMap.upd 0 v.v (wRd w) (fun r => setFld r (i * v.w) v.w x.toNat) })
  match wFn w with
  | 0x10 => s.setX t (wRd w) (sext64 v.w get)
  | 0x11 => put (s.xr t (wRb w))
  | 0x12 => s.setF t (wRd w) (BitVec.ofNat 64 get)
  | _ => put (s.fr t (wRb w))

/-- The permutations by `FN` but `vp.pack`: element i, from the scalar `x` and the register. -/
def State.vperm (s : State) (t : Nat) (w : BitVec 32) (i : Nat) : Nat :=
  let v := s.lvu t
  let x := (s.xr t (wRb w)).toNat
  match wFn w with
  | 0x14 => if x ≤ i then v.el (wRa w) (i - x) else 0
  | 0x15 => if i + x < v.max then v.el (wRa w) (i + x) else 0
  | 0x16 => if v.el (wRb w) i < v.vl then v.el (wRa w) (v.el (wRb w) i) else 0
  | _ => (x + i) % 2 ^ v.w

/-- VECTOR_PERMUTATION: `vp.rise`, `vp.fall`, `vp.pick`, `vp.pack` and `vp.seq`. -/
def State.vectorPermutationOp (s : State) (t : Nat) (w : BitVec 32) : State :=
  let v := s.lvu t
  if wFn w = 0x17 then
    let kept := (v.ix.filter (fun i => v.kbit (wKm w) i)).map (fun i => v.el (wRa w) i)
    s.updLvu t (fun v' => v'.write (wRd w) false ((kept ++ List.replicate (v.vl - kept.length) 0).map some))
  else s.updLvu t (fun v' => v'.write (wRd w) (wMz w) (v.each w (fun i => s.vperm t w i)))

end Sys2Proof.Machine
end

