-- ==== Sys2Proof/Machine/VecMem.lean ====
section
/-!
DEFINITION. The vector memory instructions (05_long_vector.md R118–R128): addresses, translation before any access, first-fault
loads, gathers and scatters, and whole-mask moves.
-/

namespace Sys2Proof.Machine

/-- The memory element width code (R118). -/
def wMew (w : BitVec 32) : Nat := fld w 0 2
/-- The bytes of a memory element. -/
def mewBytes (w : BitVec 32) : Nat := 2 ^ wMew w

/-- The address of element i of a unit-stride form. -/
def unitVa (base : Word) (n i : Nat) : Nat := (base.toNat + i * n) % 2 ^ 64

/-- The address of element i of a gather or scatter (R123). -/
def Lvu.gatherVa (v : Lvu) (base : Word) (vb i : Nat) : Nat := (base.toNat + v.el vb i) % 2 ^ 64

/-- Translate element addresses in order: the physical addresses so far, and the lowest-numbered element that fails with its status
(R123, R126, R128). R126 does not say which status stands where one element is misaligned and another unmapped: it is that element's, and a
misaligned element is not translated (log entry 125). -/
def State.vecTrans (t : Nat) (k : AccessKind) (n : Nat) : List (Nat × Nat) → List Nat → State → (List Nat × Option (Nat × Status)) × State
  | [], acc, s => ((acc.reverse, none), s)
  | (i, va) :: r, acc, s =>
    if va % n ≠ 0 then ((acc.reverse, some (i, .notPermitted)), s)
    else match s.translateT t k va with
      | (some pa, s) => State.vecTrans t k n r (pa :: acc) s
      | (none, s) => ((acc.reverse, some (i, .unmapped)), s)

/-- Read elements at physical addresses; none where a target refuses one (R127). -/
def State.vecRead (t n : Nat) : List Nat → List Nat → State → Option (List Nat) × State
  | [], acc, s => (some acc.reverse, s)
  | pa :: r, acc, s => match s.loadPa t pa n with
    | (some bs, s) => State.vecRead t n r (leNat bs :: acc) s
    | (none, s) => (none, s)

/-- Give values to the active elements in order; an element without a value stays masked off. -/
def spread : List Bool → List Nat → List (Option Nat)
  | [], _ => []
  | true :: a, v :: vs => some v :: spread a vs
  | true :: a, [] => none :: spread a []
  | false :: a, vs => none :: spread a vs

/-- A loaded element extended to SEW (R119). -/
def extendTo (w : BitVec 32) (sew x : Nat) : Nat := if bit w 5 then wrapI sew (sval (8 * mewBytes w) x) else x

/-- Read the elements at `pas` and write them to `VD` (R116, R119, R127). -/
def State.vecLoad (s : State) (t : Nat) (w : BitVec 32) (pas : List Nat) : State :=
  match State.vecRead t (mewBytes w) pas [] s with
    | (none, s) => s.vecFault t .notPermitted
    | (some xs, s) =>
      s.updLvu t (fun v => v.write (wRd w) (wMz w) (spread (v.ix.map (fun i => v.on w i)) (xs.map (extendTo w v.w))))

/-- Join pieces that continue each other within one 128-byte line; the last piece of the accumulator comes first. -/
def joinPieces : List (Nat × List Byte) → List (Nat × List Byte) → List (Nat × List Byte)
  | [], acc => acc.reverse
  | (pa, bs) :: r, (qa, cs) :: acc =>
    if qa + cs.length = pa ∧ qa / 128 = pa / 128 then joinPieces r ((qa, cs ++ bs) :: acc)
    else joinPieces r ((pa, bs) :: (qa, cs) :: acc)
  | p :: r, [] => joinPieces r [p]

/-- Store pieces in order until one is refused at once (R125, R127). -/
def State.vecStore (s : State) (t : Nat) (pieces : List (Nat × List Byte)) : State :=
  let pc := (s.tile t).tsu.pc.toNat
  pieces.foldl (fun (s : State) p => if s.running t then s.storePa t p.1 p.2 0x11 pc else s) s

/-- A load over element addresses: every active element is translated first (R126). -/
def State.vecLoadAt (s : State) (t : Nat) (w : BitVec 32) (va : Lvu → Nat → Nat) : State :=
  let v := s.lvu t
  match State.vecTrans t .load (mewBytes w) ((v.actives w).map (fun i => (i, va v i))) [] s with
  | ((_, some (_, st)), s) => s.vecFault t st
  | ((pas, none), s) => s.vecLoad t w pas

/-- A store over element addresses; `join` merges neighbouring elements into one access of a line. -/
def State.vecStoreAt (s : State) (t : Nat) (w : BitVec 32) (join : Bool) (va : Lvu → Nat → Nat) : State :=
  let v := s.lvu t
  let is := v.actives w
  match State.vecTrans t .store (mewBytes w) (is.map (fun i => (i, va v i))) [] s with
  | ((_, some (_, st)), s) => s.vecFault t st
  | ((pas, none), s) =>
    let ps := (pas.zip is).map (fun p => (p.1, leBytes (mewBytes w) (v.el (wRd w) p.2)))
    s.vecStore t (if join then joinPieces ps [] else ps)

/-- The elements of a unit-stride form from X[`VA`]. -/
def State.unitAt (s : State) (t : Nat) (w : BitVec 32) (_ : Lvu) (i : Nat) : Nat := unitVa (s.xr t (wRa w)) (mewBytes w) i

/-- The elements of a gather or scatter from X[`VA`]. -/
def State.gatherAt (s : State) (t : Nat) (w : BitVec 32) (v : Lvu) (i : Nat) : Nat := v.gatherVa (s.xr t (wRa w)) (wRb w) i

/-- VLD (R121). -/
def State.vldOp (s : State) (t : Nat) (w : BitVec 32) : State := s.vecLoadAt t w (s.unitAt t w)

/-- VLDU (R122). -/
def State.vlduOp (s : State) (t : Nat) (w : BitVec 32) : State := s.vecLoadAt t w (s.unitAt t w)

/-- VLX (R123): a gather. -/
def State.vlxOp (s : State) (t : Nat) (w : BitVec 32) : State := s.vecLoadAt t w (s.gatherAt t w)

/-- VLD_FF (R128): a fault on the lowest active element ends the pass; on a later one it truncates VL. -/
def State.vldFfOp (s : State) (t : Nat) (w : BitVec 32) : State :=
  let v := s.lvu t
  match State.vecTrans t .load (mewBytes w) ((v.actives w).map (fun i => (i, s.unitAt t w v i))) [] s with
  | ((pas, none), s) => s.vecLoad t w pas
  | (([], some (_, st)), s) => s.vecFault t st
  | ((pas, some (e, _)), s) => (s.updLvu t (fun v => { v with vl := e, fft := true })).vecLoad t w pas

/-- VST (R121). -/
def State.vstOp (s : State) (t : Nat) (w : BitVec 32) : State := s.vecStoreAt t w true (s.unitAt t w)

/-- VSTU (R122). -/
def State.vstuOp (s : State) (t : Nat) (w : BitVec 32) : State := s.vecStoreAt t w true (s.unitAt t w)

/-- VSX (R123, R125): a scatter in ascending element order. -/
def State.vsxOp (s : State) (t : Nat) (w : BitVec 32) : State := s.vecStoreAt t w false (s.gatherAt t w)

/-- VLM_VSM: a whole K register to or from 256 bytes; with VL = 0 no memory is accessed (R117). -/
def State.vlmVsmOp (s : State) (t : Nat) (w : BitVec 32) : State :=
  let base := s.xr t (wRa w)
  let store := wFn w == 0x11
  match State.vecTrans t (if store then .store else .load) 128 [(0, base.toNat), (1, base.toNat + 128)] [] s with
  | ((_, some (_, st)), s) => s.vecFault t st
  | ((pas, none), s) =>
    if store then
      let bs := bvBytes (SMap.get 0 (s.lvu t).k (wRd w))
      s.vecStore t (pas.mapIdx (fun i pa => (pa, slice bs (128 * i) 128)))
    else match State.vecRead t 128 pas [] s with
      | (none, s) => s.vecFault t .notPermitted
      | (some xs, s) => s.updLvu t (fun v => { v with k := SMap.put 0 v.k (wRd w) (BitVec.ofNat 2048 (joinW 1024 xs)) })

end Sys2Proof.Machine
end

