-- ==== Sys2Proof/Machine/Experts.lean ====
section
/-!
DEFINITION. Expert routing (12_requests_experts.md R358–R365): `vx.deal`, `vx.combine.put` and `vx.combine.sum` over the tile's
own Local Store.
-/

namespace Sys2Proof.Machine

/-- The extents of a range that must lie in the tile's own Local Store: UNMAPPED for a page fault, NOT_PERMITTED for another
target (R105, R359). -/
def State.ownRange (s : State) (t : Nat) (k : AccessKind) (va len : Nat) : Except Status (List Extent) × State :=
  match s.rangeT t k va len with
  | (.inr _, s) => (.error .unmapped, s)
  | (.inl es, s) =>
    (if es.all (fun e => paSpace e.pa == 1 && paDev e.pa == s.deviceNum && paOff e.pa / 2 ^ 24 == t) then .ok es else .error .notPermitted, s)

/-- Read a list of own Local Store extents. -/
def State.ownRead (s : State) (t : Nat) (es : List Extent) : List Byte × State :=
  es.foldl (fun (r : List Byte × State) e =>
    let (bs, s) := r.2.lsRead t (paOff e.pa % 2 ^ 24) e.len
    (r.1 ++ bs, s)) ([], s)

/-- Write bytes over own Local Store extents. -/
def State.ownWrite (s : State) (t : Nat) (es : List Extent) (bs : List Byte) : State :=
  (es.foldl (fun (r : List Byte × State) e => (r.1.drop e.len, r.2.lsWrite t (paOff e.pa % 2 ^ 24) (r.1.take e.len))) (bs, s)).2

/-- An offset range inside a Local Store. -/
def inLs (off len : Nat) : Bool := decide (off + len ≤ 2 ^ 24)

/-! `vx.deal` (R360, R361). -/

/-- An expert entry: list offset, capacity, items written, items refused. -/
structure Expert where
  list : Nat
  cap : Nat
  count : Nat
  dropped : Nat
  deriving DecidableEq, Repr

/-- The entry of expert e in a table's bytes. -/
def expertOf (tb : List Byte) (e : Nat) : Expert := ⟨at' tb (64 + 16 * e) 4, at' tb (68 + 16 * e) 2, at' tb (70 + 16 * e) 2, at' tb (72 + 16 * e) 4⟩

/-- The bytes of an entry; its reserved word is kept. -/
def Expert.bytes (x : Expert) (old : List Byte) : List Byte :=
  leBytes 4 x.list ++ leBytes 2 x.cap ++ leBytes 2 x.count ++ leBytes 4 x.dropped ++ slice old 12 4

/-- A token tag (R358). -/
def tokenTag (ix pos rank : Nat) : Nat := ix * 2 ^ 44 + pos * 2 ^ 20 + rank * 2 ^ 17

/-- Append one item to its expert's list, or count it as dropped (R361). -/
def State.dealItem (s : State) (t : Nat) (xs : List Expert) (e tag gate : Nat) : List Expert × State :=
  match xs[e]? with
  | none => (xs, s)
  | some x =>
    if x.cap ≤ x.count then (xs.set e { x with dropped := (x.dropped + 1) % 2 ^ 32 }, s)
    else (xs.set e { x with count := x.count + 1 }, s.lsWrite t (x.list + 16 * x.count) (leBytes 8 tag ++ leBytes 4 gate ++ zeros 4))

/-- VX_DEAL (R361). -/
def State.vxDealOp (s : State) (t : Nat) (w : BitVec 32) : State :=
  let v := s.lvu t
  let k := fld w 0 3 + 1
  let va := (s.xr t (wRd w)).toNat
  let is := v.actives w
  match s.ownRange t .store va 64 with
  | (.error st, s) => s.vecFault t st
  | (.ok hd, s) =>
    let (h, s) := s.ownRead t hd
    let nexp := at' h 0 2
    let pos := at' h 4 3
    if 256 < nexp then s.vecFault t .notPermitted
    else match s.ownRange t .store va (64 + 16 * nexp) with
      | (.error st, s) => s.vecFault t st
      | (.ok es, s) =>
        let (tb, s) := s.ownRead t es
        let xs := (List.range nexp).map (expertOf tb)
        let ok (j : Nat) : Bool := match xs[v.el (wRa w) j]? with
          | some x => x.list % 16 == 0
          | none => false
        if !xs.all (fun x => inLs x.list (16 * x.cap)) ∨ v.vl % k ≠ 0 ∨ !is.all ok ∨ 2 ^ 24 < pos + v.vl / k then s.vecFault t .notPermitted
        else
          let ix := (s.tile t).tsu.pass.toNat
          let (xs, s) := is.foldl (fun (r : List Expert × State) j =>
            r.2.dealItem t r.1 (v.el (wRa w) j) (tokenTag ix (pos + j / k) (j % k)) (v.el (wRb w) j)) (xs, s)
          let head := h.take 4 ++ leBytes 3 (pos + v.vl / k) ++ h.drop 7
          s.ownWrite t es (head ++ (xs.mapIdx (fun e x => x.bytes (slice tb (64 + 16 * e) 16))).flatten)

/-! `vx.combine` (R362–R364). -/

/-- A combine descriptor (R362). -/
structure Combine where
  stage : Nat
  pres : Nat
  out : Nat
  pos0 : Nat
  k : Nat
  elems : Nat
  ibf : Bool
  obf : Bool
  cap : Nat
  next : Nat
  spitch : Nat
  opitch : Nat
  deriving DecidableEq, Repr

/-- A descriptor from its 64 bytes as a number. -/
def combineOf (d : BitVec 512) : Combine :=
  ⟨fld d 0 32, fld d 32 32, fld d 64 32, fld d 96 24, fld d 120 3 + 1, fld d 123 14 + 1, bit d 137, bit d 138, fld d 139 24,
   fld d 163 24, fld d 192 32, fld d 224 32⟩

/-- The bytes of an input row. -/
def Combine.row (c : Combine) : Nat := c.elems * (if c.ibf then 2 else 4)
/-- The staging slot of relative position p and rank r. -/
def Combine.slot (c : Combine) (p r : Nat) : Nat := c.stage + (p * c.k + r) * (ceilDiv c.row 64 * 64)
/-- The bytes of an output row. -/
def Combine.orow (c : Combine) : Nat := c.elems * (if c.obf then 2 else 4)
/-- The multiples of 64 that R362 states. -/
def Combine.aligned (c : Combine) : Bool := c.stage % 64 == 0 && c.out % 64 == 0 && c.spitch % 64 == 0 && c.opitch % 64 == 0

/-- True where the staging area, the presence bytes and the output rows lie within the Local Store (R359). -/
def Combine.inside (c : Combine) : Bool :=
  c.cap == 0 || (inLs (c.slot (c.cap - 1) (c.k - 1)) c.row && inLs c.pres c.cap && inLs (c.out + (c.cap - 1) * c.opitch) c.orow)

/-- The pieces of a virtual range within 128-byte lines. The first argument bounds them. -/
def linePieces : Nat → Nat → Nat → List (Nat × Nat)
  | 0, _, _ => []
  | f + 1, va, len =>
    if len = 0 then []
    else
      let n := min len (128 - va % 128)
      (va, n) :: linePieces f (va + n) (len - n)

/-- Read a virtual range through the tile's memory path; a failure names its status (R126, R127). -/
def State.readVa (t : Nat) : List (Nat × Nat) → List Byte → State → Except Status (List Byte) × State
  | [], acc, s => (.ok acc, s)
  | (va, n) :: r, acc, s => match s.translateT t .load va with
    | (none, s) => (.error .unmapped, s)
    | (some pa, s) => match s.loadPa t pa n with
      | (none, s) => (.error .notPermitted, s)
      | (some bs, s) => State.readVa t r (acc ++ bs) s

/-- Read the source rows of the active elements before anything is written. -/
def State.readRows (t len : Nat) : List Nat → List (List Byte) → State → Except Status (List (List Byte)) × State
  | [], acc, s => (.ok acc.reverse, s)
  | va :: r, acc, s => match State.readVa t (linePieces (len / 128 + 2) va len) [] s with
    | (.error st, s) => (.error st, s)
    | (.ok bs, s) => State.readRows t len r (bs :: acc) s

/-- The parts of a token tag relative to a descriptor: relative position and rank; none where R363 refuses the tag. -/
def Combine.tag (c : Combine) (ix tag : Nat) : Option (Nat × Nat) :=
  let p := tag / 2 ^ 20 % 2 ^ 24
  let r := tag / 2 ^ 17 % 8
  if tag / 2 ^ 44 = ix ∧ tag % 2 ^ 17 = 0 ∧ r < c.k ∧ c.pos0 ≤ p ∧ p - c.pos0 < c.cap then some (p - c.pos0, r) else none

/-- One byte of the tile's own Local Store as a number. -/
def State.lsByte (s : State) (t off : Nat) : Nat := leNat (s.lsBytes t off 1)

/-- Copy one source row to its slot and set its presence bit (R363). -/
def State.putRow (s : State) (t : Nat) (c : Combine) (p r : Nat) (bs : List Byte) : State :=
  let (old, s) := (s.lsWrite t (c.slot p r) bs).lsRead t (c.pres + p) 1
  s.lsWrite t (c.pres + p) [(old.getD 0 0) ||| BitVec.ofNat 8 (2 ^ r)]

/-- VX_COMBINE_PUT (R363). -/
def State.vxCombinePutOp (s : State) (t : Nat) (w : BitVec 32) : State :=
  let v := s.lvu t
  match s.ownRange t .load (s.xr t (wRd w)).toNat 64 with
  | (.error st, s) => s.vecFault t st
  | (.ok es, s) =>
    let (d, s) := s.ownRead t es
    let c := combineOf (bytesBv 512 d)
    let is := v.actives w
    let tags := is.map (fun j => c.tag (s.tile t).tsu.pass.toNat (v.el (wRa w) j))
    let s := tags.foldl (fun (s : State) x => match x with
      | some (p, _) => s.lsCheckAll t (c.pres + p) 1
      | none => s) s
    let ok (x : Option (Nat × Nat)) : Bool := match x with
      | some (p, r) => (s.lsByte t (c.pres + p)) / 2 ^ r % 2 == 0
      | none => false
    if (s.tile t).stopped then s
    else if !c.aligned || !c.inside || !tags.all ok || tags.eraseDups.length != tags.length then s.vecFault t .notPermitted
    else match State.readRows t c.row (is.map (fun j => ((s.xr t (wRb w)).toNat + j * c.spitch) % 2 ^ 64)) [] s with
      | (.error st, s) => s.vecFault t st
      | (.ok rows, s) => (tags.zip rows).foldl (fun (s : State) x => match x.1 with
        | some (p, r) => s.putRow t c p r x.2
        | none => s) s

/-- An element of a staged row as binary32, with the flags of its widening (R364). -/
def Combine.elem (c : Combine) (row : List Byte) (e : Nat) : FRes :=
  if c.ibf then cvtFloat Fmt.bf16 Fmt.fp32 .rne 0 0 false (at' row (2 * e) 2) else (at' row (4 * e) 4, 0)

/-- The sum of the present ranks of an element, in rank order (R364). -/
def Combine.total (c : Combine) (rows : List (List Byte)) (e : Nat) : FRes :=
  match rows with
  | [] => (0, 0)
  | r :: rest => rest.foldl (fun (a : FRes) r =>
    let x := c.elem r e
    let y := Fmt.fp32.add .rne 0 a.1 x.1
    (y.1, a.2 ||| x.2 ||| y.2)) (c.elem r e)

/-- An element as the output format writes it. -/
def Combine.store (c : Combine) (x : FRes) : List Byte × FFlags :=
  if c.obf then (let y := cvtFloat Fmt.fp32 Fmt.bf16 .rne 0 0 false x.1
    (leBytes 2 y.1, x.2 ||| y.2)) else (leBytes 4 x.1, x.2)

/-- Sum one position, write its output row and clear its presence byte (R364). -/
def State.sumPos (s : State) (t : Nat) (c : Combine) (p : Nat) : State :=
  let (pb, s) := s.lsRead t (c.pres + p) 1
  let (rows, s) := ((List.range c.k).filter (fun r => (pb.getD 0 0).getLsbD r)).foldl (fun (a : List (List Byte) × State) r =>
    let (bs, s) := a.2.lsRead t (c.slot p r) c.row
    (a.1 ++ [bs], s)) ([], s)
  let out := (List.range c.elems).map (fun e => c.store (c.total rows e))
  let s := s.lsWrite t (c.out + p * c.opitch) (out.map (·.1)).flatten
  let s := s.lsWrite t (c.pres + p) [0]
  s.updLvu t (fun v => v.raise (out.foldl (fun f x => f ||| x.2) 0))

/-- VX_COMBINE_SUM (R364). -/
def State.vxCombineSumOp (s : State) (t : Nat) (w : BitVec 32) : State :=
  match s.ownRange t .store (s.xr t (wRd w)).toNat 64 with
  | (.error st, s) => s.vecFault t st
  | (.ok es, s) =>
    let (d, s) := s.ownRead t es
    let c := combineOf (bytesBv 512 d)
    let n := (s.xr t (wRb w)).toNat
    if c.cap < c.next + n ∨ !c.aligned ∨ !c.inside then s.vecFault t .notPermitted
    else
      let s := (List.range n).foldl (fun (s : State) i => s.sumPos t c (c.next + i)) s
      let (d, s) := s.ownRead t es
      s.ownWrite t es (bvBytes (setFld (bytesBv 512 d) 163 24 (c.next + n)))

end Sys2Proof.Machine
end

