-- ==== Sys2Proof/Machine/Matrix.lean ====
section
/-!
DEFINITION. The Matrix Unit and its accumulator memory (06_matrix_accumulation.md), with the drain's rules of 07_formats.md
(R172–R178, R183, R185–R190), each instruction as what the unit does when it takes it from its queue (R91).
-/

namespace Sys2Proof.Machine

/-! Formats (R140, R141, R143). -/

/-- The class of a format code (R141). -/
def mxClass (f : Nat) : Nat :=
  match f with
  | 0 | 1 => 0
  | 2 | 3 => 1
  | 4 | 5 => 2
  | 6 | 7 | 8 => 3
  | 9 => 4
  | _ => 5

/-- The element format of a code (R140). -/
def mxFmt (f : Nat) : Fmt :=
  match f with
  | 0 => Fmt.bf16
  | 1 => Fmt.fp16
  | 2 | 4 => Fmt.e4m3
  | 3 | 5 => Fmt.e5m2
  | 6 => Fmt.e3m2
  | 7 => Fmt.e2m3
  | 8 => Fmt.e2m1
  | 9 => Fmt.fp32
  | _ => Fmt.fp64

/-- True for the formats with block scales. -/
def isMx (f : Nat) : Bool := decide (4 ≤ f) && decide (f ≤ 8)

/-- The K-chunk of a format (R140). -/
def kChunk (f : Nat) : Nat :=
  match mxClass f with
  | 1 | 2 => 1024
  | 3 => 2048
  | 5 => 256
  | _ => 512

/-- Data bytes of a row or column (R143). -/
def mxData (f : Nat) : Nat :=
  match f with
  | 6 | 7 => 1536
  | 9 | 10 => 2048
  | _ => 1024

/-- Scale bytes of a row or column (R143). -/
def mxScales (f : Nat) : Nat :=
  match mxClass f with
  | 2 => 32
  | 3 => 64
  | _ => 0

/-- The row pitch (R143): an MXFP8 row ends in 32 bytes of padding. -/
def mxPitch (f : Nat) : Nat := if mxClass f = 2 then 1088 else mxData f + mxScales f

/-- The natural output pitch of an `OFMT` (table Output pitch). -/
def outPitch (f : Nat) : Nat :=
  match f with
  | 10 => 1024
  | 9 => 512
  | 0 | 1 => 256
  | 8 => 64
  | _ => 128

/-- Data bytes of an output row (table Output pitch). -/
def outData (f : Nat) : Nat := if f = 6 ∨ f = 7 then 96 else outPitch f

/-! Decoding (R86, R146, R153, R172). -/

def wOp (w : BitVec 32) : Nat := fld w 6 5

/-- The row of a matrix instruction (R86, R146, R153). -/
def matrixRow (w ext : BitVec 32) : Option SisRow :=
  let xa := wRd w
  let xb := wRa w
  let xc := wRb w
  let f := fld ext 0 4
  if wFn w ≠ 0 then none
  else match wOp w with
  | 0 => rowIf (decide (f ≤ 10) && fld ext 4 28 == 0) .mxLdw
  | 1 => rowIf (decide (f ≤ 10) && decide (fld ext 4 2 ≤ 1) && !bit ext 7 && (fld ext 4 2 == 1 || fld ext 6 26 == 0)) .mxRun
  | 2 =>
    let wide := bit ext 12
    rowIf (decide (f ≤ 10) && (f != 10 || wide) && (!wide || decide (9 ≤ f)) && fld ext 13 3 == 0
      && (fld ext 16 16 == 0 || decide (outPitch f ≤ 64 * fld ext 16 16)) && (isMx f || xc == 0)
      && (bit ext 8 || decide (fld ext 4 4 ≤ 5))) .mxDrain
  | 3 => rowIf (xa == 0 && ext == 0) .mxZero
  | 4 => rowIf (xa == 0 && xb == 0 && xc == 0 && ext == 0) .mxSwap
  | _ => none

/-- A matrix fault ends the pass and names the instruction (R105, R107, R145). -/
def State.mxFault (s : State) (t : Nat) (st : Status) : State := s.endPassTrap t st 0x12 (s.tile t).tsu.pc.toNat

def State.mxu (s : State) (t : Nat) : Mxu := (s.tile t).mxu
def State.updMxu (s : State) (t : Nat) (f : Mxu → Mxu) : State := s.updTile t (fun x => { x with mxu := f x.mxu })

/-- The ranges of an instruction, each in the tile's own Local Store; the first that fails names its status (R144, R145). -/
def State.ownRanges (t : Nat) (k : AccessKind) : List (Nat × Nat) → List (List Extent) → State → Except Status (List (List Extent)) × State
  | [], acc, s => (.ok acc.reverse, s)
  | (va, len) :: r, acc, s => match s.ownRange t k va len with
    | (.error st, s) => (.error st, s)
    | (.ok es, s) => State.ownRanges t k r (es :: acc) s

/-! The planes. -/

def Mxu.plane (m : Mxu) (one : Bool) : Plane := if one then m.plane1 else m.plane0
def Mxu.setPlane (m : Mxu) (one : Bool) (p : Plane) : Mxu := if one then { m with plane1 := p } else { m with plane0 := p }
/-- The active plane (R142, R148). -/
def Mxu.act (m : Mxu) : Plane := m.plane m.active

/-- A plane from the bytes of its columns, column 0 first (R147). -/
def planeOf (f : Nat) (cols : List (List Byte)) : Plane :=
  { loaded := true, fmt := BitVec.ofNat 4 f,
    cols := (cols.zipIdx).foldl (fun m c => SMap.put 0 m c.2 (bytesBv 16384 (c.1.take (mxData f)))) [],
    scales := (cols.zipIdx).foldl (fun m c => SMap.putMany 127 m (c.2 * 64) (slice c.1 (mxData f) (mxScales f))) [] }

/-- The bytes of a row or column that are read: its elements and its scale bytes, not its padding (R143). -/
def mxBytes (f : Nat) : Nat := mxData f + mxScales f

/-- MX_LDW (R147, R152). -/
def State.mxLdwOp (s : State) (t : Nat) (w ext : BitVec 32) : State :=
  let f := fld ext 0 4
  let base := (s.xr t (wRd w)).toNat
  let n := (s.xr t (wRa w)).toNat
  let given := (s.xr t (wRb w)).toNat
  let pitch := if given = 0 then mxPitch f else given
  if n = 0 then s
  else if 128 < n ∨ pitch % 64 ≠ 0 ∨ pitch < mxPitch f then s.mxFault t .notPermitted
  else match State.ownRanges t .load ((List.range n).map (fun c => (base + c * pitch, mxBytes f))) [] s with
    | (.error st, s) => s.mxFault t st
    | (.ok ess, s) =>
      let (cols, s) := ess.foldl (fun (r : List (List Byte) × State) es =>
        let (bs, s) := r.2.ownRead t es
        (bs :: r.1, s)) ([], s)
      s.updMxu t (fun m => m.setPlane (!m.active) (planeOf f cols.reverse))

/-- MX_SWAP (R148). -/
def State.mxSwapOp (s : State) (t : Nat) : State := s.updMxu t (fun m => { m with active := !m.active })

/-! The accumulator memory (R149, R151, R157). -/

/-- Check a word of a valid row before a read (R157, R501, R507). R492 gives a record the physical address concerned, which the ACM does not
have: `ADDR` is the row × 64 + word, as a check-split window names it (log entry 126). -/
def State.acmCheck (s : State) (t key : Nat) (scrub : Bool) : State :=
  let m := s.mxu t
  match SMap.get none m.chk key with
  | none => s
  | some c =>
    if !SMap.get false m.rowValid (key / 64) then s
    else
      let d := SMap.get 0 m.acm key
      let syn := c.1 ^^^ secdedEncode d
      let r := eccRec 0x0206 key c syn scrub
      match secdedFind syn with
      | .clean => s
      | .double => s.eccFatal t (2 ^ 21 + key) r
      | f => (s.updMxu t (fun m => { m with acm := SMap.put 0 m.acm key (secdedFix d f), chk := SMap.put none m.chk key none })).tileMasked t r

/-- Check the words of `n` rows from `row` whose check bits are not those of their data as last written. -/
def State.acmCheckRows (s : State) (t row n : Nat) (scrub : Bool) : State :=
  (((s.mxu t).chk.filter (fun e => decide (64 * row ≤ e.1) && decide (e.1 < 64 * (row + n)))).map (·.1)).foldl
    (fun s k => s.acmCheck t k scrub) s

/-- The 64 words of a row: +0 in every column where the row is invalid (R157). -/
def Mxu.rowWords (m : Mxu) (row : Nat) : List Word :=
  if SMap.get false m.rowValid row then SMap.getMany 0 m.acm (64 * row) 64 else List.replicate 64 0

/-- Write a whole row and set its valid bit (R157). -/
def Mxu.setRow (m : Mxu) (row : Nat) (ws : List Word) : Mxu :=
  { m with
    acm := SMap.putMany 0 m.acm (64 * row) ws, rowValid := SMap.put false m.rowValid row true,
    chk := SMap.clearRange m.chk (64 * row) 64 }

/-- Clear the valid bit of a row; its stored bits stay (R151, R506). -/
def Mxu.clearRow (m : Mxu) (row : Nat) : Mxu := { m with rowValid := SMap.put false m.rowValid row false }

/-- The 128 accumulators of an output row: one row of binary32 or a pair of rows of binary64 (R149). -/
def Mxu.out (m : Mxu) (wide : Bool) (row : Nat) : List Nat :=
  if wide then (m.rowWords row ++ m.rowWords (row + 1)).map BitVec.toNat
  else ((m.rowWords row).map (fun x => [x.toNat % 2 ^ 32, x.toNat / 2 ^ 32])).flatten

/-- Pairs of binary32 values as words. -/
def pairWords : List Nat → List Word
  | a :: b :: r => BitVec.ofNat 64 (a % 2 ^ 32 + b * 2 ^ 32) :: pairWords r
  | [a] => [BitVec.ofNat 64 a]
  | [] => []

/-- Write an output row (R149). -/
def Mxu.setOut (m : Mxu) (wide : Bool) (row : Nat) (vs : List Nat) : Mxu :=
  if wide then (m.setRow row ((vs.take 64).map (BitVec.ofNat 64))).setRow (row + 1) ((vs.drop 64).map (BitVec.ofNat 64))
  else m.setRow row (pairWords vs)

/-- MX_ZERO (R151, R152). -/
def State.mxZeroOp (s : State) (t : Nat) (w : BitVec 32) : State :=
  let row := (s.xr t (wRa w)).toNat
  let n := (s.xr t (wRb w)).toNat
  if n = 0 then s
  else if 4096 < row + n then s.mxFault t .notPermitted
  else s.updMxu t (fun m => (List.range n).foldl (fun m i => m.clearRow (row + i)) m)

/-! Summation (R159–R162, R185). -/

/-- Element k of a row's data as an encoding (R170). -/
def mxElem (f : Nat) (data : Nat) (k : Nat) : Nat :=
  let b := (mxFmt f).width
  data / 2 ^ (b * k) % 2 ^ b

/-- The accumulation format: binary64 for FP64, else binary32 (R159). -/
def accFmt (f : Nat) : Fmt := if f = 10 then Fmt.fp64 else Fmt.fp32

/-- A leaf: the product of an A-row element and a weight (R160, R185). -/
def mxLeaf (fa fb : Nat) (a b : Nat) : FRes := (accFmt fa).finish .rne 0 (mulVal ((mxFmt fa).decode a) ((mxFmt fb).decode b))

/-- An addition of the array, with the flags of both sides (R159). -/
def mxAdd (f : Fmt) (a b : FRes) : FRes :=
  let r := f.add .rne 0 a.1 b.1
  (r.1, a.2 ||| b.2 ||| r.2)

/-- The scale step of an MX node (R160, R170). -/
def mxScale (sa sb : Nat) (v : FRes) : FRes :=
  if sa = 255 ∨ sb = 255 then (Fmt.fp32.nan, v.2)
  else
    let r := Fmt.fp32.ofVal .rne 0 0 false (match Fmt.fp32.decode v.1 with
      | .fin s m e => .fin s m (e + sa + sb - 254)
      | x => x)
    (r.1, v.2 ||| r.2)

/-- One level of the tree. -/
def mxLevel (f : Fmt) : List FRes → List FRes
  | a :: b :: r => mxAdd f a b :: mxLevel f r
  | l => l

/-- The first argument's number of levels of the tree. -/
def mxTree (f : Fmt) : Nat → List FRes → List FRes
  | 0, l => l
  | k + 1, l => mxTree f k (mxLevel f l)

/-- The chunk sum of a column (R159): `a` is the A-row's data and `sa` its scale bytes. -/
def chunkSum (fa : Nat) (p : Plane) (a : Nat) (sa : List Nat) (col : Nat) : FRes :=
  let fb := p.fmt.toNat
  let b := (SMap.get 0 p.cols col).toNat
  let k := kChunk fa
  let leaves := (List.range k).map (fun i => mxLeaf fa fb (mxElem fa a i) (mxElem fb b i))
  let f := accFmt fa
  let l := if isMx fa then
      mxTree f (k.log2 - 5) ((mxTree f 5 leaves).mapIdx (fun i v => mxScale (sa.getD i 127) (SMap.get 127 p.scales (64 * col + i)).toNat v))
    else mxTree f k.log2 leaves
  l.headD (0, 0)

/-- Trailing one bits of a chunk number: the levels combined in the first loop of R162. -/
def trailing : Nat → Nat → Nat
  | 0, _ => 0
  | k + 1, c => if c % 2 = 1 then 1 + trailing k (c / 2) else 0

/-- The levels a tree run reads, in order, and the level it writes unless `FINAL` (R162). -/
def treeLevels (c : Nat) (final : Bool) : List Nat × Option Nat :=
  let l := trailing 13 c
  let low := List.range l
  if final then (low ++ ((List.range 12).filter (fun m => decide (l < m) && c / 2 ^ m % 2 == 1)), none) else (low, some l)

/-- Add one row of values to another, value by value. -/
def addRows (f : Fmt) (old : List Nat) (new : List FRes) : List FRes := (old.zip new).map (fun p => mxAdd f (p.1, 0) p.2)

/-- The operands of a run as the extension word gives them (R146). -/
structure RunOp where
  fmt : Nat
  tree : Bool
  final : Bool
  chunk : Nat
  spare : Nat
  row : Nat
  rows : Nat
  deriving DecidableEq, Repr

def RunOp.wide (r : RunOp) : Bool := r.fmt == 10
/-- ACM rows of one output row. -/
def RunOp.step (r : RunOp) : Nat := if r.wide then 2 else 1
/-- The first ACM row of output row i. -/
def RunOp.outRow (r : RunOp) (i : Nat) : Nat := r.row + r.step * i
/-- The first ACM row of the spare row of level l for output row i (R162). -/
def RunOp.spareRow (r : RunOp) (l i : Nat) : Nat := r.spare + r.step * (l * r.rows + i)

/-- A run's operands from its words and registers. -/
def State.runOp (s : State) (t : Nat) (w ext : BitVec 32) : RunOp :=
  ⟨fld ext 0 4, bit ext 4, bit ext 6, fld ext 8 12, fld ext 20 12, (s.xr t (wRa w)).toNat, (s.xr t (wRb w)).toNat⟩

/-- The checks of R141 and R152 on a run. -/
def RunOp.ok (r : RunOp) (p : Plane) : Bool :=
  let (read, wr) := treeLevels r.chunk r.final
  let levels := if r.tree then read ++ wr.toList else []
  let hi := r.row + r.step * r.rows
  p.loaded && mxClass p.fmt.toNat == mxClass r.fmt && decide (hi ≤ 4096) && (!r.wide || r.row % 2 == 0)
    && levels.all (fun l =>
      let a := r.spareRow l 0
      let b := a + r.step * r.rows
      decide (b ≤ 4096) && (decide (b ≤ r.row) || decide (hi ≤ a)) && (!r.wide || r.spare % 2 == 0))

/-- Update the ACM for A-row i with its 128 chunk sums (R161, R162). -/
def State.accumulate (s : State) (t : Nat) (r : RunOp) (i : Nat) (sums : List FRes) : State :=
  let f := accFmt r.fmt
  let (read, wr) := treeLevels r.chunk r.final
  let srcs := if r.tree then read.map (fun l => r.spareRow l i) else [r.outRow i]
  let s := srcs.foldl (fun (s : State) a => s.acmCheckRows t a r.step false) s
  let m := s.mxu t
  if !s.running t then s
  else
  let vs := srcs.foldl (fun v a => addRows f (m.out r.wide a) v) sums
  let dst := if r.tree then (match wr with
      | some l => r.spareRow l i
      | none => r.outRow i) else r.outRow i
  s.updMxu t (fun m => { m.setOut r.wide dst (vs.map (·.1)) with flags := m.flags ||| vs.foldl (fun f v => f ||| v.2) 0 })

/-- Stream one A-row through the active plane. -/
def State.runRow (s : State) (t : Nat) (r : RunOp) (i : Nat) (es : List Extent) : State :=
  if !s.running t then s
  else
    let (bs, s) := s.ownRead t es
    let a := leNat (bs.take (mxData r.fmt))
    let sa := (bs.drop (mxData r.fmt)).map BitVec.toNat
    let p := (s.mxu t).act
    s.accumulate t r i ((List.range 128).map (chunkSum r.fmt p a sa))

/-- MX_RUN (R141, R145, R149, R152, R159–R163). -/
def State.mxRunOp (s : State) (t : Nat) (w ext : BitVec 32) : State :=
  let r := s.runOp t w ext
  let base := (s.xr t (wRd w)).toNat
  if r.rows = 0 then s
  else if 4096 < r.rows ∨ !r.ok (s.mxu t).act then s.mxFault t .notPermitted
  else match State.ownRanges t .load ((List.range r.rows).map (fun i => (base + i * mxPitch r.fmt, mxBytes r.fmt))) [] s with
    | (.error st, s) => s.mxFault t st
    | (.ok ess, s) => ess.zipIdx.foldl (fun (s : State) e => s.runRow t r e.2 e.1) s

/-! The drain (R150, R166, R172–R178, R183, R186–R190). -/

/-- The operands of a drain. -/
structure DrainOp where
  fmt : Nat
  rm : RMode
  sat : Bool
  clear : Bool
  stats : Bool
  wide : Bool
  flush : Nat
  deriving DecidableEq, Repr

/-- What draining elements does beside their bytes: flags, and the counts of R189. -/
structure DrainEff where
  flags : FFlags := 0
  sat : Nat := 0
  flushed : Nat := 0
  nan : Nat := 0
  deriving DecidableEq, Repr

def DrainEff.add (a b : DrainEff) : DrainEff := ⟨a.flags ||| b.flags, a.sat + b.sat, a.flushed + b.flushed, a.nan + b.nan⟩

/-- The format a drain reads. -/
def DrainOp.src (d : DrainOp) : Fmt := if d.wide then Fmt.fp64 else Fmt.fp32

/-- True for a finite value other than zero. -/
def FVal.finNonzero : FVal → Bool
  | .fin _ m _ => m != 0
  | _ => false

/-- A magnitude of zero. -/
def Fmt.zeroMag (f : Fmt) (x : Nat) : Bool := x % 2 ^ (f.ebits + f.mbits) == 0

/-- An element of an `OFMT` without block scales (R166, R178, R183, R189). -/
def DrainOp.plain (d : DrainOp) (g x : Nat) : Nat × DrainEff :=
  let f := mxFmt d.fmt
  let v := d.src.decode x
  let r := f.ofVal d.rm g (if d.fmt = 10 then 0 else min d.flush 1) d.sat v
  (r.1, ⟨r.2, b2n (r.2 &&& flOF != 0), b2n (v.finNonzero && f.zeroMag r.1), b2n v.isNan⟩)

/-- ⌊log2⌋ of the largest magnitude of a block; none where every value is zero. -/
def blockLog (vs : List FVal) : Option Int :=
  vs.foldl (fun a v => match v with
    | .fin _ m e => if m = 0 then a else (match a with
      | some x => if x < lgVal m e then some (lgVal m e) else a
      | none => some (lgVal m e))
    | _ => a) none

/-- The exponent of the largest finite value of an MX element type (R186). -/
def mxTop (f : Nat) : Int :=
  match f with
  | 4 => 8
  | 5 => 15
  | 6 => 4
  | _ => 2

/-- The unclamped scale of a block (R186). -/
def mxScaleOf (f : Nat) (vs : List FVal) : Int :=
  match blockLog vs with
  | none => 0
  | some l => l - mxTop f + 127

/-- The largest finite FP32 value in place of an infinity (R186). -/
def replaceInf (v : FVal) : FVal :=
  match v with
  | .inf s => .fin s (2 ^ 24 - 1) 104
  | x => x

/-- A block of 32 elements: its scale byte, its elements and what it does beside (R186, R187, R189). -/
def DrainOp.block (d : DrainOp) (gs : List Nat) (xs : List Nat) : Nat × List Nat × DrainEff :=
  let f := mxFmt d.fmt
  let raw := xs.map d.src.decode
  let infs := (raw.filter (fun v => match v with
    | .inf _ => true
    | _ => false)).length
  let nans := (raw.filter FVal.isNan).length
  if nans ≠ 0 ∨ (infs ≠ 0 ∧ !d.sat) then
    (255, xs.map (fun _ => 0), { nan := nans, flags := if d.sat && infs != 0 then flOF ||| flNX else 0, sat := if d.sat then infs else 0 })
  else
    let vs := raw.map replaceInf
    let u := mxScaleOf d.fmt vs
    let sc : Nat := if u < 0 then 0 else min u.toNat 254
    let clamped := decide (254 < u)
    let els := (vs.zip gs).map (fun p =>
      let v := match p.1 with
        | .fin s m e => FVal.fin s m (e + 127 - sc)
        | x => x
      let r := f.ofVal d.rm p.2 (min d.flush 1) true v
      let tooBig := r.2 &&& flOF != 0
      let fl := if tooBig && !clamped then r.2 &&& ~~~flOF else r.2
      (r.1, (⟨fl, b2n (tooBig && clamped), b2n (v.finNonzero && f.zeroMag r.1), 0⟩ : DrainEff)))
    (sc, els.map (·.1), (els.map (·.2)).foldl DrainEff.add { sat := infs, flags := if infs ≠ 0 then flOF ||| flNX else 0 })

/-- The blocks of a row of values. The first argument counts them. -/
def DrainOp.blocks (d : DrainOp) : Nat → List Nat → List Nat → List (Nat × List Nat × DrainEff)
  | 0, _, _ => []
  | k + 1, gs, xs => d.block (gs.take 32) (xs.take 32) :: d.blocks k (gs.drop 32) (xs.drop 32)

/-- A drained row: its data bytes, its scale bytes and what it does beside. -/
def DrainOp.row (d : DrainOp) (gs : List Nat) (xs : List Nat) : List Byte × List Byte × DrainEff :=
  if isMx d.fmt then
    let bs := d.blocks 4 gs xs
    (leBytes (outData d.fmt) (joinW (mxFmt d.fmt).width (bs.map (·.2.1)).flatten), bs.map (fun b => BitVec.ofNat 8 b.1),
     (bs.map (·.2.2)).foldl DrainEff.add {})
  else
    let es := (xs.zip gs).map (fun p => d.plain p.2 p.1)
    (leBytes (outData d.fmt) (joinW (mxFmt d.fmt).width (es.map (·.1))), [], (es.map (·.2)).foldl DrainEff.add {})

/-- Add a row's statistics (R188–R190). -/
def Mxu.count (m : Mxu) (d : DrainOp) (xs : List Nat) (e : DrainEff) : Mxu :=
  let m := { m with flags := m.flags ||| e.flags }
  if d.stats then
    { m with
      stats := true, sat := BitVec.ofNat 32 (satAdd 32 m.sat.toNat e.sat), flush := BitVec.ofNat 32 (satAdd 32 m.flush.toNat e.flushed),
      nan := BitVec.ofNat 32 (satAdd 32 m.nan.toNat e.nan),
      hist := xs.foldl (fun h x => SMap.upd 0 h (histBin d.src x) (fun c => BitVec.ofNat 32 (satAdd 32 c.toNat 1))) m.hist }
  else m

/-- Drain one output row to its places (R166). -/
def State.drainRow (s : State) (t : Nat) (d : DrainOp) (row : Nat) (gs : List Nat) (pad : Nat) (out sc : List Extent) : State :=
  if !s.running t then s
  else
    let n := if d.wide then 2 else 1
    let s := s.acmCheckRows t row n false
    if !s.running t then s
    else
      let xs := (s.mxu t).out d.wide row
      let (bytes, scales, e) := d.row gs xs
      let s := s.updMxu t (fun m =>
        let m := m.count d xs e
        if d.clear then (List.range n).foldl (fun m i => m.clearRow (row + i)) m else m)
      (s.ownWrite t out (bytes ++ zeros pad)).ownWrite t sc scales

/-- The base registers of a drain with the alignment that R144 asks of each. -/
def drainBases (w ext : BitVec 32) : List (Nat × Nat) :=
  let f := fld ext 0 4
  (wRd w, if f = 6 ∨ f = 7 then 32 else 64) :: (if isMx f then [(wRb w, 4)] else [])

/-- MX_DRAIN (R144, R145, R150, R152, R166, R172, R176, R177). The spec does not say whether a drain under SR that rounds nothing (FP32 to
FP32, FP64 to FP64) is one for R176 and R177; here it is, and needs the seed and advances the counter (log entry 127). Nor does it order the
check for the seed against the faults of the drain's ranges: the seed comes first (log entry 65). -/
def State.mxDrainOp (s : State) (t : Nat) (w ext : BitVec 32) (u : Upset) : State :=
  let f := fld ext 0 4
  match (s.tile t).run with
  | none => s
  | some run =>
    let rm := if bit ext 8 then (s.tile t).tsu.rmode else (rmOf (fld ext 4 4)).getD .rne
    let d : DrainOp := ⟨f, rm, bit ext 9, bit ext 10, bit ext 11, bit ext 12, run.flush⟩
    let x := s.xr t (wRa w)
    let row := fld x 0 12
    let n := fld x 16 13
    let per := if d.wide then 2 else 1
    let op := fld ext 16 16
    let pitch := if op = 0 then outPitch f else 64 * op
    let pad := if op = 0 then outPitch f - outData f else 0
    let base := (s.xr t (wRd w)).toNat
    let sbase := (s.xr t (wRb w)).toNat
    if n = 0 then s
    else if 4096 < row + per * n ∨ (d.wide && row % 2 == 1) ∨ (rm = .sr ∧ run.seed = none) then s.mxFault t .notPermitted
    else
      let (outs, s) := State.ownRanges t .store ((List.range n).map (fun i => (base + i * pitch, outData f + pad))) [] s
      let (scs, s) := State.ownRanges t .store (if isMx f then (List.range n).map (fun i => (sbase + i * pitch, 4)) else []) [] s
      match outs, scs with
      | .error st, _ => s.mxFault t st
      | _, .error st => s.mxFault t st
      | .ok outs, .ok scs =>
        if rm = .sr ∧ u = .grainMismatch then s.tileFatal t (mkRec 0x0105 1)
        else
          let g0 := (s.mxu t).grain
          let draws (i : Nat) : List Nat := match rm, run.seed with
            | .sr, some seed => (List.range 128).map (fun j => run.draw seed 1 (g0 + 128 * i + j))
            | _, _ => List.replicate 128 0
          let s := outs.zipIdx.foldl (fun (s : State) o => s.drainRow t d (row + per * o.2) (draws o.2) pad o.1 (scs.getD o.2 [])) s
          if rm = .sr then s.updMxu t (fun m => { m with grain := (g0 + 128 * n) % 2 ^ 33 }) else s

end Sys2Proof.Machine
end

