-- ==== Sys2Proof/Machine/Sis.lean ====
section
/-!
DEFINITION. What every instruction of a tile has in common: the checks at issue, the vector and matrix queues (R91–R95, R107), the audit lane
and column (R138, R164), the tokens (R44), the lockstep twin (R110, R111) and the common step (R80, R86).
-/

namespace Sys2Proof.Machine

/-! The checks at issue. -/

/-- The element width in force where the TSU issues: that of the last `setvl`, queued or taken (R92, R118, R130). -/
def Tile.issueSew (x : Tile) : Lvu :=
  x.queue.foldl (fun v q => if q.row = .setvl then { v with sew := BitVec.ofNat 2 (wFn q.w), falt := BitVec.ofNat 2 (wFn q.w / 4) } else v) x.lvu

/-- Where a vector or matrix instruction traps at issue: the cause and `TCR_TVAL`. The element width comes before the alignment
(R118, R121, R122, R130, R132, R136, R144, R359, R361, R363). -/
def State.issueTrap (s : State) (t : Nat) (w ext : BitVec 32) (row : SisRow) : Option (Nat × Word) :=
  let v := (s.tile t).issueSew
  let ill : Option (Nat × Word) := some (0x01, w.zeroExtend 64)
  let need (ok : Bool) : Option (Nat × Word) := if ok then none else ill
  let base (r n : Nat) : Option (Nat × Word) := if (s.xr t r).toNat % n ≠ 0 then some (0x05, s.xr t r) else none
  let mem (n : Nat) : Option (Nat × Word) := if v.sew.toNat < wMew w then ill else base (wRa w) n
  let src := cvtFmt (wFn w)
  match row with
  | .vectorFloat | .vfcvtInteger => need v.wide
  | .vfcvtFrom | .vfcvtTo => need (v.wide && decide (src.width < v.w))
  | .vectorReduction => need (decide (wFn w < 8) || v.wide)
  | .vld | .vst => mem 256
  | .vldu | .vldFf | .vstu => mem (mewBytes w)
  | .vlx | .vsx => mem 1
  | .vlmVsm => base (wRa w) 256
  | .vxDeal => if v.sew = 2 then base (wRd w) 64 else ill
  | .vxCombinePut => if v.sew = 3 then base (wRd w) 64 else ill
  | .vxCombineSum => base (wRd w) 64
  | .mxLdw | .mxRun => base (wRd w) 64
  | .mxDrain => ((drainBases w ext).find? (fun b => (s.xr t b.1).toNat % b.2 != 0)).map (fun b => (0x05, s.xr t b.1))
  | _ => none

/-! What the units do. -/

/-- The rows that change nothing while VL is 0 (R117). -/
def SisRow.byLength : SisRow → Bool
  | .vld | .vldu | .vldFf | .vlx | .vst | .vstu | .vsx | .vectorInteger | .vmerge | .vectorCompare | .vectorFloat
  | .vfcvtFrom | .vfcvtTo | .vfcvtInteger | .vlmVsm | .vectorPermutation | .vxDeal | .vxCombinePut | .vxCombineSum => true
  | _ => false

/-- The effect of a vector or matrix instruction when its unit takes it (R91). -/
def State.unitOp (s : State) (t : Nat) (w ext : BitVec 32) (u : Upset) (row : SisRow) : State :=
  if row.byLength && (s.lvu t).vl == 0 then s
  else match row with
    | .setvl => s.setvlOp t w
    | .vgetvl => s.vgetvlOp t w
    | .vld => s.vldOp t w
    | .vldu => s.vlduOp t w
    | .vldFf => s.vldFfOp t w
    | .vlx => s.vlxOp t w
    | .vst => s.vstOp t w
    | .vstu => s.vstuOp t w
    | .vsx => s.vsxOp t w
    | .vectorInteger => s.vectorIntegerOp t w
    | .vmerge => s.vmergeOp t w
    | .vectorCompare => s.vectorCompareOp t w
    | .vectorFloat => s.vectorFloatOp t w
    | .vfcvtFrom => s.vfcvtFromOp t w
    | .vfcvtTo => s.vfcvtToOp t w u
    | .vfcvtInteger => s.vfcvtIntegerOp t w
    | .maskLogic => s.maskLogicOp t w
    | .kpopcKfirst => s.kpopcKfirstOp t w
    | .vlmVsm => s.vlmVsmOp t w
    | .vectorReduction => s.vectorReductionOp t w
    | .vectorScalarMove => s.vectorScalarMoveOp t w
    | .vectorPermutation => s.vectorPermutationOp t w
    | .vxDeal => s.vxDealOp t w
    | .vxCombinePut => s.vxCombinePutOp t w
    | .vxCombineSum => s.vxCombineSumOp t w
    | .mxLdw => s.mxLdwOp t w ext
    | .mxRun => s.mxRunOp t w ext
    | .mxDrain => s.mxDrainOp t w ext u
    | .mxZero => s.mxZeroOp t w
    | .mxSwap => s.mxSwapOp t
    | _ => s

/-- The register that a vector instruction writes beside `setvl`: whether it is an F register, and its number (R93). -/
def unitDest (row : SisRow) (w : BitVec 32) : Option (Bool × Nat) :=
  match row with
  | .vgetvl | .kpopcKfirst => some (false, wRd w)
  | .vectorReduction => some (decide (8 ≤ wFn w), wRd w)
  | .vectorScalarMove => if wFn w = 0x10 then some (false, wRd w) else if wFn w = 0x12 then some (true, wRd w) else none
  | _ => none

/-! Steps, beats and the audits (R137, R138, R156, R164, R365). -/

/-- The 256-byte blocks that a unit-stride range touches. -/
def blocks256 (base len : Nat) : Nat := if len = 0 then 0 else (base % 256 + len + 255) / 256

/-- The port blocks of a combine row (R362). -/
def Combine.ports (c : Combine) : Nat := ceilDiv c.row 256

/-- The steps that the LVU takes over an instruction (R137, R365); `setvl` takes none of its own. -/
def State.lvuSteps (s : State) (t : Nat) (w : BitVec 32) (row : SisRow) : Nat :=
  let v := s.lvu t
  let g := max 1 (ceilDiv (v.vl * v.w) 2048)
  let a := (v.actives w).length
  let unit := max g (blocks256 (s.xr t (wRa w)).toNat (v.vl * mewBytes w))
  let c := combineOf (bytesBv 512 (s.lsBytes t ((s.xr t (wRd w)).toNat % 2 ^ 24) 64))
  if row.byLength && v.vl == 0 then 1
  else match row with
    | .setvl => 0
    | .vectorFloat => if wFn w % 32 = 3 then 16 * g else if wFn w % 32 = 4 then 20 * g else g
    | .vld | .vldu | .vldFf | .vst | .vstu => unit
    | .vlx | .vsx => max g (ceilDiv a 8)
    | .vlmVsm | .vectorScalarMove | .vgetvl | .kpopcKfirst => 1
    | .vectorReduction => if wFn w < 8 then g + v.max.log2 else g + 4 * v.max.log2
    | .vectorPermutation => 2 * g
    | .vxDeal => g + a
    | .vxCombinePut => (2 * c.ports + 1) * a
    | .vxCombineSum => ((c.k + 1) * c.ports + 1) * (s.xr t (wRb w)).toNat
    | _ => g

/-- The beats that the array takes over a run: 1.5 for an A-row of MXFP6, 16 for FP32 and 32 for FP64 (R140, R156). -/
def State.mxBeats (s : State) (t : Nat) (w ext : BitVec 32) (row : SisRow) : Nat :=
  let n := (s.xr t (wRb w)).toNat
  match row with
  | .mxRun =>
    (match fld ext 0 4 with
     | 6 | 7 => ceilDiv (3 * n) 2
     | 9 => 16 * n
     | 10 => 32 * n
     | _ => n)
  | _ => 0

/-- The rows whose results the audit lane recomputes; the health pass covers permutation and mask logic (R138). -/
def SisRow.audited : SisRow → Bool
  | .vld | .vldu | .vldFf | .vlx | .vst | .vstu | .vsx | .vlmVsm | .vectorInteger | .vmerge | .vectorCompare | .vectorFloat
  | .vfcvtFrom | .vfcvtTo | .vfcvtInteger | .vectorReduction | .vxCombineSum => true
  | _ => false

/-- True where the audit lane or column reports at step or beat `k` of an instruction: at position 32 of the LVU's rotation on any step, at the
other positions on an audited row (R138); at every beat of a run, for column b mod 128 (R164). -/
def State.auditAt (s : State) (t : Nat) (w ext : BitVec 32) (row : SisRow) (k : Nat) : Bool :=
  if row.matrix then decide (k < s.mxBeats t w ext row)
  else decide (k < s.lvuSteps t w row) && (row.audited || (s.lvu t).steps % 33 + k % 33 == 32 || (s.lvu t).steps % 33 + k % 33 == 65)

/-- The unit of a row has taken its steps of the LVU, or its beats of the array (R137, R156). -/
def State.stepped (s : State) (t : Nat) (row : SisRow) (steps beats : Nat) : State :=
  s.updTile t (fun x => if row.matrix then { x with mxu := { x.mxu with beats := x.mxu.beats + beats } }
    else { x with lvu := { x.lvu with steps := x.lvu.steps + steps } })

/-- A unit takes an instruction: the audits compare, else it has its effect and its steps or beats are counted (R139, R165; log entry 128). -/
def State.unitStep (s : State) (t : Nat) (w ext : BitVec 32) (u : Upset) (row : SisRow) : State :=
  let caught := match u with
    | .audit k => s.auditAt t w ext row k
    | _ => false
  if caught then s.tileFatal t (mkRec (if row.matrix then 0x0103 else 0x0102) 1)
  else (s.unitOp t w ext u row).stepped t row (s.lvuSteps t w row) (s.mxBeats t w ext row)

/-! The queues (R91–R95). -/

/-- The units whose step an instruction of a queue takes (R44). -/
def unitTokens (row : SisRow) : List TileUnit := if row.matrix then [.mxu, .acm] else [.lvu]

/-- Run the oldest queued instruction with the operands it carries; its result goes to the registers as they are now (R91, R93). -/
def State.runQueued (s : State) (t : Nat) (q : QEntry) : State :=
  let now := (s.tile t).tsu
  let s := s.updTile t (fun x => { x with queue := x.queue.tail, tsu := { q.tsu with fflags := now.fflags } })
  let s := (s.spend t (unitTokens q.row)).unitStep t q.w q.ext .none q.row
  s.updTsu t (fun r => match unitDest q.row q.w with
    | some (false, d) => now.setX d (r.xr d)
    | some (true, d) => now.setF d (r.fr d)
    | none => now)

/-- Run the queued instructions in program order while their units have tokens and the pass goes on. The first argument bounds them. -/
def State.drainQueue : Nat → Nat → State → State
  | 0, _, s => s
  | k + 1, t, s =>
    match (s.tile t).queue with
    | [] => s
    | q :: _ => if s.running t && s.maySpend t (unitTokens q.row) then State.drainQueue k t (s.runQueued t q) else s

/-- The rows that neither touch memory nor read what the units hold, so that they pass a queue that its units have not begun. -/
def SisRow.passes : SisRow → Bool
  | .integerAlu | .aluImmediate | .shiftImmediate | .movhi | .pcrel | .multiplyDivide | .branch | .jl | .jlr
  | .trap | .tret | .rdtime | .brk | .fpArithmetic | .fpSign | .fpFused | .fpConversion | .fkind => true
  | _ => false

/-- The rows that issue into a queue. -/
def SisRow.queued (row : SisRow) : Bool :=
  row.matrix || match row with
    | .setvl | .vgetvl | .vld | .vldu | .vldFf | .vlx | .vst | .vstu | .vsx | .vectorInteger | .vmerge | .vectorCompare | .vectorFloat
    | .vfcvtFrom | .vfcvtTo | .vfcvtInteger | .maskLogic | .kpopcKfirst | .vlmVsm | .vectorReduction | .vectorScalarMove
    | .vectorPermutation | .vxDeal | .vxCombinePut | .vxCombineSum => true
    | _ => false

/-- The queue of an instruction has no free slot (R91). -/
def Tile.full (x : Tile) (row : SisRow) : Bool :=
  let n := (x.queue.filter (fun q => q.row.matrix == row.matrix)).length
  row.queued && (if row.matrix then decide (16 ≤ n) else decide (32 ≤ n))

/-- A queued instruction writes a scalar register, which is pending (R93). -/
def Tile.pendingReg (x : Tile) : Bool := x.queue.any (fun q => (unitDest q.row q.w).isSome)

/-- True where an instruction can issue with the queues as they stand: none but a row that passes or queues leaves anything in them, and
none passes a pending register or finds its queue full (R82, R91–R95). -/
def Tile.open' (x : Tile) (row : SisRow) : Bool :=
  x.queue.isEmpty || ((row.passes || row.queued) && !x.pendingReg && !x.full row)

/-- The units work through the queues before an instruction, unless they stay busy and it can go without (R91, R107). -/
def State.unitsFirst (s : State) (t : Nat) (u : Upset) (row : SisRow) : State :=
  if u = .busy && (s.tile t).open' row then s else State.drainQueue 48 t s

/-- Issue a vector or matrix instruction: its unit takes it at once where nothing is queued ahead and it is free to step, else it waits in its
queue. `setvl` writes its scalar result at issue (R91, R92). -/
def State.issue (s : State) (t : Nat) (w ext : BitVec 32) (u : Upset) (row : SisRow) : State :=
  let vl := setvlLen w (s.xr t (wRa w))
  let s :=
    if (s.tile t).queue.isEmpty && u != .busy && s.maySpend t (unitTokens row) then (s.spend t (unitTokens row)).unitStep t w ext u row
    else s.updTile t (fun x => { x with queue := x.queue ++ [{ row := row, w := w, ext := ext, tsu := x.tsu }] })
  if row = .setvl then s.setX t (wRd w) (BitVec.ofNat 64 vl) else s

/-! The common step. -/

/-- How an instruction's own effect ends. -/
inductive Flow where
  | next
  | jump (pc : Word)
  | trap (cause : Nat) (tval : Word)
  | done
  deriving DecidableEq, Repr

/-- The units that step for an instruction of the TSU itself (R44). -/
def SisRow.units : SisRow → List TileUnit
  | .load | .store | .atomic | .pdone | .fenceRel | .fenceAcq | .fenceRelAll | .fenceAcqAll | .cpf | .cwb | .cwbi | .czero | .iinv
  | .iinvAll => [.tsu, .l1]
  | _ => [.tsu]

/-- Retire an instruction: the next PC and the count of `TCR_RETIRED`. -/
def State.retire (s : State) (t : Nat) (pc : Word) : State :=
  s.updTile t (fun x => { x with tsu := { x.tsu with pc := pc, retired := x.tsu.retired + 1 } })

/-- What ends an instruction of word `w` once its own effect is `r`: it retires, jumps or traps, unless its tile has stopped or its pass has
ended. -/
def State.finish (t : Nat) (w : BitVec 32) (pc : Word) (r : Flow × State) : State :=
  if !r.2.running t then r.2
  else match r.1 with
    | .next => r.2.retire t (pc + (if wMajor w = 0x38 then 8 else 4))
    | .jump p => r.2.retire t p
    | .trap c v => r.2.trapT t c v
    | .done => r.2

/-- The TSU begins an instruction whose word decoded so: the twin compares its outputs (R110, R111), the PC must be aligned (R85) and the word
legal (R86). R105 names no cause for an instruction at a PC that is no multiple of 4, which only `tret` to such a `TCR_EPC` reaches: it raises
MISALIGNED with the PC in `TCR_TVAL` (log entry 129). -/
def State.begin (s : State) (t : Nat) (w : BitVec 32) (decoded : Option SisRow) (u : Upset) (f : State → Flow × State) : State :=
  let pc := (s.tile t).tsu.pc
  if u = .mismatch then s.tileFatal t (mkRec 0x0101 1)
  else if pc.toNat % 4 ≠ 0 then s.trapT t 0x05 pc
  else match decoded with
    | none => s.trapT t 0x01 (w.zeroExtend 64)
    | some _ => State.finish t w pc (f s)

/-- Tile t's step at an instruction word: upsets of stored bits come first, then what the queues hold and the instruction must wait for, then,
with tokens where its units need them (R44), its own step. -/
def State.sisStep (s : State) (t : Nat) (w : BitVec 32) (decoded : Option SisRow) (u : Upset) (row : SisRow) (f : State → Flow × State) : State :=
  let s := (s.strike t u).unitsFirst t u row
  if !s.running t || !(s.tile t).open' row || !s.maySpend t row.units then s
  else (s.spend t row.units).begin t w decoded u f

/-- The rows that reach memory beyond the tile. -/
def SisRow.reaches : SisRow → Bool
  | .load | .store | .atomic | .pdone | .fenceRel | .fenceAcq | .fenceRelAll | .fenceAcqAll | .cpf | .cwb | .cwbi | .czero
  | .vld | .vldu | .vldFf | .vlx | .vst | .vstu | .vsx | .vlmVsm | .vxDeal | .vxCombinePut | .vxCombineSum => true
  | _ => false

/-- Tile t executes an instruction word that must be of `row` (log entry 2). An instruction that reaches memory, or waits for queued ones that
do, waits for the responses of other devices (R312). -/
def State.sis (s : State) (t : Nat) (w : BitVec 32) (decoded : Option SisRow) (u : Upset) (row : SisRow) (f : State → Flow × State) : State :=
  if !s.running t || (decoded.isSome && decoded != some row) then s
  else if row.reaches || !(s.tile t).queue.isEmpty then s.retry t (fun s => s.sisStep t w decoded u row f)
  else s.sisStep t w decoded u row f

/-- A scalar instruction. -/
def State.sis1 (s : State) (t : Nat) (w : BitVec 32) (u : Upset) (row : SisRow) (f : State → Flow × State) : State :=
  s.sis t w (sisRow w (fun _ => none)) u row f

/-- An instruction that only changes the scalar unit and falls through. -/
def State.sisReg (s : State) (t : Nat) (w : BitVec 32) (u : Upset) (row : SisRow) (f : Tsu → Tsu) : State :=
  s.sis1 t w u row (fun s => (.next, s.updTsu t f))

/-- An instruction for a queue: the checks at issue, then the issue (R86, R91). -/
def State.sisQ (s : State) (t : Nat) (w ext : BitVec 32) (decoded : Option SisRow) (u : Upset) (row : SisRow) : State :=
  s.sis t w decoded u row (fun s => match s.issueTrap t w ext row with
    | some (c, v) => (.trap c v, s)
    | none => (.next, s.issue t w ext u row))

/-- A vector instruction. -/
def State.sisV (s : State) (t : Nat) (w : BitVec 32) (u : Upset) (row : SisRow) : State :=
  s.sisQ t w 0 (sisRow w (fun _ => none)) u row

/-- A matrix instruction with its extension word. -/
def State.sisM (s : State) (t : Nat) (w ext : BitVec 32) (u : Upset) (row : SisRow) : State :=
  s.sisQ t w ext (sisRow w (fun w => matrixRow w ext)) u row

end Sys2Proof.Machine
end

