-- ==== Sys2Proof/Machine/Units.lean ====
section
/-!
DEFINITION. The commands of the vector and matrix rows: each issues into its queue under the common step (R91), and its unit's own meaning is
the operation that `State.unitOp` names.
-/

namespace Sys2Proof.Machine

/-! The vector queue: length, data movement, arithmetic and masks (05_long_vector.md). -/

/-- The requested length bounds VL; the scalar result is written at issue (R92, R113). -/
def execSetvl (t : TileId) (w : BitVec 32) (u : Upset) (s : State) : Host.Outcome State Fault Refusal := .next (s.sisV t w u .setvl)

/-- VL to a scalar register (R93, R113). -/
def execVgetvl (t : TileId) (w : BitVec 32) (u : Upset) (s : State) : Host.Outcome State Fault Refusal := .next (s.sisV t w u .vgetvl)

/-- Unit-stride load (R118–R121, R126). -/
def execVld (t : TileId) (w : BitVec 32) (u : Upset) (s : State) : Host.Outcome State Fault Refusal := .next (s.sisV t w u .vld)

/-- Unit-stride load at element alignment (R118–R122, R126). -/
def execVldu (t : TileId) (w : BitVec 32) (u : Upset) (s : State) : Host.Outcome State Fault Refusal := .next (s.sisV t w u .vldu)

/-- First-fault load (R122, R128, R129). -/
def execVldFf (t : TileId) (w : BitVec 32) (u : Upset) (s : State) : Host.Outcome State Fault Refusal := .next (s.sisV t w u .vldFf)

/-- Gather (R123, R124, R126). -/
def execVlx (t : TileId) (w : BitVec 32) (u : Upset) (s : State) : Host.Outcome State Fault Refusal := .next (s.sisV t w u .vlx)

/-- Unit-stride store (R118–R121, R126). -/
def execVst (t : TileId) (w : BitVec 32) (u : Upset) (s : State) : Host.Outcome State Fault Refusal := .next (s.sisV t w u .vst)

/-- Unit-stride store at element alignment (R118–R122, R126). -/
def execVstu (t : TileId) (w : BitVec 32) (u : Upset) (s : State) : Host.Outcome State Fault Refusal := .next (s.sisV t w u .vstu)

/-- Scatter (R123, R125, R126). -/
def execVsx (t : TileId) (w : BitVec 32) (u : Upset) (s : State) : Host.Outcome State Fault Refusal := .next (s.sisV t w u .vsx)

/-- Integer lane arithmetic (R116). -/
def execVectorInteger (t : TileId) (w : BitVec 32) (u : Upset) (s : State) : Host.Outcome State Fault Refusal := .next (s.sisV t w u .vectorInteger)

/-- Merge under the mask (R116). -/
def execVmerge (t : TileId) (w : BitVec 32) (u : Upset) (s : State) : Host.Outcome State Fault Refusal := .next (s.sisV t w u .vmerge)

/-- Compare into the mask (R116, R130). -/
def execVectorCompare (t : TileId) (w : BitVec 32) (u : Upset) (s : State) : Host.Outcome State Fault Refusal := .next (s.sisV t w u .vectorCompare)

/-- Floating-point lane arithmetic (R130, R131, R133). -/
def execVectorFloat (t : TileId) (w : BitVec 32) (u : Upset) (s : State) : Host.Outcome State Fault Refusal := .next (s.sisV t w u .vectorFloat)

/-- Widening conversion (R132, R133). -/
def execVfcvtFrom (t : TileId) (w : BitVec 32) (u : Upset) (s : State) : Host.Outcome State Fault Refusal := .next (s.sisV t w u .vfcvtFrom)

/-- Narrowing conversion (R132, R133, R177). -/
def execVfcvtTo (t : TileId) (w : BitVec 32) (u : Upset) (s : State) : Host.Outcome State Fault Refusal := .next (s.sisV t w u .vfcvtTo)

/-- Conversion between integers and floats (R130, R133, R182). -/
def execVfcvtInteger (t : TileId) (w : BitVec 32) (u : Upset) (s : State) : Host.Outcome State Fault Refusal := .next (s.sisV t w u .vfcvtInteger)

/-- Logic of the masks (R116). -/
def execMaskLogic (t : TileId) (w : BitVec 32) (u : Upset) (s : State) : Host.Outcome State Fault Refusal := .next (s.sisV t w u .maskLogic)

/-- Count or first set bit of the mask (R93). -/
def execKpopcKfirst (t : TileId) (w : BitVec 32) (u : Upset) (s : State) : Host.Outcome State Fault Refusal := .next (s.sisV t w u .kpopcKfirst)

/-- Load or store of the mask (R118, R121). -/
def execVlmVsm (t : TileId) (w : BitVec 32) (u : Upset) (s : State) : Host.Outcome State Fault Refusal := .next (s.sisV t w u .vlmVsm)

/-- Reduction (R134–R136). -/
def execVectorReduction (t : TileId) (w : BitVec 32) (u : Upset) (s : State) : Host.Outcome State Fault Refusal := .next (s.sisV t w u .vectorReduction)

/-- Moves between a lane and a scalar register (R93). -/
def execVectorScalarMove (t : TileId) (w : BitVec 32) (u : Upset) (s : State) : Host.Outcome State Fault Refusal := .next (s.sisV t w u .vectorScalarMove)

/-- Permutation (R116). -/
def execVectorPermutation (t : TileId) (w : BitVec 32) (u : Upset) (s : State) : Host.Outcome State Fault Refusal := .next (s.sisV t w u .vectorPermutation)

/-- Deal tokens to experts (R358–R361). -/
def execVxDeal (t : TileId) (w : BitVec 32) (u : Upset) (s : State) : Host.Outcome State Fault Refusal := .next (s.sisV t w u .vxDeal)

/-- Put rows for a combine (R362, R363). -/
def execVxCombinePut (t : TileId) (w : BitVec 32) (u : Upset) (s : State) : Host.Outcome State Fault Refusal := .next (s.sisV t w u .vxCombinePut)

/-- Sum the rows of a combine (R362, R364). -/
def execVxCombineSum (t : TileId) (w : BitVec 32) (u : Upset) (s : State) : Host.Outcome State Fault Refusal := .next (s.sisV t w u .vxCombineSum)

/-! The matrix queue (06_matrix_accumulation.md). -/

/-- Load weights into the shadow plane (R146, R147). -/
def execMxLdw (t : TileId) (w ext : BitVec 32) (u : Upset) (s : State) : Host.Outcome State Fault Refusal := .next (s.sisM t w ext u .mxLdw)

/-- Run the array over A-rows (R149, R159–R163). -/
def execMxRun (t : TileId) (w ext : BitVec 32) (u : Upset) (s : State) : Host.Outcome State Fault Refusal := .next (s.sisM t w ext u .mxRun)

/-- Drain accumulator rows (R150, R166, R167, R177). -/
def execMxDrain (t : TileId) (w ext : BitVec 32) (u : Upset) (s : State) : Host.Outcome State Fault Refusal := .next (s.sisM t w ext u .mxDrain)

/-- Clear the valid bits of rows (R151). -/
def execMxZero (t : TileId) (w ext : BitVec 32) (u : Upset) (s : State) : Host.Outcome State Fault Refusal := .next (s.sisM t w ext u .mxZero)

/-- Exchange the planes (R148). -/
def execMxSwap (t : TileId) (w ext : BitVec 32) (u : Upset) (s : State) : Host.Outcome State Fault Refusal := .next (s.sisM t w ext u .mxSwap)

end Sys2Proof.Machine
end

