-- ==== Sys2Proof/Machine/TileEvents.lean ====
section
/-!
DEFINITION. What happens at a tile beside its instructions: the start of a pass (R84, R115, R142, R202, R240, R350), fills
and write-backs that complete (R197, R203, R207, R210, R211), walks (R239) and deferred faults (R105, R107).
-/

namespace Sys2Proof.Machine

/-- The virtual base of the buffer that holds a bound version (R252, R254). -/
def Region.base (g : Region) (b : Bool) : Word := if b then g.vaB else g.vaA

/-- The registers of a tile's scalar unit at pass start (R84, R350). -/
def passTsu (i : Nat) (e : Ledger) (prog wgt : Region) (rm rank : Nat) : Tsu :=
  let x1 := BitVec.ofNat 64 (e.arg.toNat + (if e.stream then e.seq.toNat else 0) * 2 ^ 32)
  let w := if e.rgnValid then (wgt.base e.wgtBuf).toNat / 2 ^ 16 * 2 ^ 16 else 0
  let x2 := BitVec.ofNat 64 (w + e.passes % 64 * 2 ^ 6 + rank % 64)
  ({ pc := prog.base e.progBuf + BitVec.ofNat 64 e.progOff.toNat, rm := BitVec.ofNat 4 rm, pass := BitVec.ofNat 20 i } : Tsu).setX 1 x1
    |>.setX 2 x2

/-- The matrix unit at pass start: the valid bits are clear, and the ACM keeps its stored bits (R142, R223, R506). -/
def Mxu.fresh (m : Mxu) : Mxu := { acm := m.acm, chk := m.chk }

/-- PASS_START (R248, R348): the moves of phase 0 are done and the pass starts. -/
def execPassStart (t : TileId) (s : State) : Host.Outcome State Fault Refusal :=
  let x := s.tile t
  .next (match x.taken, s.tileOwner t with
  | some h, some n =>
    let e := s.led h.ix
    if x.stopped || x.run.isSome || x.health.running.isSome || x.chainHold.isSome || e.state != .running || !e.phase0 then s
    else
      let root := e.root.getD (s.part n).rootId
      let key := (Fin.ofNat 64 n, root)
      let prog := (e.progSlot.toNat, e.progVersion.toNat)
      let c := x.caches
      let c := if c.prog = some prog then c else { c with prog := some prog, l1i := [], plruI := [] }
      (s.dropRemote t).setTile t { x with
        taken := none,
        tsu := passTsu h.ix e (s.region e.progSlot.toNat) (s.region e.rgn.toNat) (s.defaultRm n) h.rank,
        lvu := {}, mxu := x.mxu.fresh, queue := [], caches := c, tlb := if x.tlb.root = some key then x.tlb else { root := some key },
        run := some { ix := h.ix, rank := h.rank, rootId := root, flush := s.flushMode n, seed := x.seed, base := e.grainBase.toNat, start := s.now } }
  | _, _ => s)

/-- Put a line into the instruction cache (R201); with every way of its set disabled it is not kept. -/
def Caches.putI (c : Caches) (l : Line) : Caches :=
  let set := l.line % 128
  match chooseWay 2 (fun w => (SMap.get none c.l1i (set * 4 + w)).isSome) (fun w => c.offI.contains (set * 4 + w)) (SMap.get 0 c.plruI set) with
  | some w => { c with l1i := SMap.put none c.l1i (set * 4 + w) (some l), plruI := SMap.upd 0 c.plruI set (plruTouch 2 1 w) }
  | none => c

/-- The instruction-cache way that holds a line, if any. -/
def Caches.findI (c : Caches) (line : Nat) : Option Nat :=
  ((List.range 4).map (fun w => line % 128 * 4 + w)).find? (fun k => match SMap.get none c.l1i k with
    | some l => l.line == line
    | none => false)

/-- The instruction-cache way that a fill of a line takes (R201). -/
def Caches.wayForI (c : Caches) (line : Nat) : Option Nat :=
  let set := line % 128
  (chooseWay 2 (fun w => (SMap.get none c.l1i (set * 4 + w)).isSome) (fun w => c.offI.contains (set * 4 + w)) (SMap.get 0 c.plruI set)).map
    (fun w => set * 4 + w)

/-- The refetched line fails its parity check again: the instruction-cache way that it took is disabled, and a third fetch bypasses it
(R211). -/
def State.failTwiceI (s : State) (t line : Nat) : State :=
  match (s.tile t).caches.wayForI line with
  | some k => (s.updCaches t (fun c => { c with offI := k :: c.offI })).parity t 0x0202 line false
  | none => s

/-- The parity check of an instruction line that is fetched again: with an error its way is invalidated (R210, R211). -/
def State.checkI (s : State) (t line : Nat) : State :=
  match (s.tile t).caches.findI line with
  | none => s
  | some k =>
    let p := ((SMap.get none (s.tile t).caches.l1i k).map (·.parity)).getD .good
    if p = .good then s
    else
      let s := (s.updCaches t (fun c => { c with l1i := SMap.put none c.l1i k none })).parity t 0x0202 line false
      if p = .badTwice && !(s.tile t).stopped then s.failTwiceI t line else s

/-- The parity check of an instruction line as its fill arrives (R210, R211). -/
def State.arriveI (s : State) (t line : Nat) (u : Upset) : State :=
  match u with
  | .spoilFill again =>
    let s := s.parity t 0x0202 line false
    if again && !(s.tile t).stopped then s.failTwiceI t line else s
  | _ => s

/-- The parity check of a line as a store's fill arrives: it is clean until the store's bytes are merged, so it is refetched (R210, R211). -/
def State.arriveD (s : State) (t line : Nat) (u : Upset) : State :=
  match u with
  | .spoilFill again =>
    let s := s.parity t 0x0201 line false
    if again && !(s.tile t).stopped then s.failTwice t line else s
  | _ => s

/-- `TCR_TVAL` of a refused fetch: the word that it was for, which is the instruction's first word where the line holds it, else the second
(R105). -/
def State.fetchTval (s : State) (t line : Nat) : Word :=
  let pc := (s.tile t).tsu.pc
  match (s.translateT t .fetch pc.toNat).1 with
  | some pa => if pa / 128 = line then pc else pc + 4
  | none => pc

/-- L1_FILL_COMPLETE (R197, R201): a store's outstanding fill is merged, or an instruction fetch's line arrives. -/
def execL1FillComplete (t : TileId) (line : BitVec 45) (u : Upset) (s : State) : Host.Outcome State Fault Refusal :=
  let l := line.toNat
  .next (if !s.maySpend t [.l1] then s
  else
    s.retry t (fun s =>
    let s := (s.strike t u).spend t [.l1]
    match (s.tile t).caches.fills.find? (fun f => f.line == l) with
    | some f =>
      let s := s.arriveD t l u
      if (s.tile t).stopped then s else s.fillDone t f
    | none =>
      let s := if s.running t then s.checkI t l else s
      if !s.running t || ((s.tile t).caches.findI l).isSome then s
      else
        let s := s.arriveI t l u
        if (s.tile t).stopped then s
        else match s.fetchLine t l with
          | (some d, s) => s.updCaches t (fun c => c.putI { line := l, data := d })
          | (none, s) => s.trapT t 0x06 (s.fetchTval t l)))

/-- TALON_FILL_COMPLETE (R203, R214). -/
def execTalonFillComplete (t : TileId) (line : BitVec 45) (u : Upset) (s : State) : Host.Outcome State Fault Refusal :=
  .next (if (s.tile t).caches.talonFills.contains line.toNat && s.maySpend t [.talon] then
      s.retry t (fun s => ((s.strike t u).spend t [.talon]).talonFill t line.toNat)
    else s)

/-- DISCARD_WRITEBACK_ACK (R207, R209, R210): the home of a discard entry, numbered from the oldest, acknowledges it, or the entry fails its
parity check and is dropped. -/
def execDiscardWritebackAck (t : TileId) (i : Fin 16) (u : Upset) (s : State) : Host.Outcome State Fault Refusal :=
  .next (if s.maySpend t [.discard] then s.retry t (fun s => ((s.strike t u).spend t [.discard]).ackDiscard t i.val) else s)

/-- The precise trap of an unmapped access, by its kind (R105, R229). -/
def pageFaultCause (k : AccessKind) : Nat :=
  match k with
  | .fetch => 0x02
  | .load => 0x03
  | _ => 0x04

/-- TLB_WALK_COMPLETE (R229, R238, R239). -/
def execTlbWalkComplete (t : TileId) (va : Word) (kind : AccessKind) (s : State) : Host.Outcome State Fault Refusal :=
  .next (if !s.running t then s
  else match s.translateT t kind va.toNat with
    | (some _, s) => s
    | (none, s) => s.trapT t (pageFaultCause kind) va)

/-- The cause and status of a deferred fault (R105). -/
def deferredOf (c : DeferredCause) : Nat × Status :=
  match c with
  | .storeRefused => (0x10, .notPermitted)
  | .vectorPage => (0x11, .unmapped)
  | .vectorOther => (0x11, .notPermitted)
  | .matrixPage => (0x12, .unmapped)
  | .matrixOther => (0x12, .notPermitted)

/-- DEFERRED_FAULT (R107): the pass ends with the fault's status, cause and PC. -/
def execDeferredFault (t : TileId) (c : DeferredCause) (pc : Word) (s : State) : Host.Outcome State Fault Refusal :=
  .next (if s.running t then s.endPassTrap t (deferredOf c).2 (deferredOf c).1 pc.toNat else s)

end Sys2Proof.Machine
end

