-- ==== Sys2Proof/Machine/Health.lean ====
section
/-!
DEFINITION. Health passes and closing passes (R24–R30, R496, R501), recall notices (R28, R392, R396), FAULT events (R498, R502),
stalls (R53, R55), and the scrubs of the accumulator memory and the Local Store (R158, R222).
-/

namespace Sys2Proof.Machine

/-- True where a tile takes scheduled health passes: its window is open and it serves. -/
def Tile.takesPasses (x : Tile) : Bool := !x.stopped && !x.health.unavailable && x.health.windowOpen

def State.updHealth (s : State) (t : Nat) (f : Health → Health) : State := s.updTile t (fun x => { x with health := f x.health })

/-- HEALTH_PASS_DUE (R24, R25): CI13 reaches the due time; the next one follows an interval later. -/
def execHealthPassDue (t : TileId) (s : State) : Host.Outcome State Fault Refusal :=
  .next (if (s.tile t).takesPasses then
      let s := s.atLeast (s.tile t).health.due
      s.updHealth t (fun h => { h with pending := true, due := h.due + s.healthNs ((s.tileOwner t).getD 64) })
    else s)

/-- A health pass begins: the exposure window that a passed pass opens runs from now (R29). -/
def State.startPass (s : State) (t : Nat) : State :=
  s.updHealth t (fun h => { h with pending := false, running := some .health, passStart := s.now, passMark := h.journal.length })

/-- HEALTH_PASS_START (R25): at a beat boundary after the due time the pass begins. -/
def execHealthPassStart (t : TileId) (s : State) : Host.Outcome State Fault Refusal :=
  let x := s.tile t
  .next (if x.takesPasses && x.health.pending && x.health.running.isNone then s.startPass t else s)

/-- JOURNAL_THRESHOLD (R30): 24,576 items start a health pass at once. The spec does not say whether the scheduled due time moves with
it: it stays (log entry 119). -/
def execJournalThreshold (t : TileId) (s : State) : Host.Outcome State Fault Refusal :=
  let x := s.tile t
  .next (if x.takesPasses && decide (24576 ≤ x.health.journal.length) && x.health.running.isNone then s.startPass t else s)

/-- HEALTH_PASS_END (R25, R28–R30): a passed pass opens a new exposure window, which runs from that pass's start, so the items that
completed during the pass stay in the journal; the tile resumes. -/
def execHealthPassEnd (t : TileId) (ok : Bool) (s : State) : Host.Outcome State Fault Refusal :=
  .next (if (s.tile t).health.running ≠ some .health then s
    else if ok then s.updHealth t (fun h => { h with
      running := none, journal := h.journal.drop h.passMark, windowStart := h.passStart, windowOpen := true })
    else s.failTile t 0x0104)

/-- CLOSING_PASS_END (R496): a passed pass closes the tile's window; where a restart of the partition waits, the restart pass
follows (R499, R534). -/
def execClosingPassEnd (t : TileId) (ok : Bool) (s : State) : Host.Outcome State Fault Refusal :=
  .next (if (s.tile t).health.running ≠ some .closing then s
    else if ok then
      let again := match s.tileOwner t with
        | some n => (s.part n).restart.isSome
        | none => false
      s.updHealth t (fun h => { h with running := if again then some .restart else none, journal := [], windowOpen := false })
    else s.failTile t 0x0104)

/-- The body of a SUSPECT event (R396). -/
def Notice.body (x : Notice) : List Byte :=
  leBytes 4 x.num ++ leBytes 1 x.tile ++ leBytes 1 x.fromDev ++ leBytes 1 (b2n x.chainRecall + 2 * b2n x.incomplete) ++ zeros 1
    ++ leBytes 4 x.items.length ++ zeros 4 ++ leBytes 8 x.winStart ++ leBytes 8 x.winEnd

/-- Post a notice's SUSPECT event on the partition's mailbox, and on the operator's unless the partition is confidential
(R28, R32, R396). The spec does not say who hears of a notice raised in confidential mode and posted after a warm reset has ended that
mode (R457): the mode at the time of the post decides (log entry 117). -/
def State.postNotice (s : State) (n : Nat) (x : Notice) : State :=
  let e : Event := { kind := 2, part := n, time := s.now, body := x.body }
  let s := s.updPart n (fun p => { p with notices := p.notices.map (fun y => if y.num = x.num then { y with posted := true } else y) })
  let s := s.event (Fin.ofNat 65 n) e
  if (s.part n).conf then s else s.event operatorId e

/-- RECALL_NOTICE_POST (R28). -/
def execRecallNoticePost (n : PartId) (notice : BitVec 32) (s : State) : Host.Outcome State Fault Refusal :=
  .next (match (s.part n).notices.find? (fun x => x.num == notice.toNat && !x.posted) with
    | some x => s.postNotice n x
    | none => s)

/-- True when partition n's closing passes have ended and its notices are posted (R498). -/
def State.noticesOut (s : State) (n : Nat) : Bool :=
  (s.part n).notices.all (·.posted) && (s.tilesOf n).all (fun t => (s.tile t).health.running != some .closing)

/-- A FAULT event (R396). -/
def faultEvent (cls seq time : Nat) (part : Nat) : Event := { kind := 5, part := part, time := time, body := padTo 8 [BitVec.ofNat 8 cls] ++ leBytes 8 seq }

/-- FAULT_EVENT_POST (R495, R498 step 6, R502 step 5): of one partition, or of the device on every mailbox; after the recall notices. -/
def execFaultEventPost (scope : Option PartId) (s : State) : Host.Outcome State Fault Refusal :=
  .next (match scope with
    | some n =>
      (match (s.part n).faultDue with
       | seq :: rest =>
         if s.noticesOut n then
           (s.updPart n (fun p => { p with faultDue := rest })).eventAll [Fin.ofNat 65 n.val, operatorId] (faultEvent 1 seq s.now n)
         else s
       | [] => s)
    | none =>
      (match s.boot.faultDue with
       | seq :: rest =>
         if parts64.all (fun n => !s.valid n || s.noticesOut n) then
           { s with boot := { s.boot with faultDue := rest } }.eventAll
             ((List.range 65).map (Fin.ofNat 65)) (faultEvent 2 seq s.now 0x7F)
         else s
       | [] => s))

/-- STALL_DECLARE (R53, R55): a request pending since `since` without acknowledge is declared at the first 1 µs tick of CI13 at which it
has been pending for the stall bound minus 1 µs, so never before that and never after the bound. A tile of a partition is
partition-fatal; a shared unit, and a tile that belongs to no partition wholly, are device-fatal. -/
def execStallDeclare (u : StallUnit) (group : BitVec 12) (since : Nat) (s : State) : Host.Outcome State Fault Refusal :=
  .next (if s.now < since ∨ !s.plant.ciRunning then s
  else
    let s := s.atLeast (boundary (since + (s.plant.sentBound.toNat - 1) * 1000))
    match u with
    | .tile t =>
      let r : ErrRec := { mkRec 0x0506 1 with tile := t, unit := unitTile t, detail := group.toNat }
      (match s.tileOwner t with
       | some n => s.partFatal n r
       | none => s.devFatal r)
    | .shared x => s.devFatal { mkRec 0x0506 2 with unit := x.toNat, detail := group.toNat })

/-- True once pair 3 has released the tiles from reset at start-up (R511, R549 step 7). -/
def State.tilesUp (s : State) : Bool := s.boot.steps.getLsbD 7

/-- ACM_SCRUB_READ (R44, R157, R158): the tile's next read, k, at k × 244 µs, covers row k mod 4,096; it takes the ACM for a step. -/
def execAcmScrubRead (t : TileId) (u : Upset) (s : State) : Host.Outcome State Fault Refusal :=
  .next (if s.tilesUp then
      let k := (s.tile t).acmScrub
      let s := ((s.strike t u).atLeast (244000 * k)).updTile t (fun x => { x with acmScrub := k + 1 })
      (s.spend t [.acm]).acmCheckRows t (k % 4096) 1 true
    else s)

/-- LS_SCRUB_READ (R44, R217, R222): the tile's next read, k, at k × 480 µs, covers the 1,024-byte block k mod 16,384; it takes the weight
port for a step. -/
def execLsScrubRead (t : TileId) (u : Upset) (s : State) : Host.Outcome State Fault Refusal :=
  .next (if s.tilesUp then
      let k := (s.tile t).lsScrub
      let s := ((s.strike t u).atLeast (480000 * k)).updTile t (fun x => { x with lsScrub := k + 1 })
      ((s.spend t [.lsPort]).plantedIn t (k % 16384 * 1024) 1024).foldl (fun s w => s.lsCheck t w true) (s.spend t [.lsPort])
    else s)

/-- The tiles are released from reset: the scrub reads that fell due while they were held in it are not made (R158, R222). -/
def State.startScrubs (s : State) : State :=
  (List.range 64).foldl (fun (s : State) t => s.updTile t (fun x => { x with acmScrub := ceilDiv s.now 244000, lsScrub := ceilDiv s.now 480000 })) s

end Sys2Proof.Machine
end

