-- ==== Sys2Proof/Machine/SeifChain.lean ====
section
/-!
DEFINITION. The seif chain (11_links_seif.md R315–R328): the step at a member, packets, DONE and BREAK, the chain log and recalls
across the erg.
-/

namespace Sys2Proof.Machine

def Chain.wide (c : Chain) : Bool := bit c.header 8
def Chain.allreduce (c : Chain) : Bool := bit c.header 9
/-- The wait bound in ns (R315). -/
def Chain.wait (c : Chain) : Nat := (if fld c.header 32 10 = 0 then 100 else fld c.header 32 10) * 1000000

/-- The digits of a row, `w` bits each. -/
def rowDigits (w : Nat) (r : BitVec 4096) : List Nat := (List.range (4096 / w)).map (fun i => fld r (i * w) w)

/-- The sum of two rows, in operand order (R320, R321). -/
def chainAdd (wide : Bool) (a b : BitVec 4096) : BitVec 4096 :=
  let f := if wide then Fmt.fp64 else Fmt.fp32
  BitVec.ofNat 4096 (joinW f.width (((rowDigits f.width a).zip (rowDigits f.width b)).map (fun p => (f.add .rne 0 p.1 p.2).1)))

/-- The partial's row j of a step, from the accumulator memory (R319). -/
def State.chainRow (s : State) (t : Nat) (c : ChainStep) (j : Nat) : BitVec 4096 :=
  BitVec.ofNat 4096 (joinW 64 (((s.mxu t).rowWords (c.srcRow + j)).map BitVec.toNat))

/-- The step that holds a tile, with its chain and ledger index. -/
def State.stepAt (s : State) (t : Nat) : Option (Nat × ChainStep × Chain) :=
  match (s.tile t).chainHold with
  | none => none
  | some i =>
    let e := s.led i
    match e.cstep with
    | none => none
    | some c => (match SMap.get none (s.part e.part.val).chains c.chain with
      | some ch => some (i, c, ch)
      | none => none)

/-- A packet of a step's message: rows from `first`. -/
def chainPkt (c : ChainStep) (ch : Chain) (first : Nat) (data : List (BitVec 4096)) : ChainPacket :=
  ⟨BitVec.ofNat 6 c.chain, c.msg, c.rows, ch.digest, first, data⟩

/-- Packets of up to 8 rows, in row order (R320). The first argument bounds them. -/
def chainPkts (c : ChainStep) (ch : Chain) : Nat → Nat → List (BitVec 4096) → List ChainPacket
  | 0, _, _ => []
  | k + 1, first, rows => if rows.isEmpty then [] else chainPkt c ch first (rows.take 8) :: chainPkts c ch k (first + 8) (rows.drop 8)

/-- The device and tile of a chain member. -/
def Chain.memberAt (c : Chain) (k : Nat) : Nat × Nat := (fld (c.members.getD k 0) 6 6, fld (c.members.getD k 0) 0 6)

/-- The step ends: the tile is free for its next hand entry. -/
def State.freeHold (s : State) (t : Nat) : State := s.updTile t (fun x => { x with chainHold := none })

/-- A message breaks at this member: BREAK goes along the list and the step completes with CHAIN_BROKEN (R324, R325). -/
def State.breakHere (s : State) (t i : Nat) (c : ChainStep) (send : Bool) : State :=
  let n := (s.led i).part.val
  let s := if send then s.sendBreak n c else s.dropOffers n c
  (s.freeHold t).endRequest i .chainBroken

/-- Send the rows of a message to member k, or break it where no route leads there (R301, R303, R324). Until member k accepts them they wait
(R320). -/
def State.sendChain (s : State) (t i : Nat) (c : ChainStep) (ch : Chain) (k : Nat) (ps : List ChainPacket) : State :=
  let (dev, tile) := ch.memberAt k
  let n := (s.led i).part.val
  if dev ≠ s.deviceNum ∧ !s.routeUp dev then
    (s.record { mkRec 0x0407 3 with part := n, tile := t, unit := unitRouter 0 }).breakHere t i c true
  else ps.foldl (fun s p => s.toMember n t dev (.rows (Fin.ofNat 64 tile) p)) s

/-- Write the final rows to `DST` in the member's Local Store (R320). -/
def State.writeFinal (s : State) (t : Nat) (c : ChainStep) (rows : List (BitVec 4096)) : State := s.lsWrite t c.dst ((rows.map bvBytes).flatten)

/-- A step completes with OK, and DONE goes to the member before it (R320); where no route leads there it is lost (R303). -/
def State.stepDone (s : State) (t i : Nat) (c : ChainStep) (ch : Chain) (final : List (BitVec 4096)) : State :=
  let s := (s.freeHold t).updLed i (fun e => { e with crun := { e.crun with ended := true, digest := ch.digest } })
  if c.member = 0 then s
  else
    let (dev, tile) := ch.memberAt (c.member - 1)
    let ps := if ch.allreduce then chainPkts c ch 16 0 final else [chainPkt c ch 0 []]
    ps.foldl (fun (s : State) p => s.toMember (s.led i).part.val t dev (.done (Fin.ofNat 64 tile) p)) s

/-- The last member has formed the final row: the message is sealed (R320). -/
def State.sealChain (s : State) (t i : Nat) (c : ChainStep) (ch : Chain) : State :=
  let final := (List.range c.rows).map (s.chainRow t c)
  let s := s.updLed i (fun e => { e with crun := { e.crun with sealed := true } })
  (s.writeFinal t c final).stepDone t i c ch final

/-- CHAIN_STEP_START (R319, R320): after `pdone` the member's step starts; member 0 sends its partial. -/
def execChainStepStart (ix : LedgerIx) (s : State) : Host.Outcome State Fault Refusal :=
  let i := ix.toNat
  let e := s.led i
  .next (match s.stepAt e.tile with
    | none => s
    | some (j, c, ch) =>
      if j ≠ i ∨ e.state ≠ .running ∨ e.crun.started ∨ (s.tile e.tile).run.isSome ∨ (s.tile e.tile).stopped then s
      else
        let t := e.tile
        let s := s.acmCheckRows t c.srcRow c.rows false
        if (s.tile t).stopped then s
        else
          let s := s.updLed i (fun e => { e with crun := { started := true, startTime := s.now, lastHeard := s.now, next := if c.member = 0 then c.rows else 0 } })
          if c.member ≠ 0 then s
          else if ch.members.length ≤ 1 then s.sealChain t i c ch
          else s.sendChain t i c ch 1 (chainPkts c ch 16 0 ((List.range c.rows).map (s.chainRow t c))))

/-- A packet that does not match the active step (R319). -/
def chainMismatch (c : ChainStep) (ch : Chain) (p : ChainPacket) : Bool := p.digest != ch.digest || p.msg != c.msg || p.rows != c.rows

/-- CHAIN_MISMATCH breaks the message (R319, R324). -/
def State.mismatch (s : State) (t i : Nat) (c : ChainStep) : State :=
  (s.record { mkRec 0x0408 3 with part := (s.led i).part.val, tile := t, unit := unitTile t, ledger := i }).breakHere t i c true

/-- A step of a started chain on a tile, if it is chain `chain`. -/
def State.startedStep (s : State) (t chain : Nat) : Option (Nat × ChainStep × Chain) :=
  match s.stepAt t with
  | some (i, c, ch) => if (s.led i).crun.started ∧ c.chain = chain then some (i, c, ch) else none
  | none => none

/-- A chain packet that waited for a member is taken. -/
def State.takeOffer (s : State) (b : NetBody) : State := { s with net := { s.net with offers := s.net.offers.erase b } }

/-- A chain packet that a member cannot accept yet stays where it waits, or begins to wait (R320). -/
def State.keepOffer (s : State) (b : NetBody) : State := if s.net.offers.contains b then s else s.offer b

/-- CHAIN_PACKET_RECEIVE (R319–R322): a packet for a member whose step is not active, or whose turn has not come, waits; accepted rows are
added to the partial, kept in the ACM and sent on; the last member seals the message. `adderOk` is the comparison of the two chain adders; a
mismatch makes the partition fatal, which breaks its messages (R322, R324). -/
def execChainPacketReceive (t : TileId) (p : ChainPacket) (adderOk : Bool) (s : State) : Host.Outcome State Fault Refusal :=
  .next (match s.startedStep t p.chain.toNat with
    | none => s.keepOffer (.rows t p)
    | some (i, c, ch) =>
      if chainMismatch c ch p then (s.takeOffer (.rows t p)).mismatch t i c
      else if (s.led i).crun.next < p.first then s.keepOffer (.rows t p)
      else
        let s := s.takeOffer (.rows t p)
        if c.member = 0 ∨ p.first ≠ (s.led i).crun.next ∨ p.data.isEmpty ∨ 8 < p.data.length ∨ c.rows < p.first + p.data.length then s
        else if !adderOk then s.tileFatal t { mkRec 0x0107 1 with ledger := i }
        else
          let sums := p.data.mapIdx (fun j r => chainAdd ch.wide r (s.chainRow t c (p.first + j)))
          let s := s.updMxu t (fun m => (sums.zipIdx).foldl (fun m r => m.setRow (c.srcRow + p.first + r.2) ((rowDigits 64 r.1).map (BitVec.ofNat 64))) m)
          let next := p.first + p.data.length
          let s := s.updLed i (fun e => { e with crun := { e.crun with next := next, lastHeard := s.now } })
          if c.member + 1 < ch.members.length then s.sendChain t i c ch (c.member + 1) [chainPkt c ch p.first sums]
          else if next = c.rows then s.sealChain t i c ch else s)

/-- CHAIN_DONE_RECEIVE (R320, R326): under ALLREDUCE the final rows are kept until all have come, then written; DONE passes
upstream and the step completes. -/
def execChainDoneReceive (t : TileId) (p : ChainPacket) (s : State) : Host.Outcome State Fault Refusal :=
  .next (match s.startedStep t p.chain.toNat with
    | none => s.keepOffer (.done t p)
    | some (i, c, ch) =>
      let r := (s.led i).crun
      if chainMismatch c ch p then (s.takeOffer (.done t p)).mismatch t i c
      else if ch.allreduce ∧ r.nextFinal < p.first then s.keepOffer (.done t p)
      else
        let s := s.takeOffer (.done t p)
        if r.next ≠ c.rows ∨ ch.members.length ≤ c.member + 1 then s
        else if !ch.allreduce then s.stepDone t i c ch []
        else if p.first ≠ r.nextFinal ∨ p.data.isEmpty ∨ c.rows < p.first + p.data.length then s
        else
          let s := s.updLed i (fun e => { e with crun := { e.crun with
            nextFinal := p.first + p.data.length, lastHeard := s.now, final := SMap.putMany 0 e.crun.final p.first p.data } })
          if p.first + p.data.length = c.rows then
            let final := SMap.getMany 0 (s.led i).crun.final 0 c.rows
            (s.writeFinal t c final).stepDone t i c ch final
          else s)

/-- BREAK reaches a member (R325, R326): a step that does not yet hold DONE completes with CHAIN_BROKEN and writes nothing. -/
def State.breakReceived (s : State) (t : TileId) (chain : BitVec 6) (msg : BitVec 32) : State :=
  match s.startedStep t chain.toNat with
  | none => s
  | some (i, c, _) => if c.msg = msg then s.breakHere t i c false else s

/-- CHAIN_BREAK_RECEIVE (R325, R326). -/
def execChainBreakReceive (t : TileId) (chain : BitVec 6) (msg : BitVec 32) (s : State) : Host.Outcome State Fault Refusal :=
  .next ((s.takeOffer (.brk t chain msg)).breakReceived t chain msg)

/-- CHAIN_WAIT_EXPIRY (R324): nothing was received for `WAIT_MS`. -/
def execChainWaitExpiry (ix : LedgerIx) (s : State) : Host.Outcome State Fault Refusal :=
  let i := ix.toNat
  let e := s.led i
  .next (match s.stepAt e.tile with
    | none => s
    | some (j, c, ch) =>
      if j ≠ i ∨ !e.crun.started then s
      else (s.atLeast (e.crun.lastHeard + ch.wait)).breakHere e.tile i c true)

/-- A chain recall arrives (R328): the matching items of the chain log become a notice, posted at once; beyond 256 such notices there is no
room and nothing is kept. The answer says whether it was delivered. -/
def State.recallReceived (s : State) (r : ChainRecall) : Bool × State :=
  let n := r.part.val
  let held := (parts64.map (fun m => ((s.part m).notices.filter (·.chainRecall)).length)).sum
  if 256 ≤ held then (false, s)
  else if !s.valid n then (true, s)
  else
    let items := s.chainLog.filter (fun x => x.part == r.part &&
      r.steps.any (fun c => c.1.toNat == x.chain && c.2.1.toNat == x.msg && c.2.2 == x.digest))
    let x : Notice := {
      num := (s.part n).nextNotice, tile := r.tile.toNat, fromDev := r.fromDev.toNat, chainRecall := true, incomplete := r.late,
      items := items.map (·.item), winStart := r.winStart.toNat, winEnd := r.winEnd.toNat }
    (true, (s.updPart n (fun p => { p with nextNotice := p.nextNotice + 1, notices := p.notices ++ [x] })).postNotice n x)

/-- CHAIN_RECALL_RECEIVE (R328). -/
def execChainRecallReceive (r : ChainRecall) (s : State) : Host.Outcome State Fault Refusal := .next (s.recallReceived r).2

/-- CHAIN_RECALL_RESEND (R328): 1 ms after they were sent last, the recalls that found no room or no route are sent again. -/
def execChainRecallResend (s : State) : Host.Outcome State Fault Refusal :=
  .next (if s.net.recalls.all (·.going) then s else (s.atLeast (s.net.resent + 1000000)).sendRecalls)

/-- CHAIN_LOG_AGING (R327): the oldest item is older than 16 ms and goes. -/
def execChainLogAging (s : State) : Host.Outcome State Fault Refusal :=
  .next (match s.chainLog with
    | [] => s
    | x :: _ =>
      let s := s.atLeast (x.time + 16000001)
      { s with chainLog := s.chainLog.filter (fun y => decide (s.now ≤ y.time + 16000000)) })

end Sys2Proof.Machine
end

