-- ==== Sys2Proof/Machine/Links.lean ====
section
/-!
DEFINITION. Dealt arbiters (03_organisation.md R69–R78, R564), device links (11_links_seif.md R292–R314) and fabric packets at
their targets (R59–R62, R490).
-/

namespace Sys2Proof.Machine

/-! Slots. -/

/-- The first Lent partition with a transfer ready, searching upward from `start` and wrapping (R74). -/
def State.lendTo (s : State) (ready : BitVec 66) (start : Nat) : Option Nat :=
  (parts64.map (fun i => (start + i) % 64)).find? (fun n => ready.getLsbD n && s.valid n && !s.isStrict n)

/-- The user of a slot and whether it is a blank transfer, by the slot's rotation entry and what is ready: bits 0–63 the
partitions, 64 firmware, 65 the operator (R74, R75, R564). User 0x7F is an idle slot. -/
def State.slotUser (s : State) (e : BitVec 8) (ready : BitVec 66) : Nat × Bool :=
  let owner := fld e 0 7
  let orOperator (u : Option Nat) : Nat := u.getD (if ready.getLsbD 65 then 0x41 else 0x7F)
  if owner < 64 then
    (if ready.getLsbD owner then (owner, false)
     else if e.getLsbD 7 then (owner, true)
     else (orOperator (s.lendTo ready owner), false))
  else if owner = 0x40 then
    (if ready.getLsbD 64 then (0x40, false)
     else if ready.getLsbD 65 then (0x41, false)
     else ((s.lendTo ready 0).getD 0x7F, false))
  else (orOperator (s.lendTo ready 0), false)

/-- Commit arbiter a's next slot (R74, R77). -/
def State.commitSlot (s : State) (a : Nat) (ready : BitVec 66) : State :=
  let x := s.arb a
  let u := s.slotUser (SMap.get 0x7F x.rot (x.index % 256)) ready
  s.setArb a { x with index := x.index + 1, owner := fld (SMap.get 0x7F x.rot (x.index % 256)) 0 7, last := u.1, blank := u.2 }

/-- The user of a slot of a rotation in which each of 66 contexts owns one slot, and whether it is blank (R76, R528): an unused slot of a Strict
partition is, and any other passes to the next context in rotation that is ready. A Strict partition uses no slot but its own (R75). User 0x7F is
an idle slot. -/
def State.rotUser (s : State) (ready : Nat → Bool) (c : Nat) : Nat × Bool :=
  let strict (x : Nat) : Bool := decide (x < 64) && s.isStrict x
  if ready c then (c, false)
  else if strict c then (c, true)
  else (((List.range 66).map (fun j => (c + j) % 66)).find? (fun x => ready x && !strict x) |>.getD 0x7F, false)

/-- The arbiter of the PCIe transmitter in State (R528); 34–36 are the shared engines'. -/
def txArb : Nat := 37

/-- The time of one 256-byte flit on the host link, in ns (R528): 2 at x16 and 64 GT/s. -/
def HostLink.flitTime (h : HostLink) : Nat := 2048 / (h.width * h.rate)

/-- The next slot of the PCIe transmitter (R528): contexts 0–63 are the VFs, 64 the PF and 65 firmware. -/
def State.txSlot (s : State) (ready : BitVec 66) : State :=
  let x := s.arb txArb
  let c := x.index % 66
  let u := s.rotUser ready.getLsbD c
  let s := s.atLeast s.hostl.txAt
  let s := { s with hostl := { s.hostl with txAt := s.now + s.hostl.flitTime } }
  s.setArb txArb { x with index := x.index + 1, owner := c, last := u.1, blank := u.2 }

/-- The ready bit of a tag: a partition's own, firmware's or the operator's (R564). -/
def readyBit (tag : Nat) : Nat := if tag < 64 then tag else if tag = 0x40 then 64 else 65

/-- True for an access that writes a whole line. -/
def HbmReq.whole (r : HbmReq) : Bool :=
  match r.kind with
  | .packet _ (.write bs) => decide (bs.length = 128) && decide (r.off % 128 = 0)
  | .repair _ => true
  | _ => false

/-- True for an access that only reads. -/
def HbmReq.reads (r : HbmReq) : Bool :=
  match r.kind with
  | .packet _ (.read _) => true
  | .blank => true
  | _ => false

/-- The line accesses that a request takes of the eight of a slot (R266, R274). -/
def HbmReq.cost (r : HbmReq) : Nat := if r.whole || r.reads then 1 else 2

/-- From the start of the slot to the completion, in ns (R275). -/
def HbmReq.offset (r : HbmReq) : Nat := if r.reads then 120 else if r.whole then 40 else 150

/-- True when two lines of a controller share a bank: each line with itself, none with a line of another granule (R271, R274). -/
def shareBank (x y : Nat) : Bool := x == y || (x / 3906250 == y / 3906250 && Config.sameBank x y)

/-- True while an earlier access holds the bank of a line at the start of a slot (R274): one of the same slot does, and one of an earlier
slot for as long as the free time `bankBusy` (log entry 133). -/
def Hbm.bankHeld (c : Hbm) (start line : Nat) : Bool :=
  c.banks.any (fun e => shareBank e.1 line && (e.2 == start + 1 || decide (start + 1 < e.2 + Config.bankBusy)))

/-- The chunk that counts as lost for an access committed now (R285), and when it completes (R275). -/
def State.committed (s : State) (k start : Nat) (r : HbmReq) : HbmReq :=
  { r with done := start + r.offset, lost := s.lostChunk k (hbmAt r.off).2 }

/-- Commit a user's accesses to a slot that starts at `start` and has `room` accesses left, in order of arrival (R274): one that does not fit
or whose bank is held is skipped, and so is one whose bank a skipped one waits for. `skipped` are the lines of the skipped ones. -/
def State.takeSlot (k user start : Nat) : Nat → List Nat → List HbmReq → State → State
  | _, _, [], s => s
  | room, skipped, r :: rest, s =>
    let line := (hbmAt r.off).2
    if r.tag ≠ user then
      State.takeSlot k user start room skipped rest (s.updHbm k (fun c => { c with waiting := c.waiting ++ [r] }))
    else if room < r.cost || skipped.any (shareBank line) || (s.hbmc k).bankHeld start line then
      State.takeSlot k user start room (line :: skipped) rest (s.updHbm k (fun c => { c with waiting := c.waiting ++ [r] }))
    else
      let r' := s.committed k start r
      State.takeSlot k user start (room - r.cost) skipped rest (s.updHbm k (fun c => { c with
        banks := SMap.put 0 c.banks line (start + 1), committed := c.committed ++ [r'] }))

/-- Commit what waits for a user to a slot of controller k. -/
def State.fillSlot (s : State) (k user start room : Nat) : State :=
  let w := (s.hbmc k).waiting
  State.takeSlot k user start room [] w (s.updHbm k (fun c => { c with waiting := [] }))

/-- The eight blank lines of partition n behind controller k: firmware keeps them at the top of its page-table area (R272, R274, log entry 132). -/
def State.blankReads (s : State) (k n : Nat) : List HbmReq :=
  match (s.part n).ptArea with
  | some a => (List.range 8).map (fun i => { tag := n, off := hbmOff k ((a + 67108864) / 1024 - 8 + i), kind := .blank })
  | none => []

/-- Slot i of controller k's arbiter starts at its CI13 time (R77): the time, and the state with the arbiter at that slot. -/
def State.slotAt (s : State) (k i : Nat) : Nat × State :=
  let start := ceilDiv (5 * i) 6
  (start, (s.atLeast start).setArb (10 + k) { s.arb (10 + k) with index := i })

/-- The first slot of controller k's arbiter that is not over (R77). -/
def State.slotNow (s : State) (k : Nat) : Nat := max (s.arb (10 + k)).index (6 * s.now / 5)

/-- A slot of HBM controller k (R274, R275, R287): its user's accesses are committed, or the eight reads of a blank transfer; a FAILED
controller answers what waits with a refusal and commits nothing. -/
def State.hbmSlot (s : State) (k : Nat) (ready : BitVec 66) : State :=
  let (start, s) := s.slotAt k (s.slotNow k)
  let c := s.hbmc k
  if c.state = 2 then
    c.waiting.foldl (fun (s : State) r => match r.kind with
      | .packet who _ => s.replyTo who r.tag none
      | _ => s) (s.updHbm k (fun c => { c with waiting := [] }))
  else
    let ready := c.waiting.foldl (fun x r => x ||| BitVec.ofNat 66 (2 ^ readyBit r.tag)) ready
    let s := s.commitSlot (10 + k) ready
    let x := s.arb (10 + k)
    if x.blank then
      let reads := (s.blankReads k x.last).map (s.committed k start)
      s.updHbm k (fun c => { c with committed := c.committed ++ reads })
    else s.fillSlot k x.last start 8

/-- ARBITER_SLOT_START (R74, R77, R564). Arbiters are numbered as `CONFIG_READ` numbers them (R386): 0–3 mesh, 4–7 bridges,
8–9 fabric halves, 10–17 HBM controllers, 18–33 link egress; 34 is the PCIe transmitter (R528). What is ready at a link's egress is what
waits there. -/
def execArbiterSlotStart (a : Fin 35) (ready : BitVec 66) (s : State) : Host.Outcome State Fault Refusal :=
  .next (if 10 ≤ a.val ∧ a.val < 18 then s.hbmSlot (a.val - 10) ready
    else if a.val = 34 then s.txSlot ready
    else if 18 ≤ a.val then s.commitSlot a.val ((s.link (a.val - 18)).egress.foldl
      (fun x e => if e.left = 0 then x else x ||| BitVec.ofNat 66 (2 ^ readyBit e.pkt.tag)) 0)
    else s.commitSlot a.val ready)

/-- The committed access that completes first: the earlier one of two that complete together. -/
def firstDone : List HbmReq → Option (Nat × HbmReq)
  | [] => none
  | r :: t => match firstDone t with
    | some (i, x) => if x.done < r.done then some (i + 1, x) else some (0, r)
    | none => some (0, r)

/-- HBM_ACCESS_COMPLETE (R266, R267, R275, R276): the committed access of controller k that is due first completes at its time; `upset`
marks the chunks of its line that arrive corrupted. Accesses of its line committed before it take effect first. -/
def execHbmAccessComplete (k : CtrlId) (upset : BitVec 9) (s : State) : Host.Outcome State Fault Refusal :=
  .next (match firstDone (s.hbmc k).committed with
    | none => s
    | some (i, r) =>
      let s := (s.atLeast r.done).orderLine k (hbmAt r.off).2 i
      let (res, s) := match r.result with
        | some x => (x, s)
        | none => s.perform k r upset
      let s := s.updHbm k (fun c => { c with committed := c.committed.eraseIdx i })
      match r.kind with
      | .packet who _ => s.replyTo who r.tag res
      | _ => s)

/-! Packets at their targets. -/

/-- The target of a physical address, as a number: an HBM controller, a tile's Local Store or a register unit. -/
def packetTarget (pa : Nat) : Nat :=
  match paSpace pa with
  | 0 => (hbmAt (paOff pa)).1
  | 1 => 16 + paOff pa / 2 ^ 24 % 64
  | 2 => 256 + paOff pa / 2 ^ 24 % 256
  | _ => 1023

/-- An access at the device that owns the address; a firmware write into a partition's mailbox block is the block's (R3, R368). -/
def State.accessBox (s : State) (tag pa : Nat) (op : MemOp) : AccRes × State :=
  let u := paOff pa / 2 ^ 24
  let off := paOff pa % 2 ^ 24
  match op with
  | .write bs =>
    if tag = 0x40 ∧ !s.badAddress pa ∧ paDev pa = s.deviceNum ∧ paSpace pa = 2 ∧ 0xC0 ≤ u ∧ off < 0x3000 then
      (match s.boxPut (Fin.ofNat 65 (u - 0xC0)) off bs with
       | some s => (.ok [], s)
       | none => (.refused, s.refuse 0x0403 tag pa))
    else s.access tag pa op
  | _ => s.access tag pa op

/-- An access that came in a packet is served (R61, R62, R67, R312): one to one HBM line waits at its controller for a slot of its tag; others
are performed at once. -/
def State.serveAccess (s : State) (who : Requester) (tag pa : Nat) (op : MemOp) : State :=
  let k := (hbmAt (paOff pa)).1
  if !s.badAddress pa ∧ paDev pa = s.deviceNum ∧ paSpace pa = 0 ∧ pa % 128 + opLen op ≤ 128 ∧ s.tagOk tag pa op ∧ (s.hbmc k).state ≠ 2 then
    s.updHbm k (fun c => { c with waiting := c.waiting ++ [{ tag := tag, off := paOff pa, kind := .packet who op }] })
  else
    match s.accessBox tag pa op with
    | (.ok bs, s) => s.replyTo who tag (some bs)
    | (.refused, s) => s.replyTo who tag none
    | (.remote, s) => s

/-- A reserved tag that passes the CRC (R59). The spec does not say which router's target names itself in `UNIT`: router 0 does (log entry 137). -/
def State.reservedTag (s : State) (pa : Nat) : State :=
  s.devFatal { mkRec 0x0401 2 with unit := unitRouter 0, addr := pa, detail := 1 }

/-- FABRIC_PACKET_ARRIVE (R59, R61, R490): CRC and sequence, one resend, the tag, then the access. -/
def execFabricPacketArrive (p : Packet) (s : State) : Host.Outcome State Fault Refusal :=
  let key := p.unit * 1024 + packetTarget p.pa.toNat
  let asked := s.fabric.asked.contains (key, p.seq)
  let drop (s : State) : State := { s with fabric := { s.fabric with asked := s.fabric.asked.filter (fun x => x != (key, p.seq)) } }
  let r : ErrRec := { mkRec 0x0401 0 with unit := unitRouter 0, addr := p.pa.toNat }
  .next (if !p.crcOk ∨ p.seq ≠ SMap.get 0 s.fabric.nextSeq key then
      (if !asked then
        { s with fabric := { s.fabric with asked := (key, p.seq) :: s.fabric.asked } }.emit (.resend p.unit p.seq)
       else if p.tag.toNat < 64 ∧ s.valid p.tag.toNat then (drop s).partFatal p.tag.toNat r
       else (drop s).devFatal r)
    else
      let s := if asked then (drop s).record { r with part := if p.tag.toNat < 64 then p.tag.toNat else 0x7F } else s
      let s := { s with fabric := { s.fabric with nextSeq := SMap.put 0 s.fabric.nextSeq key (p.seq + 1) } }
      if 0x42 ≤ p.tag.toNat then s.reservedTag p.pa.toNat
      else s.serveAccess { dev := s.deviceNum, unit := p.unit } p.tag.toNat p.pa.toNat p.op)

/-! Link flits. -/

/-- The acknowledged number that a flit carries: the last one received in order (R294, R297). -/
def Link.ack (x : Link) : Nat := (x.rxSeq + 4095) % 4096

/-- Set the `ACK`, `NAK` and credit fields of a flit and close it with its CRC (R294). -/
def Link.close (x : Link) (bits : BitVec 2048) (vc cnt : Nat) : BitVec 2048 :=
  let b := setFld (setFld (setFld (setFld bits 14 12 x.ack) 26 1 (b2n x.nakDue)) 38 3 vc) 41 7 cnt
  setFld b 2016 32 (crc32 (leBytes 252 b.toNat))

/-- The credits that the next flit returns: the lowest virtual channel that is owed any (R294). -/
def Link.returns (x : Link) : Nat × Nat :=
  match x.owed with
  | (vc, n) :: _ => (vc, min n 127)
  | [] => (0, 0)

/-- Send a flit with the current acknowledgement and returned credits. -/
def State.sendFlit (s : State) (l : LinkId) (bits : BitVec 2048) : State :=
  let x := s.link l
  let (vc, n) := x.returns
  (s.setLink l { x with nakDue := false, owed := SMap.upd 0 x.owed vc (· - n) }).emit (.flit l (x.close bits vc n))

/-- The packet whose next flit a slot of a tag carries: the first at the egress for which its channel has a credit (R294, R308, R311). -/
def Link.nextFor (x : Link) (tag : Nat) : Option Egress :=
  x.egress.find? (fun e => e.pkt.tag == tag && e.left != 0 && SMap.get 0 x.credits e.vc != 0)

/-- A packet as its first flit leaves: a chain recall says whether it arrives more than 8 ms after the failed pass's end (R328), a link leg of 390
ns later (R312). -/
def stamp (now : Nat) (p : NetPacket) : NetPacket :=
  match p.body with
  | .chainRecall r => { p with body := .chainRecall { r with late := r.late || decide (r.winEnd.toNat + 8000000 < now + 390) } }
  | _ => p

/-- The 244 bytes of flit j of a packet: its bytes, and zeros in the unused tail of its last flit (R295). -/
def flitData (p : NetPacket) (j : Nat) : List Byte :=
  (List.range 244).map (fun i => if 244 * j + i < netSize p then Config.netByte p (244 * j + i) else 0)

/-- Number a flit, keep it for replay and send it (R297). -/
def State.sendNumbered (s : State) (l : LinkId) (bits : BitVec 2048) (key : Option Nat) : State :=
  let x := s.link l
  let s := s.setLink l { x with
    txSeq := (x.txSeq + 1) % 4096, ackTime := if x.replayBuf.isEmpty then s.now else x.ackTime,
    replayBuf := x.replayBuf ++ [{ seq := x.txSeq, bits := bits, sends := 1, key := key }] }
  s.sendFlit l bits

/-- LINK_FLIT_SEND (R294–R297, R308): the flit of the egress slot committed last: the next flit of its user's packet where a credit allows, the
Strict owner's blank, else an idle flit, with the tag of the slot's user or owner. -/
def execLinkFlitSend (l : LinkId) (s : State) : Host.Outcome State Fault Refusal :=
  let x := s.link l
  .next (if x.state ≠ 2 then s
    else
      let slot := s.arb (18 + l)
      let s := s.setArb (18 + l) { slot with owner := 0x7F, last := 0x7F, blank := false }
      let tag := if slot.last ≤ 0x41 then slot.last else if slot.owner ≤ 0x41 then slot.owner else 0
      let head (kind : Nat) : BitVec 2048 := setFld (setFld (setFld 0 0 2 kind) 2 12 x.txSeq) 27 7 tag
      let idle (s : State) : State := s.sendFlit l (setFld 0 27 7 tag)
      if slot.last = 0x7F ∨ 512 ≤ x.replayBuf.length then idle s
      else if slot.blank then s.sendNumbered l (head 2) none
      else match x.nextFor slot.last with
        | none => idle s
        | some e =>
          let p := if e.sent = 0 then stamp s.now e.pkt else e.pkt
          let s := s.updLink l (fun y => { y with
            credits := SMap.upd 0 y.credits e.vc (· - 1),
            egress := y.egress.map (fun z => if z.key = e.key then { z with pkt := p, sent := z.sent + 1, left := z.left - 1 } else z) })
          s.sendNumbered l (setFld (setFld (setFld (head 1) 34 3 e.vc) 37 1 (b2n (e.sent == 0))) 64 1952 (leNat (flitData p e.sent))) (some e.key))

/-- Drop the flits that an `ACK` covers from the replay buffer (R297). -/
def ackFlits (ack : Nat) (buf : List SentFlit) : List SentFlit :=
  match buf with
  | [] => []
  | f :: _ =>
    let n := (ack + 4096 - f.seq) % 4096 + 1
    if n ≤ buf.length then buf.drop n else buf

/-- The packets of a link that are not wholly acknowledged (R301). -/
def Link.prune (x : Link) : Link :=
  { x with egress := x.egress.filter (fun e => e.left != 0 || x.replayBuf.any (fun f => f.key == some e.key)) }

/-- A chain packet is lost: its chain breaks (R301, R324). This device detects it, so BREAK goes to the member that sent it and to the member that
it was for, and on along the list from a member of this device. -/
def State.breakLost (s : State) (p : NetPacket) (t : TileId) (chain : BitVec 6) (msg : BitVec 32) : State :=
  let tell (s : State) (dev : Nat) (t : TileId) : State :=
    if dev = s.deviceNum then (match s.startedStep t chain.toNat with
      | some (i, c, _) => if c.msg = msg then s.breakHere t i c true else s
      | none => s)
    else if s.routeUp dev then s.netSend { p with src := s.deviceNum, dst := dev, body := .brk t chain msg }
    else s
  tell (tell s p.src (Fin.ofNat 64 p.unit)) p.dst t

/-- A packet is lost with its link, or cannot be forwarded (R301, R303): a request's source and a response's requester get an error response, a
chain breaks, and a recall is sent again. -/
def State.losePacket (s : State) (p : NetPacket) : State :=
  let fail (s : State) (dev : Nat) (a : NetBody) : State :=
    if s.routeUp dev then s.netSend { p with src := s.deviceNum, dst := dev, body := a } else s
  match p.body with
  | .request _ _ => if p.src = s.deviceNum then (s.answerRemote p.id none).windowDone else fail s p.src (.response none)
  | .response _ => fail s p.dst (.response none)
  | .rows t c => s.breakLost p t c.chain c.msg
  | .done t c => s.breakLost p t c.chain c.msg
  | .brk t chain msg => fail s p.dst (.brk t chain msg)
  | .chainRecall _ => if p.src = s.deviceNum then s.recallAnswered p.id false else fail s p.src (.recallAnswer false)
  | .recallAnswer _ => fail s p.dst (.recallAnswer false)

/-- A packet goes on to another device (R306, R310): where no link leads on, this device logs it and it is lost (R303). -/
def State.transit (s : State) (came : Option (Nat × Bool)) (p : NetPacket) : State :=
  match s.netPut p came with
  | some s => s
  | none => (s.routeDown p).losePacket p

/-- A whole packet has come over link l on a channel (R67, R295, R310, R312): it goes on, or it has arrived. Rows and DONE wait for their member
(R320). -/
def State.netArrive (s : State) (l vc : Nat) (p : NetPacket) : State :=
  if p.dst ≠ s.deviceNum then s.transit (some (l, vc % 2 == 1)) p
  else match p.body with
    | .request pa op =>
      if 0x42 ≤ p.tag then s.reservedTag pa.toNat
      else s.serveAccess { dev := p.src, unit := p.unit, id := p.id } p.tag pa.toNat op
    | .response d => (s.answerRemote p.id d).windowDone
    | .rows _ _ => s.offer p.body
    | .done _ _ => s.offer p.body
    | .brk t chain msg => s.breakReceived t chain msg
    | .chainRecall r =>
      let (ok, s) := s.recallReceived r
      s.netSend { tag := 0x40, src := s.deviceNum, unit := 136, dst := p.src, id := p.id, body := .recallAnswer ok }
    | .recallAnswer ok => s.recallAnswered p.id ok

/-- LINK_FLIT_RECEIVE (R294, R295, R298): the CRC, then `ACK`, `NAK` and credits, then the sequence check of a numbered flit; a data flit's
bytes join the stream of its tag and channel, and a packet that is whole goes on its way. -/
def execLinkFlitReceive (l : LinkId) (flit : BitVec 2048) (s : State) : Host.Outcome State Fault Refusal :=
  let x := s.link l
  let kind := fld flit 0 2
  let numbered : Bool := kind == 1 || kind == 2
  let reject (x : Link) : Link := if x.discarding then x else { x with nakDue := true, discarding := true }
  .next (if x.state ≠ 2 then s
    else if crc32 (leBytes 252 flit.toNat) ≠ fld flit 2016 32 then
      let x := { x with crcErr := BitVec.ofNat 32 (satAdd 32 x.crcErr.toNat 1) }
      s.setLink l (if numbered then reject x else x)
    else
      let buf := ackFlits (fld flit 14 12) x.replayBuf
      let x := Link.prune { x with
        replayBuf := buf, ackTime := if buf.length < x.replayBuf.length then s.now else x.ackTime,
        replayDue := x.replayDue || fld flit 26 1 == 1,
        credits := if fld flit 38 3 < 6 then SMap.upd 0 x.credits (fld flit 38 3) (· + fld flit 41 7) else x.credits }
      if !numbered then s.setLink l x
      else if fld flit 2 12 ≠ x.rxSeq then s.setLink l (reject x)
      else
        let x := { x with rxSeq := (x.rxSeq + 1) % 4096, discarding := false }
        let vc := fld flit 34 3
        if kind = 2 ∨ 6 ≤ vc then s.setLink l x
        else
          let key := fld flit 27 7 * 8 + vc
          let data := leBytes 244 (fld flit 64 1952)
          let bytes := if flit.getLsbD 37 then data else SMap.get [] x.streams key ++ data
          let x := { x with owed := SMap.upd 0 x.owed vc (· + 1) }
          match Config.netPacket bytes with
          | none => s.setLink l { x with streams := SMap.put [] x.streams key bytes }
          | some p => (s.setLink l { x with streams := SMap.put [] x.streams key [] }).netArrive l vc p)

/-- LINK_REPLAY (R299): every buffered flit is sent again in order with the current acknowledgement, as a masked record. -/
def execLinkReplay (l : LinkId) (s : State) : Host.Outcome State Fault Refusal :=
  let x := s.link l
  .next (if x.state ≠ 2 ∨ x.replayBuf.isEmpty then s
    else
      let s := if x.replayDue then s else s.atLeast (x.ackTime + 2000)
      let s := s.record { mkRec 0x0404 0 with unit := unitLink l }
      let s := s.updLink l (fun x => { x with
        replayDue := false, ackTime := s.now, replays := BitVec.ofNat 32 (satAdd 32 x.replays.toNat 1),
        replayBuf := x.replayBuf.map (fun f => { f with sends := f.sends + 1 }) })
      x.replayBuf.foldl (fun s f => s.sendFlit l f.bits) s)

/-- A link goes DOWN and trains again (R293, R300, R301, R303): unacknowledged flits, partial packets and credits are lost; packets of which no
flit was sent move to the remaining links of their group, and the others are lost. -/
def State.linkDown (s : State) (l : Nat) : State :=
  let x := s.link l
  if x.state ≠ 2 then s
  else
    let s := s.setLink l { x with
      state := 1, txSeq := 0, rxSeq := 0, replayBuf := [], nakDue := false, discarding := false, replayDue := false, credits := [],
      owed := [], streams := [], egress := [], farDev := 0, farLink := 0 }
    let s := s.record { mkRec 0x0405 3 with unit := unitLink l }
    x.egress.foldl (fun s e => if e.sent = 0 then s.transit e.came e.pkt else s.losePacket e.pkt) s

/-- LINK_FAILED_AFTER_REPLAY (R300, R301): a flit was sent 8 times without acknowledgement. -/
def execLinkFailedAfterReplay (l : LinkId) (s : State) : Host.Outcome State Fault Refusal :=
  .next (if (s.link l).replayBuf.any (fun f => decide (8 ≤ f.sends)) then s.linkDown l else s)

/-- True when the shape of the erg in force keeps the rules of R304. -/
def State.ergOk (s : State) : Bool := ergShape s.ergSize (s.field 0x0003) (s.field 0x0004)

/-- The device that the topology puts at the far end of link l; none where its dimension uses no links (R305). -/
def State.neighbour (s : State) (l : Nat) : Option Nat :=
  let ex := s.field 0x0003
  let ey := s.field 0x0004
  let x := s.deviceNum % ex
  let y := s.deviceNum / ex
  if !s.ergOk then none
  else if l < 8 then (if ex < 2 then none else some ((if l < 4 then (x + 1) % ex else (x + ex - 1) % ex) + y * ex))
  else if ey < 2 then none else some (x + (if l < 12 then (y + 1) % ey else (y + ey - 1) % ey) * ex)

/-- A training failure: the link is DOWN; the third within 1 s is FAILED until the next reset (R293, R300). -/
def State.trainFailed (s : State) (l : Nat) : State :=
  let x := s.link l
  let f := (x.failures.filter (fun t => decide (s.now < t + 1000000000))) ++ [s.now]
  s.setLink l { x with state := if 3 ≤ f.length then 3 else 0, failures := f }

/-- LINK_TRAINING_END (R293, R304, R305, R308): the link comes up at the neighbour with 64 credits on each channel; a wrong far end
leaves it DOWN as LINK_MISWIRED. -/
def execLinkTrainingEnd (l : LinkId) (r : LinkTraining) (s : State) : Host.Outcome State Fault Refusal :=
  let x := s.link l
  .next (if 2 ≤ x.state.toNat ∨ !s.tilesUp ∨ s.plant.lost.contains (10 + l.val / 8) then s
    else
      match s.neighbour l with
      | none => s.setLink l { x with state := 0 }
      | some d =>
        match r with
        | .up dev link =>
          if dev.toNat = d then
            s.setLink l { x with
              state := 2, farDev := dev, farLink := link, ackTime := s.now,
              credits := SMap.putMany 0 [] 0 (List.replicate 6 64) }
          else
            (s.setLink l { x with state := 0, farDev := dev, farLink := link }).record { mkRec 0x0406 3 with unit := unitLink l }
        | .laneFailed => s.trainFailed l
        | .timedOut => s.trainFailed l)

end Sys2Proof.Machine
end

