-- ==== Sys2Proof/Machine/Plant.lean ====
section
/-!
DEFINITION. Power, clocks and HBM as the plant: pace monitors (R38–R40), the power loop (R41, R42), pace lock (R43–R46), loss of a
clock (R48, R49), ratings (R26, R491, R541), the board's thermal and power pins (R542, R544), and the temperature, scrub,
refresh and lost dies of HBM (R277, R278, R283–R288).
-/

namespace Sys2Proof.Machine

def State.setPlant (s : State) (f : Plant → Plant) : State := { s with plant := f s.plant }

/-- The first multiple of a period that is neither before `now` nor before `next`: a periodic event happens once in a period. -/
def dueAt (period now next : Nat) : Nat := ceilDiv (max now next) period * period

/-! Service floors (R513). -/

/-- True when a shared unit failed at the self-test (R509), by `UNIT`. -/
def State.unitBad (s : State) (u : Nat) : Bool := s.boot.sharedFail.contains u

/-- Go to a floor and to its device state (R513). -/
def State.setFloor (s : State) (f : Nat) : State :=
  let d : DevState := if f = 0 then .floor0 else .ready
  parts64.foldl (fun s n => s.partChange n id) ({ s with boot := { s.boot with floor := BitVec.ofNat 8 f } }.setDev d)

/-- The floor after the entropy unit became permanently failed (R513): Floor 2 needs it. -/
def State.loseEntropy (s : State) : State :=
  if s.boot.opened && s.boot.floor == 2 && !s.boot.fault then s.setFloor 1 else s

/-! HBM. -/

/-- The `VID` code of a die's rail; 26 before the loop moves it (R542). -/
def Plant.code (p : Plant) (d : Nat) : Nat := SMap.get 26 p.rails d

/-- The setpoint of a die's rail in mV (R542). -/
def Plant.setpoint (p : Plant) (d : Nat) : Nat := 620 + 5 * p.code d

/-- HBM_TEMP_READ (R278, R544): every 1 ms pair 3 reads the stacks; 90 °C or above starts the response, 115 °C trips. -/
def execHbmTempRead (temps : List (CtrlId × BitVec 8)) (s : State) : Host.Outcome State Fault Refusal :=
  let s := s.atLeast (dueAt 1000000 s.now s.plant.nextTemp)
  let s := s.setPlant (fun p => { p with nextTemp := s.now + 1000000 })
  let s := temps.foldl (fun (s : State) x => s.updHbm x.1 (fun c => { c with
    temp := x.2, thermal := decide (90 ≤ x.2.toNat),
    hotSince := if x.2.toNat ≤ 95 then none else some (c.hotSince.getD s.now) })) s
  .next (s.setPlant (fun p => { p with thermtrip := p.thermtrip || temps.any (fun x => decide (115 ≤ x.2.toNat)) }))

/-- HBM_THERMAL (R278): a stack above 95 °C for 10 ms stops its controller, which enters FAILED. -/
def execHbmThermal (k : CtrlId) (s : State) : Host.Outcome State Fault Refusal :=
  .next (match (s.hbmc k).hotSince with
    | some t => if (s.hbmc k).state = 2 then s else (s.atLeast (t + 10000000)).failController k (some { mkRec 0x0306 1 with
        unit := unitHbm k, detail := hbmDetail k 0xF 0 0 0 false false 0x7F })
    | none => s)

/-- HBM_SCRUB_READ (R283, R284): at its due time the line due next takes the next device slot of its controller, where it is read, decoded,
and repaired or poisoned. Two of the slot's accesses are kept for it (log entry 133), and waiting firmware accesses take the rest. -/
def execHbmScrubRead (k : CtrlId) (upset : BitVec 9) (s : State) : Host.Outcome State Fault Refusal :=
  let c := s.hbmc k
  .next (match c.scrub with
    | none => s
    | some (start, hours) =>
      if c.state = 2 then s
      else
        let s := s.atLeast (start + c.nextLine * 14400 * hours)
        let s := s.updHbm k (Hbm.roll s.now)
        let l := (s.hbmc k).nextLine
        let (t, s) := s.slotAt k (ceilDiv (s.slotNow k) 32 * 32)
        let s := s.setArb (10 + k) { s.arb (10 + k) with index := (s.arb (10 + k)).index + 1, last := 0x40, blank := false }
        let s := (s.readLine k l upset true).2
        let s := s.updHbm k (fun c => { c with nextLine := l + 1, banks := SMap.put 0 c.banks l (t + 1) })
        s.fillSlot k 0x40 t 6)

/-- HBM_REFRESH (R277): refresh takes positions that no slot uses and changes nothing else. -/
def execHbmRefresh (k : CtrlId) (s : State) : Host.Outcome State Fault Refusal :=
  .next (s.updHbm k (fun c => { c with refreshes := c.refreshes + 1 }))

/-- Pair 3 declares a die LOST (R285–R288): the first makes its controller DEGRADED, a second FAILED; the map keeps it. -/
def State.loseDie (s : State) (k die : Nat) : State :=
  let c := s.hbmc k
  if SMap.get 0 c.dieState die = 2 then s
  else
    let first := c.lostDie == 0xF
    let s := s.updHbm k (fun c => { c with
      dieState := SMap.put 0 c.dieState die 2, state := if c.state = 0 then 1 else c.state,
      lostDie := if first then BitVec.ofNat 4 die else c.lostDie })
    let s := { s with boot := { s.boot with lostDies := if s.boot.lostDies.contains (k * 12 + die) then s.boot.lostDies else s.boot.lostDies ++ [k * 12 + die] } }
    let s := s.record { mkRec 0x0304 0 with
      unit := unitHbm k, detail := hbmDetail k die 0 0 (SMap.get 0 c.corrected die).toNat false false 0x7F }
    if c.state = 1 then s.failController k none else s

/-- True when a die has 256 corrected errors at distinct chunk addresses within some 1 s, or 4,096 since cold reset (R285). -/
def Hbm.overErrors (c : Hbm) (die : Nat) : Bool :=
  let ts := (c.errs.filter (fun e => e.1 == die)).map (fun e => e.2.2)
  decide (4096 ≤ (SMap.get 0 c.corrected die).toNat)
    || ts.any (fun t => decide (256 ≤ (ts.filter (fun u => decide (u ≤ t) && decide (t < u + 1000000000))).length))

/-- HBM_DIE_LOST (R285). -/
def execHbmDieLost (k : CtrlId) (die : Fin 12) (s : State) : Host.Outcome State Fault Refusal :=
  .next (if (s.hbmc k).overErrors die then s.loseDie k die else s)

/-! Pace monitors and the power loop. -/

/-- The die that a pace monitor lies on; the Control Die's monitors lie on none (R38). -/
def monitorDie (m : Nat) : Option Nat :=
  if m < 64 then some (m / 16) else if 72 ≤ m then some (m - 72) else none

/-- The readers that keep their own minimum of a monitor (R39): the operator (64) and pair 3 (65), and every partition for a tile's
monitor; no partition reads another (R40). -/
def readersOf (m : Nat) : List Nat := (if m < 64 then parts64 else []) ++ [64, 65]

/-- A monitor's register and every reader's minimum of it read zero (R38). -/
def Plant.clearPace (p : Plant) (m : Nat) : Plant :=
  { p with pace := SMap.put {} p.pace m {}, minByReader := p.minByReader.filter (fun e => e.1 % 128 != m) }

/-- One monitor's window (R38, R39, R46): its register, its minima, and the deficit of a pace-locked tile, which raises its die's
rail by 10 mV at once. The spec does not say whether a reading that stays low, or a second low tile of the die in one window, raises the
rail again: each low reading does (log entry 118). -/
def State.paceWindow (s : State) (r : PaceReading) : State :=
  let m := r.monitor.val
  if 72 ≤ m ∧ SMap.get 0xFF s.boot.spares (m - 72) ≠ 0xFF then s.setPlant (fun p => p.clearPace m)
  else
    let lock := if m < 64 then s.lockOf m else none
    let mins := (readersOf m).foldl (fun x reader =>
      SMap.upd none x (reader * 128 + m) (fun v => some (match v with
        | some a => if a.toNat ≤ r.rate.toNat then a else r.rate
        | none => r.rate))) s.plant.minByReader
    let s := s.setPlant (fun p => { p with
      minByReader := mins,
      pace := SMap.put {} p.pace m { pace := r.rate, railMv := r.railMv, tj := r.tj, locked := lock.isSome, valid := true },
      thermtrip := p.thermtrip || decide (115 ≤ r.tj.toNat) })
    match lock with
    | none => s.setPlant (fun p => { p with lowSince := SMap.put 0 p.lowSince m 0 })
    | some rate =>
      let s := if r.rate.toNat < rate + 10 then
          s.setPlant (fun p => { p with rails := SMap.put 26 p.rails (m / 16) (min 52 (p.code (m / 16) + 2)) })
        else s
      s.setPlant (fun p => { p with
        lowSince := if rate ≤ r.rate.toNat then SMap.put 0 p.lowSince m 0
          else if SMap.get 0 p.lowSince m = 0 then SMap.put 0 p.lowSince m (s.now + 1) else p.lowSince })

/-- PACE_WINDOW_END (R39): the windows of 10 µs end. -/
def execPaceWindowEnd (readings : List PaceReading) (s : State) : Host.Outcome State Fault Refusal :=
  .next (if !s.plant.ciRunning then s
    else
      let s := s.atLeast (dueAt 10000 s.now s.plant.nextWindow)
      readings.foldl (fun s r => s.paceWindow r) (s.setPlant (fun p => { p with nextWindow := s.now + 10000 })))

/-- The hottest junction that the monitors of die d show. -/
def State.dieTj (s : State) (d : Nat) : Nat :=
  s.plant.pace.foldl (fun a e => if monitorDie e.1 = some d then max a e.2.tj.toNat else a) 0

/-- Dies in order of temperature, the hottest first; equal ones by number. -/
def State.hottest (s : State) : List Nat :=
  [0, 1, 2, 3].foldl (fun l d =>
    (l.takeWhile (fun x => decide (s.dieTj d ≤ s.dieTj x))) ++ d :: l.dropWhile (fun x => decide (s.dieTj d ≤ s.dieTj x))) []

/-- The lowest rate among the unlocked, available tiles of die d with a completed window (R41). -/
def State.slowest (s : State) (d : Nat) : Option Nat :=
  ((List.range 16).map (fun i => 16 * d + i)).foldl (fun a t =>
    let p := SMap.get {} s.plant.pace t
    if p.valid && !(s.tile t).health.unavailable && (s.lockOf t).isNone then
      some (match a with
        | some x => min x p.pace.toNat
        | none => p.pace.toNat)
    else a) none

/-- The rails after one tick (R41): 5 mV down on the hottest die that can go lower while power is over the envelope and on every die
beside a stack at 90 °C, else 5 mV up on a die whose slowest unlocked tile is below its target. -/
def State.loopRails (s : State) (above : Bool) : SMap Nat :=
  let code := s.plant.code
  let hot (d : Nat) : Bool := (s.hbmc (2 * d)).thermal || (s.hbmc (2 * d + 1)).thermal
  let down : Option Nat := if above then s.hottest.find? (fun d => decide (0 < code d)) else none
  [0, 1, 2, 3].foldl (fun m d =>
    let want : Bool := match s.slowest d with
      | some x => decide (x < s.field (0x0021 + d))
      | none => false
    let c := if down = some d ∨ hot d then code d - 1
      else if !above && want then min 52 (code d + 1) else code d
    SMap.put 26 m d c) s.plant.rails

/-- The throttle after one tick (R42, R544): lowered in steps of 0.01 G beats/s to 0.34 while power stays over the envelope with every
rail at its lowest, lifted in the same steps once power is 2 % below it. -/
def State.loopThrottle (s : State) (above : Bool) (watts : Nat) : Option Nat :=
  let floor := [0, 1, 2, 3].all (fun d => s.plant.code d == 0)
  match s.plant.throttle with
  | none => if above && floor then some 680 else none
  | some r =>
    if s.plant.brake then some 340
    else if above && floor then some (max 340 (r - 10))
    else if 100 * watts ≤ 98 * s.envelopeW then (if 680 ≤ r then none else some (r + 10))
    else some r

/-- True when a monitor's rail is outside its range (R541): a tile rail 0.620–0.895 V and at most 15 mV above its setpoint, VDD_C
within 2 % of 0.80 V. -/
def State.railBad (s : State) (m : Nat) : Bool :=
  let v := (SMap.get {} s.plant.pace m).railMv.toNat
  match monitorDie m with
  | some d => decide (v < 620) || decide (895 < v) || decide (s.plant.setpoint d + 15 < v)
  | none => decide (v < 784) || decide (816 < v)

/-- The counts of consecutive ticks out of rating (R491). -/
def State.ratingCounts (s : State) : SMap Nat :=
  (List.range 76).foldl (fun b m =>
    let p := SMap.get {} s.plant.pace m
    let count (bad : Bool) (key : Nat) (b : SMap Nat) : SMap Nat := if p.valid && bad then SMap.upd 0 b key (· + 1) else SMap.put 0 b key 0
    count (decide (105 < p.tj.toNat)) (2 * m + 1) (count (s.railBad m) (2 * m) b)) s.plant.bad

/-- Operator profiling samples every partition that is not confidential while the debug facilities are available (R19, R451). The spec gives neither
the times nor the form of the samples: one each at every tick, the newest 2^20 (log entry 105). -/
def State.profile (s : State) : State :=
  if !s.debugOn then s
  else
    let l := (parts64.filter (fun n => s.valid n && !(s.part n).conf)).map (fun n => ({
      time := s.now, part := n, open_ := (s.ledgerOf n).length,
      hand := ((s.tilesOf n).map (fun t => (s.tile t).hand.length)).sum,
      slots := (s.arbs.filter (fun e => e.2.last == n)).length } : TraceEntry))
    let all := s.hostl.trace ++ l
    { s with hostl := { s.hostl with trace := all.drop (all.length - 2 ^ 20) } }

/-- POWER_LOOP_TICK (R41, R42, R491, R542): every 100 µs the monitors and the module power are read, which clears pair 3's own minima
(R39), the rails move by at most 5 mV, and the throttle follows. `VR_HOT#` counts as over the envelope at the tick that follows it. -/
def execPowerLoopTick (watts : BitVec 16) (s : State) : Host.Outcome State Fault Refusal :=
  .next (if !s.plant.ciRunning then s
    else
      let s := s.atLeast (dueAt 100000 s.now s.plant.nextTick)
      let above := decide (s.envelopeW < watts.toNat) || s.plant.vrHot
      let bad := s.ratingCounts
      let rails := s.loopRails above
      let thr := s.loopThrottle above watts.toNat
      State.profile (s.setPlant (fun p => { p with
        rails := rails, throttle := thr, bad := bad, vrHot := false, watts := watts, nextTick := s.now + 100000,
        minByReader := p.minByReader.filter (fun e => e.1 / 128 != 65),
        powerLog := p.powerLog.filter (fun x => decide (s.now < x.1 + 1000000000)) ++ [(s.now, watts.toNat)] })))

/-- The module power averaged over 1 s (R535). -/
def Plant.avgWatts (p : Plant) : Nat :=
  if p.powerLog.isEmpty then 0 else (p.powerLog.map (·.2)).sum / p.powerLog.length

/-- PACE_DEFICIT (R46): the reading of a pace-locked tile stayed below its rate for 100 µs; partition-fatal to every pace-locked
partition with a tile on the die. -/
def execPaceDeficit (t : TileId) (s : State) : Host.Outcome State Fault Refusal :=
  let since := SMap.get 0 s.plant.lowSince t
  let d := t.val / 16
  .next (if since = 0 then s
    else
      let s := (s.atLeast (since - 1 + 100000)).setPlant (fun p => { p with lowSince := SMap.put 0 p.lowSince t 0 })
      let ns := parts64.filter (fun n => s.valid n && (s.part n).paceRate.isSome && (s.tilesOf n).any (fun u => u / 16 == d))
      let r : ErrRec := { mkRec 0x0106 1 with tile := t, unit := unitTile t }
      match ns with
      | [] => s
      | [n] => s.partFatal n r
      | _ => (s.fatalTo ns r).countFatal r)

/-- `UNIT` of the unit a pace monitor watches (R38, R492). -/
def monitorUnit (m : Nat) : Nat :=
  if m < 64 then unitTile m else if m < 68 then unitPair (m - 64) else if m = 68 then unitBank 0 else if m = 69 then unitEngine 0
  else unitRouter (m - 70)

/-- OUT_OF_RATING (R491): two consecutive ticks out of range are device-fatal. -/
def execOutOfRating (what : RatingFault) (s : State) : Host.Outcome State Fault Refusal :=
  let (m, key) := match what with
    | .rail m => (m.val, 2 * m.val)
    | .junction m => (m.val, 2 * m.val + 1)
  .next (if SMap.get 0 s.plant.bad key < 2 then s
    else (s.setPlant (fun p => { p with bad := SMap.put 0 p.bad key 0 })).devFatal
      { mkRec 0x0508 2 with unit := monitorUnit m, tile := if m < 64 then m else 0xFF })

/-- The tiles that a token released for partition n reaches: its own while it is pace-locked (R43), else every tile that is not
pace-locked while the common throttle runs (R42). -/
def State.tokenTiles (s : State) (n : Nat) : List Nat :=
  if !s.plant.ciRunning then []
  else if (s.part n).paceRate.isSome then s.tilesOf n
  else if s.plant.throttle.isSome then (List.range 64).filter (fun t => (s.lockOf t).isNone)
  else []

/-- TOKEN_RELEASE (R42, R43): every unit of the tiles that the token reaches banks it unless it holds two. -/
def execTokenRelease (n : PartId) (s : State) : Host.Outcome State Fault Refusal :=
  .next ((s.tokenTiles n).foldl (fun s t => s.updTile t (fun x => { x with tokens := bankTokens x.tokens })) s)

/-! Board pins. -/

/-- PWR_BRAKE_ASSERT (R544): every tile that is not pace-locked is throttled to 0.34 G beats/s. -/
def execPwrBrakeAssert (s : State) : Host.Outcome State Fault Refusal :=
  .next (s.setPlant (fun p => { p with brake := true, throttle := some 340 }))

/-- PWR_BRAKE_RELEASE (R544): the throttle is lifted in steps from the next tick on. -/
def execPwrBrakeRelease (s : State) : Host.Outcome State Fault Refusal := .next (s.setPlant (fun p => { p with brake := false }))

/-- VR_HOT_ASSERT (R542). -/
def execVrHotAssert (s : State) : Host.Outcome State Fault Refusal := .next (s.setPlant (fun p => { p with vrHot := true }))

/-- The chains with a hop over the links of an island break (R49): each started step of this device whose neighbour in the list is reached over
them alone. -/
def State.breakOver (s : State) (ls : List Nat) : State :=
  (List.range 64).foldl (fun (s : State) t => match s.stepAt t with
    | none => s
    | some (i, c, ch) =>
      let lies (k : Nat) : Bool := decide (k < ch.members.length) && (let d := (ch.memberAt k).1
        d != s.deviceNum && (s.routeLinks d).all (fun l => ls.contains l))
      if (s.led i).crun.started && ((c.member != 0 && lies (c.member - 1)) || lies (c.member + 1)) then s.breakHere t i c true else s) s

/-- CLOCK_LOSS (R48, R49): the action of the island in the clocked-islands table; CI14 is not watched. -/
def execClockLoss (island : Fin 15) (s : State) : Host.Outcome State Fault Refusal :=
  let i := island.val
  let r : ErrRec := { mkRec 0x0507 3 with unit := unitIsland i }
  .next (if i = 0 ∨ i = 14 ∨ s.plant.lost.contains i then s
    else
      let s := s.setPlant (fun p => { p with lost := i :: p.lost })
      if i = 1 then { s with hostl := { s.hostl with width := 0 } }.record r
      else if i < 10 then s.loseController (i - 2) { mkRec 0x0507 1 with unit := unitIsland i }
      else if i < 12 then
        let ls := (List.range 8).map (fun j => 8 * (i - 10) + j)
        (ls.foldl (fun (s : State) l =>
          let s := s.linkDown l
          if (s.link l).state = 1 then s.updLink l (fun x => { x with state := 0 }) else s) (s.record r)).breakOver ls
      else if i = 12 then s.record r
      else (s.setPlant (fun p => { p with ciRunning := false })).devFatal r)

end Sys2Proof.Machine
end

