-- ==== Sys2Proof/Machine/Engines.lean ====
section
/-!
DEFINITION. The entropy unit and its health tests (16_shared_engines.md R458–R467), the DRBG at start-up (R468, R481, R554), and hash jobs
(R474–R477). Engine slots are in EngineSlots.lean.
-/

namespace Sys2Proof.Machine

def State.setEntropy (s : State) (f : Entropy → Entropy) : State :=
  { s with eng := { s.eng with entropy := f s.eng.entropy } }

/-! The entropy unit. -/

/-- The longest run of equal samples, with the run that ends the list. -/
def longestRun : List Bool → Nat → Bool → Nat → Nat
  | [], best, _, _ => best
  | b :: t, best, prev, len =>
    let n := if b = prev then len + 1 else 1
    longestRun t (max best n) b n

/-- A window passes both tests of R460: no 81 equal samples in a row, and the first sample's value fewer than 824 times. -/
def windowOk (w : List Bool) : Bool :=
  match w with
  | [] => false
  | b :: t => decide (longestRun t 1 b 1 < 81) && decide ((w.filter (· == b)).length < 824)

/-- The 1,024 samples of a window, sample 0 first. -/
def windowBits (w : BitVec 1024) : List Bool := (List.range 1024).map (fun i => w.getLsbD i)

/-- The 128 raw bytes of a window, sample 0 in bit 0 of byte 0 (R459). -/
def windowBytes (w : List Bool) : List Byte :=
  leBytes 128 ((w.zipIdx).foldl (fun a x => if x.1 then a + 2 ^ x.2 else a) 0)

/-- An ENTROPY event (R396). -/
def State.entropyEvent (s : State) (v : Nat) : State := s.event operatorId { kind := 8, time := s.now, body := [BitVec.ofNat 8 v] }

/-- SPDM requests that need entropy are deferred while the unit recovers (R441). -/
def State.deferStarved (s : State) : State :=
  s.eng.tasks.foldl (fun (s : State) t => match t.work with
    | .spdm f q =>
      if s.starved t then (s.setTasks (fun ts => ts.filter (fun x => x.work != t.work))).deferSpdm f q t.since else s
    | _ => s) s

/-- A health test fails (R462): output stops, the window and the conditioned windows go, the fault is logged; the restarts
follow by ENTROPY_RESTART. -/
def State.entropyFail (s : State) (test : Nat) : State :=
  let s := s.setEntropy (fun e => { e with
    state := 2, restarts := 0, last := BitVec.ofNat 2 test, episodes := BitVec.ofNat 24 (satAdd 24 e.episodes.toNat 1),
    window := [], ready := [], runLen := 0, failTime := s.now })
  ((s.record { mkRec 0x0503 0 with unit := unitEngine 2, part := 0x40 }).entropyEvent 0).deferStarved

/-- End every consumer that waits for entropy (R465). -/
def State.failStarved (s : State) : State := s.eng.tasks.foldl (fun (s : State) t => if s.starved t then s.failTask t else s) s

/-- The unit is permanently failed (R464): every waiting consumer ends at once (R465) and Floor 2 is lost (R513). -/
def State.entropyDies (s : State) : State :=
  let s := (s.setEntropy (fun e => { e with state := 3 })).entropyEvent 2
  s.failStarved.loseEntropy

/-- One restart's start-up test (R461–R464); its window is discarded. -/
def State.entropyTry (s : State) (window : BitVec 1024) : State :=
  if windowOk (windowBits window) then (s.setEntropy (fun e => { e with state := 1, restarts := 0 })).entropyEvent 1
  else
    let k := s.eng.entropy.restarts + 1
    let s := s.setEntropy (fun e => { e with restarts := k, last := 3 })
    if k = 3 then s.entropyDies else s

/-- The DRBG is instantiated from a conditioned window (R468). -/
def State.seedDrbg (s : State) (w : List Byte) : State :=
  { s with eng := { s.eng with drbg := { d := Drbg.instantiate w s.persString, live := true, served := 0, seededAt := s.now } } }

/-- The window that has filled is conditioned and released, up to 4 of them (R459); what waits takes it in its own DRBG slot (R483). A DRBG that
start-up could not instantiate is instantiated from the first window that comes (R468). -/
def State.windowEnd (s : State) : State :=
  let e := s.eng.entropy
  if e.state = 1 ∧ e.window.length = 1024 then
    let w := sha384 (windowBytes e.window)
    let s := s.setEntropy (fun e => { e with window := [] })
    if !s.eng.drbg.live then s.seedDrbg w
    else s.setEntropy (fun e => { e with ready := if e.ready.length < 4 then e.ready ++ [w] else e.ready })
  else s

/-- NOISE_SOURCE_SAMPLE (R458, R460): one sample at 125 MHz, with the repetition-count and adaptive-proportion tests. -/
def execNoiseSourceSample (bit : Bool) (s : State) : Host.Outcome State Fault Refusal :=
  .next (if s.eng.entropy.state ≠ 1 then s
    else
      let s := (s.atLeast (ceilDiv s.now 8 * 8)).windowEnd
      let e := s.eng.entropy
      let len := if e.runLen ≠ 0 ∧ e.runBit = bit then e.runLen + 1 else 1
      let w := e.window ++ [bit]
      if 81 ≤ len then s.entropyFail 1
      else if 824 ≤ (w.filter (fun b => b == w.headD bit)).length then s.entropyFail 2
      else s.setEntropy (fun e => { e with window := w, runBit := bit, runLen := len }))

/-- ENTROPY_WINDOW_END (R459). -/
def execEntropyWindowEnd (s : State) : Host.Outcome State Fault Refusal := .next s.windowEnd

/-- ENTROPY_RESTART (R462–R464): restart 1 at once, restart 2 10 ms and restart 3 30 ms after the failure; a start-up test takes
8,192 ns. -/
def execEntropyRestart (window : BitVec 1024) (s : State) : Host.Outcome State Fault Refusal :=
  let e := s.eng.entropy
  .next (if e.state ≠ 2 then s
    else
      let due := if e.restarts = 0 then 0 else if e.restarts = 1 then 10000000 else 30000000
      (s.atLeast (e.failTime + due + 8192)).entropyTry window)

/-- ENTROPY_WAIT_TIMEOUT (R465): the consumer that has waited longest passes 50 ms. -/
def execEntropyWaitTimeout (s : State) : Host.Outcome State Fault Refusal :=
  .next (match s.eng.tasks.find? s.starved with
    | none => s
    | some t => (s.atLeast (t.since + 50000000)).failTask t)

/-- The start-up tests in order, the first and its restarts, until one passes or the unit is permanently failed (R461–R464). -/
def State.entropyTests (s : State) : List (BitVec 1024) → State
  | [] => s
  | w :: rest =>
    let e := s.eng.entropy
    if e.state = 0 then
      (if windowOk (windowBits w) then s.setEntropy (fun e => { e with state := 1 })
       else (s.entropyFail 3).entropyTests rest)
    else if e.state = 2 then (s.entropyTry w).entropyTests rest
    else s

/-- A conditioned window, where it passes both tests (R459); the first failing test where it does not. -/
def conditioned (w : BitVec 1024) : Except Nat (List Byte) :=
  let bits := windowBits w
  if windowOk bits then .ok (sha384 (windowBytes bits)) else .error (if 81 ≤ longestRun bits 0 false 0 then 1 else 2)

/-- Step 8 of start-up (R461, R468, R469, R481, R554): the start-up test, the DRBG from the first window after it, and the key of slot 64, a
fresh draw, after a reseed from the next (log entry 143); without these windows the fallback pair. -/
def State.entropyStart (s : State) (tests : List (BitVec 1024)) (windows : List (BitVec 1024)) : State :=
  let s := if s.eng.entropy.state = 3 then s
    else (s.setEntropy (fun e => { e with state := 0, restarts := 0, window := [], ready := [], runLen := 0 })).entropyTests tests
  let s := { s with eng := { s.eng with drbg := {}, slot64 := some s.eng.fallback } }
  if s.eng.entropy.state ≠ 1 then s
  else match windows with
    | [] => s
    | w :: rest =>
      match conditioned w with
      | .error t => s.entropyFail t
      | .ok e =>
        let s := s.seedDrbg e
        match rest with
        | [] => s
        | v :: _ =>
          match conditioned v with
          | .error t => s.entropyFail t
          | .ok e =>
            let (k, d) := (s.eng.drbg.d.reseed e).generate 64
            { s with eng := { s.eng with drbg := { d := d, live := true, served := 1, seededAt := s.now }, slot64 := some k } }

/-! Hash jobs. -/

/-- HASH_GO (R476): a write of `HASH_CTL` with `GO` set. -/
def execHashGo (n : PartId) (ctl : Word) (s : State) : Host.Outcome State Fault Refusal := .next (s.hashGo n (ctl ||| 0x80000000))

/-- The digest of a job (R474, R477). -/
def jobDigest (alg : Nat) (key msg : List Byte) : List Byte :=
  match alg with
  | 0 => sha384 msg
  | 1 => sha512 msg
  | 2 => hmac sha384 key msg
  | _ => hmac sha512 key msg

/-- The segments of a job's message: at least one (R477, R483). -/
def HashJob.segments (j : HashJob) : Nat := max 1 (ceilDiv j.len 65536)

/-- A slot of partition n's hash context for its job: the next segment of the message is read with the partition's tag (R477). -/
def State.jobSlot (s : State) (n : Nat) (j : HashJob) : State :=
  if j.segments ≤ j.segs then s
  else
    match s.readExtents n (cutExtents (65536 * j.segs) 65536 j.src) with
    | (none, s) => if (s.part n).hash.job.isSome then s.endHash n .notPermitted j.ien else s
    | (some bs, s) => s.updPart n (fun p => { p with hash := { p.hash with
        job := p.hash.job.map (fun j => { j with segs := j.segs + 1, msg := j.msg ++ bs }) } })

/-- HASH_JOB_COMPLETE (R477): once every segment has been hashed, the digest is written in 64 bytes; a fault on the way ends the job under the
fault's own procedure. -/
def execHashJobComplete (n : PartId) (s : State) : Host.Outcome State Fault Refusal :=
  .next (match (s.part n).hash.job with
    | none => s
    | some j =>
      if j.segs < j.segments then s
      else s.retry 136 (fun s =>
        match s.readExtents n j.key with
        | (none, s) => if (s.part n).hash.job.isSome then s.endHash n .notPermitted j.ien else s
        | (some key, s) =>
          let (ok, s) := s.writeExtents n j.dst (padTo 64 (jobDigest j.alg key j.msg))
          if (s.part n).hash.job.isNone then s
          else s.endHash n (if ok then .ok else .notPermitted) j.ien))

end Sys2Proof.Machine
end

