-- ==== Sys2Proof/Machine/Startup.lean ====
section
/-!
DEFINITION. Resets and start-up: fuses (R429–R434), firmware bundles and identities (R424–R428, R435, R436), the Protected Record and
configuration image chosen at reset (R399, R411, R412), spare mapping (R57, R58, R511), HBM training and zeroing (R288, R289), floors
(R513, R553), reset events (R533, R555–R557), shut-down (R558) and loss of power (R559).
-/

namespace Sys2Proof.Machine

def State.setBoot (s : State) (f : Boot → Boot) : State := { s with boot := f s.boot }
def State.setSec (s : State) (f : Security → Security) : State := { s with sec := f s.sec }

/-- Start-up step i has ended (R549). -/
def State.stepDid (s : State) (i : Nat) : Bool := s.boot.steps.getLsbD i

/-- Mark start-up step i as ended. -/
def State.endStep (s : State) (i : Nat) : State := s.setBoot (fun b => { b with steps := b.steps ||| BitVec.ofNat 12 (2 ^ i) })

/-- True when start-up step i may run: start-up is under way, it has not ended, and those named in its "After" column have (R549);
a lockstep mismatch of pair 0 halts start-up (R552). -/
def State.mayStep (s : State) (i : Nat) (after : List Nat) : Bool :=
  s.boot.state == .booting && !s.stepDid i && after.all s.stepDid && !s.unitBad (unitPair 0)

/-! Fuses. -/

/-- A fuse word read at the tight-low margin, and which of its bits are marginal (R429). -/
def Security.fuse (x : Security) (w : Nat) : BitVec 128 × BitVec 128 :=
  let lo := SMap.get 0 x.fuseLo w
  (lo, lo ^^^ SMap.get 0 x.fuseHi w)

/-- Three copies of a word resolved by vote, with the bits that are undecided (R430). `dflt` is what an undecided bit takes; the field
has the low `width` bits. -/
def vote (c : List (BitVec 128 × BitVec 128)) (dflt : BitVec 128) (width : Nat) : BitVec 128 × BitVec 128 :=
  let ones (i : Nat) : Nat := (c.filter (fun x => !x.2.getLsbD i && x.1.getLsbD i)).length
  let noughts (i : Nat) : Nat := (c.filter (fun x => !x.2.getLsbD i && !x.1.getLsbD i)).length
  let und := (List.range width).filter (fun i => ones i == noughts i)
  (bitmap 128 ((List.range 128).filter (fun i => if ones i = noughts i then dflt.getLsbD i else decide (noughts i < ones i))), bitmap 128 und)

/-- The three-copy words: the words that hold the copies, what an undecided bit takes, and the field's width in them (R430): `UDS` 0,
`SEC` restrictive, `ARC` and `TILE_BAD` 1, `OCK` 0 beside its own rule. -/
def fuseTriples : List (List Nat × BitVec 128 × Nat) :=
  [([0, 2, 4], 0, 128), ([1, 3, 5], 0, 128), ([6, 7, 8], 0xFD, 128), ([9, 10, 11], BitVec.ofNat 128 (2 ^ 64 - 1), 64),
   ([12, 15, 18], 0, 128), ([13, 16, 19], 0, 128), ([14, 17, 20], 0, 128), ([21, 22, 23], BitVec.ofNat 128 (2 ^ 68 - 1), 68)]

/-- Read, resolve and latch the fuses (R429–R431). A field lies at its first copy's word; a single-copy word keeps its tight-low
value. Only bits that a field has can be undecided. -/
def Security.readFuses (x : Security) : Security :=
  let single := (List.range 64).filter (fun w => decide (24 ≤ w))
  let lat := single.foldl (fun m w => SMap.put 0 m w (x.fuse w).1) []
  let r := fuseTriples.foldl (fun (r : SMap (BitVec 128) × List Nat) t =>
    let v := vote (t.1.map x.fuse) t.2.1 t.2.2
    (SMap.put 0 r.1 (t.1.headD 0) v.1, if v.2 = 0 then r.2 else r.2 ++ t.1)) (lat, [])
  { x with
    latched := r.1, undecided := (List.range 64).filter (fun w => r.2.contains w),
    marginal := (List.range 64).filter (fun w => (x.fuse w).2 != 0) }

/-- Blow bits of a three-copy field whose copies lie in consecutive words (R432): all copies and the latched value take them, but for the copies
that stay weak after three reblows. -/
def Security.blow (x : Security) (w : Nat) (bits : BitVec 128) (weak : List WeakFuse) : Security :=
  let put (m : SMap (BitVec 128)) (bad : WeakFuse → Bool) : SMap (BitVec 128) := [w, w + 1, w + 2].foldl (fun m i =>
    let out := bitmap 128 ((weak.filter (fun f => f.word.val == i && bits.getLsbD f.bit && bad f)).map (fun f => f.bit.val))
    SMap.upd 0 m i (fun v => (v &&& out) ||| (bits &&& ~~~out) ||| (v &&& ~~~bits))) m
  { x with
    fuseLo := put x.fuseLo (fun _ => true), fuseHi := put x.fuseHi (fun f => !f.high), latched := SMap.upd 0 x.latched w (· ||| bits) }

/-- Blow bits, with a FUSE_BLOW_FAIL record for each that is marginal or 0 in two or more copies (R432); it names the field's first word (log
entry 147). -/
def State.blowFuses (s : State) (w : Nat) (bits : BitVec 128) (weak : List WeakFuse) : State :=
  let s := { s with sec := s.sec.blow w bits weak }
  ((bitsOf bits).filter (fun i => decide (2 ≤ ([w, w + 1, w + 2].filter (fun c => weak.any (fun f => f.word.val == c && f.bit.val == i))).length))).foldl
    (fun s _ => s.record { mkRec 0x0504 0 with unit := unitFuse w, part := 0x40 }) s

/-- Latched words as bytes. -/
def Security.fuseBytes (x : Security) (w n : Nat) : List Byte :=
  ((List.range n).map (fun i => bvBytes (SMap.get 0 x.latched (w + i)))).flatten

/-- `UDS`: 32 bytes. -/
def Security.uds (x : Security) : List Byte := x.fuseBytes 0 2

/-! Resets. -/

/-- What every reset keeps: what flash and fuses hold (R533, R537), the board's brake pin, and the model's own fields. -/
def State.kept (s : State) : State :=
  { State.reset with
    pending := s.pending, out := s.out, free := s.free,
    plant := { State.reset.plant with brake := s.plant.brake, throttle := if s.plant.brake then some 340 else none },
    cfg := { State.reset.cfg with slotA := s.cfg.slotA, slotB := s.cfg.slotB, protA := s.cfg.protA, protB := s.cfg.protB },
    sec := { State.reset.sec with fuseLo := s.sec.fuseLo, fuseHi := s.sec.fuseHi, fwSlotA := s.sec.fwSlotA, fwSlotB := s.sec.fwSlotB },
    boot := { State.reset.boot with failedPhys := s.boot.failedPhys, spares := s.boot.spares, lostDies := s.boot.lostDies } }

/-- COLD_RESET (R533): nothing but flash and fuses is kept; CI13 counts from its end (R50). -/
def execColdReset (s : State) : Host.Outcome State Fault Refusal := .next s.kept

/-- What a tile's journal keeps across a warm reset (R497). -/
def Tile.warm (x : Tile) : Tile :=
  { health := { journal := x.health.journal, windowStart := x.health.windowStart, windowOpen := x.health.windowOpen } }

/-- What a warm reset keeps besides (R533, R555): fuse latches, records, journals and notices, a permanent entropy failure, the debug
flag, and what counts since cold reset (R285, R290, R467). -/
def State.warm (s : State) : State :=
  let k := s.kept
  let e := s.eng.entropy
  { k with
    now := s.now, ring := s.ring, fatals := s.fatals, recSeq := s.recSeq,
    tiles := (s.tiles.map (fun t => (t.1, t.2.warm))).filter (fun t => t.2 != {}),
    parts := (s.parts.map (fun p => (p.1, ({ notices := p.2.notices, nextNotice := p.2.nextNotice } : Part)))).filter (fun p => p.2 != {}),
    hbm := (s.hbm.map (fun c => (c.1, ({ dieState := c.2.dieState, corrected := c.2.corrected, passes := c.2.passes } : Hbm)))).filter
      (fun c => c.2 != {}),
    plant := { k.plant with thermtrip := s.plant.thermtrip },
    cfg := { k.cfg with debugSinceCold := s.cfg.debugSinceCold },
    sec := { k.sec with latched := s.sec.latched, marginal := s.sec.marginal, undecided := s.sec.undecided, udsLocked := s.sec.udsLocked },
    eng := { k.eng with entropy := { state := if e.state = 3 then 3 else 0, restarts := if e.state = 3 then e.restarts else 0,
                                     last := if e.state = 3 then e.last else 0, episodes := e.episodes } },
    boot := { k.boot with cold := s.boot.cold } }

/-- WARM_RESET (R533): the whole device; after an orderly shut-down nothing happens until a cold reset (R558). -/
def execWarmReset (_cause : WarmCause) (s : State) : Host.Outcome State Fault Refusal :=
  .next (if s.boot.powerOk then s.warm else s)

/-- D3HOT_ENTRY (R533): only the function's BAR decode stops. -/
def execD3hotEntry (f : FnId) (s : State) : Host.Outcome State Fault Refusal :=
  .next { s with hostl := { s.hostl with d3 := SMap.put false s.hostl.d3 f true } }

/-- What flash holds once its programs and erases in progress have completed (R558). -/
def State.flashDone (s : State) : Configuration :=
  let cfg := match s.cfg.flash with
    | [] => s.cfg
    | (_, _, toB, img) :: rest => { s.cfg with
      flash := rest, slotA := if toB then s.cfg.slotA else img, slotB := if toB then img else s.cfg.slotB }
  match cfg.wait with
  | some (.committing ..) =>
    let r := { cfg.prot with epoch := cfg.prot.epoch + 1, authentic := true }
    { cfg with protA := if cfg.protInB then r else cfg.protA, protB := if cfg.protInB then cfg.protB else r }
  | _ => cfg

/-- PWR_OK_FALL (R558): tiles and admission stop, nothing is posted and no DMA leaves, a flash write in progress completes, HBM enters
self-refresh and the device is in RESET. It does nothing further until a cold reset, which keeps nothing but flash and fuses, so all that
could still act is gone. -/
def execPwrOkFall (s : State) : Host.Outcome State Fault Refusal :=
  .next (if !s.boot.powerOk then s
    else
      let k := State.kept { s with cfg := s.flashDone }
      let k := { k with now := s.now, plant := { k.plant with thermtrip := s.plant.thermtrip }, tiles := (List.range 64).map (fun t => (t, { stopped := true })) }
      let k := (List.range 8).foldl (fun s i => s.updHbm i (fun c => { c with selfRefresh := true })) k
      k.setBoot (fun b => { b with powerOk := false }))

/-- LOSS_OF_POWER (R559): everything ends but flash and fuses, and a flash write in progress is lost; only a cold reset follows. -/
def execLossOfPower (s : State) : Host.Outcome State Fault Refusal :=
  .next (s.kept.setBoot (fun b => { b with powerOk := false }))

/-! Steps 1 to 3. -/

/-- STARTUP_T0 (R548, R549 steps 1 and 2): pair 0 starts from the boot ROM and hashes it; at a cold start the fuses are read and
latched. -/
def execStartupT0 (s : State) : Host.Outcome State Fault Refusal :=
  .next (if s.boot.state ≠ .reset ∨ !s.boot.powerOk then s
    else
      let s := s.setBoot (fun b => { b with state := .booting, t0 := s.now })
      let s := s.setSec (fun x => if s.boot.cold then x.readFuses else x)
      let s := s.setSec (fun x => { x with blocks := SMap.put [] x.blocks 1 Config.bootRomDigest })
      ((s.setBoot (fun b => { b with cold := false })).endStep 1).endStep 2)

/-- The rate in GT/s. -/
def HostRate.gts : HostRate → Nat
  | .gt16 => 16 | .gt32 => 32 | .gt64 => 64

/-- HOST_LINK_UP (R517, R550): the widest working width of x16, x8, x4 and x1, or none, and the rate; none while CI01 has lost its clock (R49). The boot ROM
waits for CI13 (R553). -/
def execHostLinkUp (lanes : Option (Fin 17)) (rate : HostRate) (s : State) : Host.Outcome State Fault Refusal :=
  .next (if !s.mayStep 3 [1] || !s.plant.ciRunning then s
    else
      let w := match lanes with
        | some n => if [1, 4, 8, 16].contains n.val && !s.plant.lost.contains 1 then n.val else 0
        | none => 0
      { s with hostl := { s.hostl with width := w, rate := HostRate.gts rate } }.endStep 3)

/-! Step 4. -/

/-- The logical tile that lives in a physical tile that is no spare, while no spare is mapped (R56). -/
def tileHome (p : Nat) : Nat := 16 * (p / 17) + p % 17

/-- STARTUP_SELF_TEST (R508, R509, R511, R552): each unit that fails a group raises SELF_TEST_FAIL with class none and counts as
failed. The record of a physical tile names the logical tile that lives there while no spare is mapped (R56); a spare has no logical tile, and
its record names it by `UNIT` 64 + die (log entry 95). -/
def execStartupSelfTest (tileFail : BitVec 68) (sharedFail : List (BitVec 16)) (s : State) : Host.Outcome State Fault Refusal :=
  .next (if !s.mayStep 4 [2] then s
    else
      let s := (bitsOf tileFail).foldl (fun s p => s.record { mkRec 0x0108 3 with
        unit := unitTile (if p % 17 = 16 then 64 + p / 17 else tileHome p), tile := if p % 17 = 16 then 0xFF else tileHome p, part := 0x40 }) s
      let us := sharedFail.map (·.toNat)
      let s := us.foldl (fun s u => s.record { mkRec 0x0108 3 with unit := u, part := 0x40 }) s
      let s := s.setBoot (fun b => { b with sharedFail := us, failedPhys := b.failedPhys ||| tileFail })
      let s := (List.range 8).foldl (fun s k => if us.contains (unitHbm k) then s.failController k none else s) s
      let s := (List.range 16).foldl (fun s l => if us.contains (unitLink l) then s.updLink l (fun x => { x with state := 3 }) else s) s
      s.endStep 4)

/-! Step 5: the firmware bundle. -/

/-- Component c of a bundle: its offset, length and digest (R425). -/
def component (b : List Byte) (c : Nat) : Nat × Nat × List Byte := (at' b (16 + 56 * c) 4, at' b (20 + 56 * c) 4, slice b (24 + 56 * c) 48)

/-- The checks of R426 in order; the failure code of R443 for the first that fails. -/
def bundleCheck (s : State) (b : List Byte) : Nat :=
  let sec := s.secWord
  let body := b.take 240
  let key := Config.releaseKey (at' b 7 1)
  let signed := bit (BitVec.ofNat 8 (at' b 11 1)) 0
  if at' b 0 4 ≠ 0x57464A53 ∨ at' b 4 2 ≠ 1 ∨ at' b 12 4 ≠ b.length ∨ b.length < 528 ∨ 2 ^ 24 < b.length ∨ 4 ≤ at' b 7 1 then 1
  else if bit sec (4 + at' b 7 1) then 2
  else if !verifyMsg key.1 key.2 body (slice b 240 96) then 1
  else if bit sec 3 && !signed then 3
  else if signed && (s.sec.undecided.any (fun w => decide (12 ≤ w) && decide (w ≤ 20)) || sha384 (slice b 432 96) != s.sec.fuseBytes 12 3
      || !verifyMsg (at' b 432 48) (at' b 480 48) body (slice b 336 96)) then 3
  else if at' b 6 1 < s.arcCount then 4
  else if (List.range 4).all (fun c => let x := component b c
      decide (x.1 + x.2.1 ≤ b.length) && sha384 (slice b x.1 x.2.1) == x.2.2) then 0
  else 5

/-- A private key and the CDI of R435, from a secret and an info string. -/
def keyFrom (secret : List Byte) (info : String) : Nat := toScalar (hkdf secret (ascii info) 48)

/-- `DEBUG_POLICY` as the copy of the Protected Record that start-up will use has it (R411, R435). -/
def State.recordInForce (s : State) : Option (Bool × ProtRecord) :=
  let ok (r : ProtRecord) : Bool := r.authentic && s.recordOk r
  match ok s.cfg.protA, ok s.cfg.protB with
  | true, true => some (if s.cfg.protA.epoch.toNat < s.cfg.protB.epoch.toNat then (true, s.cfg.protB) else (false, s.cfg.protA))
  | true, false => some (false, s.cfg.protA)
  | false, true => some (true, s.cfg.protB)
  | false, false => none

/-- The identities of a bundle that runs (R427, R435, R436, R554). -/
def State.loadBundle (s : State) (b : List Byte) : State :=
  let d (c : Nat) : List Byte := (component b c).2.2
  let blocks := [(2, sha384 (d 0 ++ d 1)), (3, d 2), (4, d 3)]
  let uds := s.sec.uds
  let debug := match s.recordInForce with
    | some r => r.2.debug
    | none => 0
  let cdi := hmac sha384 (hkdf uds (ascii "AVRAK CDI") 48)
    ((blocks.map (·.2)).flatten ++ slice b 6 1 ++ bvBytes s.secWord ++ [debug])
  s.setSec (fun x => { x with
    blocks := blocks.foldl (fun m e => SMap.put [] m e.1 e.2) x.blocks, fwSvn := at' b 6 1, fwVersion := slice b 8 3, fwOk := true, failCode := 0,
    aliasKey := keyFrom cdi "AVRAK ALIAS" })

/-- FIRMWARE_BUNDLE_LOAD (R426–R428, R435, R436): the slot with the higher `SVN` first, FW-A on a tie, then the other; with none
valid the device stays at Floor 0 and reports the failure of the slot tried first. -/
def execFirmwareBundleLoad (s : State) : Host.Outcome State Fault Refusal :=
  .next (if !s.mayStep 5 [2] then s
    else
      let a := s.sec.fwSlotA
      let b := s.sec.fwSlotB
      let order := if at' a 6 1 < at' b 6 1 then [b, a] else [a, b]
      let uds := s.sec.uds
      let s := s.setSec (fun x => { x with deviceSecret := beBytes 48 (keyFrom uds "AVRAK DEVICEID") })
      let s := { s with eng := { s.eng with fallback := hkdf uds (ascii "AVRAK FWLINES") 64 } }
      let s := match order.find? (fun x => bundleCheck s x == 0) with
        | some x => s.loadBundle x
        | none => (s.setSec (fun x => { x with failCode := bundleCheck s (order.headD []) })).setBoot (fun b => { b with low := true })
      (s.setSec (fun x => { x with udsLocked := true })).endStep 5)

/-! Step 6: the Protected Record and the image. -/

/-- The patches of a record as a field map. -/
def patchMap (ps : List (Nat × List Byte)) : SMap (List Byte) := ps.foldl (fun m p => SMap.put [] m p.1 p.2) []

/-- The Base record of an image, as patches. -/
def imageBase (img : List Byte) : List (Nat × List Byte) := (imagePatches img 0).getD []

/-- The record of an unprovisioned device: the Protected fields of a provisioning image (R412). -/
def imageRecordOf (img : List Byte) : ProtRecord :=
  { ((imageBase img).filter (fun (p : Nat × List Byte) => (fieldInfo p.1).map Prod.snd == some 2)).foldl ProtRecord.patch {} with
    authentic := true, epoch := 0 }

/-- The slot to boot from (R399): valid images, the higher `SEQUENCE`, slot A on a tie. One under whose erg the
shares of the table that goes with it do not fit the device links' rotations (R72, R561), is refused. True is slot B. -/
def State.bootSlot (s : State) (auth : SMap Credential) (tab : List Byte → SMap PartEntry) : Option Bool :=
  let ok (img : List Byte) : Bool :=
    imageCheck img auth s.provisioned == none
      && State.sharesFit { s with cfg := { s.cfg with bcr := patchMap (imageBase img) } } (tab img) 18
  match ok s.cfg.slotA, ok s.cfg.slotB with
  | true, true => some (decide (at' s.cfg.slotA 8 8 < at' s.cfg.slotB 8 8))
  | true, false => some false
  | false, true => some true
  | false, false => none

/-- The chosen image becomes the booted one; `START_OVERLAY` is its overlay (R399, R405). -/
def State.bootImage (s : State) (slot : Bool) : State :=
  let img := if slot then s.cfg.slotB else s.cfg.slotA
  let bcr := imageBase img
  { s with cfg := { s.cfg with
    booted := some slot, bcr := patchMap bcr,
    overlays := (imageOverlays img).foldl (fun m i => SMap.put none m i (some (patchMap ((imagePatches img i).getD [])))) [],
    overlay := leNat ((patchOf bcr 0x0005).getD [0]) } }

/-- A step before step 7 that holds the device at Floor 0, with the failure code of R443. -/
def State.stayLow (s : State) (code : Nat) : State :=
  (s.setSec (fun x => { x with failCode := code })).setBoot (fun b => { b with low := true })

/-- PROTECTED_RECORD_READ (R411, R412, R399): the authentic copy with the higher epoch, then the image; an unprovisioned device adopts the
Protected fields of a provisioning image. -/
def execProtectedRecordRead (weak : List WeakFuse) (s : State) : Host.Outcome State Fault Refusal :=
  .next (if !s.mayStep 6 [5] then s
    else if s.boot.low then s.endStep 6
    else
      let use (s : State) (b : Bool) (r : ProtRecord) : State :=
        { s with cfg := { s.cfg with prot := r, protInB := b, debugSinceCold := s.cfg.debugSinceCold || r.debug == 1 } }
      (if s.provisioned then
        (match s.recordInForce with
         | none => s.stayLow 6
         | some (b, r) =>
           let s := use s b r
           (match s.bootSlot r.auth (fun _ => r.parts) with
            | some slot => s.bootImage slot
            | none => s.stayLow 7))
      else
        (match s.bootSlot [] (fun img => (imageRecordOf img).parts) with
         | none => s.stayLow 7
         | some slot =>
           let img := if slot then s.cfg.slotB else s.cfg.slotA
           let r := imageRecordOf img
           if imageProvision img && (imageBase img).all (fun p => (fieldInfo p.1).map Prod.snd != some 2 || patchValues p) && s.recordOk r then
             let s := use { s with cfg := { s.cfg with protA := r, protB := r } } false r
             (s.blowFuses 6 4 weak).bootImage slot
           else s.stayLow 7)).endStep 6)

/-! Step 7: pairs and tiles. -/

/-- The physical tile of a logical one before any spare is mapped (R56, R57). -/
def homeTile (t : Nat) : Nat := 17 * (t / 16) + t % 16

/-- The physical spare of die d. -/
def spareOf (d : Nat) : Nat := 17 * d + 16

/-- Bind the tiles of die d (R57, R58, R511): the spare takes the lowest failed logical number; a TILE_REPAIR record for a mapping
that differs from the previous reset's. The pace registers of the die's tiles and of its spare begin anew (R38). -/
def State.bindDie (s : State) (bad : BitVec 68) (d : Nat) : State :=
  let ts := (List.range 16).map (fun i => 16 * d + i)
  let failed := ts.filter (fun t => bad.getLsbD (homeTile t))
  let spare := if bad.getLsbD (spareOf d) then none else failed.head?
  let s := ts.foldl (fun (s : State) t =>
    let p := if spare = some t then spareOf d else homeTile t
    let out := failed.contains t && spare != some t
    ((s.setBoot (fun b => { b with bind := SMap.put 0xFF b.bind t (if out then 0xFF else p) })).setPlant (fun x => x.clearPace t)).updTile t (fun x => { x with
      health := { x.health with unavailable := out } })) s
  let old := SMap.get 0xFF s.boot.spares d
  let s := (s.setBoot (fun b => { b with spares := SMap.put 0xFF b.spares d (spare.getD 0xFF) })).setPlant (fun x => x.clearPace (72 + d))
  match spare with
  | some t => if old = t then s else s.record { mkRec 0x0509 3 with tile := t, unit := unitTile t, part := 0x40 }
  | none => s

/-- PAIRS_RELEASE (R511, R549 step 7): pairs 1–3 are released, spares are bound, tile memory is clear, and the device links begin to
train (R293). -/
def execPairsRelease (s : State) : Host.Outcome State Fault Refusal :=
  .next (if !s.mayStep 7 [4, 6] || s.boot.low then s
    else
      let bad := s.boot.failedPhys ||| BitVec.ofNat 68 (fld (SMap.get 0 s.sec.latched 21) 0 68)
      let s := s.setBoot (fun b => { b with
        pairs := bitmap 4 ((List.range 4).filter (fun p => !s.unitBad (unitPair p))),
        banks := ((List.range 8).filter (fun x => !s.unitBad (unitBank x))).length })
      let s := [0, 1, 2, 3].foldl (fun s d => s.bindDie bad d) s
      let s := (List.range 16).foldl (fun (s : State) l =>
        if (s.neighbour l).isSome && (s.link l).state == 0 then s.updLink l (fun x => { x with state := 1 }) else s) s
      s.startScrubs.endStep 7)

/-! Steps 8 and 9. -/

/-- ENTROPY_STARTUP (R461, R468, R481, R554, R555). -/
def execEntropyStartup (tests : List (BitVec 1024)) (windows : List (BitVec 1024)) (s : State) : Host.Outcome State Fault Refusal :=
  .next (if s.mayStep 8 [7] then (s.entropyStart tests windows).endStep 8 else s)

/-- A die that the map records as LOST (R288): no new record of the die; a second one makes its controller FAILED, with its record
(R291). -/
def State.startLost (s : State) (k die : Nat) : State :=
  let c := s.hbmc k
  let s := s.updHbm k (fun c => { c with
    dieState := SMap.put 0 c.dieState die 2, lostDie := if c.lostDie = 0xF then BitVec.ofNat 4 die else c.lostDie,
    state := if c.state = 0 then 1 else c.state })
  if c.state = 1 then s.failController k none else s

/-- HBM_TRAINING (R285, R288): controllers begin as the map records; a die that fails training is LOST. -/
def execHbmTraining (fails : List (CtrlId × Fin 12)) (s : State) : Host.Outcome State Fault Refusal :=
  .next (if !s.mayStep 9 [7] || s.boot.steps.getLsbD 0 then s
    else
      let s := s.boot.lostDies.foldl (fun s x => s.startLost (x / 12) (x % 12)) s
      let s := fails.foldl (fun s x => s.loseDie x.1 x.2) s
      s.endStep 0)

/-- HBM_ZEROING (R289): every line is written as encoded zero, and the first scrub pass starts (R283). Bit 0 of the steps says that
training has ended. -/
def execHbmZeroing (s : State) : Host.Outcome State Fault Refusal :=
  .next (if !s.mayStep 9 [0, 7] then s
    else
      let s := { s with mem := SMap.clearRange s.mem 0 (2 ^ 38) }
      let s := (List.range 8).foldl (fun s k => s.updHbm k (fun c => { c with
        raw := [], lineKey := [], lostOld := [], banks := [], waiting := [], committed := [], nextLine := 0, scrub := if c.state = 2 then none else some (s.now, c.periodH) })) s
      s.endStep 9)

/-! Step 11. -/

/-- The floor that the units present give (R513, R553); none is no floor. -/
def State.floorFor (s : State) : Option Nat :=
  let ok (u : Nat) : Bool := !s.unitBad u
  let f0 := s.hostl.width != 0 && ok (unitIsland 12) && ok (unitIsland 13) && !s.plant.lost.contains 12 && s.plant.ciRunning
  let f1 := !s.boot.low && (ok (unitPair 1) || ok (unitPair 2) || ok (unitPair 3)) && ok (unitBank 0) && ok (unitEngine 0)
    && (List.range 64).any (fun t => !(s.tile t).health.unavailable)
    && (List.range 192).any (fun i => SMap.get none s.fatals (64 + i) == none)
  let f2 := s.eng.entropy.state != 3 && ok (unitEngine 1) && ok (unitEngine 2) && ok (unitEngine 3) && ok (unitEngine 4)
  if !f0 then none else if !f1 then some 0 else if !f2 then some 1 else some 2

/-- Partition n of the record in force begins (R413, R45, R405): its entry and ante, pace-locked at the default rate when Strict. -/
def State.beginPart (s : State) (n : Nat) : State :=
  let e := SMap.get {} s.cfg.prot.parts n
  if e.valid then
    s.updPart n (fun p => { p with entry := e, ante := e.ante.toNat, paceRate := if e.strict then some 680 else none })
  else s

/-- A tile begins to serve: its first health pass falls due an interval from now (R24); a journal kept from before the reset keeps
its window (R497). -/
def State.beginTile (s : State) (t : Nat) : State :=
  let n := (s.tileOwner t).getD 64
  s.updTile t (fun x => { x with health := { x.health with
    due := s.now + s.healthNs n, windowOpen := true, windowStart := if x.health.journal.isEmpty then s.now else x.health.windowStart } })

/-- Open the mailboxes (R503, R551): SUSPECT events that a reset came before are posted first, then what waited, and held messages are taken. -/
def State.openBoxes (s : State) : State :=
  let held := s.mbx.map (fun e => (e.1, e.2.events))
  let s := s.mbx.foldl (fun (s : State) e => s.updBox e.1 (fun b => { b with events := [] })) s
  let s := parts64.foldl (fun (s : State) n =>
    ((s.part n).notices.filter (fun x => !x.posted)).foldl (fun s x => s.postNotice n x) s) s
  let s := held.foldl (fun (s : State) e => s.updBox e.1 (fun b => { b with events := b.events ++ e.2 })) s
  let s := (List.range 65).foldl (fun (s : State) m =>
    (((s.updBox m (fun b => { b with ready := true })).firstNonce (Fin.ofNat 65 m))).pump (Fin.ofNat 65 m)) s
  s.raiseHeld.takeIrqs

/-- CONFIGURATION_APPLY (R549 step 11, R551, R553, R434): the configuration, the partition table, antes and rotations come into force,
the floor is determined, `DEV_STATE` is set and the mailboxes open; links that have not come up are DOWN; firmware that reaches READY
advances the anti-rollback count. -/
def execConfigurationApply (weak : List WeakFuse) (s : State) : Host.Outcome State Fault Refusal :=
  .next (if !s.mayStep 11 (if s.boot.low then [3, 4, 6] else [3, 8, 9]) then s
    else
      let s := (List.range 16).foldl (fun (s : State) l => if (s.link l).state = 1 then s.trainFailed l else s) s
      let bound := s.bcrField 0x0010
      let s := s.setPlant (fun p => { p with sentBound := BitVec.ofNat 8 (max 10 (min 200 bound)) })
      let s := if s.boot.low then s else ((parts64.foldl State.beginPart s).setAreas ((areasOf s.cfg.prot.parts (fun _ => none)).getD [])).setRotations
      let s := if s.boot.low then s else ((List.range 64).foldl State.beginTile s).applyDevice
      let f := s.floorFor
      let s := s.setBoot (fun b => { b with opened := true, floor := match f with
        | some x => BitVec.ofNat 8 x
        | none => 0xFF })
      let s := s.endStep 11
      let s := (match f with
        | none => s.setDev .faulted
        | some 0 => s.setDev .floor0
        | some _ => (s.blowFuses 9 (bitmap 128 ((List.range 64).filter (fun i => decide (s.arcCount ≤ i) && decide (i < s.sec.fwSvn)))) weak).setDev .ready)
      s.openBoxes)

end Sys2Proof.Machine
end

