-- ==== Sys2Proof/Machine/Spdm.lean ====
section
/-!
DEFINITION. The SPDM responders, IDE_KM and TDISP (15_security.md R437–R442, R448, R449, R455, R456; 16_shared_engines.md R469).
Messages are represented by their content; the bytes of transcripts and of message layouts are DSP0274's and not in the spec, so
signature bytes are free values (log entries 4 and 15).
-/

namespace Sys2Proof.Machine

/-- An ERROR ResponseNotReady with the responder's next token. -/
def State.notReady (s : State) (f : FnId) : State :=
  let r := s.responder f
  (s.updResponder f (fun r => { r with nextToken := r.nextToken + 1 })).spdmError f (.responseNotReady r.nextToken)

/-- A request reaches function f's responder: nothing answers before the host link is up, and a responder answers ResponseNotReady
until start-up ends (R550). -/
def State.toResponder (s : State) (f : FnId) (k : State → State) : State :=
  if s.hostl.width = 0 then s
  else if !s.fnExists f.val then s.emit .tlpUnsupported
  else if !s.boot.opened then s.notReady f
  else k s

/-- A request that needs a connection in one of some stages, and leaves it in another (SPDM 1.3's order of messages; log entry 15). -/
def State.connected (s : State) (f : FnId) (from_ : List (Fin 4)) (to_ : Fin 4) (k : State → State) : State :=
  if from_.contains (s.responder f).conn then k (s.updResponder f (fun r => { r with conn := to_ }))
  else s.spdmError f .unexpectedRequest

/-- A request that a negotiated connection serves. -/
def State.negotiated (s : State) (f : FnId) (k : State → State) : State := s.toResponder f (fun s => s.connected f [3] 3 k)

/-! Answers that need no entropy. -/

/-- GET_VERSION (R438): version 1.3 only; a connection begins. -/
def execGetVersion (f : FnId) (s : State) : Host.Outcome State Fault Refusal :=
  .next (s.toResponder f (fun s => s.connected f [0, 1, 2, 3] 1 (fun s => s.spdm f (.version 0x13))))

/-- The capabilities of every responder (R439). -/
def spdmCapabilities : List String :=
  ["CERT_CAP", "CHAL_CAP", "MEAS_CAP", "MEAS_FRESH_CAP", "KEY_EX_CAP", "ENCRYPT_CAP", "MAC_CAP", "HBEAT_CAP", "KEY_UPD_CAP",
   "ALIAS_CERT_CAP"]

/-- The algorithms of every responder (R439). -/
def spdmAlgorithms : List String :=
  ["ECDSA P-384", "SHA-384", "secp384r1 ECDHE", "AES-256-GCM", "SPDM key schedule", "DMTF measurement specification"]

/-- GET_CAPABILITIES (R439). -/
def execGetCapabilities (f : FnId) (s : State) : Host.Outcome State Fault Refusal :=
  .next (s.toResponder f (fun s => s.connected f [1, 2] 2 (fun s => s.spdm f (.capabilities spdmCapabilities))))

/-- NEGOTIATE_ALGORITHMS (R439). -/
def execNegotiateAlgorithms (f : FnId) (s : State) : Host.Outcome State Fault Refusal :=
  .next (s.toResponder f (fun s => s.connected f [2, 3] 3 (fun s => s.spdm f (.algorithms spdmAlgorithms))))

/-- The certificate chain of slot 0 (R437). -/
def State.chainBytes (s : State) : List Byte := Config.certificateChain s.sec.aliasKey

/-- GET_DIGESTS (R437): the digest of slot 0's chain. -/
def execGetDigests (f : FnId) (s : State) : Host.Outcome State Fault Refusal :=
  .next (s.negotiated f (fun s => s.spdm f (.digest (sha384 s.chainBytes))))

/-- GET_CERTIFICATE (R437, R439): part of slot 0's chain and how many bytes remain after it. -/
def execGetCertificate (f : FnId) (slot off len : Nat) (s : State) : Host.Outcome State Fault Refusal :=
  .next (s.negotiated f (fun s =>
    let c := s.chainBytes
    if slot ≠ 0 ∨ c.length ≤ off then s.spdmError f .invalidRequest
    else s.spdm f (.certificate (slice c off len) (c.length - (off + (slice c off len).length)))))

/-! Measurements. -/

/-- How many measurement blocks function f serves (R442). -/
def measCount (f : FnId) : Nat := if f.val = 64 then 10 else 11

/-- Block i as function f serves it, in DSP0274 form (R442). -/
def State.measFor (s : State) (f : FnId) (i : Nat) : List Byte :=
  if i = 11 then measBlock 11 (s.block11 f.val) else measBlock i (s.block i).1

/-- Every block that function f serves. -/
def State.measAll (s : State) (f : FnId) : List Byte :=
  ((List.range (measCount f)).map (fun i => s.measFor f (i + 1))).flatten

/-- The number of blocks and the blocks that a measurement operation asks for: 0 the count alone, 0xFF all, else one index; none where
there is no such block (R442). -/
def State.measBlocks (s : State) (f : FnId) (op : Nat) : Option (Nat × List Byte) :=
  if op = 0 then some (measCount f, [])
  else if op = 0xFF then some (measCount f, s.measAll f)
  else if op ≤ measCount f then some (1, s.measFor f op)
  else none

/-! Answers that draw entropy and sign (R441, R469, R480): they are built when the engines' slots have done their part. -/

/-- What an SPDM answer needs of the engines: the ephemeral key of KEY_EXCHANGE, the nonce, the signature's secret, the shared secret of
KEY_EXCHANGE and the signature. -/
def spdmNeeds : SpdmReq → List Need
  | .keyExchange _ _ => [.gen true 48, .gen true 32, .gen false 48, .p384, .p384]
  | _ => [.gen true 32, .gen false 48, .p384]

/-- A request that needs entropy begins to wait for its slots; it is deferred while the entropy unit recovers, and refused while the unit is
permanently failed (R441). -/
def State.tryFresh (s : State) (f : FnId) (q : SpdmReq) : State :=
  if s.entropyDead then s.spdmError f .unspecified
  else if s.eng.entropy.state ≠ 1 then s.deferSpdm f q s.now
  else s.addTask (.spdm f q) (spdmNeeds q)

/-- The answer to such a request with the values drawn for it. The signature's bytes are free values. -/
def State.answerSpdm (s : State) (f : FnId) (q : SpdmReq) (got : List (List Byte)) : State :=
  let (sig, s) := State.freeBytes 12 s
  match q with
  | .challenge _ => s.spdm f (.challengeAuth (got.getD 0 []) (sha384 s.chainBytes) (sha384 (s.measAll f)) sig)
  | .measurements block _ =>
    (match s.measBlocks f block with
     | some (k, b) => s.spdm f (.measurements k b (got.getD 0 []) sig)
     | none => s.spdmError f .invalidRequest)
  | .keyExchange reqId exchange =>
    if s.entropyDead then s.spdmError f .unspecified
    else if 4 ≤ (s.responder f).sessions.length then s.spdmError f .sessionLimitExceeded
    else
      let id : BitVec 32 := (s.responder f).nextId ++ reqId
      let b := bvBytes exchange
      let shared := ecdh (toScalar (got.getD 0 [])) (beNat (slice b 0 48)) (beNat (slice b 48 48))
      let se : Session := { id := id, lastSeen := s.now, secret := Config.sessionSecret shared id }
      (s.updResponder f (fun r => { r with sessions := r.sessions ++ [se], nextId := r.nextId + 1 })).spdm f
        (.keyExchange id (got.getD 1 []) [30] sig)

/-- CHALLENGE (R437, R439, R441). -/
def execChallenge (f : FnId) (slot : Nat) (nonce : BitVec 256) (s : State) : Host.Outcome State Fault Refusal :=
  .next (s.negotiated f (fun s => if slot ≠ 0 then s.spdmError f .invalidRequest else s.tryFresh f (.challenge nonce)))

/-- GET_MEASUREMENTS (R439, R441, R442): values as they stand; a signed answer needs fresh entropy. -/
def execGetMeasurements (f : FnId) (block : Nat) (signed : Bool) (nonce : BitVec 256) (s : State) : Host.Outcome State Fault Refusal :=
  .next (s.negotiated f (fun s =>
    match s.measBlocks f block with
    | none => s.spdmError f .invalidRequest
    | some (k, b) => if signed then s.tryFresh f (.measurements block nonce) else s.spdm f (.measurements k b [] [])))

/-- KEY_EXCHANGE (R440, R441, R515): at most 4 sessions, and none is started below Floor 2 or by a point off the curve. -/
def execKeyExchange (f : FnId) (reqId : BitVec 16) (exchange : BitVec 768) (s : State) : Host.Outcome State Fault Refusal :=
  .next (s.negotiated f (fun s =>
    if 4 ≤ (s.responder f).sessions.length then s.spdmError f .sessionLimitExceeded
    else if !validPoint (beNat (slice (bvBytes exchange) 0 48)) (beNat (slice (bvBytes exchange) 48 48)) then s.spdmError f .invalidRequest
    else if s.boot.floor ≠ 2 then s.spdmError f .unspecified
    else s.tryFresh f (.keyExchange reqId exchange)))

/-- RESPOND_IF_READY (R438, R441): the deferred request is tried again, for up to 50 ms after it came. -/
def execRespondIfReady (f : FnId) (token : Byte) (s : State) : Host.Outcome State Fault Refusal :=
  .next (s.toResponder f (fun s =>
    match (s.responder f).wait with
    | none => s.spdmError f .invalidRequest
    | some w =>
      let done : State := s.updResponder f (fun r => { r with wait := none })
      if w.token ≠ token then s.spdmError f .invalidRequest
      else if s.entropyDead then done.spdmError f .unspecified
      else if s.eng.entropy.state = 1 then done.addTask (.spdm f w.req) (spdmNeeds w.req)
      else if w.since + 50000000 ≤ s.now then done.spdmError f .unspecified
      else s.spdmError f (.responseNotReady token)))

/-! Sessions (R440). -/

/-- The session of a responder with an identifier. -/
def State.session (s : State) (f : FnId) (id : BitVec 32) : Option Session := (s.responder f).sessions.find? (fun x => x.id == id)

/-- Remove a session. -/
def State.dropSession (s : State) (f : FnId) (id : BitVec 32) : State :=
  s.updResponder f (fun r => { r with sessions := r.sessions.filter (fun x => x.id != id) })

/-- Change a session. -/
def State.updSession (s : State) (f : FnId) (id : BitVec 32) (g : Session → Session) : State :=
  s.updResponder f (fun r => { r with sessions := r.sessions.map (fun x => if x.id = id then g x else x) })

/-- A request inside an established session of function f. -/
def State.inSession (s : State) (f : FnId) (id : BitVec 32) (k : State → State) : State :=
  match s.session f id with
  | some x => if x.established then k s else s.spdmError f .invalidSession
  | none => s.spdmError f .invalidSession

/-- FINISH (R438): the session is established when the requester's message verifies; otherwise it is gone. -/
def execFinish (f : FnId) (session : BitVec 32) (verified : Bool) (s : State) : Host.Outcome State Fault Refusal :=
  .next (s.toResponder f (fun s =>
    match s.session f session with
    | none => s.spdmError f .invalidSession
    | some _ =>
      if verified then (s.updSession f session (fun x => { x with established := true, lastSeen := s.now })).spdm f .finish
      else (s.dropSession f session).spdmError f .decryptError))

/-- HEARTBEAT (R440). -/
def execHeartbeat (f : FnId) (session : BitVec 32) (s : State) : Host.Outcome State Fault Refusal :=
  .next (s.toResponder f (fun s => s.inSession f session (fun s =>
    (s.updSession f session (fun x => { x with lastSeen := s.now })).spdm f .heartbeatAck)))

/-- SPDM_HEARTBEAT_TIMEOUT (R440): a session that misses heartbeats of the 30 s period ends, at twice the period (log entry 15). -/
def execSpdmHeartbeatTimeout (f : FnId) (session : BitVec 32) (s : State) : Host.Outcome State Fault Refusal :=
  .next (match s.session f session with
    | none => s
    | some x => (s.atLeast (x.lastSeen + 60000000000)).dropSession f session)

/-- KEY_UPDATE (R438, R441). -/
def execKeyUpdate (f : FnId) (session : BitVec 32) (s : State) : Host.Outcome State Fault Refusal :=
  .next (s.toResponder f (fun s => s.inSession f session (fun s =>
    (s.updSession f session (fun x => { x with updates := x.updates + 1, lastSeen := s.now })).spdm f .keyUpdateAck)))

/-- END_SESSION (R440). -/
def execEndSession (f : FnId) (session : BitVec 32) (s : State) : Host.Outcome State Fault Refusal :=
  .next (s.toResponder f (fun s => s.inSession f session (fun s => (s.dropSession f session).spdm f .endSessionAck)))

/-- SPDM_UNSUPPORTED_REQUEST (R439): any request that the table does not list. -/
def execSpdmUnsupportedRequest (f : FnId) (_code : Byte) (s : State) : Host.Outcome State Fault Refusal :=
  .next (s.toResponder f (fun s => s.spdmError f .unsupportedRequest))

/-! IDE_KM and TDISP (R438, R448, R449). -/

/-- A vendor-defined request: the PF serves it inside a secured session, a VF refuses it (R439). -/
def State.toManager (s : State) (f : FnId) (id : BitVec 32) (k : State → State) : State :=
  s.toResponder f (fun s => if f.val ≠ 64 then s.spdmError f .unsupportedRequest else s.inSession f id k)

/-- IDE_KM (R448, R449): keys of a stream are programmed, set in use or stopped. Streams 0–63 are VF n's selective streams, 64 is the
PF's, 65 is the link stream; a stop of VF n's keys moves its locked TDI to ERROR. -/
def execIdeKm (f : FnId) (session : BitVec 32) (stream : Fin 66) (op : IdeKmOp) (s : State) : Host.Outcome State Fault Refusal :=
  let put (s : State) (x : IdeStream) : State := s.setSec (fun y => { y with ide := SMap.put {} y.ide stream.val x })
  .next (s.toManager f session (fun s =>
    let x := SMap.get {} s.sec.ide stream.val
    let s := match op with
      | .keyProg => put s { x with keyed := true }
      | .setGo => if x.keyed then put s { x with secure := true } else s
      | .setStop =>
        let s := put s {}
        if stream.val < 64 then s.tdiError stream.val true else s
    s.spdm f .ideKmAck))

/-- VF n's TDI (R449). -/
def State.tdi (s : State) (n : PartId) : Tdi := SMap.get {} s.sec.tdis n.val

def State.setTdi (s : State) (n : PartId) (x : Tdi) : State := s.setSec (fun y => { y with tdis := SMap.put {} y.tdis n.val x })

/-- A TDISP request about VF n, which must exist (R449, R519). -/
def State.tdisp (s : State) (f : FnId) (session : BitVec 32) (n : PartId) (k : State → State) : State :=
  s.toManager f session (fun s =>
    if s.fnExists n.val then k s else s.spdm f (.tdispError .invalidInterface))

/-- GET_TDISP_VERSION (R449): TDISP 1.0. -/
def execGetTdispVersion (f : FnId) (session : BitVec 32) (n : PartId) (s : State) : Host.Outcome State Fault Refusal :=
  .next (s.tdisp f session n (fun s => s.spdm f (.tdispVersion 0x10)))

/-- GET_TDISP_CAPABILITIES (R449). -/
def execGetTdispCapabilities (f : FnId) (session : BitVec 32) (n : PartId) (s : State) : Host.Outcome State Fault Refusal :=
  .next (s.tdisp f session n (fun s => s.spdm f .tdispCapabilities))

/-- LOCK_INTERFACE_REQUEST (R449): an unlocked TDI is locked under a new nonce, a free value. -/
def execLockInterfaceRequest (f : FnId) (session : BitVec 32) (n : PartId) (s : State) : Host.Outcome State Fault Refusal :=
  .next (s.tdisp f session n (fun s =>
    if (s.tdi n).state ≠ .configUnlocked then s.spdm f (.tdispError .invalidInterfaceState)
    else
      let (b, s) := State.freeBytes 4 s
      let nonce : BitVec 256 := bytesBv 256 b
      (s.setTdi n { state := .configLocked, nonce := nonce, session := session }).spdm f (.tdispLock nonce)))

/-- GET_DEVICE_INTERFACE_REPORT (R449): of a locked or running TDI. -/
def execGetDeviceInterfaceReport (f : FnId) (session : BitVec 32) (n : PartId) (s : State) : Host.Outcome State Fault Refusal :=
  .next (s.tdisp f session n (fun s =>
    if (s.tdi n).state = .configLocked ∨ (s.tdi n).state = .run then s.spdm f (.tdispReport n)
    else s.spdm f (.tdispError .invalidInterfaceState)))

/-- GET_DEVICE_INTERFACE_STATE (R449). -/
def execGetDeviceInterfaceState (f : FnId) (session : BitVec 32) (n : PartId) (s : State) : Host.Outcome State Fault Refusal :=
  .next (s.tdisp f session n (fun s => s.spdm f (.tdispState (s.tdi n).state)))

/-- START_INTERFACE_REQUEST (R449): a locked TDI runs when the request returns its nonce. -/
def execStartInterfaceRequest (f : FnId) (session : BitVec 32) (n : PartId) (nonce : BitVec 256) (s : State) :
    Host.Outcome State Fault Refusal :=
  .next (s.tdisp f session n (fun s =>
    let x := s.tdi n
    if x.state ≠ .configLocked then s.spdm f (.tdispError .invalidInterfaceState)
    else if x.nonce ≠ nonce then s.spdm f (.tdispError .invalidNonce)
    else (s.setTdi n { x with state := .run, nonce := 0 }).spdm f .tdispStart))

/-- STOP_INTERFACE_REQUEST (R449, R456): the TDI is unlocked; leaving RUN while its partition is confidential is partition-fatal. -/
def execStopInterfaceRequest (f : FnId) (session : BitVec 32) (n : PartId) (s : State) : Host.Outcome State Fault Refusal :=
  .next (s.tdisp f session n (fun s =>
    let was := (s.tdi n).state
    let s := (s.setTdi n {}).spdm f .tdispStop
    if was = .run ∧ (s.part n.val).conf then s.partFatal n.val { mkRec 0x0505 1 with unit := unitIsland 1 } else s))

end Sys2Proof.Machine
end

