-- ==== Sys2Proof/Machine/EngineSlots.lean ====
section
/-!
DEFINITION. The slots of the hash engine, the signature engine and the DRBG, and their known-answer passes (03_organisation.md R76;
16_shared_engines.md R469, R477, R479, R480, R483–R485).
-/

namespace Sys2Proof.Machine

/-- The arbiter of an engine and the time of its slot in fixed-slot operation, in ns (R483). -/
def engineSlot : Engine → Nat × Nat
  | .hash => (34, 8192)
  | .signature => (35, 48000)
  | .drbg => (36, 8192)

/-- The engine that serves a need. -/
def Need.engine : Need → Engine
  | .gen _ _ => .drbg
  | .p384 => .signature
  | .segments _ => .hash

/-- The oldest task of context c that waits for engine e. -/
def State.taskFor (s : State) (e : Engine) (c : Nat) : Option Task :=
  s.eng.tasks.find? (fun t => t.work.ctx == c && (t.needs.head?.map Need.engine) == some e)

/-- The running update of partition n that hashes: the one that has begun, else the lowest slot's (log entry 140). -/
def State.hashingUpdate (s : State) (n : Nat) : Option Nat :=
  let l := s.regions.filter (fun (e : Nat × Region) => e.2.owner.map (·.val) == some n
    && (e.2.running.map (fun u => decide (u.segs < e.2.segments))).getD false)
  ((l.find? (fun e => (e.2.running.map (fun u => decide (0 < u.segs))).getD false)).or l.head?).map (·.1)

/-- Partition n's hash context has a segment to hash: of its job, else of a running update (R474, R479). -/
def State.hashReady (s : State) (n : Nat) : Bool :=
  match (s.part n).hash.job with
  | some j => decide (j.segs < j.segments)
  | none => (s.hashingUpdate n).isSome

/-- Context c is ready on an engine (R76, R469, R474, R480): a draw that must wait for a window is not, while one can still come. -/
def State.engineReady (s : State) (e : Engine) (c : Nat) : Bool :=
  (match s.taskFor e c with
   | some t => !s.starved t || s.entropyDead
   | none => false)
  || (e == .hash && decide (c < 64) && s.hashReady c)

/-- The engines have done their part of a piece of work. The answers of R385 are given as they stand now. -/
def State.finishTask (s : State) (w : Work) (got : List (List Byte)) : State :=
  let held (m : MbxId) (tag : BitVec 16) (ops : List Nat) (run : Held → State) : State :=
    match s.heldOf m tag ops with
    | none => s
    | some h =>
      match s.gate m h with
      | some st => s.answer m h st []
      | none => run h
  match w with
  | .grainSeed n tag =>
    let m : MbxId := Fin.ofNat 65 n
    held m tag [0x0703] (fun h => s.answerSeed m h (got.getD 0 []))
  | .report m tag _ => held m tag [0x0701, 0x0702] (fun h => s.giveReport m h (fun _ => toScalar (got.getD 0 [])))
  | .nonce m => s.updBox m (fun b => { b with nonce := got.getD 0 [] })
  | .signed m tag => held m tag [0x0301, 0x0302, 0x0303, 0x0304] (s.runSigned m)
  | .image m tag toB img => s.imageRead m tag toB img
  | .spdm f q => s.answerSpdm f q got

/-- A task has had one of its needs met: it waits for the next one's slot, or its work is finished (R465, R469). -/
def State.proceed (s : State) (t : Task) (needs : List Need) (got : List (List Byte)) : State :=
  if needs.isEmpty then (s.setTasks (fun ts => ts.filter (fun x => x.work != t.work))).finishTask t.work got
  else
    let s := s.setTasks (fun ts => ts.map (fun x => if x.work = t.work then { x with needs := needs, got := got } else x))
    if s.entropyDead then s.failStarved else if s.eng.entropy.state = 2 then s.deferStarved else s

/-- A slot does the first need of a task (R469, R477, R480, R483). -/
def State.advance (s : State) (t : Task) : State :=
  match t.needs with
  | [] => s
  | .gen fresh k :: rest =>
    (match s.drbgGen fresh k with
     | (some bs, s) => s.proceed t rest (t.got ++ [bs])
     | (none, s) => if s.entropyDead then s.failTask t else s)
  | .p384 :: rest => s.proceed t rest t.got
  | .segments k :: rest => s.proceed t (if k ≤ 1 then rest else .segments (k - 1) :: rest) t.got

/-- A hash slot of partition n: a segment of its job, while a running update is only copied, or a segment of its update (R257, R477, R479). -/
def State.hashSlot (s : State) (n : Nat) : State :=
  let s1 := match (s.part n).hash.job with
    | some j => s.retry 136 (fun s => s.jobSlot n j)
    | none => s
  match s.hashingUpdate n with
  | some k => s1.retry 136 (fun x => x.updateSlot k n (s.part n).hash.job.isNone)
  | none => s1

/-- A slot of engine e serves context c. -/
def State.serveSlot (s : State) (e : Engine) (c : Nat) : State :=
  match s.taskFor e c with
  | some t => s.advance t
  | none => if e == .hash && decide (c < 64) then s.hashSlot c else s

/-- The next slot of an engine begins, or the next of one context: its owner. In fixed-slot operation, while a Strict partition is there,
it starts at a multiple of the slot time, after the slot before it has ended; otherwise a slot begins when the one before it has ended, and the
rotation goes on by one (R483; log entry 142). -/
def State.beginSlot (s : State) (e : Engine) (want : Option Nat) : Nat × State :=
  let (a, time) := engineSlot e
  let from_ (i : Nat) : Nat := match want with
    | some c => i + (c + 66 - i % 66) % 66
    | none => i
  if s.anyStrict then
    let i := from_ (ceilDiv (max s.now (SMap.get 0 s.eng.slotEnd a)) time)
    let s := s.atLeast (i * time)
    let s := { s with eng := { s.eng with slotEnd := SMap.put 0 s.eng.slotEnd a ((i + 1) * time) } }
    (i % 66, s.setArb a { s.arb a with index := i + 1, owner := i % 66, last := 0x7F, blank := false })
  else
    let i := from_ (s.arb a).index
    (i % 66, s.setArb a { s.arb a with index := i + 1, owner := i % 66, last := 0x7F, blank := false })

/-- ENGINE_SLOT_START (R76, R469, R483): the slot of the rotation serves its owner; an unused slot of a Strict partition is blank, any
other passes to the next ready context. -/
def execEngineSlotStart (e : Engine) (s : State) : Host.Outcome State Fault Refusal :=
  let a := (engineSlot e).1
  let (c, s) := s.beginSlot e none
  let (user, blank) := s.rotUser (s.engineReady e) c
  let s := s.setArb a { s.arb a with last := user, blank := blank }
  .next (if blank || user == 0x7F then s else s.serveSlot e user)

/-- The number of a known-answer unit: hash, signature, DRBG, cipher. -/
def katIndex : KatUnit → Nat
  | .hash => 0 | .signature => 1 | .drbg => 2 | .cipher => 3

/-- The engine whose slot of context 64 a known-answer pass takes (R485); the cipher has no slots. -/
def katEngine : KatUnit → Option Engine
  | .hash => some .hash | .signature => some .signature | .drbg => some .drbg | .cipher => none

/-- ENGINE_KAT (R485, R503): the pass runs in context 64's slot; a passed one is noted, a failed one is device-fatal and names the last that
passed. -/
def execEngineKat (u : KatUnit) (ok : Bool) (s : State) : Host.Outcome State Fault Refusal :=
  let k := katIndex u
  let s := match katEngine u with
    | some e =>
      let a := (engineSlot e).1
      let s := (s.beginSlot e (some 64)).2
      s.setArb a { s.arb a with last := 64 }
    | none => s
  .next (if ok then { s with eng := { s.eng with kat := SMap.put 0 s.eng.kat k s.now } }
    else s.devFatal { mkRec 0x0502 2 with unit := unitEngine k, detail := SMap.get 0 s.eng.kat k })

end Sys2Proof.Machine
end

