-- ==== Sys2Proof/WellFormed.lean ====
section
/-!
DEFINITION. Which commands are well formed: the operands that a sender of the spec's kind can give. Their bounds that a type already says
(a tile below 64, a mailbox below 65) need no check. `exec` is total all the same: what it does with an ill-formed operand is said in log
entry 2.
-/

namespace Sys2Proof

/-- No number stands twice. -/
def distinct : List Nat → Bool
  | [] => true
  | x :: t => !t.contains x && distinct t

/-- A width to which the host link trains (18_host_board.md's table of the interfaces): x1, x4, x8 or x16; none when it does not come
up. -/
def hostLanesOk : Option (Fin 17) → Bool
  | none => true
  | some n => [1, 4, 8, 16].contains n.val

/-- A fabric access touches 1 to 128 bytes of one 128-byte line; an atomic touches 8, naturally aligned. -/
def memOpOk (pa : Nat) : MemOp → Bool
  | .read n => decide (1 ≤ n) && decide (pa % 128 + n ≤ 128)
  | .write bs => decide (1 ≤ bs.length) && decide (pa % 128 + bs.length ≤ 128)
  | .atomic _ _ _ => decide (pa % 8 = 0)

/-- A memory TLP that PCI Express allows here (R517, R563): no atomics, at most 512 bytes written or 4,096 read, within a 4 KiB page. -/
def tlpOpOk (off : Nat) : MemOp → Bool
  | .read n => decide (1 ≤ n) && decide (off % 4096 + n ≤ 4096)
  | .write bs => decide (1 ≤ bs.length) && decide (bs.length ≤ 512) && decide (off % 4096 + bs.length ≤ 4096)
  | .atomic _ _ _ => false

/-- A chain packet carries up to 8 of its message's rows (R320). -/
def chainPacketOk (p : ChainPacket) : Bool :=
  decide (p.data.length ≤ 8) && decide (p.first + p.data.length ≤ p.rows)

/-- The command is well formed. -/
def Instr.wf (i : Instr) : Bool :=
  match i with
  | .hostLinkUp lanes _ => hostLanesOk lanes
  | .entropyStartup tests windows => decide (1 ≤ tests.length) && decide (tests.length ≤ 4) && decide (windows.length ≤ 2)
  | .hbmTraining fails => distinct (fails.map (fun x => x.1.val * 12 + x.2.val))
  | .paceWindowEnd readings => distinct (readings.map (fun r => r.monitor.val))
  | .hbmTempRead temps => distinct (temps.map (fun x => x.1.val))
  | .admissionWindow entries => distinct (entries.map (fun x => x.1.val))
  | .fabricPacketArrive p => memOpOk p.pa.toNat p.op
  | .atsInvalidation _ addr size => decide (4096 ≤ size) && decide (size % 4096 = 0) && decide (addr.toNat % 4096 = 0)
  | .chainPacketReceive _ p _ => chainPacketOk p
  | .chainDoneReceive _ p => chainPacketOk p
  | .pfBar2Access off op => tlpOpOk off.toNat op
  | .vfBar2Access _ off op _ => tlpOpOk off.toNat op
  | .registerWrite _ bytes => bytes.length % 4 == 0 && decide (4 ≤ bytes.length) && decide (bytes.length ≤ 512)
  | .getCertificate _ slot off len => decide (slot ≤ 7) && decide (off < 2 ^ 16) && decide (len < 2 ^ 16)
  | .challenge _ slot _ => decide (slot ≤ 7)
  | .getMeasurements _ block _ _ => decide (block ≤ 255)
  | .coldReset | .warmReset _ | .vfFlr _ | .d3hotEntry _ | .startupT0 | .startupSelfTest _ _ | .firmwareBundleLoad
  | .protectedRecordRead _ | .pairsRelease | .hbmZeroing | .configurationApply _ | .pwrOkFall | .pwrBrakeAssert | .pwrBrakeRelease
  | .vrHotAssert | .clockLoss _ | .powerLoopTick _ | .paceDeficit _ | .outOfRating _ | .hbmThermal _ | .tokenRelease _
  | .healthPassDue _ | .healthPassStart _ | .journalThreshold _ | .healthPassEnd _ _ | .closingPassEnd _ _ | .recallNoticePost _ _
  | .faultEventPost _ | .stallDeclare _ _ _ | .acmScrubRead _ _ | .lsScrubRead _ _ | .hbmScrubRead _ _ | .hbmRefresh _ | .hbmDieLost _ _
  | .arbiterSlotStart _ _ | .hbmAccessComplete _ _ | .engineSlotStart _ | .engineKat _ _ | .strictMailboxPost _ | .entropyWindowEnd
  | .entropyRestart _ | .entropyWaitTimeout | .linkFlitSend _ | .linkFlitReceive _ _ | .linkReplay _ | .linkFailedAfterReplay _
  | .linkTrainingEnd _ _ | .sqTailWrite _ _ _ | .cqHeadWrite _ _ _ | .submitPass _ _ _ _ | .submitMove _ _ _ | .submitStream _ _ _
  | .submitStreamClose _ _ _ | .dispatch _ | .moveDispatch _ | .passStart _ | .completionReady _ | .completionPost _
  | .streamNextPass _ | .queueDmaFailure _ _ _ | .l1FillComplete _ _ _ | .talonFillComplete _ _ _ | .discardWritebackAck _ _ _
  | .tlbWalkComplete _ _ _ | .deferredFault _ _ _ | .integerAlu _ _ _ | .aluImmediate _ _ _ | .shiftImmediate _ _ _ | .movhi _ _ _
  | .pcrel _ _ _ | .multiplyDivide _ _ _ | .load _ _ _ | .store _ _ _ | .atomic _ _ _ | .branch _ _ _ | .jl _ _ _ | .jlr _ _ _
  | .trap _ _ _ | .tret _ _ _ | .rdtime _ _ _ | .pdone _ _ _ | .brk _ _ _ | .tcrr _ _ _ | .tcrw _ _ _ | .fenceRel _ _ _
  | .fenceAcq _ _ _ | .fenceRelAll _ _ _ | .fenceAcqAll _ _ _ | .cpf _ _ _ | .cwb _ _ _ | .cwbi _ _ _ | .czero _ _ _ | .iinv _ _ _
  | .iinvAll _ _ _ | .fpArithmetic _ _ _ | .fpSign _ _ _ | .fpFused _ _ _ | .fpConversion _ _ _ | .fkind _ _ _ | .setvl _ _ _
  | .vgetvl _ _ _ | .vld _ _ _ | .vldu _ _ _ | .vldFf _ _ _ | .vlx _ _ _ | .vst _ _ _ | .vstu _ _ _ | .vsx _ _ _
  | .vectorInteger _ _ _ | .vmerge _ _ _ | .vectorCompare _ _ _ | .vectorFloat _ _ _ | .vfcvtFrom _ _ _ | .vfcvtTo _ _ _
  | .vfcvtInteger _ _ _ | .maskLogic _ _ _ | .kpopcKfirst _ _ _ | .vlmVsm _ _ _ | .vectorReduction _ _ _ | .vectorScalarMove _ _ _
  | .vectorPermutation _ _ _ | .vxDeal _ _ _ | .vxCombinePut _ _ _ | .vxCombineSum _ _ _ | .mxLdw _ _ _ _ | .mxRun _ _ _ _
  | .mxDrain _ _ _ _ | .mxZero _ _ _ _ | .mxSwap _ _ _ _ | .chainStepStart _ | .chainBreakReceive _ _ _ | .chainWaitExpiry _
  | .chainRecallReceive _ | .chainRecallResend | .chainLogAging | .rootDrained _ | .mapUpdateDrainTimeout _ | .regionUpdateStart _
  | .regionUpdateComplete _ | .regionRetireComplete _ | .hashGo _ _ | .hashJobComplete _ | .quietPointReached _ | .quietTimeout _
  | .protectedRecordWritten | .proposalExpiry _ | .restartPassEnd _ _ | .mbxBellReq _ | .mbxMessageTake _ _ | .mbxBellRspDone _
  | .mbxEvtHeadWrite _ _ | .segmentGapTimeout _ | .devInfo _ _ | .devStatus _ _ | .paceReport _ _ | .configLoad _ _ _ | .setMode _ _
  | .configRead _ _ | .protectPropose _ _ | .protectApprove _ _ | .protectCommit _ _ | .protectWithdraw _ _ | .authorityList _ _
  | .mapUpdate _ _ | .regionCreate _ _ | .regionUpdate _ _ | .regionRetire _ _ | .regionStatus _ _ | .queueCreate _ _
  | .queueDestroy _ _ | .anteSet _ _ | .ledgerQuery _ _ | .chainDefine _ _ | .chainRelease _ _ | .attestDevice _ _
  | .attestPartition _ _ | .grainSeed _ _ | .keyInstall _ _ | .confidentialEnter _ _ | .errorLogRead _ _ | .partitionRestart _ _
  | .recallAck _ _ | .checkSplitEnable _ _ | .selfTestRun _ _ | .powerEnvelope _ _ | .paceLock _ _ | .csRawRead _ | .csRawWrite _
  | .i3cWriteCapW _ | .i3cReadFlags _ | .tapInstruction _ | .uartInput _ | .getVersion _ | .getCapabilities _ | .negotiateAlgorithms _
  | .getDigests _ | .keyExchange _ _ _ | .finish _ _ _ | .heartbeat _ _ | .spdmHeartbeatTimeout _ _ | .keyUpdate _ _ | .endSession _ _
  | .respondIfReady _ _ | .spdmUnsupportedRequest _ _ | .ideKm _ _ _ _ | .getTdispVersion _ _ _ | .getTdispCapabilities _ _ _
  | .lockInterfaceRequest _ _ _ | .getDeviceInterfaceReport _ _ _ | .getDeviceInterfaceState _ _ _ | .startInterfaceRequest _ _ _ _
  | .stopInterfaceRequest _ _ _ | .reportSnapshotExpiry _ | .configurationRequest _ _ | .lossOfPower | .noiseSourceSample _
  | .knownPatternTestEnd _ _ | .flashWriteComplete => true

end Sys2Proof
end

