-- ==== Sys2Proof/Machine/HostBoard.lean ====
section
/-!
DEFINITION. The host link and the board (18_host_board.md): configuration space (R517–R520, R550), the BAR2 windows (R522, R525, R563),
register writes (R3, R104, R371, R520, R523), ATS invalidations (R531), raw check-split operations (R505, R506), the I3C target (R535,
R536), the TAP and the UART (R451, R538, R539).
-/

namespace Sys2Proof.Machine

def State.setHostl (s : State) (f : HostLink → HostLink) : State := { s with hostl := f s.hostl }
def State.setBoard (s : State) (f : Board → Board) : State := { s with board := f s.board }

/-! Configuration space. -/

/-- The size of a function's BAR 0, 2 or 4 in bytes; a BAR that it does not have takes no bits (R520, R523). -/
def barSize (f : FnId) (b : Fin 3) : Nat :=
  if f.val = 64 then [0x100000, 2 ^ 39, 2 ^ 24].getD b 0 else [0x40000, 2 ^ 36, 2 ^ 64].getD b 0

/-- The low bits of a BAR: 64-bit, and prefetchable but for BAR0 (R520, R523; the bits are PCI Express's, log entry 16). -/
def barFlags (f : FnId) (b : Fin 3) : Nat := if f.val ≠ 64 ∧ b = 2 then 0 else if b = 0 then 4 else 12

/-- The capabilities of a function (R517, R518, R531). -/
def pcieCaps (f : FnId) : List (String × Nat) :=
  [("max payload", 512), ("max read request", 4096), ("tag bits", 14), ("ATS invalidate queue depth", 32), ("MSI-X vectors", if f.val = 64 then 256 else 64),
   ("AER", 1), ("DOE", 1), ("FLR", 1), ("D3hot", 1)]
  ++ (if f.val = 64 then [("link width", 16), ("link rate", 64), ("flit mode", 1), ("ARI", 1), ("TotalVFs", 64), ("VF offset", 1), ("VF stride", 1),
    ("system page size", 4096), ("link IDE", 1), ("selective IDE streams", 65), ("TDISP", 1)] else [])

/-- The data objects that a DOE mailbox takes, by discovery index, with the next index: discovery, SPDM and secured SPDM (R517; the numbers are PCI
Express's, log entry 16). -/
def doeProtocol (i : Nat) : Option (Nat × Nat) :=
  match i with
  | 0 => some (0, 1) | 1 => some (1, 2) | 2 => some (2, 0) | _ => none

/-! Configuration requests. -/

/-- What a configuration write or read of function f does (R518, R519, R531, R533). `NumVFs` changes only while VFs are disabled, and only
to a number of VFs that the device has; the SR-IOV fields are the PF's. -/
def State.cfgEffect (s : State) (f : FnId) (q : CfgReq) : State :=
  match q with
  | .setNumVfs k =>
    if f.val = 64 ∧ !s.hostl.vfEnable ∧ k.toNat ≤ 64 then s.setHostl (fun h => { h with numVfs := k }) else s
  | .setVfEnable b => if f.val = 64 then s.setHostl (fun h => { h with vfEnable := b }) else s
  | .setMemEnable b => s.setHostl (fun h => { h with mse := SMap.put false h.mse f b })
  | .setAtsEnable b => s.setHostl (fun h => { h with
      ats := SMap.put false h.ats f b, atc := if b then h.atc else h.atc.filter (fun e => e.1 != f.val) })
  | .setPowerD0 => s.setHostl (fun h => { h with d3 := SMap.put false h.d3 f false })
  | .readIds => s.emit (.cfgIds 0x1EDC (if f.val = 64 then 0xA064 else 0xA065) 0x120000 0xB0)
  | .setBar b v => s.setHostl (fun h => { h with bars := SMap.put 0 h.bars (f.val * 3 + b.val) (v &&& ~~~(BitVec.ofNat 64 (barSize f b - 1))) })
  | .readBar b => s.emit (.cfgWord (SMap.get 0 s.hostl.bars (f.val * 3 + b.val) ||| BitVec.ofNat 64 (barFlags f b)))
  | .readCapabilities => s.emit (.cfgCaps (pcieCaps f))
  | .readLink => s.emit (.cfgLink s.hostl.width s.hostl.rate)
  | .readAer => s.emit (.cfgWord ((SMap.get 0 s.hostl.aer f.val).setWidth 64))
  | .clearAer v => s.setHostl (fun h => { h with aer := SMap.upd 0 h.aer f.val (fun x => x &&& ~~~v) })
  | .doeDiscovery i => (match doeProtocol i.toNat with
    | some (p, next) => (s.emit (.doe 1 p next)).msix f 2
    | none => s)

/-- True for a request that a read completion of its own answers. -/
def CfgReq.answers : CfgReq → Bool
  | .readIds | .readBar _ | .readCapabilities | .readLink | .readAer => true
  | .setNumVfs _ | .setVfEnable _ | .setMemEnable _ | .setAtsEnable _ | .setPowerD0 | .setBar _ _ | .clearAer _ | .doeDiscovery _ => false

/-- CONFIGURATION_REQUEST (R517–R520, R550): before the host link answers, Retry Status; a function that does not exist answers
Unsupported Request. -/
def execConfigurationRequest (f : FnId) (q : CfgReq) (s : State) : Host.Outcome State Fault Refusal :=
  .next (if s.boot.state = .reset then s
    else if !s.stepDid 3 then s.emit .tlpRetry
    else if s.hostl.width = 0 then s
    else if !s.fnExists f.val then s.emit .tlpUnsupported
    else if CfgReq.answers q then s.cfgEffect f q
    else (s.cfgEffect f q).emit .tlpDone)

/-- ATS_INVALIDATION (R531): the pages leave the translation cache, and the completion answers. -/
def execAtsInvalidation (f : FnId) (addr : Word) (size : Nat) (s : State) : Host.Outcome State Fault Refusal :=
  .next ((s.setHostl (fun h => { h with
    atc := h.atc.filter (fun e => !(e.1 == f.val && decide (addr.toNat / 4096 * 4096 ≤ 4096 * e.2) && decide (4096 * e.2 < addr.toNat + size))) })).emit
      (.invalidationDone f))

/-! The memory windows. -/

/-- The PF's BARs decode (R520, R533, R550). -/
def State.pfDecodes (s : State) : Bool :=
  s.hostl.width != 0 && SMap.get false s.hostl.mse 64 && !SMap.get false s.hostl.d3 64

/-- VF n's BARs decode (R519, R533, R550). -/
def State.vfDecodes (s : State) (n : Nat) : Bool :=
  s.hostl.width != 0 && s.boot.opened && s.vfLive n && SMap.get false s.hostl.mse n && !SMap.get false s.hostl.d3 n

/-- An access to VF n's BARs passes R527: on the selective IDE stream while its TDI is locked or runs. -/
def State.ideOk (s : State) (n : PartId) (ide : Bool) : Bool :=
  ide || ((s.tdi n).state != .configLocked && (s.tdi n).state != .run)

/-- Write pieces, each on its own: a refused piece is discarded. -/
def State.writePieces (s : State) (wr : State → Nat → List Byte → State) (es : List Extent) (bs : List Byte) : State :=
  (es.foldl (fun (r : State × List Byte) e => (wr r.1 e.pa (r.2.take e.len), r.2.drop e.len)) (s, bs)).1

/-- A window read that ends with data or with Unsupported Request. -/
def windowRead (f : FnId) (r : Option (List Byte) × State) : State :=
  match r with
  | (some bs, s) => s.emit (.tlpData bs)
  | (none, s) => s.unsupported f

/-- The physical address of a PF BAR2 offset (R522). -/
def State.pfBar2Pa (s : State) (off : BitVec 39) : Nat := s.deviceNum * 2 ^ 46 + (if off.getLsbD 38 then 2 ^ 44 else 0) + fld off 0 38

/-- PF_BAR2_ACCESS (R522): HBM or Local Store of this device with tag 0x41; the target's checks log what they refuse. -/
def execPfBar2Access (off : BitVec 39) (op : MemOp) (s : State) : Host.Outcome State Fault Refusal :=
  .next (if !s.pfDecodes || !tlpOpOk off.toNat op then s.unsupported 64
    else match op with
      | .read n => windowRead 64 (s.readExtents 0x41 (cutRun 6 (s.pfBar2Pa off) n))
      | .write bs => s.writePieces (fun s pa b => (s.access 0x41 pa (.write b)).2) (cutRun 6 (s.pfBar2Pa off) bs.length) bs
      | .atomic _ _ _ => s.unsupported 64)

/-- The cache of R525 when an access of partition n comes: empty once any root that it holds has changed. -/
def State.winCache (s : State) : List WinEntry :=
  if s.hostl.winTlb.all (fun e => (s.part e.part).rootId == e.rootId) then s.hostl.winTlb else []

/-- The translation cache takes the page of a virtual address that the partition's root maps (R525). -/
def State.winFill (s : State) (n : PartId) (va : Nat) : State :=
  let c := s.winCache
  let p := s.part n
  match s.walk p.root va with
  | (none, s) => s.setHostl (fun h => { h with winTlb := c })
  | (some (leaf, large), s) =>
    let size := pageLen large
    let e : WinEntry := { part := n, rootId := p.rootId, tr := { va := va / size * size, large := large, leaf := leaf } }
    s.setHostl (fun h => { h with winTlb := if e ∈ c then c else c.drop (c.length - 1023) ++ [e] })

/-- One piece of a VF BAR2 write (R525): a refused one is discarded and logged to the partition as ADDRESS_INVALID. -/
def State.vfWrite (s : State) (n pa : Nat) (bs : List Byte) : State :=
  if s.badAddress pa || (paDev pa == s.deviceNum && !s.tagOk n pa (.write bs)) then s.refuse 0x0403 n pa
  else if paDev pa ≠ s.deviceNum then s.windowSend n pa bs
  else (s.access n pa (.write bs)).2

/-- An access of partition n's window at a VA: its read completion, its write, or its refusal (R525). -/
def State.vfWindow (s : State) (n : PartId) (va : Nat) (op : MemOp) : State :=
  let s := s.winFill n va
  match op with
  | .read len => (match s.range (s.part n).root .load va len with
    | (some es, s) => windowRead (Fin.ofNat 65 n.val) (s.readExtents n ((es.map (fun e => cutRun 6 e.pa e.len)).flatten))
    | (none, s) => s.unsupported (Fin.ofNat 65 n.val))
  | .write bs => (match s.range (s.part n).root .store va bs.length with
    | (some es, s) => s.writePieces (fun s pa b => s.vfWrite n pa b) ((es.map (fun e => cutRun 6 e.pa e.len)).flatten) bs
    | (none, s) => s.refuse 0x0403 n 0)
  | .atomic _ _ _ => s.unsupported (Fin.ofNat 65 n.val)

/-- VF_BAR2_ACCESS (R519, R525–R527): a read waits for another device's response, and writes are posted. -/
def execVfBar2Access (n : PartId) (off : BitVec 36) (op : MemOp) (ide : Bool) (s : State) : Host.Outcome State Fault Refusal :=
  .next (if !s.vfDecodes n || !s.ideOk n ide || !(s.part n).winEn || !tlpOpOk off.toNat op then s.unsupported (Fin.ofNat 65 n.val)
    else match op with
      | .read _ => s.retry 136 (fun s => s.vfWindow n ((s.part n).winBase.toNat * 2 ^ 36 + off.toNat) op)
      | _ => s.vfWindow n ((s.part n).winBase.toNat * 2 ^ 36 + off.toNat) op)

/-- A host write into a mailbox block (R368, R371, R563). -/
def State.boxWrite (s : State) (f : FnId) (off : Nat) (bs : List Byte) : State := (s.boxPut f off bs).getD (s.unsupported f)

/-- A write into a function's MSI-X table (R520, R523; the entry's layout is PCI Express's, log entry 16): a vector unmasked while its
message is pending sends it. -/
def State.msixWrite (s : State) (f : FnId) (off : Nat) (bs : List Byte) : State :=
  if !regTlp off bs then s.unsupported f
  else
    let vec := off / 16
    let e := s.msixEntry f vec
    let old := bvBytes e.addr ++ bvBytes e.data ++ leBytes 4 (b2n e.masked)
    let new := old.take (off % 16) ++ bs ++ old.drop (off % 16 + bs.length)
    let e := { e with
      addr := BitVec.ofNat 64 (at' new 0 8), data := BitVec.ofNat 32 (at' new 8 4), masked := at' new 12 1 % 2 == 1 }
    if e.pend && !e.masked then (s.setMsix f vec { e with pend := false }).emit (.msix f vec e.addr e.data (s.tdiRuns f.val)) else s.setMsix f vec e

/-- A write into VF n's BAR0 (R523). -/
def State.vfBar0Write (s : State) (n : PartId) (off : Nat) (bs : List Byte) : State :=
  if off < 0x3000 then s.boxWrite (Fin.ofNat 65 n.val) off bs
  else if 0x30000 ≤ off ∧ off < 0x30400 then s.msixWrite (Fin.ofNat 65 n.val) (off - 0x30000) bs
  else if !regTlp off bs then s.unsupported (Fin.ofNat 65 n.val)
  else if 0x10000 ≤ off ∧ off < 0x10100 then (if off % 8 = 0 then s.hostBell n off (bytesBv 64 bs) else s)
  else if off < 0x30000 then s.unitPut (0xC0 + n.val) off bs
  else s

/-- A write into the PF's BAR0 (R520). -/
def State.pfBar0Write (s : State) (off : Nat) (bs : List Byte) : State :=
  if off < 0x3000 then s.boxWrite operatorId off bs
  else if 0x80000 ≤ off ∧ off < 0x81000 then s.msixWrite operatorId (off - 0x80000) bs
  else if !regTlp off bs then s.unsupported operatorId
  else s

/-- REGISTER_WRITE (R3, R68, R104, R371, R520, R523, R527): by the host through a BAR0, or through the fabric under a tag; a reserved tag is R59's
fault. -/
def execRegisterWrite (a : RegAddr) (bytes : List Byte) (s : State) : Host.Outcome State Fault Refusal :=
  .next (match a with
    | .vfBar0 n off ide =>
      if s.vfDecodes n && s.ideOk n ide then s.vfBar0Write n off.toNat bytes
      else if s.fnExists n.val then s.unsupported (Fin.ofNat 65 n.val) else s.emit .tlpUnsupported
    | .pfBar0 off => if s.pfDecodes then s.pfBar0Write off.toNat bytes else s.unsupported operatorId
    | .unit tag u off =>
      let pa := s.deviceNum * 2 ^ 46 + 2 * 2 ^ 44 + u.toNat * 2 ^ 24 + off.toNat
      if 0x42 ≤ tag.toNat then s.reservedTag pa else (s.accessBox tag.toNat pa (.write bytes)).2)

/-! Check-split windows. -/

/-- The register bytes of a window, whether its space is enabled, and its control register (R505). -/
def State.csState (s : State) (w : CsTarget) : Nat × Bool :=
  match w with
  | .tile t =>
    let acm := (s.tile t).csAddr.getLsbD 0
    (t.val * 2 ^ 24 + 0x8018, s.boot.checkSplit.getLsbD (if acm then 1 else 0))
  | .hbm k => ((0x48 + k.val) * 2 ^ 24 + 0x1020, s.boot.checkSplit.getLsbD 2)

/-- A raw operation (R505, R506); the window of a disabled space refuses it as ADDRESS_INVALID. -/
def State.csRaw (s : State) (w : CsTarget) (wr : Bool) : State :=
  let (reg, on) := s.csState w
  if on then
    (match w with
     | .tile t => s.csTile t wr
     | .hbm k => s.csHbm k wr)
  else s.refuse 0x0403 0x41 (s.deviceNum * 2 ^ 46 + 2 * 2 ^ 44 + reg)

/-- CS_RAW_READ (R505, R506). -/
def execCsRawRead (w : CsTarget) (s : State) : Host.Outcome State Fault Refusal := .next (s.csRaw w false)

/-- CS_RAW_WRITE (R505, R506). -/
def execCsRawWrite (w : CsTarget) (s : State) : Host.Outcome State Fault Refusal := .next (s.csRaw w true)

/-! The board. -/

/-- `THERM` (R535). -/
def Plant.therm (p : Plant) : Byte :=
  if p.pace.any (fun e => decide (100 ≤ e.2.tj.toNat)) then 2 else if p.pace.any (fun e => decide (90 ≤ e.2.tj.toNat)) then 1 else 0

/-- `ALERT#` is driven low (R535). -/
def State.alert (s : State) : Bool := s.devFlags != s.board.flagsRead || s.plant.therm != s.board.thermRead

/-- I3C_WRITE_CAP_W (R535, R536): 0 lifts the cap, and any other value is raised to 1,100 W. -/
def execI3cWriteCapW (v : BitVec 16) (s : State) : Host.Outcome State Fault Refusal :=
  .next (if s.i3cUp then s.setBoard (fun b => { b with capW := if v = 0 then 0 else if v.toNat < 1100 then 1100 else v }) else s)

/-- A value rounded down to a multiple while some partition is confidential (R535). -/
def State.coarse (s : State) (step v : Nat) : Nat := if s.anyConf then v / step * step else v

/-- A register of the board interface (R535). -/
def State.i3cValue (s : State) (r : I3cReg) : List Byte :=
  match r with
  | .state => leBytes 1 s.boot.state.code
  | .flags => [s.devFlags]
  | .therm => [s.plant.therm]
  | .tjMax => leBytes 1 (s.coarse 5 (s.plant.pace.foldl (fun a e => max a e.2.tj.toNat) 0))
  | .hbmMax => leBytes 1 (s.coarse 5 ((List.range 8).foldl (fun a k => max a (s.hbmc k).temp.toNat) 0))
  | .powerW => leBytes 2 (s.coarse 25 s.plant.avgWatts)
  | .envW => leBytes 2 s.envelopeW
  | .capW => bvBytes s.board.capW
  | .partNo => (s.devInfo operatorId).take 16

/-- I3C_READ_FLAGS (R535): the board reads a register; a read of `FLAGS` releases `ALERT#`, and one of `THERM` is its last read value. -/
def execI3cReadFlags (reg : I3cReg) (s : State) : Host.Outcome State Fault Refusal :=
  .next (if s.i3cUp then
      let s := match reg with
        | .flags => s.setBoard (fun b => { b with flagsRead := s.devFlags, thermRead := s.plant.therm })
        | .therm => s.setBoard (fun b => { b with thermRead := s.plant.therm })
        | _ => s
      s.emit (.i3c (s.i3cValue reg))
    else s)

/-- TAP_INSTRUCTION (R451, R539): BYPASS and IDCODE always, boundary scan while no partition is confidential, debug instructions only while
the debug facilities are available; anything else selects BYPASS. What a debug instruction reads or drives is not in the spec. -/
def execTapInstruction (op : TapOp) (s : State) : Host.Outcome State Fault Refusal :=
  let set (o : TapOp) : State := s.setBoard (fun b => { b with tapIr := o })
  .next (match op with
    | .bypass => set .bypass
    | .idcode => (set .idcode).emit (.tap Config.idcode)
    | .boundaryScan => set (if s.anyConf then .bypass else .boundaryScan)
    | .debug c => set (if s.debugOn then .debug c else .bypass))

/-- UART_INPUT (R451, R538): a console byte is taken only while the debug facilities are available and CI12 has its clock (R49). -/
def execUartInput (b : Byte) (s : State) : Host.Outcome State Fault Refusal :=
  .next (if s.debugOn && s.i3cUp then s.setBoard (fun x => { x with uart := x.uart ++ [b] }) else s)

end Sys2Proof.Machine
end

