-- ==== Sys2Proof/Machine/Scalar.lean ====
section
/-!
DEFINITION. The scalar instructions (04_tile_scalar.md): arithmetic and constants, multiply and divide, loads, stores and
atomics, control transfer, the system group and the tile control registers.
-/

namespace Sys2Proof.Machine

/-! Arithmetic and logic (R88). -/

/-- Leading zeros of a 64-bit value: 64 for zero. -/
def clz64 (x : Word) : Nat := if x.toNat = 0 then 64 else 63 - x.toNat.log2

/-- Trailing zeros of a 64-bit value: 64 for zero. -/
def ctz64 (x : Word) : Nat := ((List.range 64).find? (fun i => x.getLsbD i)).getD 64

/-- The ALU group, by function code (R88); `sel` and the counts stand apart in the table of instructions by class. -/
def alu (fn : Nat) (a b c : Word) : Word :=
  match fn with
  | 0x00 => a + b
  | 0x01 => a - b
  | 0x02 => a &&& b
  | 0x03 => a ||| b
  | 0x04 => a ^^^ b
  | 0x05 => a <<< (b.toNat % 64)
  | 0x06 => a >>> (b.toNat % 64)
  | 0x07 => a.sshiftRight (b.toNat % 64)
  | 0x08 => if a.slt b then 1 else 0
  | 0x09 => if a.ult b then 1 else 0
  | 0x0A => if b.slt a then b else a
  | 0x0B => if a.slt b then b else a
  | 0x0C => if b.ult a then b else a
  | 0x0D => if a.ult b then b else a
  | 0x0E => if c ≠ 0 then a else b
  | 0x0F => BitVec.ofNat 64 (clz64 a)
  | 0x10 => BitVec.ofNat 64 (ctz64 a)
  | _ => BitVec.ofNat 64 (popc 64 a.toNat)

/-- The immediate forms by major opcode: `addi` and `slti` extend the sign, the logic forms extend with zeros (R87). -/
def aluImm (mj imm : Nat) (a : Word) : Word :=
  match mj with
  | 0x02 => a + sext64 16 imm
  | 0x03 => a &&& BitVec.ofNat 64 imm
  | 0x04 => a ||| BitVec.ofNat 64 imm
  | 0x05 => a ^^^ BitVec.ofNat 64 imm
  | _ => if a.slt (sext64 16 imm) then 1 else 0

/-- The shift-immediate forms: `IMM16`[7:6] selects, [5:0] is the amount (R87). -/
def shiftImm (imm : Nat) (a : Word) : Word :=
  let n := imm % 64
  match imm / 64 % 4 with
  | 0 => a <<< n
  | 1 => a >>> n
  | 2 => a.sshiftRight n
  | _ => a.rotateRight n

/-- The multiply and divide group (R88, R89): division by zero and the overflow case are as R89 states. -/
def mulDiv (fn : Nat) (a b : Word) : Word :=
  match fn with
  | 0 => a * b
  | 1 => BitVec.ofInt 64 (a.toInt * b.toInt / 2 ^ 64)
  | 2 => BitVec.ofNat 64 (a.toNat * b.toNat / 2 ^ 64)
  | 3 => BitVec.ofInt 64 (a.toInt * (b.toNat : Int) / 2 ^ 64)
  | 4 => if b = 0 then BitVec.allOnes 64 else BitVec.ofInt 64 (a.toInt.tdiv b.toInt)
  | 5 => if b = 0 then BitVec.allOnes 64 else a / b
  | 6 => if b = 0 then a else BitVec.ofInt 64 (a.toInt.tmod b.toInt)
  | _ => if b = 0 then a else a % b

def execIntegerAlu (t : TileId) (w : BitVec 32) (u : Upset) (s : State) : Host.Outcome State Fault Refusal :=
  .next (s.sisReg t w u .integerAlu (fun r => r.setX (wRd w) (alu (wFn w) (r.xr (wRa w)) (r.xr (wRb w)) (r.xr (wRc w)))))

def execAluImmediate (t : TileId) (w : BitVec 32) (u : Upset) (s : State) : Host.Outcome State Fault Refusal :=
  .next (s.sisReg t w u .aluImmediate (fun r => r.setX (wRd w) (aluImm (wMajor w) (wImm w) (r.xr (wRa w)))))

def execShiftImmediate (t : TileId) (w : BitVec 32) (u : Upset) (s : State) : Host.Outcome State Fault Refusal :=
  .next (s.sisReg t w u .shiftImmediate (fun r => r.setX (wRd w) (shiftImm (wImm w) (r.xr (wRa w)))))

/-- The immediate of format U (R85): sign-extend(`IMM21`) << 16. -/
def immU (w : BitVec 32) : Word := sext64 21 (fld w 0 21) <<< 16

def execMovhi (t : TileId) (w : BitVec 32) (u : Upset) (s : State) : Host.Outcome State Fault Refusal :=
  .next (s.sisReg t w u .movhi (fun r => r.setX (wRd w) (immU w)))

def execPcrel (t : TileId) (w : BitVec 32) (u : Upset) (s : State) : Host.Outcome State Fault Refusal :=
  .next (s.sisReg t w u .pcrel (fun r => r.setX (wRd w) (r.pc + immU w)))

def execMultiplyDivide (t : TileId) (w : BitVec 32) (u : Upset) (s : State) : Host.Outcome State Fault Refusal :=
  .next (s.sisReg t w u .multiplyDivide (fun r => r.setX (wRd w) (mulDiv (wFn w) (r.xr (wRa w)) (r.xr (wRb w)))))

/-! Control transfer (R85, R87). -/

/-- The branch conditions (`COND` 0–5). -/
def condHolds (c : Nat) (a b : Word) : Bool :=
  match c with
  | 0 => a == b
  | 1 => a != b
  | 2 => a.slt b
  | 3 => !a.slt b
  | 4 => a.ult b
  | _ => !a.ult b

/-- Format B names its registers in the `RD` and `RA` places; `OFF13` counts words from the branch's own address. -/
def execBranch (t : TileId) (w : BitVec 32) (u : Upset) (s : State) : Host.Outcome State Fault Refusal :=
  .next (s.sis1 t w u .branch (fun s =>
    let r := (s.tile t).tsu
    if condHolds (fld w 13 3) (r.xr (wRd w)) (r.xr (wRa w)) then (.jump (r.pc + sext64 13 (fld w 0 13) * 4), s) else (.next, s)))

def execJl (t : TileId) (w : BitVec 32) (u : Upset) (s : State) : Host.Outcome State Fault Refusal :=
  .next (s.sis1 t w u .jl (fun s =>
    let pc := (s.tile t).tsu.pc
    (.jump (pc + sext64 21 (fld w 0 21) * 4), s.setX t (wRd w) (pc + 4))))

def execJlr (t : TileId) (w : BitVec 32) (u : Upset) (s : State) : Host.Outcome State Fault Refusal :=
  .next (s.sis1 t w u .jlr (fun s =>
    let r := (s.tile t).tsu
    (.jump ((r.xr (wRa w) + sext64 16 (wImm w)) &&& ~~~3), s.setX t (wRd w) (r.pc + 4))))

/-! Loads, stores and atomics. -/

/-- The bytes of a scalar access, by major opcode (R87). -/
def accessSize (mj : Nat) : Nat :=
  match mj with
  | 0x10 | 0x11 | 0x18 => 1
  | 0x12 | 0x13 | 0x19 => 2
  | 0x14 | 0x15 | 0x1A | 0x1D | 0x1E => 4
  | _ => 8

/-- The address of a load or store: `RA` + sext(`IMM16`). -/
def State.accessVa (s : State) (t : Nat) (w : BitVec 32) : Word := s.xr t (wRa w) + sext64 16 (wImm w)

/-- Write a loaded value: narrower integer loads extend, floating loads go to F registers (R83, R87). -/
def State.loaded (s : State) (t mj rd v : Nat) : State :=
  match mj with
  | 0x10 => s.setX t rd (sext64 8 v)
  | 0x12 => s.setX t rd (sext64 16 v)
  | 0x14 => s.setX t rd (sext64 32 v)
  | 0x17 | 0x1D => s.setF t rd (BitVec.ofNat 64 v)
  | _ => s.setX t rd (BitVec.ofNat 64 v)

/-- LOAD (R194): alignment, translation, then the routed access, whose parity checks are the caches' own (R210). -/
def execLoad (t : TileId) (w : BitVec 32) (u : Upset) (s : State) : Host.Outcome State Fault Refusal :=
  .next (s.sis1 t w u .load (fun s =>
    let mj := wMajor w
    let va := s.accessVa t w
    let n := accessSize mj
    if va.toNat % n ≠ 0 then (.trap 0x05 va, s)
    else match s.translateT t .load va.toNat with
      | (none, s) => (.trap 0x03 va, s)
      | (some pa, s) =>
        match s.loadPa t pa n with
        | (some bs, s) => (.next, s.loaded t mj (wRd w) (leNat bs))
        | (none, s) => (.trap 0x06 va, s)))

/-- STORE (R197, R209): the source register stands in the `RD` place; a refusal at the home is a deferred fault (R105). -/
def execStore (t : TileId) (w : BitVec 32) (u : Upset) (s : State) : Host.Outcome State Fault Refusal :=
  .next (s.sis1 t w u .store (fun s =>
    let mj := wMajor w
    let va := s.accessVa t w
    let n := accessSize mj
    let v := if mj = 0x1C ∨ mj = 0x1E then s.fr t (wRd w) else s.xr t (wRd w)
    if va.toNat % n ≠ 0 then (.trap 0x05 va, s)
    else match s.translateT t .store va.toNat with
      | (none, s) => (.trap 0x04 va, s)
      | (some pa, s) =>
        (.next, s.storePa t pa (leBytes n v.toNat) 0x10 (s.tile t).tsu.pc.toNat)))

/-- Write back the tile's own copy of a line and invalidate it, before an atomic on it is sent (R100). -/
def State.atomicClean (s : State) (t line : Nat) : State :=
  let s := s.settleLine t line
  let s := State.ackUntil (fun l => l.line == line) 16 t s
  let s := s.cleanL1 t (fun l => l == line)
  s.updCaches t (fun c => { c with l1d := c.l1d.filter (fun e => match e.2 with
    | some l => l.line != line
    | none => true) })

/-- ATOMIC (R100, R195, R312): `RB` is the operand and `RC` the expected value of `amo.cas`; another device's response is waited for. -/
def execAtomic (t : TileId) (w : BitVec 32) (u : Upset) (s : State) : Host.Outcome State Fault Refusal :=
  .next (s.sis1 t w u .atomic (fun s =>
    let va := s.xr t (wRa w)
    let op : MemOp := .atomic (BitVec.ofNat 6 (wFn w)) (s.xr t (wRb w)) (s.xr t (wRc w))
    if va.toNat % 8 ≠ 0 then (.trap 0x05 va, s)
    else match s.translateT t .atomic va.toNat with
      | (none, s) => (.trap 0x04 va, s)
      | (some pa, s) =>
        let s := if s.uncached t pa then s else s.atomicClean t (pa / 128)
        if !s.running t then (.done, s)
        else match s.access (s.tileTag t) pa op with
          | (.ok bs, s) => (.next, s.setX t (wRd w) (bytesBv 64 bs))
          | (.refused, s) => (.trap 0x06 va, s)
          | (.remote, s) => (.next, s)))

/-! The system group (R94, R105–R109). -/

/-- TRAP: SOFTWARE_TRAP with the 15-bit code of [20:6]. -/
def execTrap (t : TileId) (w : BitVec 32) (u : Upset) (s : State) : Host.Outcome State Fault Refusal :=
  .next (s.sis1 t w u .trap (fun s => (.trap 0x07 (BitVec.ofNat 64 (fld w 6 15)), s)))

/-- TRET: `TIP` clears and the program resumes at `TCR_EPC` (R106). -/
def execTret (t : TileId) (w : BitVec 32) (u : Upset) (s : State) : Host.Outcome State Fault Refusal :=
  .next (s.sis1 t w u .tret (fun s => (.jump (s.tile t).tsu.epc, s.updTsu t (fun r => { r with tip := false }))))

/-- RDTIME (R50, R109, R15): two reads on a tile are strictly increasing, so the timestamp advances past a read. -/
def execRdtime (t : TileId) (w : BitVec 32) (u : Upset) (s : State) : Host.Outcome State Fault Refusal :=
  .next (s.sis1 t w u .rdtime (fun s =>
    let v := BitVec.ofNat 64 s.now
    let s := (s.setX t (wRd w) v).updTsu t (fun r => { r with trd := true })
    let s := match (s.tile t).run with
      | some r => s.updLed r.ix (fun e => { e with trd := true })
      | none => s
    (.next, { s with now := s.now + 1 })))

/-- PDONE (R94, R318, R319, R351): `fence.rel.all`, then the pass ends with its status; a chain step keeps the tile. -/
def execPdone (t : TileId) (w : BitVec 32) (u : Upset) (s : State) : Host.Outcome State Fault Refusal :=
  .next (s.sis1 t w u .pdone (fun s =>
    let v := s.xr t (wRa w)
    let s := s.fenceRel t (fun _ => true)
    if !s.running t then (.done, s)
    else
      let s := s.retire t ((s.tile t).tsu.pc + 4)
      let s := match (s.tile t).run with
        | some r =>
          if (s.led r.ix).cstep.isSome then s.updTile t (fun x => { x with chainHold := some r.ix }) else s
        | none => s
      (.done, s.endPass t { rank := 0, app := BitVec.ofNat 12 v.toNat, more := v.getLsbD 15 })))

/-- BRK (R105): BREAKPOINT while debug is enabled; otherwise nothing is raised. -/
def execBrk (t : TileId) (w : BitVec 32) (u : Upset) (s : State) : Host.Outcome State Fault Refusal :=
  .next (s.sis1 t w u .brk (fun s => if s.debugOn then (.trap 0x08 (s.tile t).tsu.pc, s) else (.next, s)))

/-- TCRR (R102). -/
def execTcrr (t : TileId) (w : BitVec 32) (u : Upset) (s : State) : Host.Outcome State Fault Refusal :=
  .next (s.sis1 t w u .tcrr (fun s => match s.tcr t (fld w 0 12) with
    | some v => (.next, s.setX t (wRd w) v)
    | none => (.trap 0x01 (w.zeroExtend 64), s)))

/-- TCRW (R102, R172): the source register stands in the `RD` place. -/
def execTcrw (t : TileId) (w : BitVec 32) (u : Upset) (s : State) : Host.Outcome State Fault Refusal :=
  .next (s.sis1 t w u .tcrw (fun s =>
    let n := fld w 0 12
    let v := s.xr t (wRd w)
    if (s.tcr t n).isNone || (n == 0x010 && decide (6 ≤ fld v 0 4)) then (.trap 0x01 (w.zeroExtend 64), s)
    else (.next, s.tcrPut t n v)))

/-! Fences and cache maintenance (R97–R99, R212–R214). -/

/-- The lines of [`RA`, `RA` + `RB`) under the pass's root. -/
def State.fenceRange (s : State) (t : Nat) (w : BitVec 32) : Nat → Bool :=
  holdsLine (s.leaves (s.tileRoot t)) (s.xr t (wRa w)).toNat (s.xr t (wRb w)).toNat

def execFenceRel (t : TileId) (w : BitVec 32) (u : Upset) (s : State) : Host.Outcome State Fault Refusal :=
  .next (s.sis1 t w u .fenceRel (fun s => (.next, s.fenceRel t (s.fenceRange t w))))

def execFenceAcq (t : TileId) (w : BitVec 32) (u : Upset) (s : State) : Host.Outcome State Fault Refusal :=
  .next (s.sis1 t w u .fenceAcq (fun s => (.next, s.fenceAcq t (s.fenceRange t w))))

def execFenceRelAll (t : TileId) (w : BitVec 32) (u : Upset) (s : State) : Host.Outcome State Fault Refusal :=
  .next (s.sis1 t w u .fenceRelAll (fun s => (.next, s.fenceRel t (fun _ => true))))

def execFenceAcqAll (t : TileId) (w : BitVec 32) (u : Upset) (s : State) : Host.Outcome State Fault Refusal :=
  .next (s.sis1 t w u .fenceAcqAll (fun s => (.next, s.fenceAcq t (fun _ => true))))

/-- The addresses of the 128-byte lines that a range touches, at most `cap` of them. -/
def rangeLines (va len cap : Nat) : List Nat :=
  if len = 0 then [] else (List.range (min cap ((va + len - 1) / 128 - va / 128 + 1))).map (fun i => (va / 128 + i) * 128)

/-- Ask for a line in the talon (R203, R212); a 65th outstanding fill completes the oldest first. -/
def State.prefetch (s : State) (t line : Nat) : State :=
  let c := (s.tile t).caches
  if (c.find line).isSome || c.talon.any (fun l => l.line == line) || c.talonFills.contains line then s
  else
    let s := match c.talonFills with
      | f :: _ => if 64 ≤ c.talonFills.length then s.talonFill t f else s
      | [] => s
    s.updCaches t (fun c => { c with talonFills := c.talonFills ++ [line] })

/-- CPF (R212, R214): up to 64 lines from the base, in ascending order; it never traps. -/
def execCpf (t : TileId) (w : BitVec 32) (u : Upset) (s : State) : Host.Outcome State Fault Refusal :=
  .next (s.sis1 t w u .cpf (fun s =>
    (.next, (rangeLines (s.xr t (wRa w)).toNat (s.xr t (wRb w)).toNat 64).foldl (fun (s : State) va =>
      match s.translateT t .load va with
      | (some pa, s) => if s.uncached t pa then s else s.prefetch t (pa / 128)
      | (none, s) => s) s)))

def execCwb (t : TileId) (w : BitVec 32) (u : Upset) (s : State) : Host.Outcome State Fault Refusal :=
  .next (s.sis1 t w u .cwb (fun s => (.next, s.cacheClean t (s.fenceRange t w) false)))

def execCwbi (t : TileId) (w : BitVec 32) (u : Upset) (s : State) : Host.Outcome State Fault Refusal :=
  .next (s.sis1 t w u .cwbi (fun s => (.next, s.cacheClean t (s.fenceRange t w) true)))

/-- Clear the valid bits of a 128-byte piece of the tile's own Local Store: it reads zero (R212, R218). -/
def State.lsClearLine (s : State) (t off : Nat) : State :=
  s.updTile t (fun x => { x with lsValid := SMap.put false (SMap.put false x.lsValid (off / 64) false) (off / 64 + 1) false })

/-- `czero` over the rest of one physically contiguous extent, line by line. -/
def State.zeroExtent (s : State) (t : Nat) (e : Extent) : State :=
  (List.range (e.len / 128)).foldl (fun (s : State) i =>
    let pa := e.pa + 128 * i
    if s.uncached t pa then (if paSpace pa = 1 then s.lsClearLine t (paOff pa % 2 ^ 24) else s)
    else s.zeroLine t (pa / 128) (s.tile t).tsu.pc.toNat) s

/-- CZERO (R212, R214): alignment, then the whole range is translated before anything changes. -/
def execCzero (t : TileId) (w : BitVec 32) (u : Upset) (s : State) : Host.Outcome State Fault Refusal :=
  .next (s.sis1 t w u .czero (fun s =>
    let va := s.xr t (wRa w)
    let len := (s.xr t (wRb w)).toNat
    if va.toNat % 128 ≠ 0 then (.trap 0x05 va, s)
    else if len % 128 ≠ 0 then (.trap 0x05 va, s)
    else match s.rangeT t .store va.toNat len with
      | (.inl es, s) => (.next, es.foldl (fun s e => s.zeroExtent t e) s)
      | (.inr a, s) => (.trap 0x04 (BitVec.ofNat 64 a), s)))

/-- Invalidate the instruction-cache lines that satisfy `p`. -/
def State.dropI (s : State) (t : Nat) (p : Nat → Bool) : State :=
  s.updCaches t (fun c => { c with l1i := c.l1i.filter (fun e => match e.2 with
    | some l => !p l.line
    | none => true) })

def execIinv (t : TileId) (w : BitVec 32) (u : Upset) (s : State) : Host.Outcome State Fault Refusal :=
  .next (s.sis1 t w u .iinv (fun s => (.next, s.dropI t (s.fenceRange t w))))

def execIinvAll (t : TileId) (w : BitVec 32) (u : Upset) (s : State) : Host.Outcome State Fault Refusal :=
  .next (s.sis1 t w u .iinvAll (fun s => (.next, s.dropI t (fun _ => true))))

/-! Floating point (R90, R179, R193, R560). -/

/-- The format of the scalar FP groups: `FN`[5] selects binary32 (R88). -/
def fpFmt (w : BitVec 32) : Fmt := if bit w 5 then Fmt.fp32 else Fmt.fp64

/-- An operand of the format: a binary32 operand ignores [63:32] (R83). -/
def Tsu.fop (u : Tsu) (f : Fmt) (r : Nat) : Nat := (u.fr r).toNat % 2 ^ f.width

/-- Write an FP result and raise its flags (R83, R90). -/
def Tsu.fres (u : Tsu) (rd : Nat) (r : FRes) : Tsu := (u.setF rd (BitVec.ofNat 64 r.1)).raise r.2

/-- Write a comparison's result to an X register and raise its flags. -/
def Tsu.cmpRes (u : Tsu) (rd : Nat) (r : Bool × FFlags) : Tsu := (u.setX rd (if r.1 then 1 else 0)).raise r.2

/-- FP_ARITHMETIC (R88, R90): the TSU keeps every subnormal (R183). -/
def fpArith (w : BitVec 32) (u : Tsu) : Tsu :=
  let f := fpFmt w
  let rm := u.rmode
  let a := u.fop f (wRa w)
  let b := u.fop f (wRb w)
  let rd := wRd w
  match wFn w % 32 with
  | 0x00 => u.fres rd (f.add rm 0 a b)
  | 0x01 => u.fres rd (f.sub rm 0 a b)
  | 0x02 => u.fres rd (f.mul rm 0 a b)
  | 0x03 => u.fres rd (f.div rm 0 a b)
  | 0x04 => u.fres rd (f.sqrt rm 0 a)
  | 0x05 => u.fres rd (f.minmax false 0 a b)
  | 0x06 => u.fres rd (f.minmax true 0 a b)
  | 0x0A => u.cmpRes rd (f.eq 0 a b)
  | 0x0B => u.cmpRes rd (f.lt 0 a b)
  | _ => u.cmpRes rd (f.le 0 a b)

def execFpArithmetic (t : TileId) (w : BitVec 32) (u : Upset) (s : State) : Host.Outcome State Fault Refusal :=
  .next (s.sisReg t w u .fpArithmetic (fpArith w))

/-- FP_SIGN (R560): only the sign bit changes; no flag is raised. -/
def fpSignOp (w : BitVec 32) (u : Tsu) : Tsu :=
  let f := fpFmt w
  let a := u.fop f (wRa w)
  let b := u.fop f (wRb w)
  let sg := match wFn w % 32 with
    | 0x07 => f.signOf b
    | 0x08 => !f.signOf b
    | _ => f.signOf a != f.signOf b
  u.setF (wRd w) (BitVec.ofNat 64 (f.withSign a sg))

def execFpSign (t : TileId) (w : BitVec 32) (u : Upset) (s : State) : Host.Outcome State Fault Refusal :=
  .next (s.sisReg t w u .fpSign (fpSignOp w))

/-- FP_FUSED (R560): one rounding of the exact product and sum. -/
def fpFusedOp (w : BitVec 32) (u : Tsu) : Tsu :=
  let f := fpFmt w
  let op := wFn w % 32
  u.fres (wRd w) (f.fma u.rmode 0 (decide (2 ≤ op)) (decide (op = 1 ∨ op = 2)) (u.fop f (wRa w)) (u.fop f (wRb w)) (u.fop f (wRc w)))

def execFpFused (t : TileId) (w : BitVec 32) (u : Upset) (s : State) : Host.Outcome State Fault Refusal :=
  .next (s.sisReg t w u .fpFused (fpFusedOp w))

/-- FP_CONVERSION (R88, R179, R181, R182). -/
def fpConv (w : BitVec 32) (u : Tsu) : Tsu :=
  let f := fpFmt w
  let rm := u.rmode
  let rd := wRd w
  let x := u.xr (wRa w)
  let int (signed : Bool) : Tsu :=
    let r := cvtToInt f rm 0 64 signed (u.fop f (wRa w))
    (u.setX rd (BitVec.ofInt 64 r.1)).raise r.2
  match wFn w % 32 with
  | 0x00 => u.fres rd (cvtFloat Fmt.fp32 Fmt.fp64 rm.plain 0 0 false (u.fop Fmt.fp32 (wRa w)))
  | 0x01 => u.fres rd (cvtFloat Fmt.fp64 Fmt.fp32 rm.plain 0 0 false (u.fop Fmt.fp64 (wRa w)))
  | 0x02 => int true
  | 0x03 => int false
  | 0x04 => u.fres rd (cvtFromInt f rm 0 x.toInt)
  | 0x05 => u.fres rd (cvtFromInt f rm 0 x.toNat)
  | 0x06 => u.setX rd (BitVec.ofNat 64 (u.fop f (wRa w)))
  | _ => u.setF rd (BitVec.ofNat 64 (x.toNat % 2 ^ f.width))

def execFpConversion (t : TileId) (w : BitVec 32) (u : Upset) (s : State) : Host.Outcome State Fault Refusal :=
  .next (s.sisReg t w u .fpConversion (fpConv w))

/-- FKIND (R193). -/
def execFkind (t : TileId) (w : BitVec 32) (u : Upset) (s : State) : Host.Outcome State Fault Refusal :=
  .next (s.sisReg t w u .fkind (fun r =>
    r.setX (wRd w) (BitVec.ofNat 64 ((fpFmt w).classify (r.fop (fpFmt w) (wRa w))))))

end Sys2Proof.Machine
end

