-- ==== Sys2Proof/Machine/Dispatch.lean ====
section
/-!
DEFINITION. One arm for each command: a direct call of its meaning.
-/

namespace Sys2Proof.Machine

def exec (i : Instr) (s : State) : Host.Outcome State Fault Refusal :=
  match i with
  | .coldReset => Sys2Proof.Machine.execColdReset s
  | .warmReset cause => Sys2Proof.Machine.execWarmReset cause s
  | .vfFlr n => Sys2Proof.Machine.execVfFlr n s
  | .d3hotEntry f => Sys2Proof.Machine.execD3hotEntry f s
  | .startupT0 => Sys2Proof.Machine.execStartupT0 s
  | .hostLinkUp a b => Sys2Proof.Machine.execHostLinkUp a b s
  | .startupSelfTest tileFail sharedFail => Sys2Proof.Machine.execStartupSelfTest tileFail sharedFail s
  | .firmwareBundleLoad => Sys2Proof.Machine.execFirmwareBundleLoad s
  | .protectedRecordRead weak => Sys2Proof.Machine.execProtectedRecordRead weak s
  | .pairsRelease => Sys2Proof.Machine.execPairsRelease s
  | .entropyStartup tests windows => Sys2Proof.Machine.execEntropyStartup tests windows s
  | .hbmTraining fails => Sys2Proof.Machine.execHbmTraining fails s
  | .hbmZeroing => Sys2Proof.Machine.execHbmZeroing s
  | .configurationApply weak => Sys2Proof.Machine.execConfigurationApply weak s
  | .pwrOkFall => Sys2Proof.Machine.execPwrOkFall s
  | .pwrBrakeAssert => Sys2Proof.Machine.execPwrBrakeAssert s
  | .pwrBrakeRelease => Sys2Proof.Machine.execPwrBrakeRelease s
  | .vrHotAssert => Sys2Proof.Machine.execVrHotAssert s
  | .clockLoss island => Sys2Proof.Machine.execClockLoss island s
  | .paceWindowEnd readings => Sys2Proof.Machine.execPaceWindowEnd readings s
  | .powerLoopTick watts => Sys2Proof.Machine.execPowerLoopTick watts s
  | .paceDeficit t => Sys2Proof.Machine.execPaceDeficit t s
  | .outOfRating what => Sys2Proof.Machine.execOutOfRating what s
  | .hbmTempRead temps => Sys2Proof.Machine.execHbmTempRead temps s
  | .hbmThermal k => Sys2Proof.Machine.execHbmThermal k s
  | .tokenRelease n => Sys2Proof.Machine.execTokenRelease n s
  | .healthPassDue t => Sys2Proof.Machine.execHealthPassDue t s
  | .healthPassStart t => Sys2Proof.Machine.execHealthPassStart t s
  | .journalThreshold t => Sys2Proof.Machine.execJournalThreshold t s
  | .healthPassEnd t ok => Sys2Proof.Machine.execHealthPassEnd t ok s
  | .closingPassEnd t ok => Sys2Proof.Machine.execClosingPassEnd t ok s
  | .recallNoticePost n notice => Sys2Proof.Machine.execRecallNoticePost n notice s
  | .faultEventPost scope => Sys2Proof.Machine.execFaultEventPost scope s
  | .stallDeclare u group since => Sys2Proof.Machine.execStallDeclare u group since s
  | .acmScrubRead t u => Sys2Proof.Machine.execAcmScrubRead t u s
  | .lsScrubRead t u => Sys2Proof.Machine.execLsScrubRead t u s
  | .hbmScrubRead k upset => Sys2Proof.Machine.execHbmScrubRead k upset s
  | .hbmRefresh k => Sys2Proof.Machine.execHbmRefresh k s
  | .hbmDieLost k die => Sys2Proof.Machine.execHbmDieLost k die s
  | .arbiterSlotStart a ready => Sys2Proof.Machine.execArbiterSlotStart a ready s
  | .hbmAccessComplete k upset => Sys2Proof.Machine.execHbmAccessComplete k upset s
  | .engineSlotStart e => Sys2Proof.Machine.execEngineSlotStart e s
  | .engineKat e ok => Sys2Proof.Machine.execEngineKat e ok s
  | .admissionWindow entries => Sys2Proof.Machine.execAdmissionWindow entries s
  | .strictMailboxPost m => Sys2Proof.Machine.execStrictMailboxPost m s
  | .entropyWindowEnd => Sys2Proof.Machine.execEntropyWindowEnd s
  | .entropyRestart window => Sys2Proof.Machine.execEntropyRestart window s
  | .entropyWaitTimeout => Sys2Proof.Machine.execEntropyWaitTimeout s
  | .linkFlitSend l => Sys2Proof.Machine.execLinkFlitSend l s
  | .linkFlitReceive l flit => Sys2Proof.Machine.execLinkFlitReceive l flit s
  | .linkReplay l => Sys2Proof.Machine.execLinkReplay l s
  | .linkFailedAfterReplay l => Sys2Proof.Machine.execLinkFailedAfterReplay l s
  | .linkTrainingEnd l r => Sys2Proof.Machine.execLinkTrainingEnd l r s
  | .fabricPacketArrive p => Sys2Proof.Machine.execFabricPacketArrive p s
  | .sqTailWrite n q v => Sys2Proof.Machine.execSqTailWrite n q v s
  | .cqHeadWrite n q v => Sys2Proof.Machine.execCqHeadWrite n q v s
  | .submitPass n q entry ecc => Sys2Proof.Machine.execSubmitPass n q entry ecc s
  | .submitMove n q entry => Sys2Proof.Machine.execSubmitMove n q entry s
  | .submitStream n q entry => Sys2Proof.Machine.execSubmitStream n q entry s
  | .submitStreamClose n q entry => Sys2Proof.Machine.execSubmitStreamClose n q entry s
  | .dispatch t => Sys2Proof.Machine.execDispatch t s
  | .moveDispatch mover => Sys2Proof.Machine.execMoveDispatch mover s
  | .passStart t => Sys2Proof.Machine.execPassStart t s
  | .completionReady ix => Sys2Proof.Machine.execCompletionReady ix s
  | .completionPost ix => Sys2Proof.Machine.execCompletionPost ix s
  | .streamNextPass ix => Sys2Proof.Machine.execStreamNextPass ix s
  | .queueDmaFailure n isCq q => Sys2Proof.Machine.execQueueDmaFailure n isCq q s
  | .atsInvalidation f addr size => Sys2Proof.Machine.execAtsInvalidation f addr size s
  | .l1FillComplete t line u => Sys2Proof.Machine.execL1FillComplete t line u s
  | .talonFillComplete t line u => Sys2Proof.Machine.execTalonFillComplete t line u s
  | .discardWritebackAck t k u => Sys2Proof.Machine.execDiscardWritebackAck t k u s
  | .tlbWalkComplete t va kind => Sys2Proof.Machine.execTlbWalkComplete t va kind s
  | .deferredFault t c pc => Sys2Proof.Machine.execDeferredFault t c pc s
  | .integerAlu t w u => Sys2Proof.Machine.execIntegerAlu t w u s
  | .aluImmediate t w u => Sys2Proof.Machine.execAluImmediate t w u s
  | .shiftImmediate t w u => Sys2Proof.Machine.execShiftImmediate t w u s
  | .movhi t w u => Sys2Proof.Machine.execMovhi t w u s
  | .pcrel t w u => Sys2Proof.Machine.execPcrel t w u s
  | .multiplyDivide t w u => Sys2Proof.Machine.execMultiplyDivide t w u s
  | .load t w u => Sys2Proof.Machine.execLoad t w u s
  | .store t w u => Sys2Proof.Machine.execStore t w u s
  | .atomic t w u => Sys2Proof.Machine.execAtomic t w u s
  | .branch t w u => Sys2Proof.Machine.execBranch t w u s
  | .jl t w u => Sys2Proof.Machine.execJl t w u s
  | .jlr t w u => Sys2Proof.Machine.execJlr t w u s
  | .trap t w u => Sys2Proof.Machine.execTrap t w u s
  | .tret t w u => Sys2Proof.Machine.execTret t w u s
  | .rdtime t w u => Sys2Proof.Machine.execRdtime t w u s
  | .pdone t w u => Sys2Proof.Machine.execPdone t w u s
  | .brk t w u => Sys2Proof.Machine.execBrk t w u s
  | .tcrr t w u => Sys2Proof.Machine.execTcrr t w u s
  | .tcrw t w u => Sys2Proof.Machine.execTcrw t w u s
  | .fenceRel t w u => Sys2Proof.Machine.execFenceRel t w u s
  | .fenceAcq t w u => Sys2Proof.Machine.execFenceAcq t w u s
  | .fenceRelAll t w u => Sys2Proof.Machine.execFenceRelAll t w u s
  | .fenceAcqAll t w u => Sys2Proof.Machine.execFenceAcqAll t w u s
  | .cpf t w u => Sys2Proof.Machine.execCpf t w u s
  | .cwb t w u => Sys2Proof.Machine.execCwb t w u s
  | .cwbi t w u => Sys2Proof.Machine.execCwbi t w u s
  | .czero t w u => Sys2Proof.Machine.execCzero t w u s
  | .iinv t w u => Sys2Proof.Machine.execIinv t w u s
  | .iinvAll t w u => Sys2Proof.Machine.execIinvAll t w u s
  | .fpArithmetic t w u => Sys2Proof.Machine.execFpArithmetic t w u s
  | .fpSign t w u => Sys2Proof.Machine.execFpSign t w u s
  | .fpFused t w u => Sys2Proof.Machine.execFpFused t w u s
  | .fpConversion t w u => Sys2Proof.Machine.execFpConversion t w u s
  | .fkind t w u => Sys2Proof.Machine.execFkind t w u s
  | .setvl t w u => Sys2Proof.Machine.execSetvl t w u s
  | .vgetvl t w u => Sys2Proof.Machine.execVgetvl t w u s
  | .vld t w u => Sys2Proof.Machine.execVld t w u s
  | .vldu t w u => Sys2Proof.Machine.execVldu t w u s
  | .vldFf t w u => Sys2Proof.Machine.execVldFf t w u s
  | .vlx t w u => Sys2Proof.Machine.execVlx t w u s
  | .vst t w u => Sys2Proof.Machine.execVst t w u s
  | .vstu t w u => Sys2Proof.Machine.execVstu t w u s
  | .vsx t w u => Sys2Proof.Machine.execVsx t w u s
  | .vectorInteger t w u => Sys2Proof.Machine.execVectorInteger t w u s
  | .vmerge t w u => Sys2Proof.Machine.execVmerge t w u s
  | .vectorCompare t w u => Sys2Proof.Machine.execVectorCompare t w u s
  | .vectorFloat t w u => Sys2Proof.Machine.execVectorFloat t w u s
  | .vfcvtFrom t w u => Sys2Proof.Machine.execVfcvtFrom t w u s
  | .vfcvtTo t w u => Sys2Proof.Machine.execVfcvtTo t w u s
  | .vfcvtInteger t w u => Sys2Proof.Machine.execVfcvtInteger t w u s
  | .maskLogic t w u => Sys2Proof.Machine.execMaskLogic t w u s
  | .kpopcKfirst t w u => Sys2Proof.Machine.execKpopcKfirst t w u s
  | .vlmVsm t w u => Sys2Proof.Machine.execVlmVsm t w u s
  | .vectorReduction t w u => Sys2Proof.Machine.execVectorReduction t w u s
  | .vectorScalarMove t w u => Sys2Proof.Machine.execVectorScalarMove t w u s
  | .vectorPermutation t w u => Sys2Proof.Machine.execVectorPermutation t w u s
  | .vxDeal t w u => Sys2Proof.Machine.execVxDeal t w u s
  | .vxCombinePut t w u => Sys2Proof.Machine.execVxCombinePut t w u s
  | .vxCombineSum t w u => Sys2Proof.Machine.execVxCombineSum t w u s
  | .mxLdw t w ext u => Sys2Proof.Machine.execMxLdw t w ext u s
  | .mxRun t w ext u => Sys2Proof.Machine.execMxRun t w ext u s
  | .mxDrain t w ext u => Sys2Proof.Machine.execMxDrain t w ext u s
  | .mxZero t w ext u => Sys2Proof.Machine.execMxZero t w ext u s
  | .mxSwap t w ext u => Sys2Proof.Machine.execMxSwap t w ext u s
  | .chainStepStart ix => Sys2Proof.Machine.execChainStepStart ix s
  | .chainPacketReceive t p adderOk => Sys2Proof.Machine.execChainPacketReceive t p adderOk s
  | .chainDoneReceive t p => Sys2Proof.Machine.execChainDoneReceive t p s
  | .chainBreakReceive t chain msg => Sys2Proof.Machine.execChainBreakReceive t chain msg s
  | .chainWaitExpiry ix => Sys2Proof.Machine.execChainWaitExpiry ix s
  | .chainRecallReceive r => Sys2Proof.Machine.execChainRecallReceive r s
  | .chainRecallResend => Sys2Proof.Machine.execChainRecallResend s
  | .chainLogAging => Sys2Proof.Machine.execChainLogAging s
  | .rootDrained n => Sys2Proof.Machine.execRootDrained n s
  | .mapUpdateDrainTimeout n => Sys2Proof.Machine.execMapUpdateDrainTimeout n s
  | .regionUpdateStart slot => Sys2Proof.Machine.execRegionUpdateStart slot s
  | .regionUpdateComplete slot => Sys2Proof.Machine.execRegionUpdateComplete slot s
  | .regionRetireComplete slot => Sys2Proof.Machine.execRegionRetireComplete slot s
  | .hashGo n ctl => Sys2Proof.Machine.execHashGo n ctl s
  | .hashJobComplete n => Sys2Proof.Machine.execHashJobComplete n s
  | .quietPointReached n => Sys2Proof.Machine.execQuietPointReached n s
  | .quietTimeout w => Sys2Proof.Machine.execQuietTimeout w s
  | .protectedRecordWritten => Sys2Proof.Machine.execProtectedRecordWritten s
  | .proposalExpiry id => Sys2Proof.Machine.execProposalExpiry id s
  | .restartPassEnd n failed => Sys2Proof.Machine.execRestartPassEnd n failed s
  | .mbxBellReq ms => Sys2Proof.Machine.execMbxBellReq ms s
  | .mbxMessageTake m cc => Sys2Proof.Machine.execMbxMessageTake m cc s
  | .mbxBellRspDone m => Sys2Proof.Machine.execMbxBellRspDone m s
  | .mbxEvtHeadWrite m v => Sys2Proof.Machine.execMbxEvtHeadWrite m v s
  | .segmentGapTimeout m => Sys2Proof.Machine.execSegmentGapTimeout m s
  | .devInfo m tag => Sys2Proof.Machine.execDevInfo m tag s
  | .devStatus m tag => Sys2Proof.Machine.execDevStatus m tag s
  | .paceReport m tag => Sys2Proof.Machine.execPaceReport m tag s
  | .configLoad m tag image => Sys2Proof.Machine.execConfigLoad m tag image s
  | .setMode m tag => Sys2Proof.Machine.execSetMode m tag s
  | .configRead m tag => Sys2Proof.Machine.execConfigRead m tag s
  | .protectPropose m tag => Sys2Proof.Machine.execProtectPropose m tag s
  | .protectApprove m tag => Sys2Proof.Machine.execProtectApprove m tag s
  | .protectCommit m tag => Sys2Proof.Machine.execProtectCommit m tag s
  | .protectWithdraw m tag => Sys2Proof.Machine.execProtectWithdraw m tag s
  | .authorityList m tag => Sys2Proof.Machine.execAuthorityList m tag s
  | .mapUpdate m tag => Sys2Proof.Machine.execMapUpdate m tag s
  | .regionCreate m tag => Sys2Proof.Machine.execRegionCreate m tag s
  | .regionUpdate m tag => Sys2Proof.Machine.execRegionUpdate m tag s
  | .regionRetire m tag => Sys2Proof.Machine.execRegionRetire m tag s
  | .regionStatus m tag => Sys2Proof.Machine.execRegionStatus m tag s
  | .queueCreate m tag => Sys2Proof.Machine.execQueueCreate m tag s
  | .queueDestroy m tag => Sys2Proof.Machine.execQueueDestroy m tag s
  | .anteSet m tag => Sys2Proof.Machine.execAnteSet m tag s
  | .ledgerQuery m tag => Sys2Proof.Machine.execLedgerQuery m tag s
  | .chainDefine m tag => Sys2Proof.Machine.execChainDefine m tag s
  | .chainRelease m tag => Sys2Proof.Machine.execChainRelease m tag s
  | .attestDevice m tag => Sys2Proof.Machine.execAttestDevice m tag s
  | .attestPartition m tag => Sys2Proof.Machine.execAttestPartition m tag s
  | .grainSeed m tag => Sys2Proof.Machine.execGrainSeed m tag s
  | .keyInstall m tag => Sys2Proof.Machine.execKeyInstall m tag s
  | .confidentialEnter m tag => Sys2Proof.Machine.execConfidentialEnter m tag s
  | .errorLogRead m tag => Sys2Proof.Machine.execErrorLogRead m tag s
  | .partitionRestart m tag => Sys2Proof.Machine.execPartitionRestart m tag s
  | .recallAck m tag => Sys2Proof.Machine.execRecallAck m tag s
  | .checkSplitEnable m tag => Sys2Proof.Machine.execCheckSplitEnable m tag s
  | .selfTestRun m tag => Sys2Proof.Machine.execSelfTestRun m tag s
  | .powerEnvelope m tag => Sys2Proof.Machine.execPowerEnvelope m tag s
  | .paceLock m tag => Sys2Proof.Machine.execPaceLock m tag s
  | .csRawRead w => Sys2Proof.Machine.execCsRawRead w s
  | .csRawWrite w => Sys2Proof.Machine.execCsRawWrite w s
  | .pfBar2Access off op => Sys2Proof.Machine.execPfBar2Access off op s
  | .vfBar2Access n off op ide => Sys2Proof.Machine.execVfBar2Access n off op ide s
  | .registerWrite a bytes => Sys2Proof.Machine.execRegisterWrite a bytes s
  | .i3cWriteCapW v => Sys2Proof.Machine.execI3cWriteCapW v s
  | .i3cReadFlags r => Sys2Proof.Machine.execI3cReadFlags r s
  | .tapInstruction op => Sys2Proof.Machine.execTapInstruction op s
  | .uartInput b => Sys2Proof.Machine.execUartInput b s
  | .getVersion f => Sys2Proof.Machine.execGetVersion f s
  | .getCapabilities f => Sys2Proof.Machine.execGetCapabilities f s
  | .negotiateAlgorithms f => Sys2Proof.Machine.execNegotiateAlgorithms f s
  | .getDigests f => Sys2Proof.Machine.execGetDigests f s
  | .getCertificate f slot off len => Sys2Proof.Machine.execGetCertificate f slot off len s
  | .challenge f slot nonce => Sys2Proof.Machine.execChallenge f slot nonce s
  | .getMeasurements f block signed nonce => Sys2Proof.Machine.execGetMeasurements f block signed nonce s
  | .keyExchange f reqId exchange => Sys2Proof.Machine.execKeyExchange f reqId exchange s
  | .finish f session verified => Sys2Proof.Machine.execFinish f session verified s
  | .heartbeat f session => Sys2Proof.Machine.execHeartbeat f session s
  | .spdmHeartbeatTimeout f session => Sys2Proof.Machine.execSpdmHeartbeatTimeout f session s
  | .keyUpdate f session => Sys2Proof.Machine.execKeyUpdate f session s
  | .endSession f session => Sys2Proof.Machine.execEndSession f session s
  | .respondIfReady f token => Sys2Proof.Machine.execRespondIfReady f token s
  | .spdmUnsupportedRequest f code => Sys2Proof.Machine.execSpdmUnsupportedRequest f code s
  | .ideKm f session stream op => Sys2Proof.Machine.execIdeKm f session stream op s
  | .getTdispVersion f session n => Sys2Proof.Machine.execGetTdispVersion f session n s
  | .getTdispCapabilities f session n => Sys2Proof.Machine.execGetTdispCapabilities f session n s
  | .lockInterfaceRequest f session n => Sys2Proof.Machine.execLockInterfaceRequest f session n s
  | .getDeviceInterfaceReport f session n => Sys2Proof.Machine.execGetDeviceInterfaceReport f session n s
  | .getDeviceInterfaceState f session n => Sys2Proof.Machine.execGetDeviceInterfaceState f session n s
  | .startInterfaceRequest f session n nonce => Sys2Proof.Machine.execStartInterfaceRequest f session n nonce s
  | .stopInterfaceRequest f session n => Sys2Proof.Machine.execStopInterfaceRequest f session n s
  | .reportSnapshotExpiry m => Sys2Proof.Machine.execReportSnapshotExpiry m s
  | .configurationRequest f q => Sys2Proof.Machine.execConfigurationRequest f q s
  | .lossOfPower => Sys2Proof.Machine.execLossOfPower s
  | .noiseSourceSample bit => Sys2Proof.Machine.execNoiseSourceSample bit s
  | .knownPatternTestEnd failed tiles => Sys2Proof.Machine.execKnownPatternTestEnd failed tiles s
  | .flashWriteComplete => Sys2Proof.Machine.execFlashWriteComplete s

end Sys2Proof.Machine
end

