-- ==== Sys2Proof/Machine/Step.lean ====
section
/-!
DEFINITION. One step: the command at the front of the queue runs on the state with the queue's rest; on an empty queue the
CI13 timestamp advances by 1 ns, unless CI13 has lost its clock (log entry 5).
-/

namespace Sys2Proof.Machine

/-- One nanosecond of CI13 time passes; nothing else happens by itself (log entry 5). -/
def tick (s : State) : State := { s with now := if s.plant.ciRunning then s.now + 1 else s.now }

/-- One step of the block. -/
def step (s : State) : Host.Outcome State Fault Refusal :=
  match s.pending with
  | [] => .next (tick s)
  | c :: rest => exec c { s with pending := rest }

/-- The state with the command that a word spells at the front of its queue; unchanged where it spells none. -/
def State.withFetchWord (s : State) (nbits w : Nat) : State :=
  match Sys2Proof.decodeTableWord nbits w with
  | some c => { s with pending := c :: s.pending }
  | none => s

end Sys2Proof.Machine
end

