-- ==== Sys2Proof/Safety.lean ====
section
/-!
DEFINITION. What the statements about the device are made of: the canonical form of its tables, when a command has its own effect, and
what a tile's step leaves alone.
-/

namespace Sys2Proof.Machine

/-- Every numbered family of the device, its memory among them, is in its one canonical form, and the error ring holds at most its 4,096
records (R494). -/
structure State.Canon (s : State) : Prop where
  mem : SMap.wf 0 s.mem = true
  tiles : SMap.wf {} s.tiles = true
  parts : SMap.wf {} s.parts = true
  hbm : SMap.wf {} s.hbm = true
  arbs : SMap.wf {} s.arbs = true
  links : SMap.wf {} s.links = true
  ledger : SMap.wf {} s.ledger = true
  regions : SMap.wf {} s.regions = true
  mbx : SMap.wf {} s.mbx = true
  fatals : SMap.wf none s.fatals = true
  ring : s.ring.length ≤ 4096

/-- The decoded row of a scalar or vector word (R85, R86). -/
def wordRow (w : BitVec 32) : Option SisRow := sisRow w (fun _ => none)

/-- The decoded row of a matrix instruction's word and its extension word (R85, R86, R140). -/
def pairRow (w ext : BitVec 32) : Option SisRow := sisRow w (fun w => matrixRow w ext)

/-- The units that step for an instruction: the TSU, the L1 for memory, and the unit of its queue (R44, R91). -/
def SisRow.steps (row : SisRow) : List TileUnit := row.units ++ (if row.queued then unitTokens row else [])

/-- An upset that cannot touch an instruction of the row: none at all, one of a line that arrives, units that stay idle or an audit where
nothing queues, and a fault of the grain pipeline where nothing draws (R91, R138, R164, R472). -/
def SisRow.calm (row : SisRow) (u : Upset) : Bool :=
  match u with
  | .none | .spoilFill _ => true
  | .busy | .audit _ => !row.queued
  | .grainMismatch => row != .vfcvtTo && row != .mxDrain
  | _ => false

/-- Tile t runs a pass with nothing queued, its PC is aligned, the word decodes to `row`, its units may step, and no upset touches it: the
instruction has its own effect at once (R44, R80, R86, R91, R110). -/
structure Ready (s : State) (t : Nat) (decoded : Option SisRow) (row : SisRow) (u : Upset) : Prop where
  runs : s.running t = true
  aligned : (s.tile t).tsu.pc.toNat % 4 = 0
  word : decoded = some row
  idle : (s.tile t).queue = []
  tokens : s.maySpend t row.steps = true
  calm : row.calm u = true

/-- The state in which tile t's instruction of a row has its effect: its units have paid for their steps (R44). -/
def State.paid (s : State) (t : Nat) (row : SisRow) : State :=
  if row.queued then (s.spend t row.units).spend t (unitTokens row) else s.spend t row.units

/-- The state in which one that reaches memory has its effect: its accesses to other devices wait for their responses (R312). -/
def State.reaching (s : State) (t : Nat) (row : SisRow) : State := (s.acting t).paid t row

/-- What tile t's instruction of a row does to the state in which the TSU and the L1 have paid, `f`: one that reaches memory does it where its
accesses to other devices wait for their responses (R44, R312). -/
def State.taken (s : State) (t : Nat) (row : SisRow) (f : State → State) : State :=
  if row.reaches then s.acted (f ((s.acting t).spend t row.units)) else f (s.spend t row.units)

/-- It waits for no other device: what it reaches is this device's, or has been answered (R312). -/
def State.prompt (s : State) (t : Nat) (row : SisRow) (f : State → State) : Prop :=
  row.reaches = true → (f ((s.acting t).spend t row.units)).net.waits = false

/-- The state that a vector or matrix instruction leaves whose unit took it in `p` and made `z` of it: the steps or beats are counted (R137,
R156) and the PC is past its words. -/
def State.unitDone (p z : State) (t : Nat) (w ext : BitVec 32) (row : SisRow) : State :=
  (z.stepped t row (p.lvuSteps t w row) (p.mxBeats t w ext row)).retire t ((p.tile t).tsu.pc + (if row.matrix then 8 else 4))

/-- Nothing but tile t differs: no other tile, no memory, no queue, no table. -/
def OnlyTile (s s' : State) (t : Nat) : Prop := s' = { s with tiles := s'.tiles } ∧ ∀ k, k ≠ t → s'.tile k = s.tile k

/-- Tile t retires one instruction of a row that changes X registers and `TIP` at most, and goes on at `pc`: every other register of every
unit, every flag and every byte of memory is unchanged, but for the tokens and the count of steps of the units that stepped (R44, R137). -/
def StepsTo (s s' : State) (t : Nat) (row : SisRow) (pc : Word) : Prop :=
  OnlyTile s s' t ∧
  s'.tile t = { s.tile t with
    tokens := spendTokens (s.tile t).tokens row.steps, lvu := { s.lvu t with steps := (s'.lvu t).steps },
    tsu := { (s.tile t).tsu with x := (s'.tile t).tsu.x, tip := (s'.tile t).tsu.tip, pc := pc, retired := (s.tile t).tsu.retired + 1 } }

/-- The X registers afterwards: `v` in the destination, unless it is X0, and every other one as before (R83). -/
def XWrite (s s' : State) (t r : Nat) (v : Word) : Prop := ∀ k, s'.xr t k = if k = r ∧ k ≠ 0 then v else s.xr t k

/-- The instructions that write one X register from X registers and constants, with their decoded row and their result. -/
def integerRows (t : TileId) (w : BitVec 32) (u : Upset) : List (Instr × SisRow × (Tsu → Word)) :=
  [(.integerAlu t w u, .integerAlu, fun r => alu (wFn w) (r.xr (wRa w)) (r.xr (wRb w)) (r.xr (wRc w))),
   (.aluImmediate t w u, .aluImmediate, fun r => aluImm (wMajor w) (wImm w) (r.xr (wRa w))),
   (.shiftImmediate t w u, .shiftImmediate, fun r => shiftImm (wImm w) (r.xr (wRa w))),
   (.movhi t w u, .movhi, fun _ => sext64 21 (fld w 0 21) <<< 16),
   (.pcrel t w u, .pcrel, fun r => r.pc + sext64 21 (fld w 0 21) <<< 16),
   (.multiplyDivide t w u, .multiplyDivide, fun r => mulDiv (wFn w) (r.xr (wRa w)) (r.xr (wRb w))),
   (.fkind t w u, .fkind, fun r => BitVec.ofNat 64 ((fpFmt w).classify (r.fop (fpFmt w) (wRa w))))]

/-- The scalar floating instructions, with their decoded row and their effect on the scalar unit's registers. -/
def floatRows (t : TileId) (w : BitVec 32) (u : Upset) : List (Instr × SisRow × (Tsu → Tsu)) :=
  [(.fpArithmetic t w u, .fpArithmetic, fpArith w), (.fpSign t w u, .fpSign, fpSignOp w),
   (.fpFused t w u, .fpFused, fpFusedOp w), (.fpConversion t w u, .fpConversion, fpConv w)]

/-- Every instruction of the table, with its row and what its words decode to. -/
def sisInstrs (t : TileId) (w ext : BitVec 32) (u : Upset) : List (Instr × SisRow × Option SisRow) :=
  [(.integerAlu t w u, .integerAlu), (.aluImmediate t w u, .aluImmediate), (.shiftImmediate t w u, .shiftImmediate),
   (.movhi t w u, .movhi), (.pcrel t w u, .pcrel), (.multiplyDivide t w u, .multiplyDivide), (.load t w u, .load),
   (.store t w u, .store), (.atomic t w u, .atomic), (.branch t w u, .branch), (.jl t w u, .jl), (.jlr t w u, .jlr),
   (.trap t w u, .trap), (.tret t w u, .tret), (.rdtime t w u, .rdtime), (.pdone t w u, .pdone), (.brk t w u, .brk),
   (.tcrr t w u, .tcrr), (.tcrw t w u, .tcrw), (.fenceRel t w u, .fenceRel), (.fenceAcq t w u, .fenceAcq),
   (.fenceRelAll t w u, .fenceRelAll), (.fenceAcqAll t w u, .fenceAcqAll), (.cpf t w u, .cpf), (.cwb t w u, .cwb),
   (.cwbi t w u, .cwbi), (.czero t w u, .czero), (.iinv t w u, .iinv), (.iinvAll t w u, .iinvAll),
   (.fpArithmetic t w u, .fpArithmetic), (.fpSign t w u, .fpSign), (.fpFused t w u, .fpFused),
   (.fpConversion t w u, .fpConversion), (.fkind t w u, .fkind)].map (fun e => (e.1, e.2, wordRow w)) ++
  [(.setvl t w u, .setvl), (.vgetvl t w u, .vgetvl), (.vld t w u, .vld), (.vldu t w u, .vldu), (.vldFf t w u, .vldFf),
   (.vlx t w u, .vlx), (.vst t w u, .vst), (.vstu t w u, .vstu), (.vsx t w u, .vsx), (.vectorInteger t w u, .vectorInteger),
   (.vmerge t w u, .vmerge), (.vectorCompare t w u, .vectorCompare), (.vectorFloat t w u, .vectorFloat),
   (.vfcvtFrom t w u, .vfcvtFrom), (.vfcvtTo t w u, .vfcvtTo), (.vfcvtInteger t w u, .vfcvtInteger),
   (.maskLogic t w u, .maskLogic), (.kpopcKfirst t w u, .kpopcKfirst), (.vlmVsm t w u, .vlmVsm),
   (.vectorReduction t w u, .vectorReduction), (.vectorScalarMove t w u, .vectorScalarMove),
   (.vectorPermutation t w u, .vectorPermutation), (.vxDeal t w u, .vxDeal), (.vxCombinePut t w u, .vxCombinePut),
   (.vxCombineSum t w u, .vxCombineSum)].map (fun e => (e.1, e.2, wordRow w)) ++
  [(.mxLdw t w ext u, .mxLdw), (.mxRun t w ext u, .mxRun), (.mxDrain t w ext u, .mxDrain), (.mxZero t w ext u, .mxZero),
   (.mxSwap t w ext u, .mxSwap)].map (fun e => (e.1, e.2, pairRow w ext))

/-- The fences and the cache instructions, with their row and their effect on the state (R97–R99, R212–R214). -/
def fenceRows (t : TileId) (w : BitVec 32) (u : Upset) : List (Instr × SisRow × (State → State)) :=
  [(.fenceRel t w u, .fenceRel, fun s => s.fenceRel t (s.fenceRange t w)),
   (.fenceAcq t w u, .fenceAcq, fun s => s.fenceAcq t (s.fenceRange t w)),
   (.fenceRelAll t w u, .fenceRelAll, fun s => s.fenceRel t (fun _ => true)),
   (.fenceAcqAll t w u, .fenceAcqAll, fun s => s.fenceAcq t (fun _ => true)),
   (.cwb t w u, .cwb, fun s => s.cacheClean t (s.fenceRange t w) false),
   (.cwbi t w u, .cwbi, fun s => s.cacheClean t (s.fenceRange t w) true),
   (.iinv t w u, .iinv, fun s => s.dropI t (s.fenceRange t w)),
   (.iinvAll t w u, .iinvAll, fun s => s.dropI t (fun _ => true))]

/-- An instruction that writes one value for each active element: its row, its check at issue, and element i's value. -/
structure ElementRow (α : Type) where
  instr : Instr
  row : SisRow
  issues : Bool
  value : Nat → α

/-- The element-wise instructions in the state they meet (R116, R129–R133, R181, R182): the comparisons, `vp.pack` and stochastic rounding
stand apart. -/
def elementRows (s : State) (t : TileId) (w : BitVec 32) (u : Upset) : List (ElementRow Nat) :=
  let v := s.lvu t
  let fl := s.vFlush t
  let rm := (s.tile t).tsu.rmode
  let a (i : Nat) : Nat := v.el (wRa w) i
  let cmp : Bool := decide (0x0A ≤ wFn w % 32) && decide (wFn w % 32 ≤ 0x0C)
  let src := cvtFmt (wFn w)
  [⟨.vectorInteger t w u, .vectorInteger, true, fun i => vint v.w (wFn w % 32) (a i) (s.vb t w i) (v.el (wRd w) i)⟩,
   ⟨.vectorFloat t w u, .vectorFloat, v.wide && !cmp, fun i => (vfloat v.fmt rm fl (wFn w % 32) (a i) (s.vfb t w i) (v.el (wRd w) i)).1⟩,
   ⟨.vfcvtFrom t w u, .vfcvtFrom, v.wide && decide (src.width < v.w), fun i => (cvtFloat src v.fmt .rne 0 fl false (a i % 2 ^ src.width)).1⟩,
   ⟨.vfcvtTo t w u, .vfcvtTo, v.wide && decide (src.width < v.w) && rm != .sr, fun i => (cvtFloat v.fmt src rm 0 fl (bit w 5) (a i)).1⟩,
   ⟨.vfcvtInteger t w u, .vfcvtInteger, v.wide, fun i =>
     if wFn w = 0x1E then wrapI v.w (cvtToInt v.fmt rm fl v.w true (a i)).1 else (cvtFromInt v.fmt rm fl (sval v.w (a i))).1⟩,
   ⟨.vectorPermutation t w u, .vectorPermutation, wFn w != 0x17, fun i => s.vperm t w i⟩]

/-- The comparisons, which write bits of a K register. -/
def compareRows (s : State) (t : TileId) (w : BitVec 32) (u : Upset) : List (ElementRow Bool) :=
  let v := s.lvu t
  let cmp : Bool := decide (0x0A ≤ wFn w % 32) && decide (wFn w % 32 ≤ 0x0C)
  [⟨.vectorCompare t w u, .vectorCompare, true, fun i => vcmp v.w (wFn w % 32) (v.el (wRa w) i) (s.vb t w i)⟩,
   ⟨.vectorFloat t w u, .vectorFloat, v.wide && cmp, fun i =>
     (vfcmp v.fmt (s.vFlush t) (wFn w % 32) (v.el (wRa w) i) (s.vfb t w i)).1⟩]

/-- The vector memory instructions with the alignment that their base needs (R118, R121–R123). -/
def vectorMemoryRows (t : TileId) (w : BitVec 32) (u : Upset) : List (Instr × SisRow × Nat) :=
  [(.vld t w u, .vld, 256), (.vldu t w u, .vldu, mewBytes w), (.vldFf t w u, .vldFf, mewBytes w), (.vlx t w u, .vlx, 1),
   (.vst t w u, .vst, 256), (.vstu t w u, .vstu, mewBytes w), (.vsx t w u, .vsx, 1)]

/-- Mailbox m holds command `h` of opcode `op` under `tag`, not yet served, and the checks that any command meets all pass (R385, R565):
the command has its own effect. -/
structure Takes (s : State) (m : MbxId) (tag : BitVec 16) (op : Nat) (chk : List Byte → Option Status) (h : Held) : Prop where
  held : (s.box m).held.find? (fun x => x.tag == tag && x.opcode == op && !x.served) = some h
  checked : chk h.payload = none
  allowed : s.gate m h = none

/-- The commands of Velna 3.2 with their opcodes and payload checks (R384, R565). -/
def velnaRows (m : MbxId) (tag : BitVec 16) (img : Option (List Byte)) : List (Instr × Nat × (List Byte → Option Status)) :=
  [(.configLoad m tag img, 0x0201, configLoadChk), (.devInfo m tag, 0x0101, noChk), (.devStatus m tag, 0x0102, noChk),
   (.paceReport m tag, 0x0103, noChk), (.setMode m tag, 0x0202, setModeChk), (.configRead m tag, 0x0203, configReadChk),
   (.protectPropose m tag, 0x0301, noChk), (.protectApprove m tag, 0x0302, protectApproveChk),
   (.protectCommit m tag, 0x0303, protectCommitChk), (.protectWithdraw m tag, 0x0304, protectWithdrawChk),
   (.authorityList m tag, 0x0305, noChk), (.mapUpdate m tag, 0x0401, mapChk), (.regionCreate m tag, 0x0402, regionCreateChk),
   (.regionUpdate m tag, 0x0403, regionUpdateChk), (.regionRetire m tag, 0x0404, regionRetireChk),
   (.regionStatus m tag, 0x0405, regionStatusChk), (.queueCreate m tag, 0x0501, queueCreateChk),
   (.queueDestroy m tag, 0x0502, queueDestroyChk), (.anteSet m tag, 0x0503, anteSetChk), (.ledgerQuery m tag, 0x0504, ledgerQueryChk),
   (.chainDefine m tag, 0x0601, chainDefineChk), (.chainRelease m tag, 0x0602, chainReleaseChk),
   (.attestDevice m tag, 0x0701, attestChk), (.attestPartition m tag, 0x0702, attestChk), (.grainSeed m tag, 0x0703, grainSeedChk),
   (.keyInstall m tag, 0x0704, keyInstallChk), (.confidentialEnter m tag, 0x0705, noChk),
   (.errorLogRead m tag, 0x0801, errorLogReadChk), (.partitionRestart m tag, 0x0802, noChk), (.recallAck m tag, 0x0803, recallAckChk),
   (.checkSplitEnable m tag, 0x0901, checkSplitEnableChk), (.selfTestRun m tag, 0x0902, selfTestRunChk),
   (.powerEnvelope m tag, 0x0A01, powerEnvelopeChk), (.paceLock m tag, 0x0A02, paceLockChk)]

/-- A function's SPDM responder answers: the host link is up, the function exists and the mailboxes have opened (R436, R519, R550). -/
structure Responds (s : State) (f : FnId) : Prop where
  link : s.hostl.width ≠ 0
  there : s.fnExists f.val = true
  opened : s.boot.opened = true

/-- A request of function 64's responder comes in an established session (R449). -/
structure InSession (s : State) (id : BitVec 32) : Prop extends Responds s 64 where
  session : ∃ x, s.session 64 id = some x ∧ x.established = true

end Sys2Proof.Machine
end

