-- ==== Sys2Proof/Certificates/Slice0/Obligations.lean ====
section
/-! DEFINITION. The statements for the provers, from the numbered rules of spec/, family by family. A statement names the rules it rests
on; where it rests on a choice of the model, the log entry. -/

set_option linter.unusedVariables false

open Sys2Proof.Machine Sys2Proof

/-! The block: its queue, its clock, its reset. -/

/-- Tier 1. A step takes the command at the front of the queue and runs it on the state with the queue's rest. On an empty queue it lets one
nanosecond of CI13 time pass and changes nothing else, which is the model's choice (log entry 5). -/
def Obligations.StepRunsFront : Prop :=
  (∀ (c : Instr) (s : State), step { s with pending := c :: s.pending } = exec c s) ∧
  ∀ s : State, s.pending = [] → step s = .next { s with now := if s.plant.ciRunning then s.now + 1 else s.now }

/-- Tier 1. What a cold reset leaves: the timestamp at 0 (R50), the links DOWN, the device in RESET with no start-up step done, the
mailboxes' windows empty, no command, no record, no pass. Values that the spec does not give are log entry 17's. -/
def Obligations.ResetValues : Prop :=
  State.reset.now = 0 ∧ State.reset.pending = [] ∧ State.reset.boot.state = .reset ∧ State.reset.boot.steps = 0 ∧
  State.reset.boot.cold = true ∧ State.reset.ring = [] ∧ State.reset.fatals = [] ∧ State.reset.out = [] ∧
  (∀ l, (State.reset.link l).state = 0) ∧ (∀ t, (State.reset.tile t).run = none) ∧ (∀ t r, State.reset.xr t r = 0) ∧
  (∀ n, (State.reset.part n).entry.valid = false) ∧ (∀ i, (State.reset.led i).state = .free) ∧
  (∀ k, (State.reset.region k).state = .free) ∧ (∀ m, (State.reset.box m).held = []) ∧ (∀ a, SMap.get 0 State.reset.mem a = 0) ∧
  State.reset.hostl.vfEnable = false ∧ State.reset.plant.brake = false ∧ State.reset.sec.blocks = []

/-- Tier 1. Every table of the reset state is in canonical form. -/
def Obligations.ResetCanon : Prop := State.reset.Canon

/-- Tier 3. Every step keeps every table in its canonical form and the error ring within its 4,096 records (R494). -/
def Obligations.CanonKept : Prop :=
  ∀ s t : State, s.Canon → step s = .next t → t.Canon

/-- Tier 2. No command touches the queue of the commands that wait behind it: a step removes the front one and no other. -/
def Obligations.QueueKept : Prop :=
  ∀ s t : State, step s = .next t → t.pending = s.pending.tail

/-- Tier 3. The timestamp never goes backwards (R50): only a cold reset and the loss of power, after which it counts anew, are followed
by a smaller one. -/
def Obligations.TimeGoesForward : Prop :=
  ∀ s t : State, s.pending.head? ≠ some .coldReset → s.pending.head? ≠ some .lossOfPower → step s = .next t → s.now ≤ t.now

/-- Tier 1. Every command, on every state and with every operand, has an effect: none ends in a fault or a refusal. -/
def Obligations.NoStop : Prop := ∀ s : State, ∃ t, step s = .next t

/-! The scalar unit. -/

/-- Tier 2. INTEGER_ALU, ALU_IMMEDIATE, SHIFT_IMMEDIATE, MOVHI, PCREL, MULTIPLY_DIVIDE and FKIND answer the next state in which the
destination register holds the result, X0 excepted, the PC is 4 further, and every other register, every flag, all of memory and every
other tile are unchanged. -/
def Obligations.IntegerResult : Prop :=
  ∀ (s : State) (t : TileId) (w : BitVec 32) (u : Upset), ∀ e ∈ integerRows t w u, Ready s t (wordRow w) e.2.1 u →
    ∃ s', exec e.1 s = .next s' ∧ StepsTo s s' t e.2.1 ((s.tile t).tsu.pc + 4) ∧ XWrite s s' t (wRd w) (e.2.2 (s.tile t).tsu) ∧
      (s'.tile t).tsu.tip = (s.tile t).tsu.tip

/-- Tier 2. R89: integer division by zero returns all ones for `div` and `divu` and the dividend for `rem` and `remu`; the most negative
value divided by −1 returns the most negative value for `div` and zero for `rem`; and no integer operation traps: each falls through with
`TIP`, `TCR_EPC` and `TCR_CAUSE` as they were. -/
def Obligations.DivideCorners : Prop :=
  (∀ a : Word, mulDiv 4 a 0 = BitVec.allOnes 64 ∧ mulDiv 5 a 0 = BitVec.allOnes 64 ∧ mulDiv 6 a 0 = a ∧ mulDiv 7 a 0 = a) ∧
  mulDiv 4 (BitVec.intMin 64) (BitVec.allOnes 64) = BitVec.intMin 64 ∧ mulDiv 6 (BitVec.intMin 64) (BitVec.allOnes 64) = 0 ∧
  ∀ (s : State) (t : TileId) (w : BitVec 32) (u : Upset), ∀ e ∈ integerRows t w u, Ready s t (wordRow w) e.2.1 u →
    ∃ s', exec e.1 s = .next s' ∧ (s'.tile t).tsu.pc = (s.tile t).tsu.pc + 4 ∧ (s'.tile t).tsu.tip = (s.tile t).tsu.tip ∧
      (s'.tile t).tsu.epc = (s.tile t).tsu.epc ∧ (s'.tile t).tsu.cause = (s.tile t).tsu.cause ∧
      (e.1 = .multiplyDivide t w u → XWrite s s' t (wRd w) (mulDiv (wFn w) (s.xr t (wRa w)) (s.xr t (wRb w))))

/-- Tier 2. FP_ARITHMETIC, FP_SIGN, FP_FUSED and FP_CONVERSION answer the next state in which at most the destination register and the
flags of `TCR_FPCSR` differ; a flag once set stays set, and no floating exception traps (R90). -/
def Obligations.FloatResult : Prop :=
  ∀ (s : State) (t : TileId) (w : BitVec 32) (u : Upset), ∀ e ∈ floatRows t w u, Ready s t (wordRow w) e.2.1 u →
    ∃ s', exec e.1 s = .next s' ∧ OnlyTile s s' t ∧
      s'.tile t = { s.tile t with tokens := spendTokens (s.tile t).tokens e.2.1.steps, tsu := { e.2.2 (s.tile t).tsu with
        pc := (s.tile t).tsu.pc + 4, retired := (s.tile t).tsu.retired + 1 } } ∧
      (s'.tile t).tsu = { (s.tile t).tsu with
        x := (s'.tile t).tsu.x, f := (s'.tile t).tsu.f, fflags := (s'.tile t).tsu.fflags,
        pc := (s.tile t).tsu.pc + 4, retired := (s.tile t).tsu.retired + 1 } ∧
      (∀ k, k ≠ wRd w → s'.xr t k = s.xr t k ∧ s'.fr t k = s.fr t k) ∧
      (s'.tile t).tsu.fflags &&& (s.tile t).tsu.fflags = (s.tile t).tsu.fflags

/-- Tier 2. BRANCH, JL, JLR and TRET answer the next state at their target: a branch goes `OFF13` words on where its condition holds and
else falls through; `jl` and `jlr` write the link; `tret` clears `TIP` and resumes at `TCR_EPC` (R106). -/
def Obligations.ControlTransfer : Prop :=
  ∀ (s : State) (t : TileId) (w : BitVec 32) (u : Upset),
    let r := (s.tile t).tsu
    (Ready s t (wordRow w) .branch u → ∃ s', exec (.branch t w u) s = .next s' ∧
      StepsTo s s' t .branch (if condHolds (fld w 13 3) (r.xr (wRd w)) (r.xr (wRa w)) then r.pc + sext64 13 (fld w 0 13) * 4 else r.pc + 4) ∧
      (s'.tile t).tsu.x = r.x ∧ (s'.tile t).tsu.tip = r.tip) ∧
    (Ready s t (wordRow w) .jl u → ∃ s', exec (.jl t w u) s = .next s' ∧ StepsTo s s' t .jl (r.pc + sext64 21 (fld w 0 21) * 4) ∧
      XWrite s s' t (wRd w) (r.pc + 4) ∧ (s'.tile t).tsu.tip = r.tip) ∧
    (Ready s t (wordRow w) .jlr u → ∃ s', exec (.jlr t w u) s = .next s' ∧
      StepsTo s s' t .jlr ((r.xr (wRa w) + sext64 16 (wImm w)) &&& ~~~3) ∧
      XWrite s s' t (wRd w) (r.pc + 4) ∧ (s'.tile t).tsu.tip = r.tip) ∧
    (Ready s t (wordRow w) .tret u → ∃ s', exec (.tret t w u) s = .next s' ∧ StepsTo s s' t .tret r.epc ∧
      (s'.tile t).tsu.x = r.x ∧ (s'.tile t).tsu.tip = false)

/-- Tier 2. TRAP: with `TCR_TVEC` non-zero and `TIP` clear, SOFTWARE_TRAP is taken: `TCR_EPC`, `TCR_CAUSE` and `TCR_TVAL` (the 15-bit code)
are written, `TIP` is set and the tile goes on at `TCR_TVEC`; nothing else changes but the tokens (R105, R106). Otherwise the pass ends with
NOT_PERMITTED and cause 0x07 (R107). -/
def Obligations.SoftwareTrap : Prop :=
  ∀ (s : State) (t : TileId) (w : BitVec 32) (u : Upset), Ready s t (wordRow w) .trap u →
    let r := (s.tile t).tsu
    (r.tvec ≠ 0 → r.tip = false → ∃ s', exec (.trap t w u) s = .next s' ∧ OnlyTile s s' t ∧
      s'.tile t = { s.tile t with tokens := spendTokens (s.tile t).tokens SisRow.trap.steps, tsu := { r with
        epc := r.pc, cause := 0x07, tval := BitVec.ofNat 64 (fld w 6 15), tip := true, pc := r.tvec } }) ∧
    ((r.tvec = 0 ∨ r.tip = true) → ∃ s', exec (.trap t w u) s = .next s' ∧ (s'.tile t).run = none ∧
      s' = (s.paid t .trap).endPassTrap t .notPermitted 0x07 0)

/-- Tier 2. R86 for every instruction: a word that does not decode raises ILLEGAL_INSTRUCTION with the word as `TCR_TVAL`. The model's choice
(log entry 129): an instruction at a misaligned PC raises MISALIGNED with the PC. Where a handler stands the trap is taken, and else the pass
ends (R105–R107). -/
def Obligations.IllegalWord : Prop :=
  ∀ (s : State) (t : TileId) (w ext : BitVec 32) (u : Upset), ∀ e ∈ sisInstrs t w ext u, s.running t = true → (s.tile t).queue = [] →
    s.maySpend t e.2.1.units = true → e.2.1.calm u = true →
    let r := (s.tile t).tsu
    let took (c : Nat) (v : Word) (s' : State) : Prop := s' = s.taken t e.2.1 (fun s => s.trapT t c v) ∧
      (r.tvec ≠ 0 → r.tip = false → OnlyTile s s' t ∧ s'.tile t = { s.tile t with
        tokens := spendTokens (s.tile t).tokens e.2.1.units,
        tsu := { r with epc := r.pc, cause := BitVec.ofNat 8 c, tval := v, tip := true, pc := r.tvec } }) ∧
      (r.tvec = 0 ∨ r.tip = true → (s'.tile t).run = none)
    (r.pc.toNat % 4 = 0 → e.2.2 = none → ∃ s', exec e.1 s = .next s' ∧ took 0x01 (w.zeroExtend 64) s') ∧
    (r.pc.toNat % 4 ≠ 0 → e.2.2 = none ∨ e.2.2 = some e.2.1 → ∃ s', exec e.1 s = .next s' ∧ took 0x05 r.pc s')

/-- Tier 2. A mismatch of the TSU's twin at any instruction, whatever its word and its PC, stops it before it has any effect of its own, with a
TSU_LOCKSTEP record (R110, R111); a difference at the audit lane or column, at a step or beat that it compares, stops a vector or matrix
instruction with the unit's record and none of its own effect (R138, R139, R164, R165; that nothing of it stands is the model's choice, log
entry 128), and at any other it has its own effect; and an upset of a stored bit changes that bit, after which an instruction that stays in
the tile does what it does in that state. -/
def Obligations.CheckerMismatch : Prop :=
  (∀ (s : State) (t : TileId) (w ext : BitVec 32), ∀ e ∈ sisInstrs t w ext .mismatch, s.running t = true → (s.tile t).queue = [] →
    s.maySpend t e.2.1.units = true → e.2.2 = none ∨ e.2.2 = some e.2.1 →
    let f : State → State := fun s => s.tileFatal t (mkRec 0x0101 1)
    s.prompt t e.2.1 f → exec e.1 s = .next (s.taken t e.2.1 f)) ∧
  (∀ (s : State) (t : TileId) (w ext : BitVec 32) (k : Nat), ∀ e ∈ sisInstrs t w ext (.audit k), e.2.1.queued = true →
    Ready s t e.2.2 e.2.1 .none → s.issueTrap t w (if e.2.1.matrix then ext else 0) e.2.1 = none →
    s.auditAt t w (if e.2.1.matrix then ext else 0) e.2.1 k = true →
    let f : State → State := fun s => (s.spend t (unitTokens e.2.1)).tileFatal t (mkRec (if e.2.1.matrix then 0x0103 else 0x0102) 1)
    s.prompt t e.2.1 f → (s.taken t e.2.1 f).running t = false → exec e.1 s = .next (s.taken t e.2.1 f)) ∧
  (∀ (s : State) (t : TileId) (w ext : BitVec 32) (k i : Nat) (e e' : Instr × SisRow × Option SisRow),
    (sisInstrs t w ext (.audit k))[i]? = some e → (sisInstrs t w ext .none)[i]? = some e' → (s.tile t).queue = [] →
    s.auditAt t w (if e.2.1.matrix then ext else 0) e.2.1 k = false → exec e.1 s = exec e'.1 s) ∧
  (∀ (s : State) (t : TileId) (w ext : BitVec 32) (u : Upset) (i : Nat) (e e' : Instr × SisRow × Option SisRow),
    (sisInstrs t w ext u)[i]? = some e → (sisInstrs t w ext .none)[i]? = some e' → e.2.1.reaches = false → (s.tile t).queue = [] →
    u ≠ .busy → u ≠ .mismatch → u ≠ .grainMismatch → (∀ k, u ≠ .audit k) → s.running t = true → e.2.2 = none ∨ e.2.2 = some e.2.1 →
    exec e.1 s = exec e'.1 (s.strike t u))

/-- Tier 2. RDTIME writes the timestamp, sets `TCR_STATUS.TRD`, marks the request and leaves a later timestamp, so that two reads on a tile
strictly increase (R50, R109); BRK raises BREAKPOINT while debug is enabled and else only falls through (the model's choice, log entry
72); TCRR reads a tile control register (R102), and raises ILLEGAL_INSTRUCTION where there is none. -/
def Obligations.SystemGroup : Prop :=
  ∀ (s : State) (t : TileId) (w : BitVec 32) (u : Upset),
    let r := (s.tile t).tsu
    (Ready s t (wordRow w) .rdtime u → ∃ s', exec (.rdtime t w u) s = .next s' ∧ XWrite s s' t (wRd w) (BitVec.ofNat 64 s.now) ∧
      (s'.tile t).tsu.trd = true ∧ (∀ p, (s.tile t).run = some p → (s'.led p.ix).trd = true) ∧ s'.now = s.now + 1 ∧
      (s'.tile t).tsu.pc = r.pc + 4 ∧ s'.mem = s.mem ∧ (∀ k, k ≠ t.val → s'.tile k = s.tile k)) ∧
    (Ready s t (wordRow w) .brk u → s.debugOn = false → ∃ s', exec (.brk t w u) s = .next s' ∧ StepsTo s s' t .brk (r.pc + 4) ∧
      (s'.tile t).tsu.x = r.x ∧ (s'.tile t).tsu.tip = r.tip) ∧
    (Ready s t (wordRow w) .brk u → s.debugOn = true → exec (.brk t w u) s = .next ((s.paid t .brk).trapT t 0x08 r.pc)) ∧
    (∀ v, Ready s t (wordRow w) .tcrr u → (s.paid t .tcrr).tcr t (fld w 0 12) = some v → ∃ s', exec (.tcrr t w u) s = .next s' ∧
      StepsTo s s' t .tcrr (r.pc + 4) ∧ XWrite s s' t (wRd w) v ∧ (s'.tile t).tsu.tip = r.tip) ∧
    (Ready s t (wordRow w) .tcrr u → (s.paid t .tcrr).tcr t (fld w 0 12) = none →
      exec (.tcrr t w u) s = .next ((s.paid t .tcrr).trapT t 0x01 (w.zeroExtend 64)))

/-- Tier 2. TCRW writes what R102 lets a program write, register by register: `TCR_EPC`, `TCR_TVEC` with its low 6 bits clear, the scratch
registers, and `TCR_FPCSR`, whose flags are cleared by ones (R3); a reserved rounding mode and a register that does not exist raise
ILLEGAL_INSTRUCTION with nothing written (R172). -/
def Obligations.TileControlWrite : Prop :=
  ∀ (s : State) (t : TileId) (w : BitVec 32) (u : Upset), Ready s t (wordRow w) .tcrw u →
    let r := (s.tile t).tsu
    let n := fld w 0 12
    let v := s.xr t (wRd w)
    ((s.tcr t n = none ∨ (n = 0x010 ∧ 6 ≤ fld v 0 4)) →
      exec (.tcrw t w u) s = .next ((s.paid t .tcrw).trapT t 0x01 (w.zeroExtend 64))) ∧
    (s.tcr t n ≠ none → ¬ (n = 0x010 ∧ 6 ≤ fld v 0 4) → ∃ s', exec (.tcrw t w u) s = .next s' ∧ OnlyTile s s' t ∧
      s'.tile t = { s.tile t with tokens := spendTokens (s.tile t).tokens SisRow.tcrw.steps, tsu := { r with
        epc := if n = 0x003 then v else r.epc,
        tvec := if n = 0x005 then v &&& ~~~(0x3F : Word) else r.tvec,
        scratch0 := if n = 0x006 then v else r.scratch0,
        scratch1 := if n = 0x007 then v else r.scratch1,
        rm := if n = 0x010 then BitVec.ofNat 4 v.toNat else r.rm,
        fflags := if n = 0x010 then r.fflags &&& ~~~(BitVec.ofNat 5 (fld v 8 5)) else r.fflags,
        pc := r.pc + 4, retired := r.retired + 1 } })

/-- Tier 2. PDONE performs `fence.rel.all`, then the pass ends with the status in `RA`[15:0] (R94): the tile runs no pass, and the request
holds one more rank end, with status OK, the 12 application bits and the MORE bit; the tile of a chain step is held for it (R318). -/
def Obligations.PassDone : Prop :=
  ∀ (s : State) (t : TileId) (w : BitVec 32) (u : Upset) (p : PassCtx), Ready s t (wordRow w) .pdone u →
    let a := (s.reaching t .pdone).fenceRel t (fun _ => true)
    a.running t = true → a.net.waits = false → (a.tile t).run = some p →
    ∃ s', exec (.pdone t w u) s = .next s' ∧ (s'.tile t).run = none ∧
      (s'.tile t).chainHold = (if (a.led p.ix).cstep.isSome then some p.ix else none) ∧
      ∃ e : RankEnd, (s'.led p.ix).ends = (a.led p.ix).ends ++ [e] ∧ e.status = .ok ∧ e.rank = p.rank ∧
        e.app = BitVec.ofNat 12 (s.xr t (wRa w)).toNat ∧ e.more = (s.xr t (wRa w)).getLsbD 15

/-- Tier 2. LOAD, STORE and ATOMIC: a misaligned address raises MISALIGNED and an unmapped one the page fault of its kind, with the address
as `TCR_TVAL` (R105, R194, R229); else, where the access is accepted and waits for no other device (R312), LOAD writes its register, STORE's
bytes go out, ATOMIC writes the old value, and the PC is 4 further; a refusal at the home of a load or an atomic is the fault of its row
(R105). -/
def Obligations.LoadStoreAtomic : Prop :=
  ∀ (s : State) (t : TileId) (w : BitVec 32) (u : Upset),
    let va := s.accessVa t w
    let aa := s.xr t (wRa w)
    let n := accessSize (wMajor w)
    let pc := (s.tile t).tsu.pc
    let v := if wMajor w = 0x1C ∨ wMajor w = 0x1E then s.fr t (wRd w) else s.xr t (wRd w)
    let op : MemOp := .atomic (BitVec.ofNat 6 (wFn w)) (s.xr t (wRb w)) (s.xr t (wRc w))
    (Ready s t (wordRow w) .load u →
      let z := s.reaching t .load
      (va.toNat % n ≠ 0 → exec (.load t w u) s = .next (s.acted (z.trapT t 0x05 va))) ∧
      (∀ a pa bs c, va.toNat % n = 0 → z.translateT t .load va.toNat = (some pa, a) → a.loadPa t pa n = (some bs, c) →
        c.running t = true → c.net.waits = false →
        exec (.load t w u) s = .next (s.acted ((c.loaded t (wMajor w) (wRd w) (leNat bs)).retire t (pc + 4)))) ∧
      (∀ a pa c, va.toNat % n = 0 → z.translateT t .load va.toNat = (some pa, a) → a.loadPa t pa n = (none, c) →
        c.running t = true → c.net.waits = false → exec (.load t w u) s = .next (s.acted (c.trapT t 0x06 va))) ∧
      (∀ a, va.toNat % n = 0 → z.translateT t .load va.toNat = (none, a) → a.running t = true → a.net.waits = false →
        exec (.load t w u) s = .next (s.acted (a.trapT t 0x03 va)))) ∧
    (Ready s t (wordRow w) .store u →
      let z := s.reaching t .store
      (va.toNat % n ≠ 0 → exec (.store t w u) s = .next (s.acted (z.trapT t 0x05 va))) ∧
      (∀ a pa, va.toNat % n = 0 → z.translateT t .store va.toNat = (some pa, a) →
        let c := a.storePa t pa (leBytes n v.toNat) 0x10 (a.tile t).tsu.pc.toNat
        c.running t = true → c.net.waits = false → exec (.store t w u) s = .next (s.acted (c.retire t (pc + 4)))) ∧
      (∀ a, va.toNat % n = 0 → z.translateT t .store va.toNat = (none, a) → a.running t = true → a.net.waits = false →
        exec (.store t w u) s = .next (s.acted (a.trapT t 0x04 va)))) ∧
    (Ready s t (wordRow w) .atomic u →
      let z := s.reaching t .atomic
      (aa.toNat % 8 ≠ 0 → exec (.atomic t w u) s = .next (s.acted (z.trapT t 0x05 aa))) ∧
      (∀ a pa c d, aa.toNat % 8 = 0 → z.translateT t .atomic aa.toNat = (some pa, a) →
        (if a.uncached t pa then a else a.atomicClean t (pa / 128)) = c → c.running t = true →
        (∀ bs, c.access (c.tileTag t) pa op = (.ok bs, d) → d.running t = true → d.net.waits = false →
          exec (.atomic t w u) s = .next (s.acted ((d.setX t (wRd w) (bytesBv 64 bs)).retire t (pc + 4)))) ∧
        (c.access (c.tileTag t) pa op = (.refused, d) → d.running t = true → d.net.waits = false →
          exec (.atomic t w u) s = .next (s.acted (d.trapT t 0x06 aa)))) ∧
      (∀ a, aa.toNat % 8 = 0 → z.translateT t .atomic aa.toNat = (none, a) → a.running t = true → a.net.waits = false →
        exec (.atomic t w u) s = .next (s.acted (a.trapT t 0x04 aa))))

/-- Tier 2. FENCE_REL, FENCE_ACQ, FENCE_REL_ALL, FENCE_ACQ_ALL, CWB, CWBI, IINV and IINV_ALL act on the lines of their range, or on every
line, and fall through; CPF never traps; CZERO zeroes a line-aligned range that is mapped for storing, and raises MISALIGNED or
STORE_PAGE_FAULT with nothing zeroed otherwise (R212, R214). -/
def Obligations.FencesAndCaches : Prop :=
  ∀ (s : State) (t : TileId) (w : BitVec 32) (u : Upset),
    let pc := (s.tile t).tsu.pc
    let va := s.xr t (wRa w)
    let len := (s.xr t (wRb w)).toNat
    (∀ e ∈ fenceRows t w u, Ready s t (wordRow w) e.2.1 u → s.prompt t e.2.1 e.2.2 → (s.taken t e.2.1 e.2.2).running t = true →
      exec e.1 s = .next (s.taken t e.2.1 (fun s => (e.2.2 s).retire t (pc + 4)))) ∧
    (Ready s t (wordRow w) .cpf u →
      let a := (rangeLines va.toNat len 64).foldl (fun (s : State) va => match s.translateT t .load va with
        | (some pa, s) => if s.uncached t pa then s else s.prefetch t (pa / 128)
        | (none, s) => s) (s.reaching t .cpf)
      a.running t = true → a.net.waits = false → exec (.cpf t w u) s = .next (s.acted (a.retire t (pc + 4)))) ∧
    (Ready s t (wordRow w) .czero u →
      let z := s.reaching t .czero
      (va.toNat % 128 ≠ 0 ∨ len % 128 ≠ 0 → exec (.czero t w u) s = .next (s.acted (z.trapT t 0x05 va))) ∧
      (∀ es b, va.toNat % 128 = 0 → len % 128 = 0 → z.rangeT t .store va.toNat len = (.inl es, b) →
        let a := es.foldl (fun s e => s.zeroExtent t e) b
        a.running t = true → a.net.waits = false → exec (.czero t w u) s = .next (s.acted (a.retire t (pc + 4)))) ∧
      (∀ x b, va.toNat % 128 = 0 → len % 128 = 0 → z.rangeT t .store va.toNat len = (.inr x, b) → b.running t = true →
        b.net.waits = false → exec (.czero t w u) s = .next (s.acted (b.trapT t 0x04 (BitVec.ofNat 64 x)))))

/-! The vector and matrix units. -/

/-- Tier 2. R116 for the element-wise instructions: VECTOR_INTEGER, VECTOR_FLOAT (but its comparisons), VFCVT_FROM, VFCVT_TO without
stochastic rounding, VFCVT_INTEGER and VECTOR_PERMUTATION (but `vp.pack`) answer the next state in which each active element of the
destination holds its result, a masked-off element below VL is zero where `MZ` is 1 and unchanged where it is 0, every element from VL on
is unchanged, and every other register of the tile but the PC, the vector flags and the count of steps, every other tile and all of memory are unchanged. -/
def Obligations.VectorElements : Prop :=
  ∀ (s : State) (t : TileId) (w : BitVec 32) (u : Upset), ∀ e ∈ elementRows s t w u, Ready s t (wordRow w) e.row u → e.issues = true →
    let v := s.lvu t
    ∃ s', exec e.instr s = .next s' ∧ OnlyTile s s' t ∧
      s'.tile t = { s.tile t with
        tokens := spendTokens (s.tile t).tokens e.row.steps, lvu := (s'.tile t).lvu,
        tsu := { (s.tile t).tsu with pc := (s.tile t).tsu.pc + 4, retired := (s.tile t).tsu.retired + 1 } } ∧
      s'.lvu t = { v with v := (s'.lvu t).v, flags := (s'.lvu t).flags, steps := v.steps + s.lvuSteps t w e.row } ∧
      (s'.lvu t).flags &&& v.flags = v.flags ∧
      (∀ r, r ≠ wRd w → SMap.get 0 (s'.lvu t).v r = SMap.get 0 v.v r) ∧
      (∀ i, i < v.max → (s'.lvu t).el (wRd w) i =
        if i < v.vl then
          (if v.on w i then e.value i % 2 ^ v.w else if wMz w then 0 else v.el (wRd w) i)
        else v.el (wRd w) i)

/-- Tier 2. VECTOR_COMPARE and the comparisons of VECTOR_FLOAT write the bits of a K register below VL under the mask (R116); VMERGE writes
every element below VL, from `VB` where its mask bit is 1 and from `VA` where it is 0; `vp.pack` gathers the selected elements at the bottom and writes zeros above them
up to VL; MASK_LOGIC writes all 2,048 bits of its
register, whatever VL is. -/
def Obligations.VectorMasks : Prop :=
  ∀ (s : State) (t : TileId) (w : BitVec 32) (u : Upset),
    let v := s.lvu t
    (∀ e ∈ compareRows s t w u, Ready s t (wordRow w) e.row u → e.issues = true →
      ∃ s', exec e.instr s = .next s' ∧ OnlyTile s s' t ∧ (s'.lvu t).v = v.v ∧ (s'.tile t).tsu.pc = (s.tile t).tsu.pc + 4 ∧
        (∀ r, r ≠ wRd w → SMap.get 0 (s'.lvu t).k r = SMap.get 0 v.k r) ∧
        (∀ i, i < 2048 → (s'.lvu t).kbit (wRd w) i =
          if i < v.vl then
            (if v.on w i then e.value i else if wMz w then false else v.kbit (wRd w) i)
          else v.kbit (wRd w) i)) ∧
    (Ready s t (wordRow w) .vmerge u →
      ∃ s', exec (.vmerge t w u) s = .next s' ∧ OnlyTile s s' t ∧ (s'.tile t).tsu.pc = (s.tile t).tsu.pc + 4 ∧
        (∀ i, i < v.max → (s'.lvu t).el (wRd w) i =
          if i < v.vl then (if v.kbit (wKm w) i then s.vb t w i % 2 ^ v.w else v.el (wRa w) i) else v.el (wRd w) i)) ∧
    (Ready s t (wordRow w) .vectorPermutation u → wFn w = 0x17 → v.vl ≠ 0 →
      let kept := ((List.range v.vl).filter (fun i => v.kbit (wKm w) i)).map (fun i => v.el (wRa w) i)
      ∃ s', exec (.vectorPermutation t w u) s = .next s' ∧ OnlyTile s s' t ∧ (s'.tile t).tsu.pc = (s.tile t).tsu.pc + 4 ∧
        (∀ i, i < v.max → (s'.lvu t).el (wRd w) i = if i < v.vl then kept.getD i 0 else v.el (wRd w) i)) ∧
    (Ready s t (wordRow w) .maskLogic u →
      ∃ s', exec (.maskLogic t w u) s = .next s' ∧ OnlyTile s s' t ∧ (s'.lvu t).v = v.v ∧
        (s'.tile t).tsu.pc = (s.tile t).tsu.pc + 4 ∧
        ∀ r, SMap.get 0 (s'.lvu t).k r =
          if r = wRd w then klogic (wFn w) (SMap.get 0 v.k (wRa w)) (SMap.get 0 v.k (wRb w)) else SMap.get 0 v.k r)

/-- Tier 2. SETVL sets VL to the smaller of its operand and VLMAX, the element width and the format, and writes VL to its register (R113);
VGETVL reads VL; KPOPC_KFIRST counts the bits set below VL or finds the lowest; VECTOR_SCALAR_MOVE reads an element, zero from VL on, and
replaces one below VLMAX; an integer VECTOR_REDUCTION combines the active elements in tree order, with its identity where none is active,
and a floating one writes its F register and the vector flags, with ILLEGAL_INSTRUCTION at SEW 8 (R134, R135, R136). -/
def Obligations.VectorScalars : Prop :=
  ∀ (s : State) (t : TileId) (w : BitVec 32) (u : Upset),
    let v := s.lvu t
    let pc := (s.tile t).tsu.pc
    (Ready s t (wordRow w) .setvl u →
      let vl := min (s.xr t (wRa w)).toNat (16384 / (8 * 2 ^ (BitVec.ofNat 2 (wFn w)).toNat))
      ∃ s', exec (.setvl t w u) s = .next s' ∧ OnlyTile s s' t ∧ XWrite s s' t (wRd w) (BitVec.ofNat 64 vl) ∧
        (s'.lvu t).vl = vl ∧ (s'.lvu t).sew = BitVec.ofNat 2 (wFn w) ∧ (s'.lvu t).falt = BitVec.ofNat 2 (wFn w / 4) ∧
        (s'.lvu t).v = v.v ∧ (s'.lvu t).k = v.k ∧ (s'.lvu t).flags = v.flags ∧
        (s'.tile t).tsu.pc = pc + 4) ∧
    (Ready s t (wordRow w) .vgetvl u →
      ∃ s', exec (.vgetvl t w u) s = .next s' ∧ StepsTo s s' t .vgetvl (pc + 4) ∧ XWrite s s' t (wRd w) (BitVec.ofNat 64 v.vl)) ∧
    (Ready s t (wordRow w) .kpopcKfirst u →
      let set := (List.range v.vl).filter (fun i => v.kbit (wRa w) i)
      ∃ s', exec (.kpopcKfirst t w u) s = .next s' ∧ StepsTo s s' t .kpopcKfirst (pc + 4) ∧
        XWrite s s' t (wRd w) (if wFn w = 8 then BitVec.ofNat 64 set.length else (set.head?.map (BitVec.ofNat 64)).getD (BitVec.allOnes 64))) ∧
    (Ready s t (wordRow w) .vectorScalarMove u →
      let j := (s.xr t (wRb w)).toNat
      let i := (s.xr t (wRa w)).toNat
      (wFn w = 0x10 → ∃ s', exec (.vectorScalarMove t w u) s = .next s' ∧ StepsTo s s' t .vectorScalarMove (pc + 4) ∧
        XWrite s s' t (wRd w) (sext64 v.w (if j < v.vl then v.el (wRa w) j else 0))) ∧
      (wFn w = 0x12 → ∃ s', exec (.vectorScalarMove t w u) s = .next s' ∧ OnlyTile s s' t ∧ (s'.tile t).tsu.pc = pc + 4 ∧
        ∀ r, s'.fr t r = if r = wRd w then BitVec.ofNat 64 (if j < v.vl then v.el (wRa w) j else 0) else s.fr t r) ∧
      (wFn w = 0x11 → v.vl ≠ 0 → i < v.max → ∃ s', exec (.vectorScalarMove t w u) s = .next s' ∧ OnlyTile s s' t ∧
        (s'.tile t).tsu.pc = pc + 4 ∧ ∀ r, SMap.get 0 (s'.lvu t).v r =
          if r = wRd w then setFld (SMap.get 0 v.v r) (i * v.w) v.w (s.xr t (wRb w)).toNat else SMap.get 0 v.v r) ∧
      (wFn w = 0x13 → v.vl ≠ 0 → i < v.max → ∃ s', exec (.vectorScalarMove t w u) s = .next s' ∧ OnlyTile s s' t ∧
        (s'.tile t).tsu.pc = pc + 4 ∧ ∀ r, SMap.get 0 (s'.lvu t).v r =
          if r = wRd w then setFld (SMap.get 0 v.v r) (i * v.w) v.w (s.fr t (wRb w)).toNat else SMap.get 0 v.v r) ∧
      (wFn w = 0x11 ∨ wFn w = 0x13 → v.vl = 0 ∨ v.max ≤ i → ∃ s', exec (.vectorScalarMove t w u) s = .next s' ∧
        StepsTo s s' t .vectorScalarMove (pc + 4) ∧ (s'.tile t).tsu.x = (s.tile t).tsu.x)) ∧
    (Ready s t (wordRow w) .vectorReduction u → 8 ≤ wFn w →
      (v.sew = 0 → exec (.vectorReduction t w u) s = .next ((s.spend t [.tsu]).trapT t 0x01 (w.zeroExtend 64))) ∧
      (v.sew ≠ 0 → ∃ s', exec (.vectorReduction t w u) s = .next s' ∧ OnlyTile s s' t ∧ (s'.tile t).tsu.pc = pc + 4 ∧
        (s'.tile t).tsu.x = (s.tile t).tsu.x ∧ (s'.lvu t).v = v.v ∧ (s'.lvu t).k = v.k ∧ (s'.lvu t).flags &&& v.flags = v.flags ∧
        (∀ r, r ≠ wRd w → s'.fr t r = s.fr t r) ∧
        (v.actives w = [] → (s'.lvu t).flags = v.flags ∧
          s'.fr t (wRd w) = BitVec.ofNat 64 (if wFn w = 8 then 0 else
            (if v.sew = 3 then Fmt.fp64 else Fmt.fp32).signBit (wFn w == 9) + (if v.sew = 3 then Fmt.fp64 else Fmt.fp32).infMag)))) ∧
    (Ready s t (wordRow w) .vectorReduction u → wFn w < 8 →
      let leaf (i : Nat) : Int := if redSigned (wFn w) then sval v.w (v.el (wRa w) i) else ((v.el (wRa w) i : Nat) : Int)
      ∃ s', exec (.vectorReduction t w u) s = .next s' ∧ StepsTo s s' t .vectorReduction (pc + 4) ∧
        XWrite s s' t (wRd w) (BitVec.ofInt 64 ((redTree (redInt (wFn w)) v.max.log2 (v.leaves w leaf)).getD (redId v.w (wFn w)))))

/-- Tier 2. The checks at issue: a floating operation at SEW 8 and a memory element wider than SEW raise ILLEGAL_INSTRUCTION (R118, R130),
and a base that is not aligned raises MISALIGNED (R121, R122), whatever VL is; and R117: with VL = 0 an element-wise instruction, a
comparison and a vector memory instruction whose checks pass change nothing but the PC, the counts of retired instructions and of steps and
the tile's tokens, so that no memory is accessed. -/
def Obligations.VectorIssue : Prop :=
  ∀ (s : State) (t : TileId) (w : BitVec 32) (u : Upset),
    let base := s.xr t (wRa w)
    let pass (i : Instr) (row : SisRow) : Prop := ∃ s', exec i s = .next s' ∧ StepsTo s s' t row ((s.tile t).tsu.pc + 4) ∧
      (s'.tile t).tsu.x = (s.tile t).tsu.x ∧ (s'.tile t).tsu.tip = (s.tile t).tsu.tip
    let trap (row : SisRow) (c : Nat) (v : Word) : State := s.taken t row (fun s => s.trapT t c v)
    ((s.lvu t).sew = 0 → ∀ e ∈ [((Instr.vectorFloat t w u), SisRow.vectorFloat), (.vfcvtFrom t w u, .vfcvtFrom), (.vfcvtTo t w u, .vfcvtTo),
      (.vfcvtInteger t w u, .vfcvtInteger)], Ready s t (wordRow w) e.2 u → exec e.1 s = .next (trap e.2 0x01 (w.zeroExtend 64))) ∧
    (∀ e ∈ vectorMemoryRows t w u, Ready s t (wordRow w) e.2.1 u →
      ((s.lvu t).sew.toNat < wMew w → exec e.1 s = .next (trap e.2.1 0x01 (w.zeroExtend 64))) ∧
      (wMew w ≤ (s.lvu t).sew.toNat → base.toNat % e.2.2 ≠ 0 → exec e.1 s = .next (trap e.2.1 0x05 base))) ∧
    ((s.lvu t).vl = 0 →
      (∀ e ∈ elementRows s t w u, Ready s t (wordRow w) e.row u → e.issues = true → pass e.instr e.row) ∧
      (∀ e ∈ compareRows s t w u, Ready s t (wordRow w) e.row u → e.issues = true → pass e.instr e.row) ∧
      (∀ e ∈ vectorMemoryRows t w u, Ready s t (wordRow w) e.2.1 u → wMew w ≤ (s.lvu t).sew.toNat → base.toNat % e.2.2 = 0 →
        pass e.1 e.2.1))

/-- Tier 2. R124: `vlx` with `VD` equal to `VB` raises ILLEGAL_INSTRUCTION at issue, and has no other effect. -/
def Obligations.GatherOverItsIndex : Prop :=
  ∀ (s : State) (t : TileId) (w : BitVec 32) (u : Upset), s.running t = true → (s.tile t).tsu.pc.toNat % 4 = 0 → (s.tile t).queue = [] →
    s.maySpend t [.tsu] = true → SisRow.vlx.calm u = true →
    wMajor w = 0x31 → fld w 2 3 = 3 → wRd w = wRb w →
    exec (.vlx t w u) s = .next (s.taken t .vlx (fun s => s.trapT t 0x01 (w.zeroExtend 64)))

/-- Tier 2. VFCVT_TO under stochastic rounding: without a grain seed the pass ends NOT_PERMITTED with cause 0x11; with one, each active
element draws at its position and the LVU's grain counter advances by VL (R173, R175–R177); a mismatch of the grain pipeline's comparator
is fatal to the partition (R472). -/
def Obligations.StochasticConversion : Prop :=
  ∀ (s : State) (t : TileId) (w : BitVec 32) (u : Upset) (p : PassCtx),
    (s.tile t).run = some p → (s.tile t).tsu.rmode = .sr → (s.lvu t).wide = true → (cvtFmt (wFn w)).width < (s.lvu t).w → (s.lvu t).vl ≠ 0 →
    let v := s.lvu t
    (Ready s t (wordRow w) .vfcvtTo u → p.seed = none → ∃ s', exec (.vfcvtTo t w u) s = .next s' ∧ (s'.tile t).run = none ∧
      ∃ e : RankEnd, (s'.led p.ix).ends = (s.led p.ix).ends ++ [e] ∧ e.status = .notPermitted ∧ e.cause = 0x11 ∧
        e.pc = (s.tile t).tsu.pc.toNat) ∧
    (∀ seed, Ready s t (wordRow w) .vfcvtTo u → p.seed = some seed →
      ∃ s', exec (.vfcvtTo t w u) s = .next s' ∧ OnlyTile s s' t ∧ (s'.tile t).tsu.pc = (s.tile t).tsu.pc + 4 ∧
      (s'.lvu t).grain = (v.grain + v.vl) % 2 ^ 33 ∧
      (∀ i, i < v.max → (s'.lvu t).el (wRd w) i =
        if i < v.vl then
          (if v.on w i then (cvtFloat v.fmt (cvtFmt (wFn w)) .sr (p.draw seed 0 (v.grain + i)) (s.vFlush t) (bit w 5) (v.el (wRa w) i)).1 % 2 ^ v.w
           else if wMz w then 0 else v.el (wRd w) i)
        else v.el (wRd w) i)) ∧
    (∀ seed, Ready s t (wordRow w) .vfcvtTo .none → p.seed = some seed →
      let z := ((s.paid t .vfcvtTo).tileFatal t (mkRec 0x0105 1)).stepped t .vfcvtTo ((s.paid t .vfcvtTo).lvuSteps t w .vfcvtTo) 0
      z.running t = false → exec (.vfcvtTo t w .grainMismatch) s = .next z)

/-- Tier 2. The vector memory instructions where nothing faults or waits for another device: VLD, VLDU, VLX and VLD_FF read every active
element and write it under the mask; VST, VSTU and VSX store the active elements, neighbours of one line together for the unit-stride forms
(R118–R127); VLD_FF truncates VL at the first element after the lowest active one that faults (R128). -/
def Obligations.VectorMemory : Prop :=
  ∀ (s : State) (t : TileId) (w : BitVec 32) (u : Upset),
    let v := s.lvu t
    let base := s.xr t (wRa w)
    let n := mewBytes w
    let unit (i : Nat) := (i, unitVa base n i)
    let gather (i : Nat) := (i, v.gatherVa base (wRb w) i)
    let put (s : State) (x : List Nat) := s.updLvu t (fun v => v.write (wRd w) (wMz w) (spread (v.ix.map (fun i => v.on w i)) (x.map (extendTo w v.w))))
    v.vl ≠ 0 → wMew w ≤ v.sew.toNat →
    (∀ e ∈ [((Instr.vld t w u), SisRow.vld, 256, unit), (.vldu t w u, .vldu, n, unit), (.vldFf t w u, .vldFf, n, unit), (.vlx t w u, .vlx, 1, gather)],
      Ready s t (wordRow w) e.2.1 u → base.toNat % e.2.2.1 = 0 →
      let z := s.reaching t e.2.1
      ∀ pas a xs c, State.vecTrans t .load n ((v.actives w).map e.2.2.2) [] z = ((pas, none), a) →
        State.vecRead t n pas [] a = (some xs, c) → c.running t = true → c.net.waits = false →
        exec e.1 s = .next (s.acted (z.unitDone (put c xs) t w 0 e.2.1))) ∧
    (∀ e ∈ [((Instr.vst t w u), SisRow.vst, 256, true, unit), (.vstu t w u, .vstu, n, true, unit), (.vsx t w u, .vsx, 1, false, gather)],
      Ready s t (wordRow w) e.2.1 u → base.toNat % e.2.2.1 = 0 →
      let z := s.reaching t e.2.1
      ∀ pas a, State.vecTrans t .store n ((v.actives w).map e.2.2.2.2) [] z = ((pas, none), a) →
        let ps := (pas.zip (v.actives w)).map (fun p => (p.1, leBytes n (v.el (wRd w) p.2)))
        let c := a.vecStore t (if e.2.2.2.1 then joinPieces ps [] else ps)
        c.running t = true → c.net.waits = false → exec e.1 s = .next (s.acted (z.unitDone c t w 0 e.2.1))) ∧
    (Ready s t (wordRow w) .vldFf u → base.toNat % n = 0 →
      let z := s.reaching t .vldFf
      ∀ p pas x st a xs c, State.vecTrans t .load n ((v.actives w).map unit) [] z = ((p :: pas, some (x, st)), a) →
        State.vecRead t n (p :: pas) [] (a.updLvu t (fun v => { v with vl := x, fft := true })) = (some xs, c) →
        c.running t = true → c.net.waits = false → exec (.vldFf t w u) s = .next (s.acted (z.unitDone (put c xs) t w 0 .vldFf)))

/-- Tier 2. VLM_VSM moves a whole K register between itself and 256 aligned bytes where both lines are mapped and accessed; MX_SWAP
exchanges the planes (R148); MX_ZERO clears the valid bits of rows of the accumulator memory, which then read zero, and a range beyond its
4,096 rows ends the pass with cause 0x12 (R151, R152). -/
def Obligations.MaskMemoryAndPlanes : Prop :=
  ∀ (s : State) (t : TileId) (w ext : BitVec 32) (u : Upset),
    let base := s.xr t (wRa w)
    let lines := [(0, base.toNat), (1, base.toNat + 128)]
    let row := (s.xr t (wRa w)).toNat
    let n := (s.xr t (wRb w)).toNat
    let pc := (s.tile t).tsu.pc
    (Ready s t (wordRow w) .vlmVsm u → base.toNat % 256 = 0 → (s.lvu t).vl ≠ 0 →
      let z := s.reaching t .vlmVsm
      (wFn w = 0x11 → ∀ pas a, State.vecTrans t .store 128 lines [] z = ((pas, none), a) →
        let c := a.vecStore t (pas.mapIdx (fun i pa => (pa, slice (bvBytes (SMap.get 0 (a.lvu t).k (wRd w))) (128 * i) 128)))
        c.running t = true → c.net.waits = false → exec (.vlmVsm t w u) s = .next (s.acted (z.unitDone c t w 0 .vlmVsm))) ∧
      (wFn w = 0x10 → ∀ p q a x y c d, State.vecTrans t .load 128 lines [] z = (([p, q], none), a) →
        a.loadPa t p 128 = (some x, c) → c.loadPa t q 128 = (some y, d) → d.running t = true → d.net.waits = false →
        ∃ s', exec (.vlmVsm t w u) s = .next s' ∧ (s'.tile t).tsu.pc = pc + 4 ∧
          SMap.get 0 (s'.lvu t).k (wRd w) = BitVec.ofNat 2048 (leNat x % 2 ^ 1024 + 2 ^ 1024 * (leNat y % 2 ^ 1024)))) ∧
    (Ready s t (pairRow w ext) .mxSwap u → ∃ s', exec (.mxSwap t w ext u) s = .next s' ∧ OnlyTile s s' t ∧
      (s'.tile t).mxu = { (s.tile t).mxu with active := !(s.tile t).mxu.active } ∧ (s'.tile t).tsu.pc = pc + 8) ∧
    (Ready s t (pairRow w ext) .mxZero u → 4096 < row + n → n ≠ 0 → ∃ s', exec (.mxZero t w ext u) s = .next s' ∧ (s'.tile t).run = none) ∧
    (Ready s t (pairRow w ext) .mxZero u → row + n ≤ 4096 → ∃ s', exec (.mxZero t w ext u) s = .next s' ∧ OnlyTile s s' t ∧
      (s'.tile t).tsu.pc = pc + 8 ∧
      (∀ i, SMap.get false (s'.mxu t).rowValid i = if row ≤ i ∧ i < row + n then false else SMap.get false (s.mxu t).rowValid i) ∧
      (∀ i, (s'.mxu t).rowWords i = if row ≤ i ∧ i < row + n then List.replicate 64 0 else (s.mxu t).rowWords i) ∧
      (s'.mxu t).acm = (s.mxu t).acm)

/-- Tier 2. MX_LDW, MX_RUN and MX_DRAIN where their checks pass: MX_LDW loads its columns into the plane that is not active (R147), MX_RUN
runs its rows in order against the active plane (R141, R159), MX_DRAIN writes its output rows and, under stochastic rounding, advances the
grain counter by its draws (R150, R166, R175–R177); a PITCH of 0 is that of the format (R143); the PC is 8 further. -/
def Obligations.MatrixData : Prop :=
  mxPitch 4 = 1088 ∧ mxPitch 5 = 1088 ∧
  ∀ (s : State) (t : TileId) (w ext : BitVec 32) (u : Upset),
    let f := fld ext 0 4
    let base := (s.xr t (wRd w)).toNat
    let n := (s.xr t (wRa w)).toNat
    (Ready s t (pairRow w ext) .mxLdw u → base % 64 = 0 → n ≠ 0 → n ≤ 128 →
      let z := s.paid t .mxLdw
      let given := (s.xr t (wRb w)).toNat
      let pitch := if given = 0 then mxPitch f else given
      pitch % 64 = 0 → mxPitch f ≤ pitch →
      ∀ ess b, State.ownRanges t .load ((List.range n).map (fun c => (base + c * pitch, mxBytes f))) [] z = (.ok ess, b) →
        let r := ess.foldl (fun (r : List (List Byte) × State) es => ((r.2.ownRead t es).1 :: r.1, (r.2.ownRead t es).2)) ([], b)
        r.2.running t = true → exec (.mxLdw t w ext u) s =
          .next (z.unitDone (r.2.updMxu t (fun m => m.setPlane (!m.active) (planeOf f r.1.reverse))) t w ext .mxLdw)) ∧
    (let r := s.runOp t w ext
     Ready s t (pairRow w ext) .mxRun u → base % 64 = 0 → r.rows ≠ 0 → r.rows ≤ 4096 → r.ok (s.mxu t).act = true →
      let z := s.paid t .mxRun
      ∀ ess b, State.ownRanges t .load ((List.range r.rows).map (fun i => (base + i * mxPitch f, mxBytes f))) [] z = (.ok ess, b) →
        let a := ess.zipIdx.foldl (fun (s : State) e => s.runRow t r e.2 e.1) b
        a.running t = true → exec (.mxRun t w ext u) s = .next (z.unitDone a t w ext .mxRun)) ∧
    (∀ run, Ready s t (pairRow w ext) .mxDrain u → (s.tile t).run = some run →
      let z := s.paid t .mxDrain
      let rm := if bit ext 8 then (s.tile t).tsu.rmode else (rmOf (fld ext 4 4)).getD .rne
      let d : DrainOp := ⟨f, rm, bit ext 9, bit ext 10, bit ext 11, bit ext 12, run.flush⟩
      let row := fld (s.xr t (wRa w)) 0 12
      let k := fld (s.xr t (wRa w)) 16 13
      let per := if d.wide then 2 else 1
      let pitch := if fld ext 16 16 = 0 then outPitch f else 64 * fld ext 16 16
      let pad := if fld ext 16 16 = 0 then outPitch f - outData f else 0
      let sbase := (s.xr t (wRb w)).toNat
      base % (if f = 6 ∨ f = 7 then 32 else 64) = 0 → (isMx f = true → sbase % 4 = 0) → k ≠ 0 → row + per * k ≤ 4096 →
      (d.wide = true → row % 2 = 0) → (rm = .sr → run.seed ≠ none) →
      ∀ outs scs b c, State.ownRanges t .store ((List.range k).map (fun i => (base + i * pitch, outData f + pad))) [] z = (.ok outs, b) →
        State.ownRanges t .store (if isMx f then (List.range k).map (fun i => (sbase + i * pitch, 4)) else []) [] b = (.ok scs, c) →
        let g0 := (c.mxu t).grain
        let draws (i : Nat) : List Nat := match rm, run.seed with
          | .sr, some seed => (List.range 128).map (fun j => run.draw seed 1 (g0 + 128 * i + j))
          | _, _ => List.replicate 128 0
        let a := outs.zipIdx.foldl (fun (s : State) o => s.drainRow t d (row + per * o.2) (draws o.2) pad o.1 (scs.getD o.2 [])) c
        let a := if rm = .sr then a.updMxu t (fun m => { m with grain := (g0 + 128 * k) % 2 ^ 33 }) else a
        a.running t = true → exec (.mxDrain t w ext u) s = .next (z.unitDone a t w ext .mxDrain))

/-- Tier 2. The expert instructions where their table or descriptor is mapped, well formed and within the Local Store: VX_DEAL appends each
active token to its expert's list and writes the table back (R361), VX_COMBINE_PUT stores each active row in its slot (R363),
VX_COMBINE_SUM sums the positions in order and advances `NEXT` (R364). -/
def Obligations.ExpertData : Prop :=
  ∀ (s : State) (t : TileId) (w : BitVec 32) (u : Upset),
    let v := s.lvu t
    let va := s.xr t (wRd w)
    let is := v.actives w
    va.toNat % 64 = 0 →
    (Ready s t (wordRow w) .vxDeal u → v.vl ≠ 0 → v.sew = 2 →
      let z := s.reaching t .vxDeal
      ∀ hd h a es tb b y, z.ownRange t .store va.toNat 64 = (.ok hd, y) → y.ownRead t hd = (h, a) → at' h 0 2 ≤ 256 →
        ∀ y', a.ownRange t .store va.toNat (64 + 16 * at' h 0 2) = (.ok es, y') → y'.ownRead t es = (tb, b) →
        let k := fld w 0 3 + 1
        let pos := at' h 4 3
        let xs := (List.range (at' h 0 2)).map (expertOf tb)
        v.vl % k = 0 → pos + v.vl / k ≤ 2 ^ 24 →
        (∀ x ∈ xs, inLs x.list (16 * x.cap) = true) → (∀ j ∈ is, ∃ x, xs[v.el (wRa w) j]? = some x ∧ x.list % 16 = 0) →
        let r := is.foldl (fun (r : List Expert × State) j =>
          r.2.dealItem t r.1 (v.el (wRa w) j) (tokenTag (b.tile t).tsu.pass.toNat (pos + j / k) (j % k)) (v.el (wRb w) j)) (xs, b)
        let c := r.2.ownWrite t es (h.take 4 ++ leBytes 3 (pos + v.vl / k) ++ h.drop 7 ++
          (r.1.mapIdx (fun e x => x.bytes (slice tb (64 + 16 * e) 16))).flatten)
        c.running t = true → c.net.waits = false → exec (.vxDeal t w u) s = .next (s.acted (z.unitDone c t w 0 .vxDeal))) ∧
    (Ready s t (wordRow w) .vxCombinePut u → v.vl ≠ 0 → v.sew = 3 →
      let z := s.reaching t .vxCombinePut
      ∀ es d y a rows b, z.ownRange t .load va.toNat 64 = (.ok es, y) → y.ownRead t es = (d, a) →
        let c := combineOf (bytesBv 512 d)
        let tags := is.map (fun j => c.tag (a.tile t).tsu.pass.toNat (v.el (wRa w) j))
        let e := tags.foldl (fun (s : State) x => match x with
          | some (p, _) => s.lsCheckAll t (c.pres + p) 1
          | none => s) a
        (e.tile t).stopped = false → c.aligned = true → c.inside = true → tags.eraseDups.length = tags.length →
        (∀ x ∈ tags, ∃ p r, x = some (p, r) ∧ e.lsByte t (c.pres + p) / 2 ^ r % 2 = 0) →
        State.readRows t c.row (is.map (fun j => ((e.xr t (wRb w)).toNat + j * c.spitch) % 2 ^ 64)) [] e = (.ok rows, b) →
        let f := (tags.zip rows).foldl (fun (s : State) x => match x.1 with
          | some (p, r) => s.putRow t c p r x.2
          | none => s) b
        f.running t = true → f.net.waits = false → exec (.vxCombinePut t w u) s = .next (s.acted (z.unitDone f t w 0 .vxCombinePut))) ∧
    (Ready s t (wordRow w) .vxCombineSum u →
      let z := s.reaching t .vxCombineSum
      ∀ es d y a, z.ownRange t .store va.toNat 64 = (.ok es, y) → y.ownRead t es = (d, a) →
        let c := combineOf (bytesBv 512 d)
        let n := (a.xr t (wRb w)).toNat
        c.next + n ≤ c.cap → c.aligned = true → c.inside = true →
        let b := (List.range n).foldl (fun (s : State) i => s.sumPos t c (c.next + i)) a
        let f := (b.ownRead t es).2.ownWrite t es (bvBytes (setFld (bytesBv 512 (b.ownRead t es).1) 163 24 (c.next + n)))
        f.running t = true → f.net.waits = false → exec (.vxCombineSum t w u) s = .next (s.acted (z.unitDone f t w 0 .vxCombineSum)))

/-! Requests and queues. -/

/-- Tier 2. SQ_TAIL_WRITE and CQ_HEAD_WRITE move the index of an existing queue to a value below its size and change nothing else (R331,
R333); any other value, and a queue that does not exist, is logged and moves no index. While a BAR2 write of the VF is not yet performed,
the doorbell waits behind it (R526). Completes: SQ_TAIL_WRITE, CQ_HEAD_WRITE. -/
def Obligations.Doorbells : Prop :=
  ∀ (s : State) (n : PartId) (q : Fin 16) (v : Word),
    let p := s.part n
    let i := fld v 0 16
    (s.windowBusy n = false →
      (∀ sq, SMap.get none p.sqs q = some sq → i < sq.size → ∃ s', exec (.sqTailWrite n q v) s = .next s' ∧ s' = { s with parts := s'.parts } ∧
        (∀ k, k ≠ n.val → s'.part k = s.part k) ∧ s'.part n = { p with sqs := (s'.part n).sqs } ∧
        ∀ j, SMap.get none (s'.part n).sqs j = if j = q.val then some { sq with tail := i } else SMap.get none p.sqs j) ∧
      (∀ cq, SMap.get none p.cqs q = some cq → i < cq.size → ∃ s', exec (.cqHeadWrite n q v) s = .next s' ∧ s' = { s with parts := s'.parts } ∧
        (∀ k, k ≠ n.val → s'.part k = s.part k) ∧ s'.part n = { p with cqs := (s'.part n).cqs } ∧
        ∀ j, SMap.get none (s'.part n).cqs j = if j = q.val then some { cq with head := i } else SMap.get none p.cqs j) ∧
      ((∀ sq, SMap.get none p.sqs q = some sq → sq.size ≤ i) → exec (.sqTailWrite n q v) s = .next (s.badDoorbell n)) ∧
      ((∀ cq, SMap.get none p.cqs q = some cq → cq.size ≤ i) → exec (.cqHeadWrite n q v) s = .next (s.badDoorbell n))) ∧
    (s.windowBusy n = true → ∀ e ∈ [(Instr.sqTailWrite n q v, 0x10000 + 8 * q.val), (.cqHeadWrite n q v, 0x10080 + 8 * q.val)],
      exec e.1 s = .next { s with hostl := { s.hostl with heldBells := s.hostl.heldBells ++ [(n.val, e.2, v)] } }) ∧
    (s.badDoorbell n).parts = s.parts

/-- Tier 2. SUBMIT_PASS, SUBMIT_MOVE, SUBMIT_STREAM and SUBMIT_STREAM_CLOSE: the stage takes the next entry of the queue whose turn it is.
A Lent partition's entry is acted on at once in the order of R340, whose first steps answer a fault-flagged device, a fault-flagged partition
and an ill-formed entry; a Strict partition's entry is taken at a window's start, at most one in each, and held for the next window (R341,
R342). What the stage reads of another device's memory has been answered (R312). Completes: SUBMIT_PASS,
SUBMIT_MOVE, SUBMIT_STREAM, SUBMIT_STREAM_CLOSE. -/
def Obligations.Submissions : Prop :=
  ∀ (s : State) (n : PartId) (q : Fin 16) (given e : BitVec 1024) (ecc : LedgerEcc) (a : State),
    let op := ent e 0 8
    let p := s.acting 136
    (∀ r ∈ [(Instr.submitPass n q given ecc, p.ledgerEcc ecc, op ≠ 2 ∧ op ≠ 3 ∧ op ≠ 4), (.submitMove n q given, p, op = 2),
        (.submitStream n q given, p, op = 3), (.submitStreamClose n q given, p, op = 4)],
      r.2.2 → r.2.1.takeEntry n given = some (q.val, e, a) →
      (r.2.1.isStrict n = false → (a.admitEntry n q e).net.waits = false → exec r.1 s = .next (s.acted (a.admitEntry n q e))) ∧
      (r.2.1.isStrict n = true → (r.2.1.part n).deferred = none → r.2.1.lastWindow = some r.2.1.now → a.net.waits = false →
        ∃ s', exec r.1 s = .next s' ∧ (s'.part n).deferred = some (q.val, e)) ∧
      (r.2.1.isStrict n = true → (r.2.1.part n).deferred.isSome = true ∨ r.2.1.lastWindow ≠ some r.2.1.now → r.2.1.net.waits = false →
        exec r.1 s = .next (s.acted r.2.1))) ∧
    (a.boot.fault = true → a.admitEntry n q e = a.answerReq n q (BitVec.ofNat 16 (ent e 16 16)) .deviceFaulted 0) ∧
    (a.boot.fault = false → (a.part n).fault = true → a.admitEntry n q e = a.answerReq n q (BitVec.ofNat 16 (ent e 16 16)) .partitionFaulted 0) ∧
    (∀ st, a.boot.fault = false → (a.part n).fault = false → entryForm e = some st →
      a.admitEntry n q e = a.answerReq n q (BitVec.ofNat 16 (ent e 16 16)) st 0) ∧
    (s.takeEntry n given = some (q.val, e, a) → ∃ sq : Sq, SMap.get none (s.part n).sqs q = some sq ∧ sq.head ≠ sq.tail ∧
      sq.stopped = false ∧ ∀ x, SMap.get none (a.part n).sqs q = some x → x.head = if sq.head + 1 = sq.size then 0 else sq.head + 1)

/-- Tier 2. ADMISSION_WINDOW starts at a boundary of 1 µs of CI13, no two at one boundary. Where n is the device's one Strict partition, its
held entry is decided and its ready completions are posted, then at most one entry is taken and held for the next window (R342); without a
Strict partition only the time passes. While the stage's access to another device has no response, no partition and no ledger entry changes
(R312). Completes: ADMISSION_WINDOW. -/
def Obligations.AdmissionWindow : Prop :=
  ∀ (s : State) (es : List (PartId × BitVec 1024)) (n : Nat),
    let given := ((es.find? (fun x => x.1.val == n)).map (·.2)).getD 0
    let start := (s.acting 136).atLeast (boundary (match s.lastWindow with
      | some w => max s.now (w + 1)
      | none => s.now))
    let a : State := { start with lastWindow := some start.now }
    let b := a.windowApply n
    (∃ s', exec (.admissionWindow es) s = .next s' ∧ (boundary s.now ≤ s'.now ∨ (s'.parts = s.parts ∧ s'.ledger = s.ledger))) ∧
    (∀ w, s.lastWindow = some w → w < a.now) ∧
    (parts64.filter s.isStrict = [] → exec (.admissionWindow es) s = .next (s.acted a)) ∧
    (parts64.filter s.isStrict = [n] → parts64.filter b.isStrict = [n] →
      (∀ q e c, b.takeEntry n given = some (q, e, c) → c.net.waits = false → ∃ s', exec (.admissionWindow es) s = .next s' ∧
        (s'.part n).deferred = some (q, e)) ∧
      (b.takeEntry n given = none → b.net.waits = false → exec (.admissionWindow es) s = .next (s.acted b)))

/-- Tier 2. DISPATCH hands the front of an idle tile's hand to the tile, MOVE_DISPATCH serves the partition after the one that mover served last;
a request past its deadline ends DECLINED (R348), and one whose moves succeed runs, a stream's later pass after its moves of phase 0 (R353).
PASS_START gives the tile the state of R84 and R142: a fresh vector unit, a matrix unit with no valid row, an empty queue, the clean caches
of its program, the pass's registers. Completes: DISPATCH, MOVE_DISPATCH, PASS_START. -/
def Obligations.Dispatching : Prop :=
  ∀ (s : State) (t : TileId) (m : Fin 8),
    let x := s.tile t
    (∀ h rest, x.hand = h :: rest → x.stopped = false → x.run = none → x.taken = none → x.chainHold = none → x.health.running = none →
      x.health.pending = false → x.health.unavailable = false →
      let a := (s.acting (64 + t.val)).setTile t { x with hand := rest, taken := some h }
      let e := s.led h.ix
      (e.state = .dealt → e.deadline ≠ 0 → e.deadline < s.now → (a.endRequest h.ix .declined).net.waits = false →
        exec (.dispatch t) s = .next (s.acted (a.endRequest h.ix .declined))) ∧
      (∀ b c, e.state = .dealt → ¬ (e.deadline ≠ 0 ∧ e.deadline < s.now) → a.retranslate h.ix = (none, b) →
        (b.updLed h.ix (fun e => { e with state := .running, root := some (b.part e.part.val).rootId })).runPhase h.ix 0 = (true, c) →
        c.net.waits = false → exec (.dispatch t) s = .next (s.acted (c.updLed h.ix (fun e => { e with phase0 := true })))) ∧
      (∀ c, e.state ≠ .dealt → e.phase0 = false → a.runPhase h.ix 0 = (true, c) → c.net.waits = false →
        exec (.dispatch t) s = .next (s.acted (c.updLed h.ix (fun e => { e with phase0 := true })))) ∧
      (e.state ≠ .dealt → e.phase0 = true → exec (.dispatch t) s = .next (s.acted a))) ∧
    (let n? := ((List.range 64).map (fun i => (SMap.get 63 s.lastMover m.val + 1 + i) % 64)).find? (fun n =>
        !(s.part n).moveq.isEmpty && !(s.part n).fault && !s.boot.fault)
      let p := s.acting (128 + m.val)
      (n? = none → exec (.moveDispatch m) s = .next s) ∧
      (∀ n i rest, n? = some n → (s.part n).moveq = i :: rest →
        let f := ({ p.updPart n (fun y => { y with moveq := rest }) with lastMover := SMap.put 63 s.lastMover m.val n } : State).firstDispatch i 2
        f.net.waits = false → exec (.moveDispatch m) s = .next (s.acted f))) ∧
    (∀ h n, x.taken = some h → s.tileOwner t = some n → x.stopped = false → x.run = none → x.health.running = none → x.chainHold = none →
      (s.led h.ix).state = .running → (s.led h.ix).phase0 = true →
      let e := s.led h.ix
      ∃ s', exec (.passStart t) s = .next s' ∧ OnlyTile (s.dropRemote t) s' t ∧ (s'.tile t).taken = none ∧ (s'.tile t).lvu = {} ∧
        (s'.tile t).queue = [] ∧ (s'.tile t).mxu = x.mxu.fresh ∧
        (s'.tile t).hand = x.hand ∧ (s'.tile t).tsu = passTsu h.ix e (s.region e.progSlot.toNat) (s.region e.rgn.toNat) (s.defaultRm n) h.rank ∧
        ∃ r, (s'.tile t).run = some r ∧ r.ix = h.ix ∧ r.rank = h.rank ∧ r.start = s.now)

/-- Tier 2. COMPLETION_READY: a request whose ranks have all ended ends with the lowest trapped rank's status, or OK once the moves of phase 1
and the numeric record are written, and NOT_PERMITTED where a target refuses one (R250, R352). An ended request waits in POSTING with its
status and time; no OK where the partition or the device is fault-flagged by then (R16). STREAM_NEXT_PASS deals the next pass of a stream,
whose moves reach the Local Store of its own rank 0 (R246), or ends a closing one (R353, R354). Completes: COMPLETION_READY,
STREAM_NEXT_PASS. -/
def Obligations.RequestEnds : Prop :=
  ∀ (s : State) (ix : LedgerIx),
    let i := ix.toNat
    let e := s.led i
    let n := e.part.val
    let p := s.acting (64 + e.tile)
    (e.state = .running → e.ready = none → e.more = false → s.active i = false → (e.isMove = true ∨ e.ends ≠ []) →
      (∀ r, e.trapped = some r → (p.endRequest i r.status).net.waits = false →
        exec (.completionReady ix) s = .next (s.acted (p.endRequest i r.status))) ∧
      (∀ a, e.trapped = none → p.runPhase i 1 = (true, a) →
        ∀ b, (if e.nrec then a.writeExtents n e.nrecExt (numericRecord e.ends) else (true, a)) = (true, b) →
        ((e.stream = false ∨ e.closing = true ∨ (∀ r, e.rank0 = some r → r.more = false) ∨ b.endStatus n .ok ≠ .ok) →
          (b.endRequest i .ok).net.waits = false → exec (.completionReady ix) s = .next (s.acted (b.endRequest i .ok))) ∧
        (∀ r, e.stream = true → e.closing = false → e.rank0 = some r → r.more = true → b.endStatus n .ok = .ok → b.net.waits = false →
          ∃ s', exec (.completionReady ix) s = .next s' ∧ s'.led i = { e with more := true, state := .posting, ready := some (.ok, b.now) })) ∧
      (∀ a, e.trapped = none → p.runPhase i 1 = (false, a) → (a.endRequest i .notPermitted).net.waits = false →
        exec (.completionReady ix) s = .next (s.acted (a.endRequest i .notPermitted)))) ∧
    (e.state = .running → e.more = true → e.ready = none →
      (e.closing = true → ∃ s', exec (.streamNextPass ix) s = .next s' ∧ s'.led i = { e with
        state := .posting, ready := some (s.endStatus n .ok, s.now), noout := true, more := false }) ∧
      (e.closing = false →
        let tiles := s.choose (e.passes + 1) ((s.targets n e.tileset).filter (fun t => !(s.tile t).health.unavailable))
        ∃ s', exec (.streamNextPass ix) s = .next s' ∧ s' = { s with ledger := s'.ledger, tiles := s'.tiles } ∧
          s'.led i = { e with
            moves := e.moves.map (s.relocal (tiles.headD 0)), seq := e.seq + 1, more := false, ends := [], ranks := tiles, tile := tiles.headD 0, phase0 := false, done := 0 })) ∧
    (∀ st, e.state ≠ .free → (s.endRequest i st).led i = { e with state := .posting, ready := some (s.endStatus n st, s.now), more := false }) ∧
    (s.boot.fault = true ∨ (s.part n).fault = true → s.endStatus n .ok ≠ .ok)

/-- Tier 2. COMPLETION_POST: the completion entry is written at the CQ's tail, which advances and whose phase inverts at the wrap (R333);
the ledger entry is freed, or its stream goes on; with a full CQ nothing is posted. An OK completion waits for room in the health journals of
its tiles (R30), which is the model's choice where they are full (log entry 120). A Strict partition's posts at the first window after
it is ready (R342). QUEUE_DMA_FAILURE stops the failed queue of host memory and sets QFAIL (R532). Completes: COMPLETION_POST,
QUEUE_DMA_FAILURE. -/
def Obligations.CompletionsPost : Prop :=
  ∀ (s : State) (ix : LedgerIx) (st : Status) (time : Nat) (cq : Cq) (f : PartId) (q : Fin 16),
    let i := ix.toNat
    let e := s.led i
    let n := e.part.val
    let a := if s.isStrict n then s.atLeast (boundary time) else s
    (e.ready = some (st, time) → SMap.get none (s.part n).cqs e.cq = some cq → cq.stopped = false →
      (cq.room = true → (st ≠ .ok ∨ e.noout = true ∨ s.journalRoom e = true) → ∃ s', exec (.completionPost ix) s = .next s' ∧
        s'.led i = (if e.more = true ∧ st = .ok then { e with state := .running, ready := none, ends := [], lastSeq := e.seq.toNat } else {}) ∧
        s'.parts = (a.cqPut n e.cq (e.completion i st time)).parts ∧ s'.mem = (a.cqPut n e.cq (e.completion i st time)).mem ∧
        (cq.host = true → SMap.get none (s'.part n).cqs e.cq = some { cq with
          tail := if cq.tail + 1 = cq.size then 0 else cq.tail + 1, phase := cq.phase != (cq.tail + 1 == cq.size) })) ∧
      (cq.room = false ∨ (st = .ok ∧ e.noout = false ∧ s.journalRoom e = false) → exec (.completionPost ix) s = .next a)) ∧
    (∀ sq, SMap.get none (s.part f).sqs q = some sq → sq.host = true → ∃ s', exec (.queueDmaFailure f false q) s = .next s' ∧
      SMap.get none (s'.part f).sqs q = some { sq with stopped := true } ∧ (s'.part f).partStat.getLsbD 16 = true) ∧
    (∀ cq, SMap.get none (s.part f).cqs q = some cq → cq.host = true → ∃ s', exec (.queueDmaFailure f true q) s = .next s' ∧
      SMap.get none (s'.part f).cqs q = some { cq with stopped := true } ∧ (s'.part f).partStat.getLsbD 16 = true)

/-! Mailboxes and Velna commands. -/

/-- Tier 2. MBX_BELL_REQ and MBX_MESSAGE_TAKE take a well-formed request of a caller that may make it: REQ clears and the command is held
(R371, R372, R375). A bell interrupts its control pair, whose handler takes 20 steps to enter and 12 to return; of two bells that wait, the
lower mailbox's is taken first, 5 steps apart (R367). A bell that is set already changes nothing; a message waits while 8 commands are held
(R372); a Strict mailbox's is taken 2 µs after its bell (R381). A comparator's mismatch in the handler is a fault of the pair (R502, R552).
Completes: MBX_BELL_REQ, MBX_MESSAGE_TAKE. -/
def Obligations.MessagesTaken : Prop :=
  ∀ (s : State) (m : MbxId) (c : Fin 4),
    let b := s.box m
    let h := SMap.getMany 0 b.req 0 32
    let quiet := ∀ p, (s.irq p).pending = [] ∧ (s.irq p).handler = none
    (∀ e ∈ [(Instr.mbxBellReq [m], false), (.mbxMessageTake m none, true)], (e.2 = false → quiet) → b.bellReq = e.2 →
      s.strictBox m = false → b.ready = true → b.held.length < 8 → b.seg = none →
      headerOk h = true → (∀ x ∈ b.held, x.tag ≠ hTag h) → hSeg h = 0 → hFlags h % 2 = 0 → hLength h ≤ 4064 →
      ∀ ok, lengthOk (hOpcode h) = some ok → ok (hLength h) = true → s.callerOk m (hOpcode h) (hPart h) = true →
      ∃ s', exec e.1 s = .next s' ∧ s' = { s with mbx := s'.mbx, boot := { s.boot with irqs := s'.boot.irqs } } ∧
        (e.2 = false → (s'.irq (s.servingPair m)).steps = (s.irq (s.servingPair m)).steps + 32) ∧
        (s'.box m).bellReq = false ∧ (s'.box m).rsps = b.rsps ∧
        ∃ c, (s'.box m).held = b.held ++ [c] ∧ c.tag = hTag h ∧ c.opcode = hOpcode h ∧ c.part = hPart h ∧ c.served = false ∧
          c.payload = SMap.getMany 0 b.req 32 (hLength h)) ∧
    (quiet → b.bellReq = true → exec (.mbxBellReq [m]) s = .next s) ∧
    (quiet → b.bellReq = false → 8 ≤ b.held.length → ∃ s', exec (.mbxBellReq [m]) s = .next s' ∧
      s'.box m = { b with bellReq := true, bellTime := s.now }) ∧
    (s.strictBox m = false → b.bellReq = false ∨ 8 ≤ b.held.length → exec (.mbxMessageTake m none) s = .next s) ∧
    (quiet → s.strictBox m = true → b.ready = true → b.bellReq = false → b.takeAt = none → b.held.length < 8 →
      ∃ s', exec (.mbxBellReq [m]) s = .next s' ∧ s'.box m = { b with bellReq := true, bellTime := s.now, takeAt := some (s.now + 2000) }) ∧
    (∀ t, s.strictBox m = true → b.takeAt = some t → exec (.mbxMessageTake m none) s = .next ((s.atLeast t).takeMessage m)) ∧
    exec (.mbxMessageTake m (some c)) s = .next (s.pairMismatch c.val) ∧
    (∀ i j : Fin 64, i < j → quiet →
      let x : MbxId := Fin.ofNat 65 i.val
      let y : MbxId := Fin.ofNat 65 j.val
      let p := s.servingPair x
      let n := (s.irq p).steps
      s.strictBox x = false → s.strictBox y = false → (s.box x).bellReq = false → (s.box y).bellReq = false →
      (s.box x).ready = true → (s.box y).ready = true →
      let r := (((s.setReq y).setReq x).setIrq p { pending := [j.val], handler := some i.val, steps := n + 20 }).takeMessage x
      let r := (r.setIrq p { pending := [], handler := some j.val, steps := n + 25 }).takeMessage y
      exec (.mbxBellReq [y, x]) s = .next (r.setIrq p { pending := [], handler := none, steps := n + 37 }))

/-- Tier 2. MBX_BELL_RSP_DONE releases the window and the next answer loads (R373); where no response is loaded it changes nothing, which is
the model's choice (log entry 138). MBX_EVT_HEAD_WRITE moves the event ring's head (R395); SEGMENT_GAP_TIMEOUT drops the half-sent command
(R376); STRICT_MAILBOX_POST posts what is due at a boundary of 1 µs (R381). Completes: MBX_BELL_RSP_DONE,
MBX_EVT_HEAD_WRITE, SEGMENT_GAP_TIMEOUT, STRICT_MAILBOX_POST. -/
def Obligations.MailboxService : Prop :=
  ∀ (s : State) (m : MbxId) (v : BitVec 8),
    let b := s.box m
    (b.rspValid = true → ∃ s', exec (.mbxBellRspDone m) s = .next s' ∧ (s'.box m).rspDone = false ∧
      (b.rsps = [] → (s'.box m).rspValid = false) ∧
      (∀ r rest, b.rsps = r :: rest → s.strictBox m = false → b.ready = true →
        (s'.box m).rspValid = true ∧ (s'.box m).rsp = r.bytes ∧ (s'.box m).rsps = rest)) ∧
    (b.rspValid = false → exec (.mbxBellRspDone m) s = .next s) ∧
    (∃ s', exec (.mbxEvtHeadWrite m v) s = .next s' ∧ (s'.box m).evtHead = v ∧ (s'.box m).req = b.req) ∧
    (∀ g, b.seg = some g → ∃ s', exec (.segmentGapTimeout m) s = .next s' ∧ (s'.box m).seg = none ∧ s'.now = max s.now (g.deadline + 1)) ∧
    (b.seg = none → exec (.segmentGapTimeout m) s = .next s) ∧
    (s.strictBox m = true →
      (∀ r rest, b.rspValid = false → b.rsps = r :: rest → r.due ≤ boundary s.now ∨ b.events = [] ∨ 16 ≤ (b.evtTail - b.evtHead).toNat →
        ∃ s', exec (.strictMailboxPost m) s = .next s' ∧
        s'.now = max s.now (max r.due (boundary s.now)) ∧ (s'.box m).rspValid = true ∧ (s'.box m).rsp = r.bytes ∧ (s'.box m).rsps = rest) ∧
      ((b.rspValid = true ∨ b.rsps = [] ∨ (∃ r rest, b.rsps = r :: rest ∧ boundary s.now < r.due ∧ b.events ≠ [] ∧ (b.evtTail - b.evtHead).toNat < 16)) →
        ∃ s', exec (.strictMailboxPost m) s = .next s' ∧ boundary s.now ≤ s'.now ∧
        (s'.box m).rsp = b.rsp ∧ (s'.box m).rsps = b.rsps)) ∧
    (s.strictBox m = false → exec (.strictMailboxPost m) s = .next s)

/-- Tier 2. The answers that any Velna command may get before its own effect, for every command of the catalogue: a payload check that fails
gives its status (R565), a fault flag or a floor that forbids it gives its status (R385), and nothing else happens. An answer reaches the
window of a mailbox that is not Strict at once and ends the command (R372, R373). -/
def Obligations.CommandRefused : Prop :=
  ∀ (s : State) (m : MbxId) (tag : BitVec 16) (img : Option (List Byte)), ∀ e ∈ velnaRows m tag img,
    (∀ h, (s.box m).held.find? (fun x => x.tag == tag && x.opcode == e.2.1 && !x.served) = some h →
      (∀ st, e.2.2 h.payload = some st → exec e.1 s = .next (s.answer m h st [])) ∧
      (∀ st, e.2.2 h.payload = none → s.gate m h = some st → exec e.1 s = .next (s.answer m h st []))) ∧
    (∀ h st p, s.strictBox m = false → (s.box m).ready = true → (s.box m).rspValid = false → (s.box m).rsps = [] →
      let a := s.answer m h st p
      (a.box m).rspValid = true ∧ (a.box m).rsp = rspBytes h.hdr h.tag st (if st = .ok then p else []) ∧
      (∀ x ∈ (a.box m).held, x.tag ≠ h.tag) ∧ a.mem = s.mem ∧ a.parts = s.parts ∧ a.tiles = s.tiles ∧ a.ledger = s.ledger)

/-- Tier 2. The queries DEV_INFO, DEV_STATUS, PACE_REPORT, CONFIG_READ, LEDGER_QUERY, ERROR_LOG_READ, REGION_STATUS and AUTHORITY_LIST
answer OK with what they report; PACE_REPORT also clears the reader's own minima (R39, R386, R391, R261). Completes: DEV_INFO,
DEV_STATUS, PACE_REPORT, CONFIG_READ, LEDGER_QUERY, ERROR_LOG_READ, REGION_STATUS, AUTHORITY_LIST. -/
def Obligations.Queries : Prop :=
  ∀ (s : State) (m : MbxId) (tag : BitVec 16) (h : Held),
    let n := targetOf m h
    let p := h.payload
    (Takes s m tag 0x0101 noChk h → exec (.devInfo m tag) s = .next (s.answer m h .ok (s.devInfo m))) ∧
    (Takes s m tag 0x0102 noChk h → exec (.devStatus m tag) s = .next (s.answer m h .ok (s.devStatus m))) ∧
    (Takes s m tag 0x0103 noChk h → ∃ (a : State) (body : List Byte), exec (.paceReport m tag) s = .next (a.answer m h .ok body) ∧
      a = { s with plant := a.plant } ∧ ∀ k, k < 76 → s.paceVisible m k = true → SMap.get none a.plant.minByReader (minKey m.val k) = none) ∧
    (∀ bs a, Takes s m tag 0x0203 configReadChk h → s.configValue m h = (.ok bs, a) →
      exec (.configRead m tag) s = .next (a.answer m h .ok (leBytes 2 bs.length ++ zeros 6 ++ bs))) ∧
    (∀ st a, Takes s m tag 0x0203 configReadChk h → s.configValue m h = (.error st, a) → exec (.configRead m tag) s = .next (a.answer m h st [])) ∧
    (Takes s m tag 0x0504 ledgerQueryChk h →
      let all := (s.ledgerOf n).filter (fun i =>
        decide (at' p 4 4 ≤ i) && (at' p 0 1 == 0 || (s.led i).sq == at' p 1 1 && (s.led i).cid.toNat == at' p 2 2))
      let page := all.take (at' p 8 2)
      let r := s.ledgerBytes page
      exec (.ledgerQuery m tag) s = .next (r.2.answer m h .ok
        (leBytes 2 page.length ++ zeros 2 ++ leBytes 4 ((all.drop (at' p 8 2)).headD 0xFFFFFFFF) ++ zeros 8 ++ r.1))) ∧
    (Takes s m tag 0x0801 errorLogReadChk h →
      (at' p 0 1 = 0 →
        let rs := (s.recordsOf m).filter (fun r => decide (at' p 8 8 ≤ r.seq))
        let next := match rs.drop (at' p 16 2) with
          | r :: _ => r.seq
          | [] => 2 ^ 64 - 1
        exec (.errorLogRead m tag) s = .next (s.answer m h .ok
          (logPage (rs.take (at' p 16 2)).length next ((rs.take (at' p 16 2)).map (s.recordFor m)).flatten))) ∧
      (∀ x, at' p 0 1 ≠ 0 → n < 64 → (m.val = 64 → (s.part n).conf = false) →
        (s.part n).notices.find? (fun x => x.num == at' p 4 4 && x.posted) = some x →
        let is := (x.items.foldr insertItem []).drop (at' p 8 8)
        exec (.errorLogRead m tag) s = .next (s.answer m h .ok (logPage (is.take (at' p 16 2)).length
          (if (is.drop (at' p 16 2)).isEmpty then 2 ^ 64 - 1 else at' p 8 8 + at' p 16 2)
          ((is.take (at' p 16 2)).map JournalItem.bytes).flatten))) ∧
      (at' p 0 1 ≠ 0 → m.val = 64 → (s.part n).conf = true → exec (.errorLogRead m tag) s = .next (s.answer m h .notPermitted []))) ∧
    (Takes s m tag 0x0405 regionStatusChk h →
      let g := s.region (at' p 0 2)
      (s.holdsSlot n (at' p 0 2) = true → (m.val = 64 → (s.part n).conf = false) →
        exec (.regionStatus m tag) s = .next (s.answer m h .ok (leBytes 1 g.state.code ++ leBytes 1 (b2n (!g.weights)) ++ zeros 2 ++
          bvBytes g.version ++ leBytes 8 g.size ++ leBytes 4 g.boundCur ++ leBytes 4 g.boundOld ++
          leBytes 1 (b2n g.running.isSome + 2 * b2n g.pending.isSome) ++ zeros 7 ++ padTo 48 g.digest))) ∧
      (s.holdsSlot n (at' p 0 2) = false → m.val ≠ 64 → exec (.regionStatus m tag) s = .next (s.answer m h .notPermitted []))) ∧
    (Takes s m tag 0x0305 noChk h → exec (.authorityList m tag) s = .next (s.answer m h .ok
      (padTo 32 (s.box m).nonce ++ leBytes 1 (creds s.cfg.prot.auth).length ++ zeros 7 ++ authBytes s.cfg.prot.auth)))

/-- Tier 2. QUEUE_CREATE, QUEUE_DESTROY, ANTE_SET, CHAIN_DEFINE and CHAIN_RELEASE change the queue, the ante or the chain they name and
answer OK; a queue in device memory must be mapped, for reading an SQ and for writing a CQ; a queue or a chain that exists already is not
replaced, and one that does not exist is not released: NOT_PERMITTED; a CQ that a request or an answer is bound to is NOT_QUIET (R316, R329,
R343, R390). Completes: QUEUE_CREATE, QUEUE_DESTROY, ANTE_SET, CHAIN_DEFINE, CHAIN_RELEASE. -/
def Obligations.QueuesAndChains : Prop :=
  ∀ (s : State) (m : MbxId) (tag : BitVec 16) (h : Held),
    let n := targetOf m h
    let p := h.payload
    let x := s.part n
    let q := at' p 1 1
    (Takes s m tag 0x0501 queueCreateChk h → s.valid n = true →
      let isCq := at' p 0 1 = 1
      let fresh := if isCq then SMap.get none x.cqs q = none else SMap.get none x.sqs q = none ∧ SMap.get none x.cqs (at' p 16 1) ≠ none
      (∀ b : State, (if at' p 2 1 = 0 then b = s else
          ∃ es, s.range x.root (if isCq then .store else .load) (at' p 8 8) (at' p 4 4 * if isCq then 32 else 128) = (some es, b)) → fresh →
        ∃ a : State, exec (.queueCreate m tag) s = .next (a.answer m h .ok []) ∧
        (isCq → SMap.get none (a.part n).cqs q = some { host := at' p 2 1 == 0, ien := at' p 3 1 == 1, base := BitVec.ofNat 64 (at' p 8 8), size := at' p 4 4 }) ∧
        (¬ isCq → SMap.get none (a.part n).sqs q = some { host := at' p 2 1 == 0, base := BitVec.ofNat 64 (at' p 8 8), size := at' p 4 4, cq := at' p 16 1 })) ∧
      (∀ b : State, at' p 2 1 ≠ 0 →
        s.range x.root (if isCq then .store else .load) (at' p 8 8) (at' p 4 4 * if isCq then 32 else 128) = (none, b) → fresh →
        exec (.queueCreate m tag) s = .next (b.answer m h .unmapped [])) ∧
      (¬ fresh → exec (.queueCreate m tag) s = .next (s.answer m h .notPermitted []))) ∧
    (Takes s m tag 0x0502 queueDestroyChk h → s.valid n = true →
      (at' p 0 1 = 0 → SMap.get none x.sqs q ≠ none → ∃ a : State, exec (.queueDestroy m tag) s = .next (a.answer m h .ok []) ∧
        SMap.get none (a.part n).sqs q = none) ∧
      (at' p 0 1 ≠ 0 → SMap.get none x.cqs q ≠ none → (∀ e ∈ x.sqs, ∀ sq, e.2 = some sq → sq.cq ≠ q) →
        ((∀ i ∈ s.ledgerOf n, (s.led i).cq ≠ q) → (∀ a ∈ x.answers, a.cq ≠ q) →
          ∃ a : State, exec (.queueDestroy m tag) s = .next (a.answer m h .ok []) ∧ SMap.get none (a.part n).cqs q = none) ∧
        ((∃ i ∈ s.ledgerOf n, (s.led i).cq = q) ∨ (∃ a ∈ x.answers, a.cq = q) →
          exec (.queueDestroy m tag) s = .next (s.answer m h .notQuiet []))) ∧
      (at' p 0 1 = 0 ∧ SMap.get none x.sqs q = none ∨ at' p 0 1 ≠ 0 ∧ SMap.get none x.cqs q = none →
        exec (.queueDestroy m tag) s = .next (s.answer m h .notPermitted []))) ∧
    (Takes s m tag 0x0503 anteSetChk h → s.valid n = true →
      let b := s.updPart n (fun x => { x with ante := at' p 0 4 })
      (s.isStrict n = false ∨ ((parts64.filter b.isStrict).map (fun i => (b.part i).ante)).sum ≤ 1048576) →
      ∃ (a : State) (body : List Byte), exec (.anteSet m tag) s = .next (a.answer m h .ok body) ∧ a.part n = { x with ante := at' p 0 4 } ∧
        ∀ k, k ≠ n → a.part k = s.part k) ∧
    (Takes s m tag 0x0601 chainDefineChk h →
      let hd : Word := BitVec.ofNat 64 (at' p 0 8)
      let ms : List (BitVec 16) := (List.range (fld hd 16 12 + 1)).map (fun i => BitVec.ofNat 16 (at' p (16 + 2 * i) 2))
      (s.valid n = true → SMap.get none x.chains (fld hd 0 6) = none → (s.chainsOf n).length < x.entry.chainQuota.toNat →
        ms.eraseDups.length = ms.length →
        (∀ y ∈ ms, fld y 6 6 < s.ergSize ∧ (fld y 6 6 = s.deviceNum → (s.availOf n).contains (fld y 0 6) = true)) →
        ∃ a : State, exec (.chainDefine m tag) s = .next (a.answer m h .ok (bvBytes (chainDigest p))) ∧
          SMap.get none (a.part n).chains (fld hd 0 6) = some ⟨hd, ms, chainDigest p⟩) ∧
      (SMap.get none x.chains (fld hd 0 6) ≠ none → exec (.chainDefine m tag) s = .next (s.answer m h .notPermitted []))) ∧
    (Takes s m tag 0x0602 chainReleaseChk h → s.valid n = true →
      (SMap.get none x.chains (at' p 0 1) ≠ none → s.chainActive n (at' p 0 1) = false →
        ∃ a : State, exec (.chainRelease m tag) s = .next (a.answer m h .ok []) ∧ SMap.get none (a.part n).chains (at' p 0 1) = none) ∧
      (SMap.get none x.chains (at' p 0 1) ≠ none → s.chainActive n (at' p 0 1) = true →
        exec (.chainRelease m tag) s = .next (s.answer m h .notQuiet [])) ∧
      (SMap.get none x.chains (at' p 0 1) = none → exec (.chainRelease m tag) s = .next (s.answer m h .notPermitted [])))

/-- Tier 2. RECALL_ACK marks a posted notice acknowledged; CHECK_SPLIT_ENABLE sets or clears check-split; POWER_ENVELOPE replaces the envelope
until the next mode change; each refuses with NOT_PERMITTED where its rule says so (R388, R390, R393, R504). Completes: RECALL_ACK,
CHECK_SPLIT_ENABLE, POWER_ENVELOPE. -/
def Obligations.OperatorSettings : Prop :=
  ∀ (s : State) (m : MbxId) (tag : BitVec 16) (h : Held),
    let n := targetOf m h
    let p := h.payload
    (Takes s m tag 0x0803 recallAckChk h →
      let k := at' p 0 4
      ((∃ x ∈ (s.part n).notices, x.num = k ∧ x.posted = true ∧ x.acked = false) →
        ∃ a : State, exec (.recallAck m tag) s = .next (a.answer m h .ok []) ∧ (∀ x ∈ (a.part n).notices, x.num = k → x.acked = true) ∧
          (a.part n).notices.map (·.items) = (s.part n).notices.map (·.items)) ∧
      ((∀ x ∈ (s.part n).notices, x.num = k → x.posted = false ∨ x.acked = true) →
        exec (.recallAck m tag) s = .next (s.answer m h .notPermitted []))) ∧
    (Takes s m tag 0x0901 checkSplitEnableChk h →
      (s.anyConf = true → exec (.checkSplitEnable m tag) s = .next (s.answer m h .notPermitted [])) ∧
      (s.anyConf = false → exec (.checkSplitEnable m tag) s = .next (State.answer { s with boot := { s.boot with
        checkSplit := if at' p 0 1 = 1 then s.boot.checkSplit ||| BitVec.ofNat 3 (at' p 1 1) else 0 } } m h .ok []))) ∧
    (Takes s m tag 0x0A01 powerEnvelopeChk h →
      let a := if at' p 0 2 = 0 then s else { s with cfg := { s.cfg with envelope := some (at' p 0 2) } }
      exec (.powerEnvelope m tag) s = .next (a.answer m h .ok (leBytes 2 a.envelopeW ++ leBytes 2 s.plant.watts.toNat ++ zeros 4)))

/-! Mappings, regions, protection, modes, secrets and restarts. -/

/-- Tier 2. MAP_UPDATE, REGION_CREATE, REGION_UPDATE and REGION_RETIRE where their conditions hold answer ACCEPTED and a new root comes into
force with the next epoch, or the update or retirement waits (R230–R236, R252, R256, R260); while a root drains MAP_UPDATE gives NOT_QUIET, a
page it may not map NOT_PERMITTED, a region buffer's page REGION_BUSY. REGION_UPDATE_START, REGION_UPDATE_COMPLETE and REGION_RETIRE_COMPLETE
carry them out (R257, R258, R260); ROOT_DRAINED and MAP_UPDATE_DRAIN_TIMEOUT end the wait (R236). Completes: MAP_UPDATE, REGION_CREATE,
REGION_UPDATE, REGION_RETIRE, REGION_UPDATE_START, REGION_UPDATE_COMPLETE, REGION_RETIRE_COMPLETE, ROOT_DRAINED, MAP_UPDATE_DRAIN_TIMEOUT. -/
def Obligations.MapsAndRegions : Prop :=
  ∀ (s : State) (m : MbxId) (tag : BitVec 16) (h : Held) (f : PartId) (slot : SlotId),
    let n := targetOf m h
    let p := s.part n
    let cs := changesOf h.payload
    let k := at' h.payload 0 2
    (Takes s m tag 0x0401 mapChk h → s.valid n = true →
      (p.old ≠ none → exec (.mapUpdate m tag) s = .next (s.answer m h .notQuiet [])) ∧
      (p.old = none → (∃ c ∈ cs, c.map = true ∧ s.physOk n c.pa c.len c.page = false) →
        exec (.mapUpdate m tag) s = .next (s.answer m h .notPermitted [])) ∧
      (p.old = none → (∀ c ∈ cs, c.map = true → s.physOk n c.pa c.len c.page = true) →
        (s.changed n cs = none → exec (.mapUpdate m tag) s = .next (s.answer m h .notPermitted [])) ∧
        (∀ r b, s.changed n cs = some (r, b) →
          (s.rgnTouched n cs = true → exec (.mapUpdate m tag) s = .next (s.answer m h .regionBusy [])) ∧
          (s.rgnTouched n cs = false → exec (.mapUpdate m tag) s = .next ((b.accept m h (bvBytes (p.epoch + 1))).newRoot n r
            (some ⟨m, h.tag, bvBytes (p.epoch + 1), none, h.bell + 1998000000⟩)))))) ∧
    (∀ r w, ((s.newRoot n r w).part n).root = r ∧ ((s.newRoot n r w).part n).epoch = p.epoch + 1 ∧
      ((s.newRoot n r w).part n).rootId = p.rootId + 1) ∧
    (Takes s m tag 0x0402 regionCreateChk h → s.valid n = true → p.old = none →
      let g := regionOf n h.payload
      (∀ c ∈ g.changes true, s.physOk n c.pa c.len c.page = true) → s.rgnTouched n (g.changes true) = false →
      (s.regionsOf n).length < p.entry.regionQuota.toNat → s.regionMeets n g = false → ∀ r b, s.changed n (g.changes true) = some (r, b) →
      let i := b.chooseSlot n
      exec (.regionCreate m tag) s = .next (((b.setRegion i g).accept m h (leBytes 2 i)).newRoot n r
        (some ⟨m, h.tag, leBytes 2 i ++ zeros 2 ++ bvBytes (p.epoch + 1), some i, h.bell + 1998000000⟩))) ∧
    (Takes s m tag 0x0403 regionUpdateChk h → s.holdsSlot n k = true → (s.region k).state ≠ .retiring → at' h.payload 16 8 = (s.region k).size →
      ∃ (s' : State) (u : RUpdate), exec (.regionUpdate m tag) s = .next s' ∧ (s'.region k).pending = some u ∧ u.tag = h.tag ∧ u.mbx = m ∧
        u.src = BitVec.ofNat 64 (at' h.payload 8 8) ∧ (s'.region k).version = (s.region k).version) ∧
    (Takes s m tag 0x0404 regionRetireChk h → s.holdsSlot n k = true → (s.region k).state ≠ .retiring →
      ∃ s', exec (.regionRetire m tag) s = .next s' ∧ (s'.region k).state = .retiring ∧ (s'.region k).pending = none ∧
        (s'.region k).retire = some (m, h.tag)) ∧
    (let g := s.region slot.toNat
     ∀ o, g.owner = some o →
      (∀ u es b, g.running = none → g.pending = some u → g.boundOld = 0 → g.state ≠ .retiring →
        s.range (s.part o.val).root .load u.src.toNat g.size = (some es, b) → exec (.regionUpdateStart slot) s = .next
          (b.updRegion slot.toNat (fun x => { x with
            pending := none, running := some { u with srcExt := es, rootId := (s.part o.val).rootId }, state := .updating }))) ∧
      (∀ u, g.running = some u → u.segs < g.segments → exec (.regionUpdateComplete slot) s = .next s) ∧
      (∀ u, g.running = some u → g.segments ≤ u.segs →
        (u.expect = none ∨ u.expect = some (sha384 u.data) →
          let c := s.updRegion slot.toNat (fun x => { x with
            oldVersion := g.version, oldDigest := g.digest, boundOld := g.boundCur, boundCur := 0, version := nextVersion g.version,
            buf := g.freeBuf, digest := sha384 u.data })
          exec (.regionUpdateComplete slot) s = .next (c.endUpdate slot.toNat .ok (bvBytes (nextVersion g.version) ++ zeros 4 ++ sha384 u.data))) ∧
        (∀ d, u.expect = some d → d ≠ sha384 u.data → exec (.regionUpdateComplete slot) s = .next (s.endUpdate slot.toNat .badSignature []))) ∧
      (∀ r b, g.state = .retiring → g.running = none → g.boundCur = 0 → g.boundOld = 0 → (s.part o.val).old = none →
        s.changed o.val (g.changes false) = some (r, b) →
        ∃ s', exec (.regionRetireComplete slot) s = .next s' ∧ s'.region slot.toNat = {} ∧ (s'.part o.val).root = r)) ∧
    (∀ id r, (s.part f).old = some (id, r) → s.rootInUse f id = false → ∃ s', exec (.rootDrained f) s = .next s' ∧ (s'.part f).old = none ∧
      (s'.part f).mapWait = none ∧ (s'.part f).root = (s.part f).root) ∧
    (∀ w, (s.part f).mapWait = some w → ∃ s', exec (.mapUpdateDrainTimeout f) s = .next s' ∧ (s'.part f).mapWait = none ∧
      (s'.part f).drainedEvent = true ∧ s'.now = max s.now w.deadline)

/-- Tier 2. The signed commands PROTECT_PROPOSE, PROTECT_APPROVE, PROTECT_COMMIT and PROTECT_WITHDRAW wait for a slot of the signature engine
(R382, R480); in it a signature that does not verify gives BAD_SIGNATURE and changes nothing else, and one that does gives a new nonce
(R383) and its effect: the proposal is added, gets its approver and its time to commit, waits for quiet, or is dropped (R417–R423).
PROPOSAL_EXPIRY drops a proposal that is not committing, and PROTECTED_RECORD_WRITTEN ends the commit with the next epoch (R421, R423).
Completes: PROTECT_PROPOSE, PROTECT_APPROVE, PROTECT_COMMIT, PROTECT_WITHDRAW, PROPOSAL_EXPIRY, PROTECTED_RECORD_WRITTEN. -/
def Obligations.Protection : Prop :=
  ∀ (s : State) (m : MbxId) (tag : BitVec 16) (h : Held) (q : Proposal),
    let a := s.newNonce m
    let id := BitVec.ofNat 32 (at' h.payload 0 4)
    (∀ e ∈ [((Instr.protectPropose m tag), 0x0301, noChk), (.protectApprove m tag, 0x0302, protectApproveChk),
        (.protectCommit m tag, 0x0303, protectCommitChk), (.protectWithdraw m tag, 0x0304, protectWithdrawChk)],
      Takes s m tag e.2.1 e.2.2 h → (∀ t ∈ s.eng.tasks, t.work ≠ .signed m h.tag) →
      exec e.1 s = .next { s with eng := { s.eng with tasks := s.eng.tasks ++ [{ work := .signed m h.tag, needs := [.p384], since := s.now }] } }) ∧
    (∀ t c, s.taskFor .signature c = some t → t.work = .signed m h.tag → t.needs = [.p384] →
      let z := s.setTasks (fun ts => ts.filter (fun x => x.work != t.work))
      z.heldOf m h.tag [0x0301, 0x0302, 0x0303, 0x0304] = some h → z.gate m h = none → s.serveSlot .signature c = z.runSigned m h) ∧
    (s.signedOk m h = false → s.runSigned m h = s.answer m h .badSignature []) ∧
    (h.opcode = 0x0301 → s.signedOk m h = true → a.cfg.proposals.length < 8 →
      let body := unsigned h.payload
      let aff := a.affectedOf (loosePatches body)
      at' body 4 4 = a.cfg.prot.epoch.toNat →
      (∀ x ∈ a.cfg.proposals, (∀ u ∈ loosePatches x.body, ∀ v ∈ loosePatches body, u.1 ≠ v.1) ∧ ∀ n ∈ a.affectedOf (loosePatches x.body), n ∉ aff) → ∀ ps, bodyPatches body = some ps →
      let r := a.cfg.prot.patched ps
      a.recordOk r = true → a.mayAct h.cred aff = true →
      (r.debug ≠ 1 ∨ a.anyConf = false ∧ bit a.secWord 0 = false) →
      ∃ (b : State) (p : List Byte), s.runSigned m h = b.answer m h .ok p ∧ b.cfg.nextProposal = a.cfg.nextProposal + 1 ∧
        b.cfg.proposals = a.cfg.proposals ++ [{
          id := BitVec.ofNat 32 a.cfg.nextProposal, body := body, proposer := h.cred, propMbx := m, expires := h.bell + 600000000000 }]) ∧
    (h.opcode = 0x0302 → s.signedOk m h = true → a.proposal id = some q → a.now ≤ q.expires →
      slice h.payload 8 48 = sha384 q.body → q.approver = none →
      a.pairOk q.proposer h.cred (a.affectedOf ((bodyPatches q.body).getD [])) = true →
      let p := { q with approver := some h.cred, apprMbx := some m, commitBy := h.bell + 600000000000 }
      s.runSigned m h =
        ((a.setProposal id (fun _ => some p)).answer m h .ok (leBytes 8 (h.bell + 600000000000))).proposalEvent p 1) ∧
    (∀ x, h.opcode = 0x0303 → s.signedOk m h = true → a.proposal id = some q → q.approver = some x →
      (q.proposer = h.cred ∨ x = h.cred) → a.now ≤ q.commitBy → q.committing = false → a.cfg.wait = none →
      let ps := (bodyPatches q.body).getD []
      let aff := a.affectedOf ps
      a.pairOk q.proposer x aff = true →
      let b := (a.accept m h []).setProposal id (fun p => some { p with committing := true })
      let c := { b with cfg := { b.cfg with wait := some (.commit m h.tag id aff (h.bell + 1898000000 - b.zeroTime (b.cfg.prot.patched ps))) } }
      s.runSigned m h = (c.holdAll aff).checkWait) ∧
    (h.opcode = 0x0304 → s.signedOk m h = true → a.proposal id = some q → (q.proposer = h.cred ∨ q.approver = some h.cred) →
      q.committing = false → s.runSigned m h = ((a.setProposal id (fun _ => none)).answer m h .ok []).proposalEvent q 4) ∧
    (s.proposal id = some q → q.committing = false → ∃ s', exec (.proposalExpiry id) s = .next s' ∧ s'.cfg.prot = s.cfg.prot ∧
      s'.proposal id = none ∧ s'.parts = s.parts) ∧
    (s.i3cUp = false → exec .protectedRecordWritten s = .next s) ∧
    (∀ aff, s.i3cUp = true → s.cfg.wait = some (.committing m tag id aff) → ∃ s', exec .protectedRecordWritten s = .next s' ∧ s'.cfg.wait = none ∧
      s'.cfg.prot = { s.cfg.prot with epoch := s.cfg.prot.epoch + 1, authentic := true } ∧ s'.cfg.protInB = !s.cfg.protInB ∧
      ∀ n ∈ aff, (s'.part n).hold = (s.part n).awaitsConf)

/-- Tier 2. CONFIG_LOAD takes an image, whose digest and signature wait for the operator's engine slots and which then goes to flash or ends the
command (R387, R403); FLASH_WRITE_COMPLETE writes the slot (R403); SET_MODE waits with admission held (R409), PACE_LOCK and SELF_TEST_RUN wait
for the partition's quiet point (R45, R510), QUIET_POINT_REACHED does what waits, but unlocks no Strict partition (R45), and QUIET_TIMEOUT
ends it with NOT_QUIET where the partition is not quiet by then; KNOWN_PATTERN_TEST_END ends the oldest self-test (R510). Completes: CONFIG_LOAD, FLASH_WRITE_COMPLETE, SET_MODE,
PACE_LOCK, SELF_TEST_RUN, QUIET_POINT_REACHED, QUIET_TIMEOUT, KNOWN_PATTERN_TEST_END. -/
def Obligations.ModesAndTests : Prop :=
  ∀ (s : State) (m : MbxId) (tag : BitVec 16) (h : Held) (bs : List Byte) (n : PartId) (failed tiles : BitVec 64),
    let p := h.payload
    let a := s.accept m h []
    (Takes s m tag 0x0201 configLoadChk h →
      let b := a.atsTouch 64 (at' p 8 8)
      let img := padTo (at' p 16 4) bs
      exec (.configLoad m tag none) s = .next (b.commandDone m h.tag .notPermitted []) ∧
      exec (.configLoad m tag (some bs)) s = .next (b.addTask (.image m h.tag (at' p 0 1 == 1) img) [.segments (ceilDiv img.length 65536), .p384])) ∧
    (∀ toB, (∀ st, s.loadCheck bs toB = some st → s.finishTask (.image m tag toB bs) [] = s.commandDone m tag st []) ∧
      (s.loadCheck bs toB = none →
        s.finishTask (.image m tag toB bs) [] = { s with cfg := { s.cfg with flash := s.cfg.flash ++ [(m, tag, toB, bs)] } })) ∧
    (s.i3cUp = false → exec .flashWriteComplete s = .next s) ∧
    (∀ toB img rest, s.i3cUp = true → s.cfg.flash = (m, tag, toB, img) :: rest → ∃ s', exec .flashWriteComplete s = .next s' ∧ s'.cfg = { s.cfg with
      flash := rest, slotA := if toB then s.cfg.slotA else img, slotB := if toB then img else s.cfg.slotB }) ∧
    (Takes s m tag 0x0202 setModeChk h → s.cfg.wait = none → (at' p 0 1 = 0 ∨ SMap.get none s.cfg.overlays (at' p 0 1) ≠ none) →
      let o := at' p 0 1
      let aff := a.affectedBy o
      let b := { a with cfg := { a.cfg with envelope := none, early := some o, wait := some (.setMode m h.tag o aff (h.bell + 1998000000)) } }
      exec (.setMode m tag) s = .next ((b.holdAll aff).applyDevice).checkWait) ∧
    (Takes s m tag 0x0202 setModeChk h → s.cfg.wait ≠ none → exec (.setMode m tag) s = .next (s.answer m h .notPermitted [])) ∧
    (Takes s m tag 0x0A02 paceLockChk h → s.valid (targetOf m h) = true → (at' p 0 1 = 1 ∨ s.isStrict (targetOf m h) = false) →
      exec (.paceLock m tag) s = .next (a.addJob (targetOf m h) (.paceLock m h.tag (if at' p 0 1 = 1 then at' p 2 2 else 0)))) ∧
    (Takes s m tag 0x0902 selfTestRunChk h →
      (at' p 0 1 = 0 → ∃ s', exec (.selfTestRun m tag) s = .next s' ∧ s'.cfg = { s.cfg with tests := s.cfg.tests ++ [(m, h.tag, none)] }) ∧
      (at' p 0 1 ≠ 0 → s.valid h.part = true → exec (.selfTestRun m tag) s = .next (a.addJob h.part (.selfTest m h.tag)))) ∧
    (s.isQuiet n = false → exec (.quietPointReached n) s = .next s) ∧
    (s.isQuiet n = true → (s.part n).pendKey = none →
      (s.part n).quiet = [] → exec (.quietPointReached n) s = .next (s.updPart n (fun p => { p with quiet := [] })).checkWait) ∧
    (∀ rate, s.isQuiet n = true → (s.part n).pendKey = none → (s.part n).quiet = [.paceLock m tag rate] → s.cfg.wait = none →
      s.now ≤ s.bellOf m tag + 1998000000 →
      ∃ s', exec (.quietPointReached n) s = .next s' ∧ (s'.part n).quiet = [] ∧
        (s'.part n).paceRate = if rate ≠ 0 then some rate else if s.isStrict n then (s.part n).paceRate else none) ∧
    (∀ o aff d, s.cfg.wait = some (.setMode m tag o aff d) →
      (s.allQuiet aff = true → exec (.quietTimeout .modeOrCommit) s = .next (s.atLeast d).checkWait) ∧
      (s.allQuiet aff = false → ∃ s', exec (.quietTimeout .modeOrCommit) s = .next s' ∧ s'.cfg.wait = none ∧
        s'.cfg.early = none ∧ s'.cfg.overlay = s.cfg.overlay ∧ s'.now = max s.now d)) ∧
    (∀ w ∈ [QuietWaiter.confidential n, .paceLock n, .selfTest n], ∀ j, (s.part n).quiet.find? (jobIs w) = some j →
      (s.isQuiet n = true → exec (.quietTimeout w) s = .next ((s.atLeast (s.jobDeadline n j)).quietPoint n)) ∧
      (s.isQuiet n = false → ∃ s', exec (.quietTimeout w) s = .next s' ∧ (s'.part n).quiet = (s.part n).quiet.filter (fun x => x != j))) ∧
    (∀ r j rest, s.cfg.tests = (m, tag, j) :: rest →
      (j = some r → ∃ b : State, exec (.knownPatternTestEnd failed tiles) s = .next (b.commandDone m tag .ok (bvBytes (failed &&& 0x1FF))) ∧
        (failed &&& 0x1FF = 0 → b = { s with cfg := { s.cfg with tests := rest } })) ∧
      (j = none → ∃ b : State, exec (.knownPatternTestEnd failed tiles) s = .next (b.commandDone m tag .ok (bvBytes (failed &&& 0x7FE00))) ∧
        (failed &&& 0x7FE00 = 0 → b = { s with cfg := { s.cfg with tests := rest } })))

/-- Tier 2. ATTEST_DEVICE and ATTEST_PARTITION: page 0 waits for its secret and its signature and keeps the signed report, at Floor 0 at once;
later pages read it while the nonce matches (R443–R445, R514); REPORT_SNAPSHOT_EXPIRY drops it; GRAIN_SEED gives every tile of the partition its
seed and answers the commitment, MODE 0 after a fresh draw (R446, R465, R471); KEY_INSTALL unwraps the key under the session's secret (R450);
CONFIDENTIAL_ENTER waits for quiet where its conditions hold (R453). Completes: ATTEST_DEVICE, ATTEST_PARTITION,
REPORT_SNAPSHOT_EXPIRY, GRAIN_SEED, KEY_INSTALL, CONFIDENTIAL_ENTER. -/
def Obligations.Secrets : Prop :=
  ∀ (s : State) (m : MbxId) (tag : BitVec 16) (h : Held),
    let p := h.payload
    let n := m.val
    (∀ e ∈ [((Instr.attestDevice m tag), 0x0701, (none : Option PartId)), (.attestPartition m tag, 0x0702, some (Fin.ofNat 64 (targetOf m h)))],
      Takes s m tag e.2.1 attestChk h →
      let a := s.updBox m (fun b => { b with snap := b.snap.filter (fun sn => sn.nonce == slice p 0 32) })
      (at' p 32 2 = 0 → s.boot.floor = 0 → exec e.1 s = .next (a.giveReport m h a.floor0Secret)) ∧
      (at' p 32 2 = 0 → s.boot.floor ≠ 0 → exec e.1 s = .next (a.addTask (.report m h.tag e.2.2.isNone) [.gen false 48, .p384])) ∧
      (∀ sn, at' p 32 2 ≠ 0 → (s.box m).snap = some sn → sn.nonce = slice p 0 32 → sn.part = e.2.2 → at' p 32 2 < ceilDiv sn.bytes.length 4048 →
        s.now ≤ sn.until_ → exec e.1 s = .next (s.answer m h .ok (pageOf sn.bytes (at' p 32 2)))) ∧
      (∀ sn, at' p 32 2 ≠ 0 → (s.box m).snap = some sn → sn.nonce ≠ slice p 0 32 →
        exec e.1 s = .next ((s.updBox m (fun b => { b with snap := none })).answer m h .notPermitted [])) ∧
      (at' p 32 2 ≠ 0 → (s.box m).snap = none → exec e.1 s = .next (s.answer m h .notPermitted []))) ∧
    (∀ (dev : Bool) (x : List Byte), s.heldOf m h.tag [0x0701, 0x0702] = some h → s.gate m h = none →
      s.finishTask (.report m h.tag dev) [x] = s.giveReport m h (fun _ => toScalar x)) ∧
    (∀ f : List Byte → Nat, let rep := s.signWith (f (s.reportOf m h)) (s.reportOf m h)
      (∃ part, ((s.giveReport m h f).box m).snap = some ⟨slice p 0 32, part, rep, s.now + 60000000000⟩) ∧
      ∃ a : State, s.giveReport m h f = a.answer m h .ok (pageOf rep 0)) ∧
    (∀ sn, (s.box m).snap = some sn → ∃ s', exec (.reportSnapshotExpiry m) s = .next s' ∧ (s'.box m) = { s.box m with snap := none } ∧
      s'.now = max s.now sn.until_) ∧
    (Takes s m tag 0x0703 grainSeedChk h →
      (at' p 0 1 = 1 → ∃ a : State, exec (.grainSeed m tag) s = .next (a.answer m h .ok (seedCommit n (slice p 8 32))) ∧
        (a.part n).seed = some (slice p 8 32) ∧ ∀ t ∈ s.tilesOf n, (a.tile t).seed = some (slice p 8 32)) ∧
      (at' p 0 1 ≠ 1 → s.boot.floor ≠ 2 → exec (.grainSeed m tag) s = .next (s.answer m h .floorInsufficient [])) ∧
      (at' p 0 1 ≠ 1 → s.boot.floor = 2 →
        exec (.grainSeed m tag) s = .next (s.addTask (.grainSeed (Fin.ofNat 64 n) h.tag) [.gen true 32]) ∧
        (n < 64 → s.entropyDead = true → s.canDraw true = false → (∀ t ∈ s.eng.tasks, t.work ≠ .grainSeed (Fin.ofNat 64 n) h.tag) →
          ∃ a : State, exec (.grainSeed m tag) s = .next (a.answer m h .entropyUnavailable [])))) ∧
    (∀ seed, n < 64 → s.heldOf m h.tag [0x0703] = some h → s.gate m h = none →
      s.finishTask (.grainSeed (Fin.ofNat 64 n) h.tag) [seed] = (s.giveSeed n seed).answer m h .ok (seedCommit n seed)) ∧
    (∀ se ks, Takes s m tag 0x0704 keyInstallChk h → s.boot.floor = 2 →
      (SMap.get {} s.sec.responders n).sessions.find? (fun x => x.id == BitVec.ofNat 32 (at' p 0 4) && x.established) = some se →
      gcmOpen (hkdfExpand se.secret (ascii "AVRAK KEYWRAP" ++ leBytes 1 n) 32) (slice p 8 12) (leBytes 1 n ++ slice p 0 4 ++ ascii "XTS1")
        (slice p 20 64) (slice p 84 16) = some ks → ks.take 32 ≠ ks.drop 32 → (s.part n).entry.cipher = true →
      let b := s.updPart n (fun p => { p with keyFresh := true })
      (s.isQuiet n = true → exec (.keyInstall m tag) s = .next ((b.applyKey n ks).answer m h .ok [])) ∧
      (s.isQuiet n = false → exec (.keyInstall m tag) s = .next ((b.updPart n (fun p => { p with pendKey := some ks })).answer m h .ok []))) ∧
    (Takes s m tag 0x0705 noChk h →
      (∀ st, s.confCheck n = some st → exec (.confidentialEnter m tag) s = .next (s.answer m h st [])) ∧
      (s.confCheck n = none → exec (.confidentialEnter m tag) s = .next
        (((s.accept m h []).updPart n (fun p => { p with hold := true })).addJob n (.confEnter m h.tag))))

/-- Tier 2. PARTITION_RESTART, VF_FLR and RESTART_PASS_END complete: the restart begins where it may and takes the partition's queues away; an FLR
of a partition that restarts already clears its mailbox and the restart goes on; the restart ends with the fault flag clear once no tile is
in its closing pass (R499, R500, R534). Completes: PARTITION_RESTART, VF_FLR, RESTART_PASS_END. -/
def Obligations.Restarts : Prop :=
  ∀ (s : State) (m : MbxId) (tag : BitVec 16) (h : Held) (f : PartId) (failed : BitVec 64),
    let n := targetOf m h
    (Takes s m tag 0x0802 noChk h → s.mayRestart n = true →
      exec (.partitionRestart m tag) s = .next ((s.beginRestart n (some (m, h.tag)) (if m.val = n then [h] else [])).accept m h [])) ∧
    (∀ who keep, s.cfg.wait = none → ((s.beginRestart n who keep).part n).sqs = [] ∧ ((s.beginRestart n who keep).part n).cqs = [] ∧
      ((s.beginRestart n who keep).part n).answers = [] ∧ ((s.beginRestart n who keep).part n).moveq = []) ∧
    (let a := (s.resetVf f).tdiError f false
     (s.boot.fault = true ∨ s.valid f = false → exec (.vfFlr f) s = .next a) ∧
     (s.boot.fault = false → s.valid f = true → (s.part f).restart = none → exec (.vfFlr f) s = .next (a.beginRestart f none [])) ∧
     (∀ who, s.boot.fault = false → s.valid f = true → (s.part f).restart = some who → ∃ s', exec (.vfFlr f) s = .next s' ∧
       s'.box (Fin.ofNat 65 f) = (a.box (Fin.ofNat 65 f)).cleared [] ∧
       (s'.part f).restart = some (who.map (fun x => if x.1.val = f.val then (x.1, 0xFFFF) else x)))) ∧
    ((s.part f).restart = none → exec (.restartPassEnd f failed) s = .next s) ∧
    (∀ who, (s.part f).restart = some who →
      ((∃ t ∈ s.tilesOf f, (s.tile t).health.running = some .closing) → exec (.restartPassEnd f failed) s = .next s) ∧
      ((∀ t ∈ s.tilesOf f, (s.tile t).health.running ≠ some .closing) →
        ∃ s', exec (.restartPassEnd f failed) s = .next s' ∧ (s'.part f).restart = none ∧ (s'.part f).fault = false))

/-- Tier 1. R31: `PARTITION_RESTART` returns NOT_PERMITTED while any recall notice of that partition has not been acknowledged. -/
def Obligations.RestartWaitsForRecalls : Prop :=
  ∀ (s : State) (m : MbxId) (tag : BitVec 16) (h : Held), Takes s m tag 0x0802 noChk h →
    (∃ x ∈ (s.part (targetOf m h)).notices, x.acked = false) → exec (.partitionRestart m tag) s = .next (s.answer m h .notPermitted [])

/-! Tiles, health, memory, chains, links, the plant and the engines. -/

/-- Tier 2. L1_FILL_COMPLETE merges an outstanding store's fill or brings an instruction line, or its refusal is a fetch's ACCESS_FAULT;
TALON_FILL_COMPLETE and DISCARD_WRITEBACK_ACK take their entry out of its list; each waits for a token where its tile is gated (R44), and what it
reaches of another device has been answered (R312). TLB_WALK_COMPLETE keeps a translation or raises the page fault of its kind; DEFERRED_FAULT
ends the pass with the fault's status, cause and PC (R105, R107, R201, R203, R207, R229). Completes: L1_FILL_COMPLETE, TALON_FILL_COMPLETE,
DISCARD_WRITEBACK_ACK, TLB_WALK_COMPLETE, DEFERRED_FAULT. -/
def Obligations.TileCaches : Prop :=
  ∀ (s : State) (t : TileId) (line : BitVec 45) (u : Upset) (i : Fin 16) (va pc : Word) (k : AccessKind) (d : DeferredCause),
    let l := line.toNat
    let a (port : TileUnit) := ((s.acting t).strike t u).spend t [port]
    (s.maySpend t [.l1] = false → exec (.l1FillComplete t line u) s = .next s) ∧
    (s.maySpend t [.l1] = true →
      let a := a .l1
      (∀ f, (a.tile t).caches.fills.find? (fun f => f.line == l) = some f →
        let b := a.arriveD t l u
        let c := if (b.tile t).stopped then b else b.fillDone t f
        c.net.waits = false → exec (.l1FillComplete t line u) s = .next (s.acted c)) ∧
      ((a.tile t).caches.fills.find? (fun f => f.line == l) = none → a.running t = true →
        let b := (a.checkI t l).arriveI t l u
        (a.checkI t l).running t = true → ((a.checkI t l).tile t).caches.findI l = none → (b.tile t).stopped = false →
        (∀ x c, b.fetchLine t l = (some x, c) → c.net.waits = false →
          exec (.l1FillComplete t line u) s = .next (s.acted (c.updCaches t (fun c => c.putI { line := l, data := x })))) ∧
        (∀ c, b.fetchLine t l = (none, c) → c.net.waits = false →
          exec (.l1FillComplete t line u) s = .next (s.acted (c.trapT t 0x06 (c.fetchTval t l)))))) ∧
    ((s.tile t).caches.talonFills.contains l = true → s.maySpend t [.talon] = true → ((a .talon).talonFill t l).net.waits = false →
      exec (.talonFillComplete t line u) s = .next (s.acted ((a .talon).talonFill t l))) ∧
    ((s.tile t).caches.talonFills.contains l = false ∨ s.maySpend t [.talon] = false → exec (.talonFillComplete t line u) s = .next s) ∧
    (s.maySpend t [.discard] = true → ((a .discard).ackDiscard t i).net.waits = false →
      exec (.discardWritebackAck t i u) s = .next (s.acted ((a .discard).ackDiscard t i))) ∧
    (s.maySpend t [.discard] = false → exec (.discardWritebackAck t i u) s = .next s) ∧
    (s.running t = true → (∀ pa b, s.translateT t k va.toNat = (some pa, b) → exec (.tlbWalkComplete t va k) s = .next b) ∧
      (∀ b, s.translateT t k va.toNat = (none, b) → exec (.tlbWalkComplete t va k) s = .next (b.trapT t (pageFaultCause k) va)) ∧
      ∃ s', exec (.deferredFault t d pc) s = .next s' ∧ (s'.tile t).run = none ∧ (s'.tile t).queue = [] ∧ ∀ p, (s.tile t).run = some p →
        ∃ e : RankEnd, (s'.led p.ix).ends = (s.led p.ix).ends ++ [e] ∧ e.rank = p.rank ∧ e.status = (deferredOf d).2 ∧ e.cause = (deferredOf d).1 ∧
          e.pc = pc.toNat) ∧
    (s.running t = false → exec (.tlbWalkComplete t va k) s = .next s ∧ exec (.deferredFault t d pc) s = .next s)

/-- Tier 2. A health pass falls due, begins, and ends with a new exposure window from its start, which keeps the items that completed during it,
or with the tile handled as failed (R24, R25, R28, R29); 24,576 journal items begin one at once (R30), and the scheduled due time stays, which is
the model's choice (log entry 119); a closing pass closes the window (R496); notices and FAULT events are posted when they may be (R28, R495, R498,
R502); a stall is declared no earlier than 1 µs before the stall bound and is fatal to the tile's partition, or to the device (R53, R55).
Completes: HEALTH_PASS_DUE, HEALTH_PASS_START, JOURNAL_THRESHOLD, HEALTH_PASS_END, CLOSING_PASS_END, RECALL_NOTICE_POST, FAULT_EVENT_POST,
STALL_DECLARE. -/
def Obligations.HealthPasses : Prop :=
  ∀ (s : State) (t : TileId) (n : PartId) (num : BitVec 32) (g : BitVec 12) (x : BitVec 16) (since : Nat),
    let h := (s.tile t).health
    ((s.tile t).takesPasses = true → ∃ s', exec (.healthPassDue t) s = .next s' ∧ (s'.tile t).health = { h with
      pending := true, due := h.due + s.healthNs ((s.tileOwner t).getD 64) } ∧ s'.now = max s.now h.due) ∧
    ((s.tile t).takesPasses = false → exec (.healthPassDue t) s = .next s ∧ exec (.healthPassStart t) s = .next s ∧
      exec (.journalThreshold t) s = .next s) ∧
    ((s.tile t).takesPasses = true → h.running = none →
      ∀ e ∈ [(Instr.healthPassStart t, h.pending = true), (.journalThreshold t, 24576 ≤ h.journal.length)], e.2 →
        ∃ s', exec e.1 s = .next s' ∧ OnlyTile s s' t ∧ s'.tile t = { s.tile t with
          health := { h with pending := false, running := some .health, passStart := s.now, passMark := h.journal.length } }) ∧
    (h.running = some .health → exec (.healthPassEnd t false) s = .next (s.failTile t 0x0104) ∧
      ∃ s', exec (.healthPassEnd t true) s = .next s' ∧ OnlyTile s s' t ∧ s'.tile t = { s.tile t with
        health := { h with running := none, journal := h.journal.drop h.passMark, windowStart := h.passStart, windowOpen := true } }) ∧
    (h.running = some .closing → exec (.closingPassEnd t false) s = .next (s.failTile t 0x0104) ∧
      ∃ s', exec (.closingPassEnd t true) s = .next s' ∧ OnlyTile s s' t ∧ (s'.tile t).health.windowOpen = false ∧ (s'.tile t).health.journal = [] ∧
        (s'.tile t).health.running = if (s.tileOwner t).any (fun n => (s.part n).restart.isSome) then some .restart else none) ∧
    (∀ y, (s.part n).notices.find? (fun x => x.num == num.toNat && !x.posted) = some y → ∃ s', exec (.recallNoticePost n num) s = .next s' ∧
      ∀ z ∈ (s'.part n).notices, z.num = num.toNat → z.posted = true) ∧
    (∀ seq rest, (s.part n).faultDue = seq :: rest →
      (s.noticesOut n = true → ∃ s', exec (.faultEventPost (some n)) s = .next s' ∧ (s'.part n).faultDue = rest ∧ (s'.part n).fault = (s.part n).fault) ∧
      (s.noticesOut n = false → exec (.faultEventPost (some n)) s = .next s)) ∧
    (∀ seq rest, s.boot.faultDue = seq :: rest → parts64.all (fun n => !s.valid n || s.noticesOut n) = true →
      ∃ s', exec (.faultEventPost none) s = .next s' ∧ s'.boot = { s.boot with faultDue := rest }) ∧
    (since ≤ s.now → s.plant.ciRunning = true →
      let a := s.atLeast (boundary (since + (s.plant.sentBound.toNat - 1) * 1000))
      let r : ErrRec := { mkRec 0x0506 1 with tile := t, unit := unitTile t, detail := g.toNat }
      (∀ o, s.tileOwner t = some o → exec (.stallDeclare (.tile t) g since) s = .next (a.partFatal o r)) ∧
      (s.tileOwner t = none → exec (.stallDeclare (.tile t) g since) s = .next (a.devFatal r)) ∧
      exec (.stallDeclare (.shared x) g since) s = .next (a.devFatal { mkRec 0x0506 2 with unit := x.toNat, detail := g.toNat })) ∧
    (s.now < since ∨ s.plant.ciRunning = false → ∀ w, exec (.stallDeclare w g since) s = .next s)

/-- Tier 2. The scrubs read in order at their times (R158, R222, R283): ACM_SCRUB_READ and LS_SCRUB_READ take the tile's next read and, where
nothing has upset a word, change only the time, the read's number and the unit's token; HBM_SCRUB_READ goes on to the next line and counts a pass
when its period is over; the SEC-DED code corrects any one wrong bit of a word and reports any two (R157, R217); HBM_REFRESH is counted;
HBM_DIE_LOST marks a die and its controller (R285); HBM_TEMP_READ keeps temperatures, and HBM_THERMAL stops a controller that was hot for 10 ms
(R278). Completes: ACM_SCRUB_READ, LS_SCRUB_READ, HBM_SCRUB_READ, HBM_REFRESH, HBM_DIE_LOST, HBM_TEMP_READ,
HBM_THERMAL. -/
def Obligations.ScrubsAndHbm : Prop :=
  ∀ (s : State) (t : TileId) (k : CtrlId) (d : Fin 12) (up : BitVec 9) (ts : List (CtrlId × BitVec 8)) (u : Upset),
    let c := s.hbmc k
    let x := s.tile t
    (s.tilesUp = true →
      let a := ((s.strike t u).atLeast (244000 * x.acmScrub)).updTile t (fun y => { y with acmScrub := x.acmScrub + 1 })
      let b := ((s.strike t u).atLeast (480000 * x.lsScrub)).updTile t (fun y => { y with lsScrub := x.lsScrub + 1 })
      exec (.acmScrubRead t u) s = .next ((a.spend t [.acm]).acmCheckRows t (x.acmScrub % 4096) 1 true) ∧
      exec (.lsScrubRead t u) s = .next
        (((b.spend t [.lsPort]).plantedIn t (x.lsScrub % 16384 * 1024) 1024).foldl (fun s w => s.lsCheck t w true) (b.spend t [.lsPort])) ∧
      (u = .none → x.mxu.chk = [] → exec (.acmScrubRead t u) s = .next (a.spend t [.acm])) ∧
      (u = .none → x.lsChk = [] → exec (.lsScrubRead t u) s = .next (b.spend t [.lsPort]))) ∧
    (s.tilesUp = false → exec (.acmScrubRead t u) s = .next s ∧ exec (.lsScrubRead t u) s = .next s) ∧
    (∀ (w : Word) (i j : Fin 64),
      let flip (w : Word) (i : Fin 64) : Word := w ^^^ BitVec.ofNat 64 (2 ^ i.val)
      let syn (v : Word) := secdedEncode w ^^^ secdedEncode v
      secdedFind (syn w) = .clean ∧ secdedFix (flip w i) (secdedFind (syn (flip w i))) = w ∧
      (i ≠ j → secdedFind (syn (flip (flip w i) j)) = .double)) ∧
    (∀ start hours, c.scrub = some (start, hours) → c.state ≠ 2 →
      let r := c.roll (s.atLeast (start + c.nextLine * 14400 * hours)).now
      (∃ s', exec (.hbmScrubRead k up) s = .next s' ∧ (s'.hbmc k).nextLine = r.nextLine + 1 ∧ (s'.hbmc k).passes = r.passes ∧
        start + c.nextLine * 14400 * hours ≤ s'.now) ∧
      (∀ now, c.nextLine = 250000000 → start + hours * 3600000000000 ≤ now → (c.roll now).nextLine = 0 ∧ (c.roll now).passes = c.passes + 1) ∧
      (∀ now, c.nextLine ≠ 250000000 → c.roll now = c)) ∧
    (c.scrub = none ∨ c.state = 2 → exec (.hbmScrubRead k up) s = .next s) ∧
    (∃ s', exec (.hbmRefresh k) s = .next s' ∧ s' = { s with hbm := s'.hbm } ∧ s'.hbmc k = { c with refreshes := c.refreshes + 1 } ∧
      ∀ j, j ≠ k.val → s'.hbmc j = s.hbmc j) ∧
    (c.overErrors d = true → SMap.get 0 c.dieState d ≠ 2 → c.state = 0 → c.lostDie = 0xF → ∃ s', exec (.hbmDieLost k d) s = .next s' ∧
      (s'.hbmc k).state = 1 ∧ (s'.hbmc k).lostDie = BitVec.ofNat 4 d ∧ SMap.get 0 (s'.hbmc k).dieState d = 2) ∧
    (c.overErrors d = false → exec (.hbmDieLost k d) s = .next s) ∧
    (∃ s', exec (.hbmTempRead ts) s = .next s' ∧ s'.plant.thermtrip = (s.plant.thermtrip || ts.any (fun x => decide (115 ≤ x.2.toNat))) ∧
      s'.now = max s.now (dueAt 1000000 s.now s.plant.nextTemp) ∧ (∀ j, (∀ x ∈ ts, x.1.val ≠ j) → s'.hbmc j = s.hbmc j)) ∧
    (∀ v, ∃ s', exec (.hbmTempRead [(k, v)]) s = .next s' ∧ (s'.hbmc k).temp = v ∧ (s'.hbmc k).thermal = decide (90 ≤ v.toNat) ∧
      ((s'.hbmc k).hotSince = none ↔ v.toNat ≤ 95)) ∧
    (∀ since, c.hotSince = some since → c.state ≠ 2 →
      exec (.hbmThermal k) s = .next ((s.atLeast (since + 10000000)).failController k (some { mkRec 0x0306 1 with
        unit := unitHbm k, detail := hbmDetail k 0xF 0 0 0 false false 0x7F }))) ∧
    (c.hotSince = none ∨ c.state = 2 → exec (.hbmThermal k) s = .next s)

/-- Tier 2. A chain step starts after `pdone`: member 0 sends its partial, another member waits for rows, which wait for it until it accepts them
(R319, R320); a matching packet's rows are added to the partial and go on, or seal the message at the last member; a mismatch, a BREAK or an
expired wait ends the step with CHAIN_BROKEN; DONE ends it (R319–R326); a recall's matching items become a notice, one that found no room goes
out again 1 ms later, and the log keeps 16 ms (R327, R328). Completes: CHAIN_STEP_START, CHAIN_PACKET_RECEIVE, CHAIN_DONE_RECEIVE,
CHAIN_BREAK_RECEIVE, CHAIN_WAIT_EXPIRY, CHAIN_RECALL_RECEIVE, CHAIN_RECALL_RESEND, CHAIN_LOG_AGING. -/
def Obligations.Chains : Prop :=
  ∀ (s : State) (t : TileId) (ix : LedgerIx) (p : ChainPacket) (ch : Chain) (c : ChainStep) (i : Nat) (b : BitVec 6) (msg : BitVec 32) (r : ChainRecall),
    let e := s.led ix.toNat
    (s.stepAt e.tile = some (ix.toNat, c, ch) → e.state = .running → e.crun.started = false → (s.tile e.tile).run = none →
      (s.tile e.tile).stopped = false → (s.mxu e.tile).chk = [] →
      let a := s.updLed ix.toNat (fun e => { e with
        crun := { started := true, startTime := s.now, lastHeard := s.now, next := if c.member = 0 then c.rows else 0 } })
      exec (.chainStepStart ix) s = .next (if c.member ≠ 0 then a
        else if ch.members.length ≤ 1 then a.sealChain e.tile ix.toNat c ch
        else a.sendChain e.tile ix.toNat c ch 1 (chainPkts c ch 16 0 ((List.range c.rows).map (a.chainRow e.tile c))))) ∧
    (s.stepAt e.tile = none → exec (.chainStepStart ix) s = .next s ∧ exec (.chainWaitExpiry ix) s = .next s) ∧
    (s.startedStep t p.chain.toNat = none → exec (.chainPacketReceive t p true) s = .next (s.keepOffer (.rows t p)) ∧
      exec (.chainDoneReceive t p) s = .next (s.keepOffer (.done t p))) ∧
    (s.startedStep t p.chain.toNat = some (i, c, ch) →
      let z := s.takeOffer (.rows t p)
      let d := s.takeOffer (.done t p)
      let k := (s.led i).crun
      (chainMismatch c ch p = true → exec (.chainPacketReceive t p true) s = .next (z.mismatch t i c) ∧
        exec (.chainDoneReceive t p) s = .next (d.mismatch t i c)) ∧
      (chainMismatch c ch p = false →
        (k.next < p.first → exec (.chainPacketReceive t p true) s = .next (s.keepOffer (.rows t p))) ∧
        (c.member ≠ 0 → p.first = k.next → p.data ≠ [] → p.data.length ≤ 8 → p.first + p.data.length ≤ c.rows →
          let sums := p.data.mapIdx (fun j r => chainAdd ch.wide r (s.chainRow t c (p.first + j)))
          let a := (z.updMxu t (fun m => (sums.zipIdx).foldl (fun m r => m.setRow (c.srcRow + p.first + r.2) ((rowDigits 64 r.1).map (BitVec.ofNat 64))) m)).updLed i
            (fun e => { e with crun := { e.crun with next := p.first + p.data.length, lastHeard := s.now } })
          exec (.chainPacketReceive t p true) s = .next (if c.member + 1 < ch.members.length then a.sendChain t i c ch (c.member + 1) [chainPkt c ch p.first sums]
            else if p.first + p.data.length = c.rows then a.sealChain t i c ch else a) ∧
          exec (.chainPacketReceive t p false) s = .next (z.tileFatal t { mkRec 0x0107 1 with ledger := i })) ∧
        (k.next = c.rows → c.member + 1 < ch.members.length →
          (ch.allreduce = false → exec (.chainDoneReceive t p) s = .next (d.stepDone t i c ch [])) ∧
          (ch.allreduce = true → p.first = k.nextFinal → p.data ≠ [] → p.first + p.data.length ≤ c.rows →
            let a := d.updLed i (fun e => { e with crun := { e.crun with
              nextFinal := p.first + p.data.length, lastHeard := s.now, final := SMap.putMany 0 e.crun.final p.first p.data } })
            let final := SMap.getMany 0 (a.led i).crun.final 0 c.rows
            exec (.chainDoneReceive t p) s = .next (if p.first + p.data.length = c.rows then (a.writeFinal t c final).stepDone t i c ch final else a))))) ∧
    (let z := s.takeOffer (.brk t b msg)
     (s.startedStep t b.toNat = some (i, c, ch) →
       (c.msg = msg → exec (.chainBreakReceive t b msg) s = .next (z.breakHere t i c false)) ∧
       (c.msg ≠ msg → exec (.chainBreakReceive t b msg) s = .next z)) ∧
     (s.startedStep t b.toNat = none → exec (.chainBreakReceive t b msg) s = .next z)) ∧
    (s.stepAt e.tile = some (ix.toNat, c, ch) → e.crun.started = true →
      exec (.chainWaitExpiry ix) s = .next ((s.atLeast (e.crun.lastHeard + ch.wait)).breakHere e.tile ix.toNat c true)) ∧
    (let held := (parts64.map (fun m => ((s.part m).notices.filter (·.chainRecall)).length)).sum
     (s.valid r.part = true → held < 256 →
      ∃ (s' : State) (x : Notice), exec (.chainRecallReceive r) s = .next s' ∧ x.num = (s.part r.part).nextNotice ∧ x.chainRecall = true ∧
        x.incomplete = r.late ∧ x.items = (s.chainLog.filter (fun x => x.part == r.part &&
          r.steps.any (fun c => c.1.toNat == x.chain && c.2.1.toNat == x.msg && c.2.2 == x.digest))).map (·.item) ∧
        (s'.part r.part).nextNotice = (s.part r.part).nextNotice + 1 ∧
        (s'.part r.part).notices = ((s.part r.part).notices ++ [x]).map (fun y => if y.num = x.num then { y with posted := true } else y)) ∧
     (256 ≤ held → exec (.chainRecallReceive r) s = .next s)) ∧
    (s.net.recalls.all (·.going) = true → exec .chainRecallResend s = .next s) ∧
    (s.net.recalls.all (·.going) = false → exec .chainRecallResend s = .next (s.atLeast (s.net.resent + 1000000)).sendRecalls) ∧
    ((s.recallAnswered i true).net.recalls = s.net.recalls.filter (fun r => r.id != i) ∧
      (s.recallAnswered i false).net.recalls = s.net.recalls.map (fun r => if r.id = i then { r with going := false } else r)) ∧
    (s.chainLog = [] → exec .chainLogAging s = .next s) ∧
    (∀ x rest, s.chainLog = x :: rest → ∃ s', exec .chainLogAging s = .next s' ∧ x ∉ s'.chainLog ∧ s'.now = max s.now (x.time + 16000001))

/-- Tier 2. The links and the fabric: a slot starts with its user, which never is a Strict partition that does not own it (R74–R77, R528); a packet
leaves on link (u + t) mod n of the n UP links of its group (R307); an idle or a numbered flit leaves an UP link and a received one is checked for
its CRC, then its sequence (R294–R298), and a packet that is whole arrives or goes on; a replay counts the sends of its flits, 8 of which take the
link down, and training brings a link up at its neighbour (R299–R305); a fabric packet in sequence with a permitted tag is served, and a bad one
is asked for once again (R61, R490); a controller's accesses complete each at its time (R275, R276). Completes: ARBITER_SLOT_START,
LINK_FLIT_SEND, LINK_FLIT_RECEIVE, LINK_REPLAY, LINK_FAILED_AFTER_REPLAY, LINK_TRAINING_END, HBM_ACCESS_COMPLETE, FABRIC_PACKET_ARRIVE. -/
def Obligations.LinksAndFabric : Prop :=
  ∀ (s : State) (l : LinkId) (flit : BitVec 2048) (a : Fin 35) (rdy : BitVec 66) (k : CtrlId) (up : BitVec 9) (p : Packet) (dev : BitVec 6)
      (link : BitVec 4) (np : NetPacket),
    let x := s.link l
    (a.val < 10 → exec (.arbiterSlotStart a rdy) s = .next (s.commitSlot a rdy)) ∧
    (10 ≤ a.val → a.val < 18 → exec (.arbiterSlotStart a rdy) s = .next (s.hbmSlot (a.val - 10) rdy)) ∧
    (18 ≤ a.val → a.val < 34 → exec (.arbiterSlotStart a rdy) s = .next (s.commitSlot a ((s.link (a.val - 18)).egress.foldl
      (fun x e => if e.left = 0 then x else x ||| BitVec.ofNat 66 (2 ^ readyBit e.pkt.tag)) 0))) ∧
    (a.val = 34 → exec (.arbiterSlotStart a rdy) s = .next (s.txSlot rdy)) ∧
    (let y := s.commitSlot a rdy
     let e := SMap.get 0x7F (s.arb a).rot ((s.arb a).index % 256)
     y = { s with arbs := y.arbs } ∧ (y.arb a).index = (s.arb a).index + 1 ∧ (y.arb a).rot = (s.arb a).rot ∧
       ((y.arb a).last, (y.arb a).blank) = s.slotUser e rdy ∧
     (fld e 0 7 < 64 →
       (rdy.getLsbD (fld e 0 7) = true → s.slotUser e rdy = (fld e 0 7, false)) ∧
       (rdy.getLsbD (fld e 0 7) = false → e.getLsbD 7 = true → s.slotUser e rdy = (fld e 0 7, true)) ∧
       (rdy.getLsbD (fld e 0 7) = false → e.getLsbD 7 = false → (s.slotUser e rdy).2 = false)) ∧
     ((s.slotUser e rdy).1 < 64 → (s.slotUser e rdy).1 ≠ fld e 0 7 → s.isStrict (s.slotUser e rdy).1 = false)) ∧
    (∀ (ready : Nat → Bool) (i : Nat), (ready i = true → s.rotUser ready i = (i, false)) ∧
      (ready i = false → i < 64 → s.isStrict i = true → s.rotUser ready i = (i, true)) ∧
      ((s.rotUser ready i).1 < 64 → (s.rotUser ready i).1 ≠ i → s.isStrict (s.rotUser ready i).1 = false)) ∧
    (let ups := (s.routeLinks np.dst).filter (fun l => (s.link l).state == 2)
     (ups = [] → s.netPut np none = none) ∧
     (ups ≠ [] → ∃ (s' : State) (e : Egress), s.netPut np none = some s' ∧
       let m := ups.getD ((np.unit + np.dst) % ups.length) 0
       s' = { s with links := s'.links } ∧ (s'.link m).egress = (s.link m).egress ++ [e] ∧ e.pkt = np ∧ e.left = ceilDiv (netSize np) 244 ∧ e.sent = 0 ∧
       ∀ j, j ≠ m → s'.link j = s.link j)) ∧
    (x.state = 2 →
      let slot := s.arb (18 + l)
      (slot.last = 0x7F ∨ 512 ≤ x.replayBuf.length ∨ (slot.blank = false ∧ x.nextFor slot.last = none) →
        ∃ (s' : State) (bits : BitVec 2048), exec (.linkFlitSend l) s = .next s' ∧ s'.out = s.out ++ [.flit l bits] ∧
        (s'.link l).txSeq = x.txSeq ∧ (s'.link l).replayBuf = x.replayBuf ∧ (s'.link l).nakDue = false) ∧
      (slot.last ≠ 0x7F → x.replayBuf.length < 512 →
        (slot.blank = true → ∃ s', exec (.linkFlitSend l) s = .next s' ∧ (s'.link l).txSeq = (x.txSeq + 1) % 4096 ∧
          (s'.link l).replayBuf.length = x.replayBuf.length + 1 ∧ (s'.link l).credits = x.credits) ∧
        (∀ e, slot.blank = false → x.nextFor slot.last = some e → ∃ s', exec (.linkFlitSend l) s = .next s' ∧
          (s'.link l).txSeq = (x.txSeq + 1) % 4096 ∧ (s'.link l).replayBuf.length = x.replayBuf.length + 1 ∧
          SMap.get 0 (s'.link l).credits e.vc + 1 = SMap.get 0 x.credits e.vc))) ∧
    (x.state ≠ 2 → exec (.linkFlitSend l) s = .next s ∧ exec (.linkFlitReceive l flit) s = .next s ∧ exec (.linkReplay l) s = .next s) ∧
    (x.state = 2 → crc32 (leBytes 252 flit.toNat) ≠ fld flit 2016 32 → ∃ s', exec (.linkFlitReceive l flit) s = .next s' ∧
      (s'.link l).crcErr = BitVec.ofNat 32 (satAdd 32 x.crcErr.toNat 1) ∧ (s'.link l).rxSeq = x.rxSeq ∧ (s'.link l).streams = x.streams) ∧
    (x.state = 2 → crc32 (leBytes 252 flit.toNat) = fld flit 2016 32 →
      let buf := ackFlits (fld flit 14 12) x.replayBuf
      let y := Link.prune { x with
        replayBuf := buf, ackTime := if buf.length < x.replayBuf.length then s.now else x.ackTime,
        replayDue := x.replayDue || fld flit 26 1 == 1,
        credits := if fld flit 38 3 < 6 then SMap.upd 0 x.credits (fld flit 38 3) (· + fld flit 41 7) else x.credits }
      let z := { y with rxSeq := (x.rxSeq + 1) % 4096, discarding := false }
      let vc := fld flit 34 3
      let key := fld flit 27 7 * 8 + vc
      let data := leBytes 244 (fld flit 64 1952)
      let bytes := if flit.getLsbD 37 then data else SMap.get [] x.streams key ++ data
      let w := { z with owed := SMap.upd 0 x.owed vc (· + 1) }
      (fld flit 0 2 ≠ 1 → fld flit 0 2 ≠ 2 → exec (.linkFlitReceive l flit) s = .next (s.setLink l y)) ∧
      (fld flit 0 2 = 1 ∨ fld flit 0 2 = 2 →
        (fld flit 2 12 ≠ x.rxSeq → exec (.linkFlitReceive l flit) s =
          .next (s.setLink l (if x.discarding then y else { y with nakDue := true, discarding := true }))) ∧
        (fld flit 2 12 = x.rxSeq →
          (fld flit 0 2 = 2 ∨ 6 ≤ vc → exec (.linkFlitReceive l flit) s = .next (s.setLink l z)) ∧
          (fld flit 0 2 = 1 → vc < 6 → exec (.linkFlitReceive l flit) s = .next (match Config.netPacket bytes with
            | none => s.setLink l { w with streams := SMap.put [] x.streams key bytes }
            | some np => (s.setLink l { w with streams := SMap.put [] x.streams key [] }).netArrive l vc np))))) ∧
    (x.state = 2 → x.replayBuf ≠ [] → ∃ s', exec (.linkReplay l) s = .next s' ∧ (s'.link l).replayDue = false ∧
      (s'.link l).replayBuf = x.replayBuf.map (fun f => { f with sends := f.sends + 1 })) ∧
    ((∃ f ∈ x.replayBuf, 8 ≤ f.sends) → exec (.linkFailedAfterReplay l) s = .next (s.linkDown l)) ∧
    ((∀ f ∈ x.replayBuf, f.sends < 8) → exec (.linkFailedAfterReplay l) s = .next s) ∧
    (x.state.toNat < 2 → s.tilesUp = true → s.plant.lost.contains (10 + l.val / 8) = false → ∀ d, s.neighbour l = some d →
      (dev.toNat = d → ∃ s', exec (.linkTrainingEnd l (.up dev link)) s = .next s' ∧ (s'.link l).state = 2 ∧ (s'.link l).farDev = dev ∧
        (∀ v, v < 6 → SMap.get 0 (s'.link l).credits v = 64)) ∧
      (dev.toNat ≠ d → ∃ s', exec (.linkTrainingEnd l (.up dev link)) s = .next s' ∧ (s'.link l).state = 0) ∧
      exec (.linkTrainingEnd l .laneFailed) s = .next (s.trainFailed l) ∧ exec (.linkTrainingEnd l .timedOut) s = .next (s.trainFailed l)) ∧
    ((s.hbmc k).committed = [] → exec (.hbmAccessComplete k up) s = .next s) ∧
    (∀ i r, firstDone (s.hbmc k).committed = some (i, r) → (∀ j ∈ (s.hbmc k).committed, r.done ≤ j.done) ∧
      ∃ s', exec (.hbmAccessComplete k up) s = .next s' ∧ s'.now = max s.now r.done ∧
        ∀ who op, r.kind = .packet who op → who.dev = s.deviceNum → ∃ o, Output.reply who.unit o ∈ s'.out) ∧
    (let key := p.unit * 1024 + packetTarget p.pa.toNat
     let b : State := { s with fabric := { s.fabric with nextSeq := SMap.put 0 s.fabric.nextSeq key (p.seq + 1) } }
     (p.crcOk = true → p.seq = SMap.get 0 s.fabric.nextSeq key → s.fabric.asked.contains (key, p.seq) = false →
       exec (.fabricPacketArrive p) s = .next (if 0x42 ≤ p.tag.toNat then b.reservedTag p.pa.toNat
         else b.serveAccess { dev := s.deviceNum, unit := p.unit } p.tag.toNat p.pa.toNat p.op)) ∧
     ((p.crcOk = false ∨ p.seq ≠ SMap.get 0 s.fabric.nextSeq key) → s.fabric.asked.contains (key, p.seq) = false → ∃ s', exec (.fabricPacketArrive p) s = .next s' ∧
       s'.out = s.out ++ [.resend p.unit p.seq] ∧ s'.fabric.asked = (key, p.seq) :: s.fabric.asked ∧ s'.fabric.nextSeq = s.fabric.nextSeq))

/-- Tier 2. The power plant: TOKEN_RELEASE banks a token in every unit of the tiles that it reaches, at most two (R42, R43), POWER_LOOP_TICK moves
rails and throttle at a boundary of 100 µs, no two at one boundary (R41, R542), the brake throttles at once and its release lifts it from the next
tick on (R544), PACE_WINDOW_END records the readings (R39) and clears the register of a mapped spare (R38), PACE_DEFICIT and OUT_OF_RATING
raise their records (R46, R491), and CLOCK_LOSS takes the island's action once (R48, R49). Completes: TOKEN_RELEASE, POWER_LOOP_TICK,
PWR_BRAKE_ASSERT, PWR_BRAKE_RELEASE, VR_HOT_ASSERT, PACE_WINDOW_END, PACE_DEFICIT, OUT_OF_RATING, CLOCK_LOSS. -/
def Obligations.PowerPlant : Prop :=
  ∀ (s : State) (n : PartId) (t : TileId) (watts : BitVec 16) (r : PaceReading) (what : RatingFault) (i : Fin 15) (b : TileUnit) (ks : SMap Nat),
    let p := s.plant
    (∃ s', exec (.tokenRelease n) s = .next s' ∧ s' = { s with tiles := s'.tiles } ∧
      ∀ j, s'.tile j = if j ∈ s.tokenTiles n then { s.tile j with tokens := bankTokens (s.tile j).tokens } else s.tile j) ∧
    (SMap.get 0 (bankTokens ks) b.num = min 2 (SMap.get 0 ks b.num + 1)) ∧
    (p.ciRunning = true → (s.part n).paceRate ≠ none → s.tokenTiles n = s.tilesOf n) ∧
    (p.ciRunning = false → s.tokenTiles n = [] ∧ exec (.powerLoopTick watts) s = .next s ∧ exec (.paceWindowEnd [r]) s = .next s) ∧
    (p.ciRunning = true → let a := s.atLeast (dueAt 100000 s.now p.nextTick)
      let above := decide (a.envelopeW < watts.toNat) || p.vrHot
      ∃ s', exec (.powerLoopTick watts) s = .next s' ∧ s'.now = a.now ∧ s'.plant.rails = a.loopRails above ∧
        s'.plant.throttle = a.loopThrottle above watts.toNat ∧ s'.plant.vrHot = false ∧ s'.plant.watts = watts ∧ s'.plant.nextTick = a.now + 100000) ∧
    (exec .pwrBrakeAssert s = .next { s with plant := { p with brake := true, throttle := some 340 } }) ∧
    (exec .pwrBrakeRelease s = .next { s with plant := { p with brake := false } }) ∧
    (exec .vrHotAssert s = .next { s with plant := { p with vrHot := true } }) ∧
    (p.ciRunning = true →
      let a := (s.atLeast (dueAt 10000 s.now p.nextWindow)).setPlant (fun p => { p with nextWindow := (s.atLeast (dueAt 10000 s.now p.nextWindow)).now + 10000 })
      exec (.paceWindowEnd []) s = .next a ∧
      (r.monitor.val < 72 ∨ SMap.get 0xFF s.boot.spares (r.monitor.val - 72) = 0xFF → ∃ s', exec (.paceWindowEnd [r]) s = .next s' ∧
        SMap.get {} s'.plant.pace r.monitor = {
          pace := r.rate, railMv := r.railMv, tj := r.tj, valid := true, locked := (if r.monitor.val < 64 then s.lockOf r.monitor else none).isSome }) ∧
      (72 ≤ r.monitor.val → SMap.get 0xFF s.boot.spares (r.monitor.val - 72) ≠ 0xFF →
        exec (.paceWindowEnd [r]) s = .next (a.setPlant (fun p => p.clearPace r.monitor)))) ∧
    (SMap.get 0 p.lowSince t = 0 → exec (.paceDeficit t) s = .next s) ∧
    (SMap.get 0 p.lowSince t ≠ 0 →
      let a := (s.atLeast (SMap.get 0 p.lowSince t - 1 + 100000)).setPlant (fun p => { p with lowSince := SMap.put 0 p.lowSince t 0 })
      let ns := parts64.filter (fun n => s.valid n && (s.part n).paceRate.isSome && (s.tilesOf n).any (fun u => u / 16 == t.val / 16))
      let r : ErrRec := { mkRec 0x0106 1 with tile := t, unit := unitTile t }
      (ns = [] → exec (.paceDeficit t) s = .next a) ∧
      (∀ m, ns = [m] → exec (.paceDeficit t) s = .next (a.partFatal m r)) ∧
      (2 ≤ ns.length → exec (.paceDeficit t) s = .next ((a.fatalTo ns r).countFatal r))) ∧
    (let m := match what with
       | .rail m => (m.val, 2 * m.val)
       | .junction m => (m.val, 2 * m.val + 1)
     (2 ≤ SMap.get 0 p.bad m.2 → exec (.outOfRating what) s = .next (State.devFatal (s.setPlant (fun p => { p with bad := SMap.put 0 p.bad m.2 0 }))
       { mkRec 0x0508 2 with unit := monitorUnit m.1, tile := if m.1 < 64 then m.1 else 0xFF })) ∧
     (SMap.get 0 p.bad m.2 < 2 → exec (.outOfRating what) s = .next s)) ∧
    (p.lost.contains i.val = false →
      let a := s.setPlant (fun p => { p with lost := i.val :: p.lost })
      let r : ErrRec := { mkRec 0x0507 3 with unit := unitIsland i }
      (i.val = 1 → exec (.clockLoss i) s = .next (State.record { a with hostl := { a.hostl with width := 0 } } r)) ∧
      (2 ≤ i.val → i.val < 10 → exec (.clockLoss i) s = .next (a.loseController (i.val - 2) { mkRec 0x0507 1 with unit := unitIsland i })) ∧
      (i.val = 10 ∨ i.val = 11 → ∃ s', exec (.clockLoss i) s = .next s' ∧
        ∀ l, 8 * (i.val - 10) ≤ l → l < 8 * (i.val - 10) + 8 → (s'.link l).state ≠ 1 ∧ (s'.link l).state ≠ 2) ∧
      (i.val = 12 → exec (.clockLoss i) s = .next (a.record r)) ∧
      (i.val = 13 → exec (.clockLoss i) s = .next ((a.setPlant (fun p => { p with ciRunning := false })).devFatal r))) ∧
    (i.val = 0 ∨ i.val = 14 ∨ p.lost.contains i.val = true → exec (.clockLoss i) s = .next s)

/-- Tier 2. The engines: the noise source's samples fill the window and the repetition-count test fails at 81 equal ones (R460), windows end and
restarts run their test (R459–R464), the longest wait times out (R465), an engine slot serves its owner or passes on, and a Strict partition's
unused slot is blank (R76), a known-answer pass is noted or is device-fatal (R485), and a hash job takes a segment of 64 KiB in each of its slots,
writes its digest and ends (R476, R477). Completes: NOISE_SOURCE_SAMPLE, ENTROPY_WINDOW_END, ENTROPY_RESTART, ENTROPY_WAIT_TIMEOUT,
ENGINE_SLOT_START, ENGINE_KAT, HASH_GO, HASH_JOB_COMPLETE. -/
def Obligations.Engines : Prop :=
  ∀ (s : State) (bit : Bool) (w : BitVec 1024) (g : Engine) (k : KatUnit) (n : PartId) (ctl : Word) (j : HashJob),
    let e := s.eng.entropy
    let a := (s.atLeast (ceilDiv s.now 8 * 8)).windowEnd
    let len := if a.eng.entropy.runLen ≠ 0 ∧ a.eng.entropy.runBit = bit then a.eng.entropy.runLen + 1 else 1
    let win := a.eng.entropy.window ++ [bit]
    let same := (win.filter (fun b => b == win.headD bit)).length
    (e.state = 1 → 81 ≤ len → exec (.noiseSourceSample bit) s = .next (a.entropyFail 1)) ∧
    (e.state = 1 → len < 81 → 824 ≤ same → exec (.noiseSourceSample bit) s = .next (a.entropyFail 2)) ∧
    (e.state = 1 → len < 81 → same < 824 → ∃ s', exec (.noiseSourceSample bit) s = .next s' ∧ s' = { a with eng := s'.eng } ∧
      s'.eng.entropy = { a.eng.entropy with window := win, runBit := bit, runLen := len }) ∧
    (e.state ≠ 1 → exec (.noiseSourceSample bit) s = .next s ∧ exec .entropyWindowEnd s = .next s) ∧
    (e.state = 1 → (e.window.length ≠ 1024 → exec .entropyWindowEnd s = .next s) ∧
      (e.window.length = 1024 → ∃ s', exec .entropyWindowEnd s = .next s' ∧ s'.eng.entropy = { e with
        window := [], ready := if e.ready.length < 4 then e.ready ++ [sha384 (windowBytes e.window)] else e.ready })) ∧
    (e.state = 2 → exec (.entropyRestart w) s = .next ((s.atLeast (e.failTime +
      (if e.restarts = 0 then 0 else if e.restarts = 1 then 10000000 else 30000000) + 8192)).entropyTry w)) ∧
    (e.state ≠ 2 → exec (.entropyRestart w) s = .next s) ∧
    (∀ d, s.eng.tasks.find? s.starved = some d → exec .entropyWaitTimeout s = .next ((s.atLeast (d.since + 50000000)).failTask d)) ∧
    (s.eng.tasks.find? s.starved = none → exec .entropyWaitTimeout s = .next s) ∧
    (let q := (engineSlot g).1
     let b := (s.beginSlot g none).2
     let owner := (s.beginSlot g none).1
     let c := b.setArb q { b.arb q with last := owner, blank := false }
     (b.engineReady g owner = true → exec (.engineSlotStart g) s = .next (c.serveSlot g owner)) ∧
     (owner < 64 → b.engineReady g owner = false → b.isStrict owner = true →
       exec (.engineSlotStart g) s = .next (b.setArb q { b.arb q with last := owner, blank := true })) ∧
     (b.anyStrict = true → b.now % (engineSlot g).2 = 0) ∧ owner < 66) ∧
    (∃ s', exec (.engineKat k true) s = .next s' ∧ SMap.get 0 s'.eng.kat (katIndex k) = s'.now ∧ s.now ≤ s'.now ∧ s'.parts = s.parts ∧ s'.ring = s.ring) ∧
    (∃ a : State, exec (.engineKat k false) s = .next (a.devFatal
      { mkRec 0x0502 2 with unit := unitEngine (katIndex k), detail := SMap.get 0 s.eng.kat (katIndex k) })) ∧
    (let v := ctl ||| 0x80000000
     let h := (s.part n).hash
     let r := (s.part n).root
     let b := s.updPart n (fun p => { p with hash := { p.hash with ctl := v &&& 0x1FF03 } })
     let shut := (2 ≤ fld v 0 2 ∧ fld v 8 8 = 0) ∨ v &&& 0xFFFFFFFF7FFE00FC ≠ 0 ∨ h.dst.toNat % 64 ≠ 0 ∨ 2 ^ 38 < h.len.toNat ∨
       (2 ≤ fld v 0 2 ∧ 128 < fld v 8 8)
     (b.hashBusy n = true → exec (.hashGo n ctl) s = .next (b.hashRefuse n .hashBusy)) ∧
     (b.hashBusy n = false → shut → exec (.hashGo n ctl) s = .next (b.hashRefuse n .badLength)) ∧
     (∀ src key dst b1 b2 b3, b.hashBusy n = false → ¬ shut → b.range r .load h.src.toNat h.len.toNat = (src, b1) →
       (if 2 ≤ fld v 0 2 then b1.range r .load h.key.toNat (fld v 8 8) else (some [], b1)) = (key, b2) → b2.range r .store h.dst.toNat 64 = (dst, b3) →
       (src = none ∨ key = none ∨ dst = none → exec (.hashGo n ctl) s = .next (b3.hashRefuse n .unmapped)) ∧
       (∀ x y z, src = some x → key = some y → dst = some z → x.length + y.length + z.length ≤ 4096 →
         ∃ s' j, exec (.hashGo n ctl) s = .next s' ∧ (s'.part n).hash.job = some j ∧ j.src = x ∧ j.key = y ∧ j.dst = z ∧ j.alg = fld v 0 2 ∧
           j.len = h.len.toNat ∧ j.segs = 0 ∧ j.msg = []))) ∧
    ((s.part n).hash.job = none → exec (.hashJobComplete n) s = .next s) ∧
    ((s.part n).hash.job = some j →
      (j.segs < j.segments → exec (.hashJobComplete n) s = .next s ∧
        ∀ bs b, s.readExtents n (cutExtents (65536 * j.segs) 65536 j.src) = (some bs, b) → (b.part n).hash.job = some j →
          ((s.jobSlot n j).part n).hash.job = some { j with segs := j.segs + 1, msg := j.msg ++ bs }) ∧
      (∀ key c ok d, j.segments ≤ j.segs → (s.acting 136).readExtents n j.key = (some key, c) →
        c.writeExtents n j.dst (padTo 64 (jobDigest j.alg key j.msg)) = (ok, d) → (d.part n).hash.job ≠ none → d.net.waits = false →
        exec (.hashJobComplete n) s = .next (s.acted (d.endHash n (if ok then .ok else .notPermitted) j.ien))))

/-! Resets, start-up, attestation and the host's and the board's interfaces. -/

/-- Tier 2. What each reset leaves (R533, R555, R558, R559): a cold reset keeps flash and fuses alone and the timestamp counts anew (R50), a warm
reset keeps the timestamp, the error log and the latched fuse values too, D3hot stops one function's decode, the fall of `PWR_OK` stops the
device with nothing posted, and the loss of power leaves flash and fuses. Completes: COLD_RESET, WARM_RESET, D3HOT_ENTRY, PWR_OK_FALL,
LOSS_OF_POWER. -/
def Obligations.Resets : Prop :=
  ∀ (s : State) (cause : WarmCause) (f : FnId),
    (∃ s', exec .coldReset s = .next s' ∧ s'.now = 0 ∧ s'.pending = s.pending ∧ s'.ring = [] ∧ s'.fatals = [] ∧ s'.mem = [] ∧ s'.tiles = [] ∧
      s'.ledger = [] ∧ s'.boot.state = .reset ∧ s'.boot.cold = true ∧ s'.boot.powerOk = true ∧ s'.cfg.slotA = s.cfg.slotA ∧
      s'.cfg.slotB = s.cfg.slotB ∧ s'.sec.fuseLo = s.sec.fuseLo ∧ s'.sec.fuseHi = s.sec.fuseHi) ∧
    (s.boot.powerOk = true → ∃ s', exec (.warmReset cause) s = .next s' ∧ s'.now = s.now ∧ s'.ring = s.ring ∧ s'.fatals = s.fatals ∧
      s'.recSeq = s.recSeq ∧ s'.ledger = [] ∧ s'.sec.latched = s.sec.latched ∧ s'.sec.udsLocked = s.sec.udsLocked ∧ s'.boot.state = .reset ∧
      s'.boot.cold = s.boot.cold ∧ s'.cfg.slotA = s.cfg.slotA ∧ s'.cfg.slotB = s.cfg.slotB ∧ s'.sec.fuseLo = s.sec.fuseLo ∧
      (s.eng.entropy.state ≠ 3 → s'.eng.entropy.state = 0 ∧ s'.eng.entropy.last = 0) ∧ (s.eng.entropy.state = 3 → s'.eng.entropy.state = 3)) ∧
    (s.boot.powerOk = false → exec (.warmReset cause) s = .next s) ∧
    (∃ s', exec (.d3hotEntry f) s = .next s' ∧ s' = { s with hostl := { s.hostl with d3 := s'.hostl.d3 } } ∧
      ∀ g : Nat, SMap.get false s'.hostl.d3 g = if g = f.val then true else SMap.get false s.hostl.d3 g) ∧
    (s.boot.powerOk = true → ∃ s', exec .pwrOkFall s = .next s' ∧ s'.boot.state = .reset ∧ s'.boot.powerOk = false ∧ s'.boot.opened = false ∧
      s'.out = s.out ∧ s'.now = s.now ∧ (∀ t, t < 64 → (s'.tile t).stopped = true) ∧ (∀ k, k < 8 → (s'.hbmc k).selfRefresh = true) ∧
      s'.cfg.flash = [] ∧ s'.cfg.wait = none ∧ s'.ledger = []) ∧
    (s.boot.powerOk = false → exec .pwrOkFall s = .next s) ∧
    (∃ s', exec .lossOfPower s = .next s' ∧ s'.boot.powerOk = false ∧ s'.mem = [] ∧ s'.ring = [] ∧ s'.cfg.slotA = s.cfg.slotA ∧
      s'.cfg.slotB = s.cfg.slotB ∧ s'.sec.fuseLo = s.sec.fuseLo ∧ s'.sec.fuseHi = s.sec.fuseHi)

/-- Tier 2. Each step of the start-up sequence runs where the steps before it have ended, has its effect and ends (R549): the boot ROM starts
at t0, the host link takes its width and rate (R550), a failed unit counts as failed (R511, R552), pair 0 derives its keys and closes the secret
(R435), the Protected Record is read (R411), pairs are released, the generator starts, HBM is trained and written as zero (R289), and the
configuration comes into force with the mailboxes open (R551). A step whose time has not come changes nothing. Completes: STARTUP_T0,
HOST_LINK_UP, STARTUP_SELF_TEST, FIRMWARE_BUNDLE_LOAD, PROTECTED_RECORD_READ, PAIRS_RELEASE, ENTROPY_STARTUP, HBM_TRAINING, HBM_ZEROING,
CONFIGURATION_APPLY. -/
def Obligations.Startup : Prop :=
  ∀ (s : State) (lanes : Option (Fin 17)) (rate : HostRate) (tf : BitVec 68) (us : List (BitVec 16)) (tests ws : List (BitVec 1024))
    (weak : List WeakFuse),
    (s.boot.state = .reset → s.boot.powerOk = true → ∃ s', exec .startupT0 s = .next s' ∧ s'.boot.state = .booting ∧ s'.boot.t0 = s.now ∧
      s'.boot.cold = false ∧ s'.stepDid 1 = true ∧ s'.stepDid 2 = true ∧ SMap.get [] s'.sec.blocks 1 = Config.bootRomDigest) ∧
    (s.boot.state ≠ .reset ∨ s.boot.powerOk = false → exec .startupT0 s = .next s) ∧
    (s.mayStep 3 [1] = true → s.plant.ciRunning = true → ∃ s', exec (.hostLinkUp lanes rate) s = .next s' ∧ s'.stepDid 3 = true ∧
      s' = { s with boot := s'.boot, hostl := { s.hostl with width := s'.hostl.width, rate := HostRate.gts rate } } ∧
      (lanes = none → s'.hostl.width = 0) ∧
      ∀ n, lanes = some n → s'.hostl.width = if n.val ∈ [1, 4, 8, 16] ∧ s.plant.lost.contains 1 = false then n.val else 0) ∧
    (s.mayStep 3 [1] = false ∨ s.plant.ciRunning = false → exec (.hostLinkUp lanes rate) s = .next s) ∧
    (s.mayStep 4 [2] = true → ∃ s', exec (.startupSelfTest tf us) s = .next s' ∧ s'.stepDid 4 = true ∧ s'.boot.failedPhys = s.boot.failedPhys ||| tf ∧
      s'.boot.sharedFail = us.map (·.toNat)) ∧
    (s.mayStep 4 [2] = false → exec (.startupSelfTest tf us) s = .next s) ∧
    (s.mayStep 5 [2] = true → ∃ s', exec .firmwareBundleLoad s = .next s' ∧ s'.stepDid 5 = true ∧ s'.sec.udsLocked = true ∧
      s'.sec.deviceSecret = beBytes 48 (keyFrom s.sec.uds "AVRAK DEVICEID")) ∧
    (s.mayStep 5 [2] = false → exec .firmwareBundleLoad s = .next s) ∧
    (s.mayStep 6 [5] = true → (s.boot.low = true → exec (.protectedRecordRead weak) s = .next (s.endStep 6)) ∧
      (s.boot.low = false → s.provisioned = true → s.recordInForce = none → exec (.protectedRecordRead weak) s = .next ((s.stayLow 6).endStep 6)) ∧
      (∀ b r, s.boot.low = false → s.provisioned = true → s.recordInForce = some (b, r) →
        let a := { s with cfg := { s.cfg with prot := r, protInB := b, debugSinceCold := s.cfg.debugSinceCold || r.debug == 1 } }
        (∀ slot, a.bootSlot r.auth (fun _ => r.parts) = some slot → exec (.protectedRecordRead weak) s = .next ((a.bootImage slot).endStep 6)) ∧
        (a.bootSlot r.auth (fun _ => r.parts) = none → exec (.protectedRecordRead weak) s = .next ((a.stayLow 7).endStep 6))) ∧
      (s.boot.low = false → s.provisioned = false → s.bootSlot [] (fun img => (imageRecordOf img).parts) = none →
        exec (.protectedRecordRead weak) s = .next ((s.stayLow 7).endStep 6))) ∧
    (s.mayStep 6 [5] = false → exec (.protectedRecordRead weak) s = .next s) ∧
    (s.mayStep 7 [4, 6] = true → s.boot.low = false → ∃ s', exec .pairsRelease s = .next s' ∧ s'.stepDid 7 = true) ∧
    (s.mayStep 7 [4, 6] = false → exec .pairsRelease s = .next s) ∧
    (s.mayStep 8 [7] = true → exec (.entropyStartup tests ws) s = .next ((s.entropyStart tests ws).endStep 8)) ∧
    (s.mayStep 8 [7] = false → exec (.entropyStartup tests ws) s = .next s) ∧
    (s.mayStep 9 [7] = true → s.boot.steps.getLsbD 0 = false → s.boot.lostDies = [] → exec (.hbmTraining []) s = .next (s.endStep 0)) ∧
    (s.mayStep 9 [0, 7] = true → ∃ s', exec .hbmZeroing s = .next s' ∧ s'.stepDid 9 = true ∧
      (∀ a, SMap.get 0 s'.mem a = if a < 2 ^ 38 then 0 else SMap.get 0 s.mem a) ∧ ∀ k, k < 8 → (s'.hbmc k).raw = [] ∧ (s'.hbmc k).nextLine = 0) ∧
    (s.mayStep 9 [0, 7] = false → exec .hbmZeroing s = .next s) ∧
    (s.mayStep 11 (if s.boot.low then [3, 4, 6] else [3, 8, 9]) = true → ∃ s', exec (.configurationApply weak) s = .next s' ∧ s'.boot.opened = true ∧
      ∀ m, m < 65 → (s'.box m).ready = true) ∧
    (s.mayStep 11 (if s.boot.low then [3, 4, 6] else [3, 8, 9]) = false → exec (.configurationApply weak) s = .next s)

/-- Tier 2. The SPDM responder of a function that answers (R437–R442): each request of a connection is answered with what it asks for, in the order
versions, capabilities, algorithms; a request that needs fresh entropy waits for the engines' slots and then gets its signed answer, FINISH
establishes the session, HEARTBEAT, KEY_UPDATE, END_SESSION and IDE_KM are served inside one, and an unlisted request gets UnsupportedRequest. The
parts that DSP0274 fixes, the order among them, are log entry 15's. Completes: GET_VERSION, GET_CAPABILITIES, NEGOTIATE_ALGORITHMS, GET_DIGESTS,
SPDM_UNSUPPORTED_REQUEST, GET_CERTIFICATE, CHALLENGE, GET_MEASUREMENTS, KEY_EXCHANGE, RESPOND_IF_READY, FINISH, HEARTBEAT, KEY_UPDATE,
END_SESSION, SPDM_HEARTBEAT_TIMEOUT, IDE_KM. -/
def Obligations.SpdmRequests : Prop :=
  ∀ (s : State) (f : FnId) (off len block : Nat) (nonce : BitVec 256) (req : BitVec 16) (x : BitVec 768) (id : BitVec 32) (code token : Byte) (st : Fin 66)
    (got : List (List Byte)),
    let at_ (n : Fin 4) : State := s.updResponder f (fun r => { r with conn := n })
    (Responds s f →
      (exec (.getVersion f) s = .next ((at_ 1).spdm f (.version 0x13))) ∧
      ((s.responder f).conn = 1 ∨ (s.responder f).conn = 2 → exec (.getCapabilities f) s = .next ((at_ 2).spdm f (.capabilities spdmCapabilities))) ∧
      ((s.responder f).conn = 2 ∨ (s.responder f).conn = 3 → exec (.negotiateAlgorithms f) s = .next ((at_ 3).spdm f (.algorithms spdmAlgorithms))) ∧
      (exec (.spdmUnsupportedRequest f code) s = .next (s.spdm f (.error .unsupportedRequest))) ∧
      ((s.responder f).conn ≠ 3 →
        ∀ c ∈ [Instr.getDigests f, .getCertificate f 0 off len, .challenge f 0 nonce, .getMeasurements f block true nonce, .keyExchange f req x],
          exec c s = .next (s.spdm f (.error .unexpectedRequest))) ∧
      ((s.responder f).conn = 3 → let a := at_ 3
        (exec (.getDigests f) s = .next (a.spdm f (.digest (sha384 a.chainBytes)))) ∧
        (exec (.getCertificate f 0 off len) s = .next (a.spdm f (if off < a.chainBytes.length then
          .certificate (slice a.chainBytes off len) (a.chainBytes.length - (off + (slice a.chainBytes off len).length)) else .error .invalidRequest))) ∧
        (∀ k b, a.measBlocks f block = some (k, b) → exec (.getMeasurements f block false nonce) s = .next (a.spdm f (.measurements k b [] []))) ∧
        (a.measBlocks f block = none → exec (.getMeasurements f block false nonce) s = .next (a.spdm f (.error .invalidRequest))) ∧
        (s.entropyDead = true → exec (.challenge f 0 nonce) s = .next (a.spdm f (.error .unspecified))) ∧
        (s.eng.entropy.state = 1 →
          exec (.challenge f 0 nonce) s = .next (a.addTask (.spdm f (.challenge nonce)) (spdmNeeds (.challenge nonce))) ∧
          (a.measBlocks f block ≠ none → exec (.getMeasurements f block true nonce) s =
            .next (a.addTask (.spdm f (.measurements block nonce)) (spdmNeeds (.measurements block nonce)))) ∧
          ((s.responder f).sessions.length < 4 → validPoint (beNat (slice (bvBytes x) 0 48)) (beNat (slice (bvBytes x) 48 48)) = true →
            s.boot.floor = 2 → exec (.keyExchange f req x) s = .next (a.addTask (.spdm f (.keyExchange req x)) (spdmNeeds (.keyExchange req x))))) ∧
        (s.eng.entropy.state = 0 ∨ s.eng.entropy.state = 2 → exec (.challenge f 0 nonce) s = .next (a.deferSpdm f (.challenge nonce) s.now)) ∧
        (4 ≤ (s.responder f).sessions.length → exec (.keyExchange f req x) s = .next (a.spdm f (.error .sessionLimitExceeded)))) ∧
      (∀ q, (s.responder f).wait = some q → q.token = token → s.eng.entropy.state = 1 → exec (.respondIfReady f token) s =
        .next ((s.updResponder f (fun r => { r with wait := none })).addTask (.spdm f q.req) (spdmNeeds q.req))) ∧
      ((s.responder f).wait = none → exec (.respondIfReady f token) s = .next (s.spdm f (.error .invalidRequest))) ∧
      (∀ y, s.session f id = some y →
        exec (.finish f id true) s = .next ((s.updSession f id (fun x => { x with established := true, lastSeen := s.now })).spdm f .finish) ∧
        exec (.finish f id false) s = .next ((s.dropSession f id).spdm f (.error .decryptError)) ∧
        (y.established = true →
          exec (.heartbeat f id) s = .next ((s.updSession f id (fun x => { x with lastSeen := s.now })).spdm f .heartbeatAck) ∧
          exec (.keyUpdate f id) s = .next ((s.updSession f id (fun x => { x with updates := x.updates + 1, lastSeen := s.now })).spdm f .keyUpdateAck) ∧
          exec (.endSession f id) s = .next ((s.dropSession f id).spdm f .endSessionAck)))) ∧
    (∃ g : List Byte, (s.finishTask (.spdm f (.challenge nonce)) got).out = (s.spdm f
      (.challengeAuth (got.getD 0 []) (sha384 s.chainBytes) (sha384 (s.measAll f)) g)).out) ∧
    (s.entropyDead = false → (s.responder f).sessions.length < 4 →
      ((s.finishTask (.spdm f (.keyExchange req x)) got).responder f).sessions.map Session.id =
        (s.responder f).sessions.map Session.id ++ [(s.responder f).nextId ++ req]) ∧
    (∀ y, s.session f id = some y → ∃ s', exec (.spdmHeartbeatTimeout f id) s = .next s' ∧ s'.session f id = none ∧
      s'.now = max s.now (y.lastSeen + 60000000000)) ∧
    (InSession s id → (∃ a, exec (.ideKm 64 id st .keyProg) s = .next (State.spdm a 64 .ideKmAck) ∧ (SMap.get {} a.sec.ide st).keyed = true) ∧
      ((SMap.get {} s.sec.ide st).keyed = true → ∃ a, exec (.ideKm 64 id st .setGo) s = .next (State.spdm a 64 .ideKmAck) ∧
        (SMap.get {} a.sec.ide st).secure = true) ∧
      (st.val < 64 → exec (.ideKm 64 id st .setStop) s =
        .next (((s.setSec (fun y => { y with ide := SMap.put {} y.ide st.val {} })).tdiError st.val true).spdm 64 .ideKmAck)) ∧
      (64 ≤ st.val → ∃ a, exec (.ideKm 64 id st .setStop) s = .next (State.spdm a 64 .ideKmAck) ∧ SMap.get {} a.sec.ide st = {}))

/-- Tier 2. The TDISP requests of the PF's responder in a session (R449): LOCK locks an unlocked interface under a new nonce, START runs a
locked one whose nonce is returned, STOP unlocks it, the report is of a locked or running one, and a request in another state is refused.
Completes: GET_TDISP_VERSION, GET_TDISP_CAPABILITIES, GET_DEVICE_INTERFACE_STATE, GET_DEVICE_INTERFACE_REPORT, LOCK_INTERFACE_REQUEST,
START_INTERFACE_REQUEST, STOP_INTERFACE_REQUEST. -/
def Obligations.Interfaces : Prop :=
  ∀ (s : State) (id : BitVec 32) (n : PartId) (nonce : BitVec 256), InSession s id → s.fnExists n = true →
    let t := s.tdi n
    exec (.getTdispVersion 64 id n) s = .next (s.spdm 64 (.tdispVersion 0x10)) ∧
    exec (.getTdispCapabilities 64 id n) s = .next (s.spdm 64 .tdispCapabilities) ∧
    exec (.getDeviceInterfaceState 64 id n) s = .next (s.spdm 64 (.tdispState t.state)) ∧
    (t.state = .configLocked ∨ t.state = .run → exec (.getDeviceInterfaceReport 64 id n) s = .next (s.spdm 64 (.tdispReport n))) ∧
    (t.state ≠ .configLocked → t.state ≠ .run →
      exec (.getDeviceInterfaceReport 64 id n) s = .next (s.spdm 64 (.tdispError .invalidInterfaceState))) ∧
    (t.state = .configUnlocked →
      ∃ (s' : State) (v : BitVec 256), exec (.lockInterfaceRequest 64 id n) s = .next s' ∧ s'.tdi n = { state := .configLocked, nonce := v, session := id } ∧
        Output.spdm 64 (.tdispLock v) ∈ s'.out) ∧
    (t.state ≠ .configUnlocked → exec (.lockInterfaceRequest 64 id n) s = .next (s.spdm 64 (.tdispError .invalidInterfaceState))) ∧
    (t.state = .configLocked →
      (t.nonce = nonce → ∃ a : State, exec (.startInterfaceRequest 64 id n nonce) s = .next (a.spdm 64 .tdispStart) ∧ a.tdi n = { t with state := .run, nonce := 0 }) ∧
      (t.nonce ≠ nonce → exec (.startInterfaceRequest 64 id n nonce) s = .next (s.spdm 64 (.tdispError .invalidNonce)))) ∧
    (t.state ≠ .configLocked → exec (.startInterfaceRequest 64 id n nonce) s = .next (s.spdm 64 (.tdispError .invalidInterfaceState))) ∧
    (¬ (t.state = .run ∧ (s.part n).conf = true) → ∃ a : State, exec (.stopInterfaceRequest 64 id n) s = .next (a.spdm 64 .tdispStop) ∧ a.tdi n = {}) ∧
    (t.state = .run → (s.part n).conf = true → exec (.stopInterfaceRequest 64 id n) s =
      .next (((s.setTdi n {}).spdm 64 .tdispStop).partFatal n { mkRec 0x0505 1 with unit := unitIsland 1 }))

/-- Tier 2. The host's windows: configuration requests set their function's field and answer (R518, R519, R520), ATS_INVALIDATION drops the pages it
names (R531), PF BAR2 reads and writes this device's memory (R522), VF BAR2 the partition's, a read waiting for another device's response (R525), a
write to a VF's mailbox window is kept while REQ is clear (R371), a register unit takes what reaches it, and the check-split windows move raw words
while their bit is set and refuse otherwise (R505, R506). What does not decode answers Unsupported Request. Completes: CONFIGURATION_REQUEST,
ATS_INVALIDATION, PF_BAR2_ACCESS, VF_BAR2_ACCESS, REGISTER_WRITE, CS_RAW_READ, CS_RAW_WRITE. -/
def Obligations.HostWindows : Prop :=
  ∀ (s : State) (f : FnId) (n : PartId) (addr : Word) (size : Nat) (o : BitVec 39) (v : BitVec 36) (bs : List Byte) (len : Nat) (ide b : Bool)
    (wt : CsTarget) (r : BitVec 18) (tag : BitVec 7) (u : BitVec 8) (k : BitVec 24) (j : Fin 3) (w : Word) (q : CfgReq),
    (s.boot.state ≠ .reset → s.stepDid 3 = true → s.hostl.width ≠ 0 →
      (s.fnExists f = true →
        (∃ s', exec (.configurationRequest f (.setMemEnable b)) s = .next s' ∧ s' = { s with
          out := s.out ++ [.tlpDone], hostl := { s.hostl with mse := SMap.put false s.hostl.mse f b } }) ∧
        (∃ s', exec (.configurationRequest f (.setBar j w)) s = .next s' ∧ s'.out = s.out ++ [.tlpDone] ∧
          SMap.get 0 s'.hostl.bars (f.val * 3 + j.val) = w &&& ~~~(BitVec.ofNat 64 (barSize f j - 1))) ∧
        (∃ s' w', exec (.configurationRequest f .readIds) s = .next s' ∧ s' = { s with out := s.out ++ [w'] })) ∧
      (s.fnExists f = false → exec (.configurationRequest f q) s = .next { s with out := s.out ++ [.tlpUnsupported] })) ∧
    (s.boot.state ≠ .reset → s.stepDid 3 = false → exec (.configurationRequest f q) s = .next { s with out := s.out ++ [.tlpRetry] }) ∧
    (∃ s', exec (.atsInvalidation f addr size) s = .next s' ∧ s'.out = s.out ++ [.invalidationDone f] ∧ ∀ e, e ∈ s'.hostl.atc ↔ e ∈ s.hostl.atc ∧
      ¬ (e.1 = f.val ∧ addr.toNat / 4096 * 4096 ≤ 4096 * e.2 ∧ 4096 * e.2 < addr.toNat + size)) ∧
    (s.pfDecodes = true →
      (∀ bs a, tlpOpOk o.toNat (.read len) = true → s.readExtents 0x41 (cutRun 6 (s.pfBar2Pa o) len) = (some bs, a) →
        exec (.pfBar2Access o (.read len)) s = .next { a with out := a.out ++ [.tlpData bs] }) ∧
      (tlpOpOk o.toNat (.write bs) = true → exec (.pfBar2Access o (.write bs)) s =
        .next (s.writePieces (fun s pa b => (s.access 0x41 pa (.write b)).2) (cutRun 6 (s.pfBar2Pa o) bs.length) bs))) ∧
    (s.pfDecodes = false → exec (.pfBar2Access o (.read len)) s = .next (s.unsupported 64)) ∧
    (s.vfDecodes n = true → s.ideOk n ide = true → (s.part n).winEn = true →
      let va := (s.part n).winBase.toNat * 2 ^ 36 + v.toNat
      (tlpOpOk v.toNat (.read len) = true → exec (.vfBar2Access n v (.read len) ide) s = .next (s.retry 136 (fun s => s.vfWindow n va (.read len)))) ∧
      (tlpOpOk v.toNat (.write bs) = true → exec (.vfBar2Access n v (.write bs) ide) s = .next (s.vfWindow n va (.write bs)))) ∧
    (s.vfDecodes n = false ∨ s.ideOk n ide = false ∨ (s.part n).winEn = false →
      exec (.vfBar2Access n v (.read len) ide) s = .next (s.unsupported (Fin.ofNat 65 n.val))) ∧
    (let a := s.winFill n addr.toNat
     (∀ es a1 bs a2, a.range (a.part n).root .load addr.toNat len = (some es, a1) →
       a1.readExtents n ((es.map (fun e => cutRun 6 e.pa e.len)).flatten) = (some bs, a2) →
       s.vfWindow n addr.toNat (.read len) = { a2 with out := a2.out ++ [.tlpData bs] }) ∧
     (∀ es a1, a.range (a.part n).root .store addr.toNat bs.length = (some es, a1) →
       s.vfWindow n addr.toNat (.write bs) = a1.writePieces (fun s pa b => s.vfWrite n pa b) ((es.map (fun e => cutRun 6 e.pa e.len)).flatten) bs) ∧
     (∀ a1, a.range (a.part n).root .store addr.toNat bs.length = (none, a1) → s.vfWindow n addr.toNat (.write bs) = a1.refuse 0x0403 n 0)) ∧
    (s.vfDecodes n = false ∨ s.ideOk n ide = false → exec (.registerWrite (.vfBar0 n r ide) bs) s = .next (if s.fnExists n = true
      then s.unsupported (Fin.ofNat 65 n.val) else { s with out := s.out ++ [.tlpUnsupported] })) ∧
    (s.vfDecodes n = true → s.ideOk n ide = true → r.toNat % 4 = 0 → bs.length % 4 = 0 → bs ≠ [] → bs.length ≤ 512 → r.toNat + bs.length ≤ 0x1000 →
      ((s.box n).bellReq = false → ∃ s', exec (.registerWrite (.vfBar0 n r ide) bs) s = .next s' ∧
        (∀ j, j < bs.length → SMap.get 0 (s'.box n).req (r.toNat + j) = bs.getD j 0) ∧ (s'.box n).bellReq = false) ∧
      ((s.box n).bellReq = true → exec (.registerWrite (.vfBar0 n r ide) bs) s = .next s)) ∧
    (let pa := s.deviceNum * 2 ^ 46 + 2 * 2 ^ 44 + u.toNat * 2 ^ 24 + k.toNat
     exec (.registerWrite (.unit tag u k) bs) s =
      .next (if 0x42 ≤ tag.toNat then s.reservedTag pa else (s.accessBox tag.toNat pa (.write bs)).2)) ∧
    ((s.csState wt).2 = true → ∀ e ∈ [(Instr.csRawRead wt), (.csRawWrite wt)], ∃ s', exec e s = .next s' ∧ match wt with
      | .tile t => (s'.tile t).csDone = true
      | .hbm k => (s'.hbmc k).csDone = true) ∧
    ((s.csState wt).2 = false → ∀ e ∈ [(Instr.csRawRead wt), (.csRawWrite wt)],
      exec e s = .next (s.refuse 0x0403 0x41 (s.deviceNum * 2 ^ 46 + 2 * 2 ^ 44 + (s.csState wt).1)))

/-- Tier 2. The board's ports: a power cap is 0 or at least 1,100 W (R536), the registers read as they stand and `FLAGS` and `THERM` note what was read
(R535), the TAP offers BYPASS and IDCODE always and boundary scan and debug only where they are available (R451, R539), and the console takes a
byte only while debug is available (R538); the I3C target and the console need CI12's clock (R49). Completes: I3C_WRITE_CAP_W, I3C_READ_FLAGS,
TAP_INSTRUCTION, UART_INPUT. -/
def Obligations.BoardPorts : Prop :=
  ∀ (s : State) (w : BitVec 16) (x : Byte) (op : TapOp) (r : I3cReg),
    (s.i3cUp = true → (∃ s', exec (.i3cWriteCapW w) s = .next s' ∧ s' = { s with board := { s.board with capW := s'.board.capW } } ∧
        (w = 0 → s'.board.capW = 0) ∧ (w ≠ 0 → s'.board.capW.toNat = max 1100 w.toNat)) ∧
      ∃ s', exec (.i3cReadFlags r) s = .next s' ∧
        s' = { s with out := s.out ++ [.i3c (s'.i3cValue r)], board := { s.board with flagsRead := s'.board.flagsRead, thermRead := s'.board.thermRead } } ∧
        s'.i3cValue r = s.i3cValue r ∧ (r = .flags → s'.alert = false) ∧ (r = .therm → s'.board.thermRead = s.plant.therm)) ∧
    (s.i3cUp = false → exec (.i3cWriteCapW w) s = .next s ∧ exec (.i3cReadFlags r) s = .next s ∧ exec (.uartInput x) s = .next s) ∧
    (∃ s', exec (.tapInstruction op) s = .next s' ∧ s' = { s with out := s'.out, board := { s.board with tapIr := s'.board.tapIr } } ∧
      (s'.board.tapIr = op ∨ s'.board.tapIr = .bypass) ∧ (s.anyConf = true → s'.board.tapIr = .bypass ∨ s'.board.tapIr = .idcode) ∧
      (op = .bypass ∨ op = .idcode → s'.board.tapIr = op) ∧ (op = .idcode → s'.out = s.out ++ [.tap Config.idcode])) ∧
    (s.debugOn = true → s.i3cUp = true → exec (.uartInput x) s = .next { s with board := { s.board with uart := s.board.uart ++ [x] } }) ∧
    (s.debugOn = false → exec (.uartInput x) s = .next s)
end

