-- ==== Sys2Proof/Laws/Exec.lean ====
section
/-!
SUPPORT. exec on each command is its meaning, one equation per command, so that no proof unfolds the whole match.
-/

namespace Sys2Proof.Machine

variable (s : State)

@[simp] theorem exec_coldReset : exec (.coldReset) s = execColdReset s := rfl
@[simp] theorem exec_warmReset a0 : exec (.warmReset a0) s = execWarmReset a0 s := rfl
@[simp] theorem exec_vfFlr a0 : exec (.vfFlr a0) s = execVfFlr a0 s := rfl
@[simp] theorem exec_d3hotEntry a0 : exec (.d3hotEntry a0) s = execD3hotEntry a0 s := rfl
@[simp] theorem exec_startupT0 : exec (.startupT0) s = execStartupT0 s := rfl
@[simp] theorem exec_hostLinkUp a0 a1 : exec (.hostLinkUp a0 a1) s = execHostLinkUp a0 a1 s := rfl
@[simp] theorem exec_startupSelfTest a0 a1 : exec (.startupSelfTest a0 a1) s = execStartupSelfTest a0 a1 s := rfl
@[simp] theorem exec_firmwareBundleLoad : exec (.firmwareBundleLoad) s = execFirmwareBundleLoad s := rfl
@[simp] theorem exec_protectedRecordRead a0 : exec (.protectedRecordRead a0) s = execProtectedRecordRead a0 s := rfl
@[simp] theorem exec_pairsRelease : exec (.pairsRelease) s = execPairsRelease s := rfl
@[simp] theorem exec_entropyStartup a0 a1 : exec (.entropyStartup a0 a1) s = execEntropyStartup a0 a1 s := rfl
@[simp] theorem exec_hbmTraining a0 : exec (.hbmTraining a0) s = execHbmTraining a0 s := rfl
@[simp] theorem exec_hbmZeroing : exec (.hbmZeroing) s = execHbmZeroing s := rfl
@[simp] theorem exec_configurationApply a0 : exec (.configurationApply a0) s = execConfigurationApply a0 s := rfl
@[simp] theorem exec_pwrOkFall : exec (.pwrOkFall) s = execPwrOkFall s := rfl
@[simp] theorem exec_pwrBrakeAssert : exec (.pwrBrakeAssert) s = execPwrBrakeAssert s := rfl
@[simp] theorem exec_pwrBrakeRelease : exec (.pwrBrakeRelease) s = execPwrBrakeRelease s := rfl
@[simp] theorem exec_vrHotAssert : exec (.vrHotAssert) s = execVrHotAssert s := rfl
@[simp] theorem exec_clockLoss a0 : exec (.clockLoss a0) s = execClockLoss a0 s := rfl
@[simp] theorem exec_paceWindowEnd a0 : exec (.paceWindowEnd a0) s = execPaceWindowEnd a0 s := rfl
@[simp] theorem exec_powerLoopTick a0 : exec (.powerLoopTick a0) s = execPowerLoopTick a0 s := rfl
@[simp] theorem exec_paceDeficit a0 : exec (.paceDeficit a0) s = execPaceDeficit a0 s := rfl
@[simp] theorem exec_outOfRating a0 : exec (.outOfRating a0) s = execOutOfRating a0 s := rfl
@[simp] theorem exec_hbmTempRead a0 : exec (.hbmTempRead a0) s = execHbmTempRead a0 s := rfl
@[simp] theorem exec_hbmThermal a0 : exec (.hbmThermal a0) s = execHbmThermal a0 s := rfl
@[simp] theorem exec_tokenRelease a0 : exec (.tokenRelease a0) s = execTokenRelease a0 s := rfl
@[simp] theorem exec_healthPassDue a0 : exec (.healthPassDue a0) s = execHealthPassDue a0 s := rfl
@[simp] theorem exec_healthPassStart a0 : exec (.healthPassStart a0) s = execHealthPassStart a0 s := rfl
@[simp] theorem exec_journalThreshold a0 : exec (.journalThreshold a0) s = execJournalThreshold a0 s := rfl
@[simp] theorem exec_healthPassEnd a0 a1 : exec (.healthPassEnd a0 a1) s = execHealthPassEnd a0 a1 s := rfl
@[simp] theorem exec_closingPassEnd a0 a1 : exec (.closingPassEnd a0 a1) s = execClosingPassEnd a0 a1 s := rfl
@[simp] theorem exec_recallNoticePost a0 a1 : exec (.recallNoticePost a0 a1) s = execRecallNoticePost a0 a1 s := rfl
@[simp] theorem exec_faultEventPost a0 : exec (.faultEventPost a0) s = execFaultEventPost a0 s := rfl
@[simp] theorem exec_stallDeclare a0 a1 a2 : exec (.stallDeclare a0 a1 a2) s = execStallDeclare a0 a1 a2 s := rfl
@[simp] theorem exec_acmScrubRead a0 a1 : exec (.acmScrubRead a0 a1) s = execAcmScrubRead a0 a1 s := rfl
@[simp] theorem exec_lsScrubRead a0 a1 : exec (.lsScrubRead a0 a1) s = execLsScrubRead a0 a1 s := rfl
@[simp] theorem exec_hbmScrubRead a0 a1 : exec (.hbmScrubRead a0 a1) s = execHbmScrubRead a0 a1 s := rfl
@[simp] theorem exec_hbmRefresh a0 : exec (.hbmRefresh a0) s = execHbmRefresh a0 s := rfl
@[simp] theorem exec_hbmDieLost a0 a1 : exec (.hbmDieLost a0 a1) s = execHbmDieLost a0 a1 s := rfl
@[simp] theorem exec_arbiterSlotStart a0 a1 : exec (.arbiterSlotStart a0 a1) s = execArbiterSlotStart a0 a1 s := rfl
@[simp] theorem exec_hbmAccessComplete a0 a1 : exec (.hbmAccessComplete a0 a1) s = execHbmAccessComplete a0 a1 s := rfl
@[simp] theorem exec_engineSlotStart a0 : exec (.engineSlotStart a0) s = execEngineSlotStart a0 s := rfl
@[simp] theorem exec_engineKat a0 a1 : exec (.engineKat a0 a1) s = execEngineKat a0 a1 s := rfl
@[simp] theorem exec_admissionWindow a0 : exec (.admissionWindow a0) s = execAdmissionWindow a0 s := rfl
@[simp] theorem exec_strictMailboxPost a0 : exec (.strictMailboxPost a0) s = execStrictMailboxPost a0 s := rfl
@[simp] theorem exec_entropyWindowEnd : exec (.entropyWindowEnd) s = execEntropyWindowEnd s := rfl
@[simp] theorem exec_entropyRestart a0 : exec (.entropyRestart a0) s = execEntropyRestart a0 s := rfl
@[simp] theorem exec_entropyWaitTimeout : exec (.entropyWaitTimeout) s = execEntropyWaitTimeout s := rfl
@[simp] theorem exec_linkFlitSend a0 : exec (.linkFlitSend a0) s = execLinkFlitSend a0 s := rfl
@[simp] theorem exec_linkFlitReceive a0 a1 : exec (.linkFlitReceive a0 a1) s = execLinkFlitReceive a0 a1 s := rfl
@[simp] theorem exec_linkReplay a0 : exec (.linkReplay a0) s = execLinkReplay a0 s := rfl
@[simp] theorem exec_linkFailedAfterReplay a0 : exec (.linkFailedAfterReplay a0) s = execLinkFailedAfterReplay a0 s := rfl
@[simp] theorem exec_linkTrainingEnd a0 a1 : exec (.linkTrainingEnd a0 a1) s = execLinkTrainingEnd a0 a1 s := rfl
@[simp] theorem exec_fabricPacketArrive a0 : exec (.fabricPacketArrive a0) s = execFabricPacketArrive a0 s := rfl
@[simp] theorem exec_sqTailWrite a0 a1 a2 : exec (.sqTailWrite a0 a1 a2) s = execSqTailWrite a0 a1 a2 s := rfl
@[simp] theorem exec_cqHeadWrite a0 a1 a2 : exec (.cqHeadWrite a0 a1 a2) s = execCqHeadWrite a0 a1 a2 s := rfl
@[simp] theorem exec_submitPass a0 a1 a2 a3 : exec (.submitPass a0 a1 a2 a3) s = execSubmitPass a0 a1 a2 a3 s := rfl
@[simp] theorem exec_submitMove a0 a1 a2 : exec (.submitMove a0 a1 a2) s = execSubmitMove a0 a1 a2 s := rfl
@[simp] theorem exec_submitStream a0 a1 a2 : exec (.submitStream a0 a1 a2) s = execSubmitStream a0 a1 a2 s := rfl
@[simp] theorem exec_submitStreamClose a0 a1 a2 : exec (.submitStreamClose a0 a1 a2) s = execSubmitStreamClose a0 a1 a2 s := rfl
@[simp] theorem exec_dispatch a0 : exec (.dispatch a0) s = execDispatch a0 s := rfl
@[simp] theorem exec_moveDispatch a0 : exec (.moveDispatch a0) s = execMoveDispatch a0 s := rfl
@[simp] theorem exec_passStart a0 : exec (.passStart a0) s = execPassStart a0 s := rfl
@[simp] theorem exec_completionReady a0 : exec (.completionReady a0) s = execCompletionReady a0 s := rfl
@[simp] theorem exec_completionPost a0 : exec (.completionPost a0) s = execCompletionPost a0 s := rfl
@[simp] theorem exec_streamNextPass a0 : exec (.streamNextPass a0) s = execStreamNextPass a0 s := rfl
@[simp] theorem exec_queueDmaFailure a0 a1 a2 : exec (.queueDmaFailure a0 a1 a2) s = execQueueDmaFailure a0 a1 a2 s := rfl
@[simp] theorem exec_atsInvalidation a0 a1 a2 : exec (.atsInvalidation a0 a1 a2) s = execAtsInvalidation a0 a1 a2 s := rfl
@[simp] theorem exec_l1FillComplete a0 a1 a2 : exec (.l1FillComplete a0 a1 a2) s = execL1FillComplete a0 a1 a2 s := rfl
@[simp] theorem exec_talonFillComplete a0 a1 a2 : exec (.talonFillComplete a0 a1 a2) s = execTalonFillComplete a0 a1 a2 s := rfl
@[simp] theorem exec_discardWritebackAck a0 a1 a2 : exec (.discardWritebackAck a0 a1 a2) s = execDiscardWritebackAck a0 a1 a2 s := rfl
@[simp] theorem exec_tlbWalkComplete a0 a1 a2 : exec (.tlbWalkComplete a0 a1 a2) s = execTlbWalkComplete a0 a1 a2 s := rfl
@[simp] theorem exec_deferredFault a0 a1 a2 : exec (.deferredFault a0 a1 a2) s = execDeferredFault a0 a1 a2 s := rfl
@[simp] theorem exec_integerAlu a0 a1 a2 : exec (.integerAlu a0 a1 a2) s = execIntegerAlu a0 a1 a2 s := rfl
@[simp] theorem exec_aluImmediate a0 a1 a2 : exec (.aluImmediate a0 a1 a2) s = execAluImmediate a0 a1 a2 s := rfl
@[simp] theorem exec_shiftImmediate a0 a1 a2 : exec (.shiftImmediate a0 a1 a2) s = execShiftImmediate a0 a1 a2 s := rfl
@[simp] theorem exec_movhi a0 a1 a2 : exec (.movhi a0 a1 a2) s = execMovhi a0 a1 a2 s := rfl
@[simp] theorem exec_pcrel a0 a1 a2 : exec (.pcrel a0 a1 a2) s = execPcrel a0 a1 a2 s := rfl
@[simp] theorem exec_multiplyDivide a0 a1 a2 : exec (.multiplyDivide a0 a1 a2) s = execMultiplyDivide a0 a1 a2 s := rfl
@[simp] theorem exec_load a0 a1 a2 : exec (.load a0 a1 a2) s = execLoad a0 a1 a2 s := rfl
@[simp] theorem exec_store a0 a1 a2 : exec (.store a0 a1 a2) s = execStore a0 a1 a2 s := rfl
@[simp] theorem exec_atomic a0 a1 a2 : exec (.atomic a0 a1 a2) s = execAtomic a0 a1 a2 s := rfl
@[simp] theorem exec_branch a0 a1 a2 : exec (.branch a0 a1 a2) s = execBranch a0 a1 a2 s := rfl
@[simp] theorem exec_jl a0 a1 a2 : exec (.jl a0 a1 a2) s = execJl a0 a1 a2 s := rfl
@[simp] theorem exec_jlr a0 a1 a2 : exec (.jlr a0 a1 a2) s = execJlr a0 a1 a2 s := rfl
@[simp] theorem exec_trap a0 a1 a2 : exec (.trap a0 a1 a2) s = execTrap a0 a1 a2 s := rfl
@[simp] theorem exec_tret a0 a1 a2 : exec (.tret a0 a1 a2) s = execTret a0 a1 a2 s := rfl
@[simp] theorem exec_rdtime a0 a1 a2 : exec (.rdtime a0 a1 a2) s = execRdtime a0 a1 a2 s := rfl
@[simp] theorem exec_pdone a0 a1 a2 : exec (.pdone a0 a1 a2) s = execPdone a0 a1 a2 s := rfl
@[simp] theorem exec_brk a0 a1 a2 : exec (.brk a0 a1 a2) s = execBrk a0 a1 a2 s := rfl
@[simp] theorem exec_tcrr a0 a1 a2 : exec (.tcrr a0 a1 a2) s = execTcrr a0 a1 a2 s := rfl
@[simp] theorem exec_tcrw a0 a1 a2 : exec (.tcrw a0 a1 a2) s = execTcrw a0 a1 a2 s := rfl
@[simp] theorem exec_fenceRel a0 a1 a2 : exec (.fenceRel a0 a1 a2) s = execFenceRel a0 a1 a2 s := rfl
@[simp] theorem exec_fenceAcq a0 a1 a2 : exec (.fenceAcq a0 a1 a2) s = execFenceAcq a0 a1 a2 s := rfl
@[simp] theorem exec_fenceRelAll a0 a1 a2 : exec (.fenceRelAll a0 a1 a2) s = execFenceRelAll a0 a1 a2 s := rfl
@[simp] theorem exec_fenceAcqAll a0 a1 a2 : exec (.fenceAcqAll a0 a1 a2) s = execFenceAcqAll a0 a1 a2 s := rfl
@[simp] theorem exec_cpf a0 a1 a2 : exec (.cpf a0 a1 a2) s = execCpf a0 a1 a2 s := rfl
@[simp] theorem exec_cwb a0 a1 a2 : exec (.cwb a0 a1 a2) s = execCwb a0 a1 a2 s := rfl
@[simp] theorem exec_cwbi a0 a1 a2 : exec (.cwbi a0 a1 a2) s = execCwbi a0 a1 a2 s := rfl
@[simp] theorem exec_czero a0 a1 a2 : exec (.czero a0 a1 a2) s = execCzero a0 a1 a2 s := rfl
@[simp] theorem exec_iinv a0 a1 a2 : exec (.iinv a0 a1 a2) s = execIinv a0 a1 a2 s := rfl
@[simp] theorem exec_iinvAll a0 a1 a2 : exec (.iinvAll a0 a1 a2) s = execIinvAll a0 a1 a2 s := rfl
@[simp] theorem exec_fpArithmetic a0 a1 a2 : exec (.fpArithmetic a0 a1 a2) s = execFpArithmetic a0 a1 a2 s := rfl
@[simp] theorem exec_fpSign a0 a1 a2 : exec (.fpSign a0 a1 a2) s = execFpSign a0 a1 a2 s := rfl
@[simp] theorem exec_fpFused a0 a1 a2 : exec (.fpFused a0 a1 a2) s = execFpFused a0 a1 a2 s := rfl
@[simp] theorem exec_fpConversion a0 a1 a2 : exec (.fpConversion a0 a1 a2) s = execFpConversion a0 a1 a2 s := rfl
@[simp] theorem exec_fkind a0 a1 a2 : exec (.fkind a0 a1 a2) s = execFkind a0 a1 a2 s := rfl
@[simp] theorem exec_setvl a0 a1 a2 : exec (.setvl a0 a1 a2) s = execSetvl a0 a1 a2 s := rfl
@[simp] theorem exec_vgetvl a0 a1 a2 : exec (.vgetvl a0 a1 a2) s = execVgetvl a0 a1 a2 s := rfl
@[simp] theorem exec_vld a0 a1 a2 : exec (.vld a0 a1 a2) s = execVld a0 a1 a2 s := rfl
@[simp] theorem exec_vldu a0 a1 a2 : exec (.vldu a0 a1 a2) s = execVldu a0 a1 a2 s := rfl
@[simp] theorem exec_vldFf a0 a1 a2 : exec (.vldFf a0 a1 a2) s = execVldFf a0 a1 a2 s := rfl
@[simp] theorem exec_vlx a0 a1 a2 : exec (.vlx a0 a1 a2) s = execVlx a0 a1 a2 s := rfl
@[simp] theorem exec_vst a0 a1 a2 : exec (.vst a0 a1 a2) s = execVst a0 a1 a2 s := rfl
@[simp] theorem exec_vstu a0 a1 a2 : exec (.vstu a0 a1 a2) s = execVstu a0 a1 a2 s := rfl
@[simp] theorem exec_vsx a0 a1 a2 : exec (.vsx a0 a1 a2) s = execVsx a0 a1 a2 s := rfl
@[simp] theorem exec_vectorInteger a0 a1 a2 : exec (.vectorInteger a0 a1 a2) s = execVectorInteger a0 a1 a2 s := rfl
@[simp] theorem exec_vmerge a0 a1 a2 : exec (.vmerge a0 a1 a2) s = execVmerge a0 a1 a2 s := rfl
@[simp] theorem exec_vectorCompare a0 a1 a2 : exec (.vectorCompare a0 a1 a2) s = execVectorCompare a0 a1 a2 s := rfl
@[simp] theorem exec_vectorFloat a0 a1 a2 : exec (.vectorFloat a0 a1 a2) s = execVectorFloat a0 a1 a2 s := rfl
@[simp] theorem exec_vfcvtFrom a0 a1 a2 : exec (.vfcvtFrom a0 a1 a2) s = execVfcvtFrom a0 a1 a2 s := rfl
@[simp] theorem exec_vfcvtTo a0 a1 a2 : exec (.vfcvtTo a0 a1 a2) s = execVfcvtTo a0 a1 a2 s := rfl
@[simp] theorem exec_vfcvtInteger a0 a1 a2 : exec (.vfcvtInteger a0 a1 a2) s = execVfcvtInteger a0 a1 a2 s := rfl
@[simp] theorem exec_maskLogic a0 a1 a2 : exec (.maskLogic a0 a1 a2) s = execMaskLogic a0 a1 a2 s := rfl
@[simp] theorem exec_kpopcKfirst a0 a1 a2 : exec (.kpopcKfirst a0 a1 a2) s = execKpopcKfirst a0 a1 a2 s := rfl
@[simp] theorem exec_vlmVsm a0 a1 a2 : exec (.vlmVsm a0 a1 a2) s = execVlmVsm a0 a1 a2 s := rfl
@[simp] theorem exec_vectorReduction a0 a1 a2 : exec (.vectorReduction a0 a1 a2) s = execVectorReduction a0 a1 a2 s := rfl
@[simp] theorem exec_vectorScalarMove a0 a1 a2 : exec (.vectorScalarMove a0 a1 a2) s = execVectorScalarMove a0 a1 a2 s := rfl
@[simp] theorem exec_vectorPermutation a0 a1 a2 : exec (.vectorPermutation a0 a1 a2) s = execVectorPermutation a0 a1 a2 s := rfl
@[simp] theorem exec_vxDeal a0 a1 a2 : exec (.vxDeal a0 a1 a2) s = execVxDeal a0 a1 a2 s := rfl
@[simp] theorem exec_vxCombinePut a0 a1 a2 : exec (.vxCombinePut a0 a1 a2) s = execVxCombinePut a0 a1 a2 s := rfl
@[simp] theorem exec_vxCombineSum a0 a1 a2 : exec (.vxCombineSum a0 a1 a2) s = execVxCombineSum a0 a1 a2 s := rfl
@[simp] theorem exec_mxLdw a0 a1 a2 a3 : exec (.mxLdw a0 a1 a2 a3) s = execMxLdw a0 a1 a2 a3 s := rfl
@[simp] theorem exec_mxRun a0 a1 a2 a3 : exec (.mxRun a0 a1 a2 a3) s = execMxRun a0 a1 a2 a3 s := rfl
@[simp] theorem exec_mxDrain a0 a1 a2 a3 : exec (.mxDrain a0 a1 a2 a3) s = execMxDrain a0 a1 a2 a3 s := rfl
@[simp] theorem exec_mxZero a0 a1 a2 a3 : exec (.mxZero a0 a1 a2 a3) s = execMxZero a0 a1 a2 a3 s := rfl
@[simp] theorem exec_mxSwap a0 a1 a2 a3 : exec (.mxSwap a0 a1 a2 a3) s = execMxSwap a0 a1 a2 a3 s := rfl
@[simp] theorem exec_chainStepStart a0 : exec (.chainStepStart a0) s = execChainStepStart a0 s := rfl
@[simp] theorem exec_chainPacketReceive a0 a1 a2 : exec (.chainPacketReceive a0 a1 a2) s = execChainPacketReceive a0 a1 a2 s := rfl
@[simp] theorem exec_chainDoneReceive a0 a1 : exec (.chainDoneReceive a0 a1) s = execChainDoneReceive a0 a1 s := rfl
@[simp] theorem exec_chainBreakReceive a0 a1 a2 : exec (.chainBreakReceive a0 a1 a2) s = execChainBreakReceive a0 a1 a2 s := rfl
@[simp] theorem exec_chainWaitExpiry a0 : exec (.chainWaitExpiry a0) s = execChainWaitExpiry a0 s := rfl
@[simp] theorem exec_chainRecallReceive a0 : exec (.chainRecallReceive a0) s = execChainRecallReceive a0 s := rfl
@[simp] theorem exec_chainRecallResend : exec (.chainRecallResend) s = execChainRecallResend s := rfl
@[simp] theorem exec_chainLogAging : exec (.chainLogAging) s = execChainLogAging s := rfl
@[simp] theorem exec_rootDrained a0 : exec (.rootDrained a0) s = execRootDrained a0 s := rfl
@[simp] theorem exec_mapUpdateDrainTimeout a0 : exec (.mapUpdateDrainTimeout a0) s = execMapUpdateDrainTimeout a0 s := rfl
@[simp] theorem exec_regionUpdateStart a0 : exec (.regionUpdateStart a0) s = execRegionUpdateStart a0 s := rfl
@[simp] theorem exec_regionUpdateComplete a0 : exec (.regionUpdateComplete a0) s = execRegionUpdateComplete a0 s := rfl
@[simp] theorem exec_regionRetireComplete a0 : exec (.regionRetireComplete a0) s = execRegionRetireComplete a0 s := rfl
@[simp] theorem exec_hashGo a0 a1 : exec (.hashGo a0 a1) s = execHashGo a0 a1 s := rfl
@[simp] theorem exec_hashJobComplete a0 : exec (.hashJobComplete a0) s = execHashJobComplete a0 s := rfl
@[simp] theorem exec_quietPointReached a0 : exec (.quietPointReached a0) s = execQuietPointReached a0 s := rfl
@[simp] theorem exec_quietTimeout a0 : exec (.quietTimeout a0) s = execQuietTimeout a0 s := rfl
@[simp] theorem exec_protectedRecordWritten : exec (.protectedRecordWritten) s = execProtectedRecordWritten s := rfl
@[simp] theorem exec_proposalExpiry a0 : exec (.proposalExpiry a0) s = execProposalExpiry a0 s := rfl
@[simp] theorem exec_restartPassEnd a0 a1 : exec (.restartPassEnd a0 a1) s = execRestartPassEnd a0 a1 s := rfl
@[simp] theorem exec_mbxBellReq a0 : exec (.mbxBellReq a0) s = execMbxBellReq a0 s := rfl
@[simp] theorem exec_mbxMessageTake a0 a1 : exec (.mbxMessageTake a0 a1) s = execMbxMessageTake a0 a1 s := rfl
@[simp] theorem exec_mbxBellRspDone a0 : exec (.mbxBellRspDone a0) s = execMbxBellRspDone a0 s := rfl
@[simp] theorem exec_mbxEvtHeadWrite a0 a1 : exec (.mbxEvtHeadWrite a0 a1) s = execMbxEvtHeadWrite a0 a1 s := rfl
@[simp] theorem exec_segmentGapTimeout a0 : exec (.segmentGapTimeout a0) s = execSegmentGapTimeout a0 s := rfl
@[simp] theorem exec_devInfo a0 a1 : exec (.devInfo a0 a1) s = execDevInfo a0 a1 s := rfl
@[simp] theorem exec_devStatus a0 a1 : exec (.devStatus a0 a1) s = execDevStatus a0 a1 s := rfl
@[simp] theorem exec_paceReport a0 a1 : exec (.paceReport a0 a1) s = execPaceReport a0 a1 s := rfl
@[simp] theorem exec_configLoad a0 a1 a2 : exec (.configLoad a0 a1 a2) s = execConfigLoad a0 a1 a2 s := rfl
@[simp] theorem exec_setMode a0 a1 : exec (.setMode a0 a1) s = execSetMode a0 a1 s := rfl
@[simp] theorem exec_configRead a0 a1 : exec (.configRead a0 a1) s = execConfigRead a0 a1 s := rfl
@[simp] theorem exec_protectPropose a0 a1 : exec (.protectPropose a0 a1) s = execProtectPropose a0 a1 s := rfl
@[simp] theorem exec_protectApprove a0 a1 : exec (.protectApprove a0 a1) s = execProtectApprove a0 a1 s := rfl
@[simp] theorem exec_protectCommit a0 a1 : exec (.protectCommit a0 a1) s = execProtectCommit a0 a1 s := rfl
@[simp] theorem exec_protectWithdraw a0 a1 : exec (.protectWithdraw a0 a1) s = execProtectWithdraw a0 a1 s := rfl
@[simp] theorem exec_authorityList a0 a1 : exec (.authorityList a0 a1) s = execAuthorityList a0 a1 s := rfl
@[simp] theorem exec_mapUpdate a0 a1 : exec (.mapUpdate a0 a1) s = execMapUpdate a0 a1 s := rfl
@[simp] theorem exec_regionCreate a0 a1 : exec (.regionCreate a0 a1) s = execRegionCreate a0 a1 s := rfl
@[simp] theorem exec_regionUpdate a0 a1 : exec (.regionUpdate a0 a1) s = execRegionUpdate a0 a1 s := rfl
@[simp] theorem exec_regionRetire a0 a1 : exec (.regionRetire a0 a1) s = execRegionRetire a0 a1 s := rfl
@[simp] theorem exec_regionStatus a0 a1 : exec (.regionStatus a0 a1) s = execRegionStatus a0 a1 s := rfl
@[simp] theorem exec_queueCreate a0 a1 : exec (.queueCreate a0 a1) s = execQueueCreate a0 a1 s := rfl
@[simp] theorem exec_queueDestroy a0 a1 : exec (.queueDestroy a0 a1) s = execQueueDestroy a0 a1 s := rfl
@[simp] theorem exec_anteSet a0 a1 : exec (.anteSet a0 a1) s = execAnteSet a0 a1 s := rfl
@[simp] theorem exec_ledgerQuery a0 a1 : exec (.ledgerQuery a0 a1) s = execLedgerQuery a0 a1 s := rfl
@[simp] theorem exec_chainDefine a0 a1 : exec (.chainDefine a0 a1) s = execChainDefine a0 a1 s := rfl
@[simp] theorem exec_chainRelease a0 a1 : exec (.chainRelease a0 a1) s = execChainRelease a0 a1 s := rfl
@[simp] theorem exec_attestDevice a0 a1 : exec (.attestDevice a0 a1) s = execAttestDevice a0 a1 s := rfl
@[simp] theorem exec_attestPartition a0 a1 : exec (.attestPartition a0 a1) s = execAttestPartition a0 a1 s := rfl
@[simp] theorem exec_grainSeed a0 a1 : exec (.grainSeed a0 a1) s = execGrainSeed a0 a1 s := rfl
@[simp] theorem exec_keyInstall a0 a1 : exec (.keyInstall a0 a1) s = execKeyInstall a0 a1 s := rfl
@[simp] theorem exec_confidentialEnter a0 a1 : exec (.confidentialEnter a0 a1) s = execConfidentialEnter a0 a1 s := rfl
@[simp] theorem exec_errorLogRead a0 a1 : exec (.errorLogRead a0 a1) s = execErrorLogRead a0 a1 s := rfl
@[simp] theorem exec_partitionRestart a0 a1 : exec (.partitionRestart a0 a1) s = execPartitionRestart a0 a1 s := rfl
@[simp] theorem exec_recallAck a0 a1 : exec (.recallAck a0 a1) s = execRecallAck a0 a1 s := rfl
@[simp] theorem exec_checkSplitEnable a0 a1 : exec (.checkSplitEnable a0 a1) s = execCheckSplitEnable a0 a1 s := rfl
@[simp] theorem exec_selfTestRun a0 a1 : exec (.selfTestRun a0 a1) s = execSelfTestRun a0 a1 s := rfl
@[simp] theorem exec_powerEnvelope a0 a1 : exec (.powerEnvelope a0 a1) s = execPowerEnvelope a0 a1 s := rfl
@[simp] theorem exec_paceLock a0 a1 : exec (.paceLock a0 a1) s = execPaceLock a0 a1 s := rfl
@[simp] theorem exec_csRawRead a0 : exec (.csRawRead a0) s = execCsRawRead a0 s := rfl
@[simp] theorem exec_csRawWrite a0 : exec (.csRawWrite a0) s = execCsRawWrite a0 s := rfl
@[simp] theorem exec_pfBar2Access a0 a1 : exec (.pfBar2Access a0 a1) s = execPfBar2Access a0 a1 s := rfl
@[simp] theorem exec_vfBar2Access a0 a1 a2 a3 : exec (.vfBar2Access a0 a1 a2 a3) s = execVfBar2Access a0 a1 a2 a3 s := rfl
@[simp] theorem exec_registerWrite a0 a1 : exec (.registerWrite a0 a1) s = execRegisterWrite a0 a1 s := rfl
@[simp] theorem exec_i3cWriteCapW a0 : exec (.i3cWriteCapW a0) s = execI3cWriteCapW a0 s := rfl
@[simp] theorem exec_i3cReadFlags a0 : exec (.i3cReadFlags a0) s = execI3cReadFlags a0 s := rfl
@[simp] theorem exec_tapInstruction a0 : exec (.tapInstruction a0) s = execTapInstruction a0 s := rfl
@[simp] theorem exec_uartInput a0 : exec (.uartInput a0) s = execUartInput a0 s := rfl
@[simp] theorem exec_getVersion a0 : exec (.getVersion a0) s = execGetVersion a0 s := rfl
@[simp] theorem exec_getCapabilities a0 : exec (.getCapabilities a0) s = execGetCapabilities a0 s := rfl
@[simp] theorem exec_negotiateAlgorithms a0 : exec (.negotiateAlgorithms a0) s = execNegotiateAlgorithms a0 s := rfl
@[simp] theorem exec_getDigests a0 : exec (.getDigests a0) s = execGetDigests a0 s := rfl
@[simp] theorem exec_getCertificate a0 a1 a2 a3 : exec (.getCertificate a0 a1 a2 a3) s = execGetCertificate a0 a1 a2 a3 s := rfl
@[simp] theorem exec_challenge a0 a1 a2 : exec (.challenge a0 a1 a2) s = execChallenge a0 a1 a2 s := rfl
@[simp] theorem exec_getMeasurements a0 a1 a2 a3 : exec (.getMeasurements a0 a1 a2 a3) s = execGetMeasurements a0 a1 a2 a3 s := rfl
@[simp] theorem exec_keyExchange a0 a1 a2 : exec (.keyExchange a0 a1 a2) s = execKeyExchange a0 a1 a2 s := rfl
@[simp] theorem exec_finish a0 a1 a2 : exec (.finish a0 a1 a2) s = execFinish a0 a1 a2 s := rfl
@[simp] theorem exec_heartbeat a0 a1 : exec (.heartbeat a0 a1) s = execHeartbeat a0 a1 s := rfl
@[simp] theorem exec_spdmHeartbeatTimeout a0 a1 : exec (.spdmHeartbeatTimeout a0 a1) s = execSpdmHeartbeatTimeout a0 a1 s := rfl
@[simp] theorem exec_keyUpdate a0 a1 : exec (.keyUpdate a0 a1) s = execKeyUpdate a0 a1 s := rfl
@[simp] theorem exec_endSession a0 a1 : exec (.endSession a0 a1) s = execEndSession a0 a1 s := rfl
@[simp] theorem exec_respondIfReady a0 a1 : exec (.respondIfReady a0 a1) s = execRespondIfReady a0 a1 s := rfl
@[simp] theorem exec_spdmUnsupportedRequest a0 a1 : exec (.spdmUnsupportedRequest a0 a1) s = execSpdmUnsupportedRequest a0 a1 s := rfl
@[simp] theorem exec_ideKm a0 a1 a2 a3 : exec (.ideKm a0 a1 a2 a3) s = execIdeKm a0 a1 a2 a3 s := rfl
@[simp] theorem exec_getTdispVersion a0 a1 a2 : exec (.getTdispVersion a0 a1 a2) s = execGetTdispVersion a0 a1 a2 s := rfl
@[simp] theorem exec_getTdispCapabilities a0 a1 a2 : exec (.getTdispCapabilities a0 a1 a2) s = execGetTdispCapabilities a0 a1 a2 s := rfl
@[simp] theorem exec_lockInterfaceRequest a0 a1 a2 : exec (.lockInterfaceRequest a0 a1 a2) s = execLockInterfaceRequest a0 a1 a2 s := rfl
@[simp] theorem exec_getDeviceInterfaceReport a0 a1 a2 : exec (.getDeviceInterfaceReport a0 a1 a2) s = execGetDeviceInterfaceReport a0 a1 a2 s := rfl
@[simp] theorem exec_getDeviceInterfaceState a0 a1 a2 : exec (.getDeviceInterfaceState a0 a1 a2) s = execGetDeviceInterfaceState a0 a1 a2 s := rfl
@[simp] theorem exec_startInterfaceRequest a0 a1 a2 a3 : exec (.startInterfaceRequest a0 a1 a2 a3) s = execStartInterfaceRequest a0 a1 a2 a3 s := rfl
@[simp] theorem exec_stopInterfaceRequest a0 a1 a2 : exec (.stopInterfaceRequest a0 a1 a2) s = execStopInterfaceRequest a0 a1 a2 s := rfl
@[simp] theorem exec_reportSnapshotExpiry a0 : exec (.reportSnapshotExpiry a0) s = execReportSnapshotExpiry a0 s := rfl
@[simp] theorem exec_configurationRequest a0 a1 : exec (.configurationRequest a0 a1) s = execConfigurationRequest a0 a1 s := rfl
@[simp] theorem exec_lossOfPower : exec (.lossOfPower) s = execLossOfPower s := rfl
@[simp] theorem exec_noiseSourceSample a0 : exec (.noiseSourceSample a0) s = execNoiseSourceSample a0 s := rfl
@[simp] theorem exec_knownPatternTestEnd a0 a1 : exec (.knownPatternTestEnd a0 a1) s = execKnownPatternTestEnd a0 a1 s := rfl
@[simp] theorem exec_flashWriteComplete : exec (.flashWriteComplete) s = execFlashWriteComplete s := rfl

end Sys2Proof.Machine
end

