-- ==== Sys2Proof/Laws/Store.lean ====
section
/-!
SUPPORT. The laws of sparse tables: a read after a write, and the canonical form under every table operation.
-/

namespace Sys2Proof.Machine

variable {α β : Type}

/-- Below the first key a table reads its default. -/
theorem SMap.get_above_le (d : α) {k j : Nat} (h : j ≤ k) (m : SMap α) : SMap.get d (SMap.above k m) j = d := by
  induction m with
  | nil => rfl
  | cons e t ih =>
    obtain ⟨a, x⟩ := e
    simp only [SMap.above]
    split
    · exact ih
    · have : j < a := by omega
      simp [SMap.get, this]

/-- Dropping the keys up to `k` does not change what stands above. -/
theorem SMap.get_above_gt (d : α) {k j : Nat} (h : k < j) (m : SMap α) : SMap.get d (SMap.above k m) j = SMap.get d m j := by
  induction m with
  | nil => rfl
  | cons e t ih =>
    obtain ⟨a, x⟩ := e
    simp only [SMap.above]
    split
    · have h1 : ¬ j < a := by omega
      have h2 : j ≠ a := by omega
      simp [SMap.get, h1, h2, ih]
    · rfl

/-- A read after a write of the same table: the written value at its key, every other key as before. -/
theorem SMap.get_put [DecidableEq α] (d : α) (m : SMap α) (k j : Nat) (v : α) :
    SMap.get d (SMap.put d m k v) j = if j = k then v else SMap.get d m j := by
  induction m with
  | nil =>
    simp only [SMap.put]
    split <;> simp_all [SMap.get] <;> intros <;> omega
  | cons e t ih =>
    obtain ⟨a, x⟩ := e
    simp only [SMap.put]
    by_cases h1 : k < a
    · by_cases hv : v = d
      · simp only [h1, hv, if_true]
        by_cases hj : j = k
        · subst hj; simp [SMap.get, h1]
        · simp [hj]
      · simp only [h1, hv, if_true, if_false]
        by_cases hj : j = k
        · subst hj; simp [SMap.get]
        · by_cases hl : j < k
          · have : j < a := by omega
            simp [SMap.get, hl, hj, this]
          · simp [SMap.get, hl, hj]
    · by_cases h2 : k = a
      · subst h2
        by_cases hv : v = d
        · simp only [Nat.lt_irrefl, if_false, if_true, hv]
          by_cases hj : j = k
          · subst hj; simp [SMap.get_above_le]
          · by_cases hl : j < k
            · simp [SMap.get_above_le d (Nat.le_of_lt hl), SMap.get, hl, hj]
            · have hg : k < j := by omega
              simp [SMap.get_above_gt d hg, SMap.get, hl, hj]
        · simp only [Nat.lt_irrefl, if_false, if_true, hv]
          by_cases hj : j = k
          · subst hj; simp [SMap.get]
          · simp [SMap.get, hj]
      · simp only [h1, h2, if_false]
        by_cases hl : j < a
        · have : j ≠ k := by omega
          simp [SMap.get, hl, this]
        · by_cases he : j = a
          · subst he
            have : j ≠ k := fun h => h2 h.symm
            simp [SMap.get, this]
          · simp [SMap.get, hl, he, ih]

@[simp] theorem SMap.get_put_self [DecidableEq α] (d : α) (m : SMap α) (k : Nat) (v : α) : SMap.get d (SMap.put d m k v) k = v := by
  simp [SMap.get_put]

theorem SMap.get_put_ne [DecidableEq α] (d : α) (m : SMap α) {k j : Nat} (h : j ≠ k) (v : α) :
    SMap.get d (SMap.put d m k v) j = SMap.get d m j := by simp [SMap.get_put, h]

@[simp] theorem SMap.get_nil (d : α) (k : Nat) : SMap.get d [] k = d := rfl

theorem SMap.get_upd [DecidableEq α] (d : α) (m : SMap α) (k j : Nat) (f : α → α) :
    SMap.get d (SMap.upd d m k f) j = if j = k then f (SMap.get d m k) else SMap.get d m j := by simp [SMap.upd, SMap.get_put]

/-! The canonical form. -/

theorem SMap.wfFrom_mono [DecidableEq α] {d : α} {lo lo' : Nat} (h : lo' ≤ lo) {m : SMap α} (hm : SMap.wfFrom d lo m = true) :
    SMap.wfFrom d lo' m = true := by
  cases m with
  | nil => rfl
  | cons e t =>
    obtain ⟨a, x⟩ := e
    simp only [SMap.wfFrom, Bool.and_eq_true, decide_eq_true_eq] at hm ⊢
    exact ⟨⟨by omega, hm.1.2⟩, hm.2⟩

theorem SMap.wfFrom_above [DecidableEq α] {d : α} {lo k : Nat} {m : SMap α} (hm : SMap.wfFrom d lo m = true) :
    SMap.wfFrom d lo (SMap.above k m) = true := by
  induction m generalizing lo with
  | nil => rfl
  | cons e t ih =>
    obtain ⟨a, x⟩ := e
    simp only [SMap.above]
    split
    · simp only [SMap.wfFrom, Bool.and_eq_true, decide_eq_true_eq] at hm
      exact SMap.wfFrom_mono (by omega) (ih hm.2)
    · exact hm

theorem SMap.wfFrom_put [DecidableEq α] {d : α} {lo k : Nat} {m : SMap α} (v : α) (hk : lo ≤ k) (hm : SMap.wfFrom d lo m = true) :
    SMap.wfFrom d lo (SMap.put d m k v) = true := by
  induction m generalizing lo with
  | nil =>
    simp only [SMap.put]
    split
    · rfl
    · simp_all [SMap.wfFrom]
  | cons e t ih =>
    obtain ⟨a, x⟩ := e
    have hm' := hm
    simp only [SMap.wfFrom, Bool.and_eq_true, decide_eq_true_eq] at hm'
    simp only [SMap.put]
    split
    · split
      · exact hm
      · simp only [SMap.wfFrom, Bool.and_eq_true, decide_eq_true_eq]
        exact ⟨⟨hk, by assumption⟩, ⟨by omega, hm'.1.2⟩, hm'.2⟩
    · split
      · rename_i h2
        subst h2
        split
        · exact SMap.wfFrom_mono (by omega) (SMap.wfFrom_above hm'.2)
        · simp only [SMap.wfFrom, Bool.and_eq_true, decide_eq_true_eq]
          exact ⟨⟨hk, by assumption⟩, hm'.2⟩
      · simp only [SMap.wfFrom, Bool.and_eq_true, decide_eq_true_eq]
        exact ⟨hm'.1, ih (by omega) hm'.2⟩

theorem SMap.wf_put [DecidableEq α] {d : α} {m : SMap α} (k : Nat) (v : α) (hm : SMap.wf d m = true) :
    SMap.wf d (SMap.put d m k v) = true := SMap.wfFrom_put v (Nat.zero_le _) hm

theorem SMap.wf_upd [DecidableEq α] {d : α} {m : SMap α} (k : Nat) (f : α → α) (hm : SMap.wf d m = true) :
    SMap.wf d (SMap.upd d m k f) = true := SMap.wf_put _ _ hm

theorem SMap.wf_putMany [DecidableEq α] {d : α} {m : SMap α} (k : Nat) (vs : List α) (hm : SMap.wf d m = true) :
    SMap.wf d (SMap.putMany d m k vs) = true := by
  induction vs generalizing m k with
  | nil => exact hm
  | cons v vs ih => exact ih (k + 1) (SMap.wf_put k v hm)

theorem SMap.wfFrom_filter [DecidableEq α] {d : α} {lo : Nat} {m : SMap α} (p : Nat × α → Bool) (hm : SMap.wfFrom d lo m = true) :
    SMap.wfFrom d lo (m.filter p) = true := by
  induction m generalizing lo with
  | nil => rfl
  | cons e t ih =>
    obtain ⟨a, x⟩ := e
    simp only [SMap.wfFrom, Bool.and_eq_true, decide_eq_true_eq] at hm
    simp only [List.filter_cons]
    split
    · simp only [SMap.wfFrom, Bool.and_eq_true, decide_eq_true_eq]
      exact ⟨hm.1, ih hm.2⟩
    · exact SMap.wfFrom_mono (by omega) (ih hm.2)

theorem SMap.wf_filter [DecidableEq α] {d : α} {m : SMap α} (p : Nat × α → Bool) (hm : SMap.wf d m = true) :
    SMap.wf d (m.filter p) = true := SMap.wfFrom_filter p hm

/-- Clearing a range of keys: they read the default, every other key as before. -/
theorem SMap.get_clearRange (d : α) (m : SMap α) (k len j : Nat) :
    SMap.get d (SMap.clearRange m k len) j = if k ≤ j ∧ j < k + len then d else SMap.get d m j := by
  induction m with
  | nil => simp [SMap.clearRange]
  | cons e t ih =>
    obtain ⟨a, x⟩ := e
    simp only [SMap.clearRange]
    by_cases h1 : a < k
    · simp only [h1, if_true, SMap.get, ih]
      by_cases hr : k ≤ j ∧ j < k + len
      · have : ¬ j < a := by omega
        have : j ≠ a := by omega
        simp_all
      · simp [hr]
    · by_cases h2 : a < k + len
      · simp only [h1, h2, if_true, if_false]
        by_cases hr : j ≤ k + len - 1
        · rw [SMap.get_above_le d hr]
          by_cases hk : k ≤ j ∧ j < k + len
          · simp [hk]
          · have : j < a := by omega
            simp [SMap.get, this]
        · rw [SMap.get_above_gt d (by omega)]
          have h3 : ¬ (k ≤ j ∧ j < k + len) := by omega
          have h4 : ¬ j < a := by omega
          have h5 : j ≠ a := by omega
          simp [SMap.get, h3, h4, h5]
      · simp only [h1, h2, if_false]
        by_cases hr : k ≤ j ∧ j < k + len
        · have : j < a := by omega
          simp [SMap.get, this]
        · simp [hr]

theorem SMap.wfFrom_clearRange [DecidableEq α] {d : α} {lo : Nat} {m : SMap α} (k len : Nat) (hm : SMap.wfFrom d lo m = true) :
    SMap.wfFrom d lo (SMap.clearRange m k len) = true := by
  induction m generalizing lo with
  | nil => rfl
  | cons e t ih =>
    obtain ⟨a, x⟩ := e
    have hm' := hm
    simp only [SMap.wfFrom, Bool.and_eq_true, decide_eq_true_eq] at hm'
    simp only [SMap.clearRange]
    split
    · simp only [SMap.wfFrom, Bool.and_eq_true, decide_eq_true_eq]
      exact ⟨hm'.1, ih hm'.2⟩
    · split
      · exact SMap.wfFrom_mono (by omega) (SMap.wfFrom_above hm'.2)
      · exact hm

theorem SMap.wf_clearRange [DecidableEq α] {d : α} {m : SMap α} (k len : Nat) (hm : SMap.wf d m = true) :
    SMap.wf d (SMap.clearRange m k len) = true := SMap.wfFrom_clearRange k len hm

theorem SMap.wfFrom_mapFilter [DecidableEq α] [DecidableEq β] {d : α} {d' : β} {lo : Nat} {m : SMap α} (f : α → β)
    (hm : SMap.wfFrom d lo m = true) :
    SMap.wfFrom d' lo ((m.map (fun e => (e.1, f e.2))).filter (fun e => e.2 != d')) = true := by
  induction m generalizing lo with
  | nil => rfl
  | cons e t ih =>
    obtain ⟨a, x⟩ := e
    simp only [SMap.wfFrom, Bool.and_eq_true, decide_eq_true_eq] at hm
    simp only [List.map_cons, List.filter_cons]
    split
    · rename_i hd
      simp only [SMap.wfFrom, Bool.and_eq_true, decide_eq_true_eq]
      exact ⟨⟨hm.1.1, by simpa using hd⟩, ih hm.2⟩
    · exact SMap.wfFrom_mono (by omega) (ih hm.2)

/-- A table rebuilt entry by entry, without the entries that become the default, is canonical again. -/
theorem SMap.wf_mapFilter [DecidableEq α] [DecidableEq β] {d : α} {d' : β} {m : SMap α} (f : α → β) (hm : SMap.wf d m = true) :
    SMap.wf d' ((m.map (fun e => (e.1, f e.2))).filter (fun e => e.2 != d')) = true := SMap.wfFrom_mapFilter f hm

/-- A read after a run of writes. -/
theorem SMap.get_putMany [DecidableEq α] (d : α) (m : SMap α) (k j : Nat) (vs : List α) :
    SMap.get d (SMap.putMany d m k vs) j = if k ≤ j ∧ j < k + vs.length then vs.getD (j - k) d else SMap.get d m j := by
  induction vs generalizing m k with
  | nil =>
    rw [if_neg (by simp only [List.length_nil]; omega)]
    rfl
  | cons v vs ih =>
    simp only [SMap.putMany, ih, SMap.get_put, List.length_cons]
    by_cases hj : j = k
    · subst hj
      rw [if_neg (by omega), if_pos rfl, if_pos (by omega), Nat.sub_self, List.getD_cons_zero]
    · by_cases hr : k ≤ j ∧ j < k + (vs.length + 1)
      · rw [if_pos (by omega), if_pos hr]
        obtain ⟨c, rfl⟩ : ∃ c, j = k + (c + 1) := ⟨j - k - 1, by omega⟩
        rw [show k + (c + 1) - (k + 1) = c by omega, show k + (c + 1) - k = c + 1 by omega, List.getD_cons_succ]
      · rw [if_neg (by omega), if_neg hr, if_neg hj]

end Sys2Proof.Machine
end

