-- ==== Sys2Proof/Laws/Keeps.lean ====
section
/-!
SUPPORT. What every operation of the device keeps: the canonical form of its tables, the queue of waiting commands, and a clock that
does not go back. `Keeps r s` says so of a state `s` reached from `r`; each operation has one lemma.
-/

set_option linter.unusedTactic false
set_option linter.unreachableTactic false

namespace Sys2Proof.Machine

/-- From `r` to `s` the tables stay canonical, the queue is the same, and CI13 has not gone back. -/
def Keeps (r s : State) : Prop := (r.Canon → s.Canon) ∧ s.pending = r.pending ∧ r.now ≤ s.now

theorem Keeps.refl (s : State) : Keeps s s := ⟨id, rfl, Nat.le_refl _⟩

theorem Keeps.trans {r s t : State} (h : Keeps r s) (k : Keeps s t) : Keeps r t :=
  ⟨fun c => k.1 (h.1 c), k.2.1.trans h.2.1, Nat.le_trans h.2.2 k.2.2⟩

/-- A change of parts that hold no table of `Canon`. -/
theorem Keeps.lit {r s : State} {boot plant fabric cfg eng sec hostl board recSeq chainLog net lastMover lastWindow out free} (h : Keeps r s) :
    Keeps r { s with
      boot := boot, plant := plant, fabric := fabric, cfg := cfg, eng := eng, sec := sec, hostl := hostl, board := board,
      recSeq := recSeq, chainLog := chainLog, net := net, lastMover := lastMover, lastWindow := lastWindow, out := out, free := free } :=
  ⟨fun c => let d := h.1 c; ⟨d.mem, d.tiles, d.parts, d.hbm, d.arbs, d.links, d.ledger, d.regions, d.mbx, d.fatals, d.ring⟩, h.2.1, h.2.2⟩

theorem Keeps.litNow {r s : State} {now} (h : Keeps r s) (hn : s.now ≤ now) : Keeps r { s with now := now } :=
  ⟨fun c => let d := h.1 c; ⟨d.mem, d.tiles, d.parts, d.hbm, d.arbs, d.links, d.ledger, d.regions, d.mbx, d.fatals, d.ring⟩, h.2.1, Nat.le_trans h.2.2 hn⟩

theorem Keeps.litMem {r s : State} {mem} (h : Keeps r s) (hm : r.Canon → SMap.wf 0 mem = true) : Keeps r { s with mem := mem } :=
  ⟨fun c => let d := h.1 c; ⟨hm c, d.tiles, d.parts, d.hbm, d.arbs, d.links, d.ledger, d.regions, d.mbx, d.fatals, d.ring⟩, h.2.1, h.2.2⟩

theorem Keeps.litRing {r s : State} {ring recSeq} (h : Keeps r s) (hm : r.Canon → ring.length ≤ 4096) :
    Keeps r { s with ring := ring, recSeq := recSeq } :=
  ⟨fun c => let d := h.1 c; ⟨d.mem, d.tiles, d.parts, d.hbm, d.arbs, d.links, d.ledger, d.regions, d.mbx, d.fatals, hm c⟩, h.2.1, h.2.2⟩

theorem Keeps.litFatals {r s : State} {fatals} (h : Keeps r s) (hm : r.Canon → SMap.wf none fatals = true) : Keeps r { s with fatals := fatals } :=
  ⟨fun c => let d := h.1 c; ⟨d.mem, d.tiles, d.parts, d.hbm, d.arbs, d.links, d.ledger, d.regions, d.mbx, hm c, d.ring⟩, h.2.1, h.2.2⟩

theorem Keeps.foldl {r : State} {α : Type} {f : State → α → State} {l : List α} {s : State} (h : Keeps r s)
    (hf : ∀ s x, Keeps r s → Keeps r (f s x)) : Keeps r (l.foldl f s) := by
  induction l generalizing s with
  | nil => exact h
  | cons x l ih => exact ih (hf s x h)

theorem Keeps.foldlSnd {r : State} {α β : Type} {f : β × State → α → β × State} {l : List α} {p : β × State} (h : Keeps r p.2)
    (hf : ∀ p x, Keeps r p.2 → Keeps r (f p x).2) : Keeps r (l.foldl f p).2 := by
  induction l generalizing p with
  | nil => exact h
  | cons x l ih => exact ih (hf p x h)

theorem Keeps.foldlFst {r : State} {α β : Type} {f : State × β → α → State × β} {l : List α} {p : State × β} (h : Keeps r p.1)
    (hf : ∀ p x, Keeps r p.1 → Keeps r (f p x).1) : Keeps r (l.foldl f p).1 := by
  induction l generalizing p with
  | nil => exact h
  | cons x l ih => exact ih (hf p x h)

theorem Keeps.ite {r a b : State} {c : Prop} [Decidable c] (ha : Keeps r a) (hb : Keeps r b) : Keeps r (if c then a else b) := by
  split
  · exact ha
  · exact hb

theorem Keeps.iteSnd {r : State} {α : Type} {c : Prop} [Decidable c] {a b : α × State} (ha : Keeps r a.2) (hb : Keeps r b.2) :
    Keeps r (if c then a else b).2 := by
  split
  · exact ha
  · exact hb

theorem Keeps.ofEq {r t : State} {α : Type} {p : α × State} {o : α} (h : Keeps r p.2) (e : p = (o, t)) : Keeps r t := by
  rw [e] at h
  exact h

theorem Keeps.ofEqFst {r t : State} {α : Type} {p : State × α} {o : α} (h : Keeps r p.1) (e : p = (t, o)) : Keeps r t := by
  rw [e] at h
  exact h

theorem Keeps.ofEqThd {r t : State} {α β : Type} {p : α × β × State} {o : α} {o' : β} (h : Keeps r p.2.2) (e : p = (o, o', t)) : Keeps r t := by
  rw [e] at h
  exact h

theorem Keeps.litPutMany {r s t : State} {off bs} (h : Keeps r s) (k : Keeps r t) : Keeps r { s with mem := SMap.putMany 0 t.mem off bs } :=
  h.litMem (fun c => SMap.wf_putMany _ _ (k.1 c).mem)

theorem Keeps.litClear {r s t : State} {off n} (h : Keeps r s) (k : Keeps r t) : Keeps r { s with mem := SMap.clearRange t.mem off n } :=
  h.litMem (fun c => SMap.wf_clearRange _ _ (k.1 c).mem)

theorem Keeps.litFatal {r s : State} {n x} (h : Keeps r s) : Keeps r { s with fatals := SMap.put none s.fatals n x } :=
  h.litFatals (fun c => SMap.wf_put _ _ (h.1 c).fatals)

theorem State.setTile_keeps {r s : State} {a x} (h : Keeps r s) : Keeps r (s.setTile a x) :=
  ⟨fun c => let d := h.1 c; ⟨d.mem, SMap.wf_put _ _ d.tiles, d.parts, d.hbm, d.arbs, d.links, d.ledger, d.regions, d.mbx, d.fatals, d.ring⟩, h.2.1, h.2.2⟩

theorem State.setPart_keeps {r s : State} {a x} (h : Keeps r s) : Keeps r (s.setPart a x) :=
  ⟨fun c => let d := h.1 c; ⟨d.mem, d.tiles, SMap.wf_put _ _ d.parts, d.hbm, d.arbs, d.links, d.ledger, d.regions, d.mbx, d.fatals, d.ring⟩, h.2.1, h.2.2⟩

theorem State.setLed_keeps {r s : State} {a x} (h : Keeps r s) : Keeps r (s.setLed a x) :=
  ⟨fun c => let d := h.1 c; ⟨d.mem, d.tiles, d.parts, d.hbm, d.arbs, d.links, SMap.wf_put _ _ d.ledger, d.regions, d.mbx, d.fatals, d.ring⟩, h.2.1, h.2.2⟩

theorem State.setRegion_keeps {r s : State} {a x} (h : Keeps r s) : Keeps r (s.setRegion a x) :=
  ⟨fun c => let d := h.1 c; ⟨d.mem, d.tiles, d.parts, d.hbm, d.arbs, d.links, d.ledger, SMap.wf_put _ _ d.regions, d.mbx, d.fatals, d.ring⟩, h.2.1, h.2.2⟩

theorem State.setBox_keeps {r s : State} {a x} (h : Keeps r s) : Keeps r (s.setBox a x) :=
  ⟨fun c => let d := h.1 c; ⟨d.mem, d.tiles, d.parts, d.hbm, d.arbs, d.links, d.ledger, d.regions, SMap.wf_put _ _ d.mbx, d.fatals, d.ring⟩, h.2.1, h.2.2⟩

theorem State.setHbm_keeps {r s : State} {a x} (h : Keeps r s) : Keeps r (s.setHbm a x) :=
  ⟨fun c => let d := h.1 c; ⟨d.mem, d.tiles, d.parts, SMap.wf_put _ _ d.hbm, d.arbs, d.links, d.ledger, d.regions, d.mbx, d.fatals, d.ring⟩, h.2.1, h.2.2⟩

theorem State.setArb_keeps {r s : State} {a x} (h : Keeps r s) : Keeps r (s.setArb a x) :=
  ⟨fun c => let d := h.1 c; ⟨d.mem, d.tiles, d.parts, d.hbm, SMap.wf_put _ _ d.arbs, d.links, d.ledger, d.regions, d.mbx, d.fatals, d.ring⟩, h.2.1, h.2.2⟩

theorem State.setLink_keeps {r s : State} {a x} (h : Keeps r s) : Keeps r (s.setLink a x) :=
  ⟨fun c => let d := h.1 c; ⟨d.mem, d.tiles, d.parts, d.hbm, d.arbs, SMap.wf_put _ _ d.links, d.ledger, d.regions, d.mbx, d.fatals, d.ring⟩, h.2.1, h.2.2⟩

theorem Keeps.getD {r d : State} {o : Option State} (h : ∀ t, o = some t → Keeps r t) (k : Keeps r d) : Keeps r (o.getD d) := by
  cases o with
  | none => exact k
  | some t => exact h t rfl

theorem Keeps.litClears {r s t : State} {l : List Nat} {off n bs} {f : Nat → Nat} (h : Keeps r s) (k : Keeps r t) :
    Keeps r { s with mem := SMap.putMany 0 (l.foldl (fun m b => SMap.clearRange m (f b) n) t.mem) off bs } := by
  refine h.litMem (fun c => SMap.wf_putMany _ _ ?_)
  have e : ∀ (l : List Nat) (m : SMap Byte), SMap.wf 0 m = true → SMap.wf 0 (l.foldl (fun m b => SMap.clearRange m (f b) n) m) = true := by
    intro l
    induction l with
    | nil => exact fun _ w => w
    | cons x l ih => exact fun m w => ih _ (SMap.wf_clearRange _ _ w)
  exact e l _ (k.1 c).mem

theorem dropFirst_length {p : ErrRec → Bool} {l q : List ErrRec} (h : dropFirst p l = some q) : q.length + 1 = l.length := by
  induction l generalizing q with
  | nil => simp [dropFirst] at h
  | cons x l ih =>
    simp only [dropFirst] at h
    split at h
    · simp_all
    · simp only [Option.map_eq_some_iff] at h
      obtain ⟨q', e, rfl⟩ := h
      simp [ih e]

/-- The ring holds at most its 4,096 records (R494). -/
theorem ringPut_length {l : List ErrRec} {held r} (h : l.length ≤ 4096) : (ringPut l held r).length ≤ 4096 := by
  unfold ringPut
  split
  · simp; omega
  · split
    · rename_i q e
      have := dropFirst_length e
      simp; omega
    · split
      · rename_i q e
        have := dropFirst_length e
        simp; omega
      · simp; omega

theorem State.setMsix_keeps {r s : State} {a1} {a2} {a3} (h : Keeps r s) : Keeps r (State.setMsix s a1 a2 a3) := by
  unfold State.setMsix
  iterate 60 all_goals try first
    | with_reducible assumption
    | extract_lets
    | split
    | intro _
    | with_reducible refine Keeps.litFatal ?_
    | with_reducible refine Keeps.lit ?_
    | dsimp -zeta only

theorem State.emit_keeps {r s : State} {a1} (h : Keeps r s) : Keeps r (State.emit s a1) := by
  unfold State.emit
  iterate 60 all_goals try first
    | with_reducible assumption
    | extract_lets
    | split
    | intro _
    | with_reducible refine Keeps.litFatal ?_
    | with_reducible refine Keeps.lit ?_
    | dsimp -zeta only

theorem State.msix_keeps {r s : State} {a1} {a2} (h : Keeps r s) : Keeps r (State.msix s a1 a2) := by
  unfold State.msix
  iterate 60 all_goals try first
    | with_reducible assumption
    | with_reducible refine State.emit_keeps ?_
    | with_reducible refine State.setMsix_keeps ?_
    | extract_lets
    | split
    | intro _
    | with_reducible refine Keeps.lit ?_
    | dsimp -zeta only

theorem State.postEvents_keeps {r s : State} {a0} {a1} (h : Keeps r s) : Keeps r (State.postEvents a0 a1 s) := by
  induction a0 generalizing s a1 with
  | zero => exact h
  | succ k ih =>
    unfold State.postEvents
    iterate 60 all_goals try first
    | with_reducible assumption
    | with_reducible refine ih ?_
    | with_reducible refine State.msix_keeps ?_
    | with_reducible refine State.setBox_keeps ?_
    | extract_lets
    | split
    | intro _
    | with_reducible refine Keeps.lit ?_
    | dsimp -zeta only

theorem State.loadRsp_keeps {r s : State} {a1} (h : Keeps r s) : Keeps r (State.loadRsp s a1) := by
  unfold State.loadRsp
  iterate 60 all_goals try first
    | with_reducible assumption
    | with_reducible refine State.msix_keeps ?_
    | with_reducible refine State.setBox_keeps ?_
    | extract_lets
    | split
    | intro _
    | with_reducible refine Keeps.lit ?_
    | dsimp -zeta only

theorem State.pump_keeps {r s : State} {a1} (h : Keeps r s) : Keeps r (State.pump s a1) := by
  unfold State.pump
  iterate 60 all_goals try first
    | with_reducible assumption
    | with_reducible refine State.loadRsp_keeps ?_
    | with_reducible refine State.postEvents_keeps ?_
    | extract_lets
    | split
    | intro _
    | with_reducible refine Keeps.lit ?_
    | dsimp -zeta only

theorem State.event_keeps {r s : State} {a1} {a2} (h : Keeps r s) : Keeps r (State.event s a1 a2) := by
  unfold State.event
  iterate 60 all_goals try first
    | with_reducible assumption
    | with_reducible refine State.pump_keeps ?_
    | with_reducible refine State.setBox_keeps ?_
    | extract_lets
    | split
    | intro _
    | with_reducible refine Keeps.lit ?_
    | dsimp -zeta only

theorem State.eventAll_keeps {r s : State} {a1} {a2} (h : Keeps r s) : Keeps r (State.eventAll s a1 a2) := by
  unfold State.eventAll
  iterate 60 all_goals try first
    | with_reducible assumption
    | with_reducible refine State.event_keeps ?_
    | with_reducible refine Keeps.foldl ?_ ?_
    | with_reducible refine Keeps.foldlSnd ?_ ?_
    | with_reducible refine Keeps.foldlFst ?_ ?_
    | extract_lets
    | split
    | intro _
    | with_reducible refine Keeps.lit ?_
    | dsimp -zeta only

theorem State.deliver_keeps {r s : State} {a1} (h : Keeps r s) : Keeps r (State.deliver s a1) := by
  unfold State.deliver
  iterate 60 all_goals try first
    | with_reducible assumption
    | with_reducible refine State.eventAll_keeps ?_
    | extract_lets
    | split
    | intro _
    | with_reducible refine Keeps.lit ?_
    | dsimp -zeta only

theorem State.markFollow_keeps {r s : State} {n} (h : Keeps r s) : Keeps r (s.markFollow n) :=
  h.litRing (fun c => by simpa using (h.1 c).ring)

theorem State.fatalSlot_keeps {r s : State} {x n} (h : Keeps r s) : Keeps r (s.fatalSlot x n) := by
  unfold State.fatalSlot
  extract_lets t
  refine Keeps.litFatal (s := t) ?_
  dsimp only [t]
  split
  · exact State.markFollow_keeps h
  · exact h

theorem State.keepFatal_keeps {r s : State} {x} (h : Keeps r s) : Keeps r (s.keepFatal x) := by
  unfold State.keepFatal
  split
  · exact h
  split
  · exact Keeps.foldl h (fun s n k => State.fatalSlot_keeps k)
  split
  · split
    · exact Keeps.litFatal h
    · exact h
  · exact h

theorem State.record_keeps {r s : State} {x} (h : Keeps r s) : Keeps r (s.record x) := by
  unfold State.record
  split
  · exact h.litRing (fun c => by simpa using (h.1 c).ring)
  · extract_lets
    exact State.deliver_keeps (State.keepFatal_keeps (h.litRing (fun c => ringPut_length (h.1 c).ring)))

theorem State.updTile_keeps {r s : State} {a1} {a2} (h : Keeps r s) : Keeps r (State.updTile s a1 a2) := by
  unfold State.updTile
  iterate 60 all_goals try first
    | with_reducible assumption
    | with_reducible refine State.setTile_keeps ?_
    | extract_lets
    | split
    | intro _
    | with_reducible refine Keeps.lit ?_
    | dsimp -zeta only

theorem State.partChange_keeps {r s : State} {n f} (h : Keeps r s) (hf : ∀ s, Keeps r s → Keeps r (f s)) : Keeps r (s.partChange n f) := by
  unfold State.partChange
  extract_lets t
  split
  · exact State.event_keeps (hf _ h)
  · exact hf _ h

theorem State.retireTile_keeps {r s : State} {a1} (h : Keeps r s) : Keeps r (State.retireTile s a1) := by
  unfold State.retireTile
  iterate 60 all_goals try first
    | with_reducible assumption
    | with_reducible refine State.partChange_keeps ?_ ?_
    | with_reducible refine State.updTile_keeps ?_
    | extract_lets
    | split
    | intro _
    | with_reducible refine Keeps.getD (fun t e => ?_) ?_
    | with_reducible refine Keeps.litFatal ?_
    | with_reducible refine Keeps.lit ?_
    | dsimp -zeta only

theorem State.countFatal_keeps {r s : State} {a1} (h : Keeps r s) : Keeps r (State.countFatal s a1) := by
  unfold State.countFatal
  iterate 60 all_goals try first
    | with_reducible assumption
    | with_reducible refine State.retireTile_keeps ?_
    | with_reducible refine State.updTile_keeps ?_
    | extract_lets
    | split
    | intro _
    | with_reducible refine Keeps.lit ?_
    | dsimp -zeta only

theorem State.updPart_keeps {r s : State} {a1} {a2} (h : Keeps r s) : Keeps r (State.updPart s a1 a2) := by
  unfold State.updPart
  iterate 60 all_goals try first
    | with_reducible assumption
    | with_reducible refine State.setPart_keeps ?_
    | extract_lets
    | split
    | intro _
    | with_reducible refine Keeps.lit ?_
    | dsimp -zeta only

theorem State.startClosing_keeps {r s : State} {a1} (h : Keeps r s) : Keeps r (State.startClosing s a1) := by
  unfold State.startClosing
  iterate 60 all_goals try first
    | with_reducible assumption
    | with_reducible refine State.updTile_keeps ?_
    | with_reducible refine Keeps.foldl ?_ ?_
    | with_reducible refine Keeps.foldlSnd ?_ ?_
    | with_reducible refine Keeps.foldlFst ?_ ?_
    | extract_lets
    | split
    | intro _
    | with_reducible refine Keeps.lit ?_
    | dsimp -zeta only

theorem State.dropOffers_keeps {r s : State} {a1} {a2} (h : Keeps r s) : Keeps r (State.dropOffers s a1 a2) := by
  unfold State.dropOffers
  iterate 60 all_goals try first
    | with_reducible assumption
    | extract_lets
    | split
    | intro _
    | with_reducible refine Keeps.litFatal ?_
    | with_reducible refine Keeps.lit ?_
    | dsimp -zeta only

theorem State.offer_keeps {r s : State} {a1} (h : Keeps r s) : Keeps r (State.offer s a1) := by
  unfold State.offer
  iterate 60 all_goals try first
    | with_reducible assumption
    | extract_lets
    | split
    | intro _
    | with_reducible refine Keeps.litFatal ?_
    | with_reducible refine Keeps.lit ?_
    | dsimp -zeta only

theorem State.updLink_keeps {r s : State} {a1} {a2} (h : Keeps r s) : Keeps r (State.updLink s a1 a2) := by
  unfold State.updLink
  iterate 60 all_goals try first
    | with_reducible assumption
    | with_reducible refine State.setLink_keeps ?_
    | extract_lets
    | split
    | intro _
    | with_reducible refine Keeps.lit ?_
    | dsimp -zeta only

theorem State.netPut_keeps_of_eq {r s t : State} {p came} (h : Keeps r s) (e : s.netPut p came = some t) : Keeps r t := by
  simp only [State.netPut] at e
  split at e
  · cases e
  · obtain rfl := Option.some.inj e
    exact State.updLink_keeps h

theorem State.routeDown_keeps {r s : State} {a1} (h : Keeps r s) : Keeps r (State.routeDown s a1) := by
  unfold State.routeDown
  iterate 60 all_goals try first
    | with_reducible assumption
    | with_reducible refine State.record_keeps ?_
    | extract_lets
    | split
    | intro _
    | with_reducible refine Keeps.lit ?_
    | dsimp -zeta only

theorem State.netSend_keeps {r s : State} {a1} (h : Keeps r s) : Keeps r (State.netSend s a1) := by
  unfold State.netSend
  iterate 60 all_goals try first
    | with_reducible assumption
    | with_reducible refine State.netPut_keeps_of_eq ?_ (by with_reducible assumption)
    | with_reducible refine State.routeDown_keeps ?_
    | extract_lets
    | split
    | intro _
    | with_reducible refine Keeps.getD (fun t e => ?_) ?_
    | with_reducible refine Keeps.lit ?_
    | dsimp -zeta only

theorem State.toMember_keeps {r s : State} {a1} {a2} {a3} {a4} (h : Keeps r s) : Keeps r (State.toMember s a1 a2 a3 a4) := by
  unfold State.toMember
  iterate 60 all_goals try first
    | with_reducible assumption
    | with_reducible refine State.netSend_keeps ?_
    | with_reducible refine State.offer_keeps ?_
    | extract_lets
    | split
    | intro _
    | with_reducible refine Keeps.lit ?_
    | dsimp -zeta only

theorem State.sendBreak_keeps {r s : State} {a1} {a2} (h : Keeps r s) : Keeps r (State.sendBreak s a1 a2) := by
  unfold State.sendBreak
  iterate 60 all_goals try first
    | with_reducible assumption
    | with_reducible refine State.dropOffers_keeps ?_
    | with_reducible refine State.toMember_keeps ?_
    | with_reducible refine Keeps.foldl ?_ ?_
    | with_reducible refine Keeps.foldlSnd ?_ ?_
    | with_reducible refine Keeps.foldlFst ?_ ?_
    | extract_lets
    | split
    | intro _
    | with_reducible refine Keeps.lit ?_
    | dsimp -zeta only

theorem State.breakChains_keeps {r s : State} {a1} (h : Keeps r s) : Keeps r (State.breakChains s a1) := by
  unfold State.breakChains
  iterate 60 all_goals try first
    | with_reducible assumption
    | with_reducible refine State.sendBreak_keeps ?_
    | with_reducible refine Keeps.foldl ?_ ?_
    | with_reducible refine Keeps.foldlSnd ?_ ?_
    | with_reducible refine Keeps.foldlFst ?_ ?_
    | extract_lets
    | split
    | intro _
    | with_reducible refine Keeps.lit ?_
    | dsimp -zeta only

theorem State.updRegion_keeps {r s : State} {a1} {a2} (h : Keeps r s) : Keeps r (State.updRegion s a1 a2) := by
  unfold State.updRegion
  iterate 60 all_goals try first
    | with_reducible assumption
    | with_reducible refine State.setRegion_keeps ?_
    | extract_lets
    | split
    | intro _
    | with_reducible refine Keeps.lit ?_
    | dsimp -zeta only

theorem State.unbind_keeps {r s : State} {a1} (h : Keeps r s) : Keeps r (State.unbind s a1) := by
  unfold State.unbind
  iterate 60 all_goals try first
    | with_reducible assumption
    | with_reducible refine State.updRegion_keeps ?_
    | extract_lets
    | split
    | intro _
    | with_reducible refine Keeps.lit ?_
    | dsimp -zeta only

theorem State.withdraw_keeps {r s : State} {a1} (h : Keeps r s) : Keeps r (State.withdraw s a1) := by
  unfold State.withdraw
  iterate 60 all_goals try first
    | with_reducible assumption
    | with_reducible refine State.updPart_keeps ?_
    | with_reducible refine State.updTile_keeps ?_
    | with_reducible refine Keeps.foldl ?_ ?_
    | with_reducible refine Keeps.foldlSnd ?_ ?_
    | with_reducible refine Keeps.foldlFst ?_ ?_
    | extract_lets
    | split
    | intro _
    | with_reducible refine Keeps.lit ?_
    | dsimp -zeta only

theorem State.logChain_keeps {r s : State} {a1} (h : Keeps r s) : Keeps r (State.logChain s a1) := by
  unfold State.logChain
  iterate 60 all_goals try first
    | with_reducible assumption
    | extract_lets
    | split
    | intro _
    | with_reducible refine Keeps.litFatal ?_
    | with_reducible refine Keeps.lit ?_
    | dsimp -zeta only

theorem State.endRequest_keeps {r s : State} {a1} {a2} (h : Keeps r s) : Keeps r (State.endRequest s a1 a2) := by
  unfold State.endRequest
  iterate 60 all_goals try first
    | with_reducible assumption
    | with_reducible refine State.logChain_keeps ?_
    | with_reducible refine State.setLed_keeps ?_
    | with_reducible refine State.unbind_keeps ?_
    | with_reducible refine State.withdraw_keeps ?_
    | extract_lets
    | split
    | intro _
    | with_reducible refine Keeps.lit ?_
    | dsimp -zeta only

theorem State.finishLong_keeps {r s : State} {a1} (h : Keeps r s) : Keeps r (State.finishLong s a1) := by
  unfold State.finishLong
  iterate 60 all_goals try first
    | with_reducible assumption
    | with_reducible refine State.event_keeps ?_
    | with_reducible refine State.setBox_keeps ?_
    | extract_lets
    | split
    | intro _
    | with_reducible refine Keeps.getD (fun t e => ?_) ?_
    | with_reducible refine Keeps.lit ?_
    | dsimp -zeta only

theorem State.updBox_keeps {r s : State} {a1} {a2} (h : Keeps r s) : Keeps r (State.updBox s a1 a2) := by
  unfold State.updBox
  iterate 60 all_goals try first
    | with_reducible assumption
    | with_reducible refine State.setBox_keeps ?_
    | extract_lets
    | split
    | intro _
    | with_reducible refine Keeps.lit ?_
    | dsimp -zeta only

theorem State.commandDone_keeps {r s : State} {a1} {a2} {a3} {a4} (h : Keeps r s) : Keeps r (State.commandDone s a1 a2 a3 a4) := by
  unfold State.commandDone
  iterate 60 all_goals try first
    | with_reducible assumption
    | with_reducible refine State.finishLong_keeps ?_
    | with_reducible refine State.updBox_keeps ?_
    | extract_lets
    | split
    | intro _
    | with_reducible refine Keeps.lit ?_
    | dsimp -zeta only

theorem State.endHash_keeps {r s : State} {a1} {a2} {a3} (h : Keeps r s) : Keeps r (State.endHash s a1 a2 a3) := by
  unfold State.endHash
  iterate 60 all_goals try first
    | with_reducible assumption
    | with_reducible refine State.msix_keeps ?_
    | with_reducible refine State.updPart_keeps ?_
    | extract_lets
    | split
    | intro _
    | with_reducible refine Keeps.lit ?_
    | dsimp -zeta only

theorem State.endWork_keeps {r s : State} {a1} {a2} (h : Keeps r s) : Keeps r (State.endWork s a1 a2) := by
  unfold State.endWork
  iterate 60 all_goals try first
    | with_reducible assumption
    | with_reducible refine State.breakChains_keeps ?_
    | with_reducible refine State.commandDone_keeps ?_
    | with_reducible refine State.endHash_keeps ?_
    | with_reducible refine State.endRequest_keeps ?_
    | with_reducible refine State.updPart_keeps ?_
    | with_reducible refine State.updRegion_keeps ?_
    | with_reducible refine Keeps.foldl ?_ ?_
    | with_reducible refine Keeps.foldlSnd ?_ ?_
    | with_reducible refine Keeps.foldlFst ?_ ?_
    | extract_lets
    | split
    | intro _
    | with_reducible refine Keeps.lit ?_
    | dsimp -zeta only

theorem State.dropRemote_keeps {r s : State} {a1} (h : Keeps r s) : Keeps r (State.dropRemote s a1) := by
  unfold State.dropRemote
  iterate 60 all_goals try first
    | with_reducible assumption
    | extract_lets
    | split
    | intro _
    | with_reducible refine Keeps.litFatal ?_
    | with_reducible refine Keeps.lit ?_
    | dsimp -zeta only

theorem State.stopTiles_keeps {r s : State} {a1} (h : Keeps r s) : Keeps r (State.stopTiles s a1) := by
  unfold State.stopTiles
  iterate 60 all_goals try first
    | with_reducible assumption
    | with_reducible refine State.dropRemote_keeps ?_
    | with_reducible refine State.updTile_keeps ?_
    | with_reducible refine Keeps.foldl ?_ ?_
    | with_reducible refine Keeps.foldlSnd ?_ ?_
    | with_reducible refine Keeps.foldlFst ?_ ?_
    | extract_lets
    | split
    | intro _
    | with_reducible refine Keeps.lit ?_
    | dsimp -zeta only

theorem State.flagPart_keeps {r s : State} {a1} {a2} (h : Keeps r s) : Keeps r (State.flagPart s a1 a2) := by
  unfold State.flagPart
  iterate 60 all_goals try first
    | with_reducible assumption
    | with_reducible refine State.endWork_keeps ?_
    | with_reducible refine State.partChange_keeps ?_ ?_
    | with_reducible refine State.startClosing_keeps ?_
    | with_reducible refine State.stopTiles_keeps ?_
    | with_reducible refine State.updPart_keeps ?_
    | extract_lets
    | split
    | intro _
    | with_reducible refine Keeps.lit ?_
    | dsimp -zeta only

theorem State.partFatal_keeps {r s : State} {a1} {a2} (h : Keeps r s) : Keeps r (State.partFatal s a1 a2) := by
  unfold State.partFatal
  iterate 60 all_goals try first
    | with_reducible assumption
    | with_reducible refine State.countFatal_keeps ?_
    | with_reducible refine State.flagPart_keeps ?_
    | with_reducible refine State.record_keeps ?_
    | extract_lets
    | split
    | intro _
    | with_reducible refine Keeps.lit ?_
    | dsimp -zeta only

theorem State.tileFatal_keeps {r s : State} {a1} {a2} (h : Keeps r s) : Keeps r (State.tileFatal s a1 a2) := by
  unfold State.tileFatal
  iterate 60 all_goals try first
    | with_reducible assumption
    | with_reducible refine State.partFatal_keeps ?_
    | with_reducible refine State.record_keeps ?_
    | extract_lets
    | split
    | intro _
    | with_reducible refine Keeps.lit ?_
    | dsimp -zeta only

theorem State.eccFatal_keeps {r s : State} {a1} {a2} {a3} (h : Keeps r s) : Keeps r (State.eccFatal s a1 a2 a3) := by
  unfold State.eccFatal
  iterate 60 all_goals try first
    | with_reducible assumption
    | with_reducible refine State.retireTile_keeps ?_
    | with_reducible refine State.tileFatal_keeps ?_
    | with_reducible refine State.updTile_keeps ?_
    | extract_lets
    | split
    | intro _
    | with_reducible refine Keeps.lit ?_
    | dsimp -zeta only

theorem State.tileMasked_keeps {r s : State} {a1} {a2} (h : Keeps r s) : Keeps r (State.tileMasked s a1 a2) := by
  unfold State.tileMasked
  iterate 60 all_goals try first
    | with_reducible assumption
    | with_reducible refine State.record_keeps ?_
    | extract_lets
    | split
    | intro _
    | with_reducible refine Keeps.getD (fun t e => ?_) ?_
    | with_reducible refine Keeps.lit ?_
    | dsimp -zeta only

theorem State.lsCheck_keeps {r s : State} {a1} {a2} {a3} (h : Keeps r s) : Keeps r (State.lsCheck s a1 a2 a3) := by
  unfold State.lsCheck
  iterate 60 all_goals try first
    | with_reducible assumption
    | with_reducible refine State.eccFatal_keeps ?_
    | with_reducible refine State.tileMasked_keeps ?_
    | with_reducible refine State.updTile_keeps ?_
    | extract_lets
    | split
    | intro _
    | with_reducible refine Keeps.litPutMany ?_ ?_
    | with_reducible refine Keeps.litFatal ?_
    | with_reducible refine Keeps.lit ?_
    | dsimp -zeta only

theorem State.lsCheckAll_keeps {r s : State} {a1} {a2} {a3} (h : Keeps r s) : Keeps r (State.lsCheckAll s a1 a2 a3) := by
  unfold State.lsCheckAll
  iterate 60 all_goals try first
    | with_reducible assumption
    | with_reducible refine State.lsCheck_keeps ?_
    | with_reducible refine Keeps.foldl ?_ ?_
    | with_reducible refine Keeps.foldlSnd ?_ ?_
    | with_reducible refine Keeps.foldlFst ?_ ?_
    | extract_lets
    | split
    | intro _
    | with_reducible refine Keeps.lit ?_
    | dsimp -zeta only

theorem State.lsRead_keeps {r s : State} {a1} {a2} {a3} (h : Keeps r s) : Keeps r (State.lsRead s a1 a2 a3).2 := by
  unfold State.lsRead
  iterate 60 all_goals try first
    | with_reducible assumption
    | with_reducible refine State.lsCheckAll_keeps ?_
    | extract_lets
    | split
    | intro _
    | with_reducible refine Keeps.lit ?_
    | dsimp -zeta only

theorem State.lsWrite_keeps {r s : State} {a1} {a2} {a3} (h : Keeps r s) : Keeps r (State.lsWrite s a1 a2 a3) := by
  unfold State.lsWrite
  iterate 60 all_goals try first
    | with_reducible assumption
    | with_reducible refine State.lsCheck_keeps ?_
    | with_reducible refine State.updTile_keeps ?_
    | with_reducible refine Keeps.foldl ?_ ?_
    | with_reducible refine Keeps.foldlSnd ?_ ?_
    | with_reducible refine Keeps.foldlFst ?_ ?_
    | extract_lets
    | split
    | intro _
    | with_reducible refine Keeps.litPutMany ?_ ?_
    | with_reducible refine Keeps.litClears ?_ ?_
    | with_reducible refine Keeps.litClear ?_ ?_
    | with_reducible refine Keeps.litFatal ?_
    | with_reducible refine Keeps.lit ?_
    | dsimp -zeta only

theorem State.lsClear_keeps {r s : State} {a1} (h : Keeps r s) : Keeps r (State.lsClear s a1) := by
  unfold State.lsClear
  iterate 60 all_goals try first
    | with_reducible assumption
    | with_reducible refine State.updTile_keeps ?_
    | extract_lets
    | split
    | intro _
    | with_reducible refine Keeps.lit ?_
    | dsimp -zeta only

theorem State.updHbm_keeps {r s : State} {a1} {a2} (h : Keeps r s) : Keeps r (State.updHbm s a1 a2) := by
  unfold State.updHbm
  iterate 60 all_goals try first
    | with_reducible assumption
    | with_reducible refine State.setHbm_keeps ?_
    | extract_lets
    | split
    | intro _
    | with_reducible refine Keeps.lit ?_
    | dsimp -zeta only

theorem State.repairChunk_keeps {r s : State} {a1} {a2} {a3} (h : Keeps r s) : Keeps r (State.repairChunk s a1 a2 a3) := by
  unfold State.repairChunk
  iterate 60 all_goals try first
    | with_reducible assumption
    | with_reducible refine State.updHbm_keeps ?_
    | extract_lets
    | split
    | intro _
    | with_reducible refine Keeps.lit ?_
    | dsimp -zeta only

theorem State.draw_keeps {r s : State} (h : Keeps r s) : Keeps r (State.draw s).2 := by
  unfold State.draw
  iterate 60 all_goals try first
    | with_reducible assumption
    | extract_lets
    | split
    | intro _
    | with_reducible refine Keeps.litFatal ?_
    | with_reducible refine Keeps.lit ?_
    | dsimp -zeta only

theorem State.freeBytes_keeps {r s : State} {a0} (h : Keeps r s) : Keeps r (State.freeBytes a0 s).2 := by
  induction a0 generalizing s  with
  | zero => exact h
  | succ k ih =>
    unfold State.freeBytes
    iterate 60 all_goals try first
    | with_reducible assumption
    | with_reducible refine ih ?_
    | with_reducible refine Keeps.ofEq ?_ (by with_reducible assumption)
    | with_reducible refine State.draw_keeps ?_
    | with_reducible refine Keeps.ofEq ?_ (by with_reducible assumption)
    | extract_lets
    | split
    | intro _
    | with_reducible refine Keeps.lit ?_
    | dsimp -zeta only

theorem State.countCorrected_keeps {r s : State} {a1} {a2} {a3} (h : Keeps r s) : Keeps r (State.countCorrected s a1 a2 a3) := by
  unfold State.countCorrected
  iterate 60 all_goals try first
    | with_reducible assumption
    | with_reducible refine State.updHbm_keeps ?_
    | extract_lets
    | split
    | intro _
    | with_reducible refine Keeps.lit ?_
    | dsimp -zeta only

theorem State.closeAll_keeps {r s : State} (h : Keeps r s) : Keeps r (State.closeAll s) := by
  unfold State.closeAll
  iterate 60 all_goals try first
    | with_reducible assumption
    | with_reducible refine State.updTile_keeps ?_
    | with_reducible refine Keeps.foldl ?_ ?_
    | with_reducible refine Keeps.foldlSnd ?_ ?_
    | with_reducible refine Keeps.foldlFst ?_ ?_
    | extract_lets
    | split
    | intro _
    | with_reducible refine Keeps.lit ?_
    | dsimp -zeta only

theorem State.setDev_keeps {r s : State} {d} (h : Keeps r s) : Keeps r (s.setDev d) := by
  unfold State.setDev
  split
  · exact h
  · exact State.msix_keeps (State.event_keeps (Keeps.lit h))

theorem State.flagDevice_keeps {r s : State} {a1} (h : Keeps r s) : Keeps r (State.flagDevice s a1) := by
  unfold State.flagDevice
  iterate 60 all_goals try first
    | with_reducible assumption
    | with_reducible refine State.closeAll_keeps ?_
    | with_reducible refine State.endWork_keeps ?_
    | with_reducible refine State.event_keeps ?_
    | with_reducible refine State.setDev_keeps ?_
    | with_reducible refine State.stopTiles_keeps ?_
    | with_reducible refine Keeps.foldl ?_ ?_
    | with_reducible refine Keeps.foldlSnd ?_ ?_
    | with_reducible refine Keeps.foldlFst ?_ ?_
    | extract_lets
    | split
    | intro _
    | with_reducible refine Keeps.litFatal ?_
    | with_reducible refine Keeps.lit ?_
    | dsimp -zeta only

theorem State.devFatal_keeps {r s : State} {a1} (h : Keeps r s) : Keeps r (State.devFatal s a1) := by
  unfold State.devFatal
  iterate 60 all_goals try first
    | with_reducible assumption
    | with_reducible refine State.flagDevice_keeps ?_
    | with_reducible refine State.record_keeps ?_
    | extract_lets
    | split
    | intro _
    | with_reducible refine Keeps.lit ?_
    | dsimp -zeta only

theorem State.lineFatal_keeps {r s : State} {a1} (h : Keeps r s) : Keeps r (State.lineFatal s a1) := by
  unfold State.lineFatal
  iterate 60 all_goals try first
    | with_reducible assumption
    | with_reducible refine State.devFatal_keeps ?_
    | with_reducible refine State.partFatal_keeps ?_
    | with_reducible refine State.record_keeps ?_
    | extract_lets
    | split
    | intro _
    | with_reducible refine Keeps.lit ?_
    | dsimp -zeta only

theorem State.noteLost_keeps {r s : State} {a1} {a2} (h : Keeps r s) : Keeps r (State.noteLost s a1 a2) := by
  unfold State.noteLost
  iterate 60 all_goals try first
    | with_reducible assumption
    | with_reducible refine State.updHbm_keeps ?_
    | extract_lets
    | split
    | intro _
    | with_reducible refine Keeps.lit ?_
    | dsimp -zeta only

theorem State.poisonLine_keeps {r s : State} {a1} {a2} (h : Keeps r s) : Keeps r (State.poisonLine s a1 a2) := by
  unfold State.poisonLine
  iterate 60 all_goals try first
    | with_reducible assumption
    | with_reducible refine State.noteLost_keeps ?_
    | with_reducible refine State.updHbm_keeps ?_
    | extract_lets
    | split
    | intro _
    | with_reducible refine Keeps.lit ?_
    | dsimp -zeta only

theorem State.lineLoad_keeps {r s : State} {k l u lost scrub} (h : Keeps r s) : Keeps r (s.lineLoad k l u lost scrub).2 := by
  unfold State.lineLoad
  extract_lets off raw planted plain
  have p : ∀ ct (t : State), Keeps r t → Keeps r (plain ct t).2 := by
    intro ct t ht
    simp only [plain]
    split
    · exact State.freeBytes_keeps ht
    · exact ht
  split
  · split
    · exact p _ _ h
    · exact h
  · split
    · exact p _ _ h
    · refine p _ _ ?_
      split
      · exact State.repairChunk_keeps (State.countCorrected_keeps (State.record_keeps h))
      · exact State.updHbm_keeps (State.countCorrected_keeps (State.record_keeps h))
    · exact State.poisonLine_keeps (State.lineFatal_keeps h)
    · split
      · exact h
      · exact State.lineFatal_keeps h

theorem State.lineStore_keeps {r s : State} {a1} {a2} {a3} (h : Keeps r s) : Keeps r (State.lineStore s a1 a2 a3) := by
  unfold State.lineStore
  iterate 60 all_goals try first
    | with_reducible assumption
    | with_reducible refine State.noteLost_keeps ?_
    | with_reducible refine State.updHbm_keeps ?_
    | extract_lets
    | split
    | intro _
    | with_reducible refine Keeps.litPutMany ?_ ?_
    | with_reducible refine Keeps.litFatal ?_
    | with_reducible refine Keeps.lit ?_
    | dsimp -zeta only

theorem State.lineOp_keeps {r s : State} {a1} {a2} {a3} {a4} {a5} {a6} (h : Keeps r s) : Keeps r (State.lineOp s a1 a2 a3 a4 a5 a6).2 := by
  unfold State.lineOp
  iterate 60 all_goals try first
    | with_reducible assumption
    | with_reducible refine State.lineLoad_keeps ?_
    | with_reducible refine State.lineStore_keeps ?_
    | with_reducible refine Keeps.ofEq ?_ (by with_reducible assumption)
    | extract_lets
    | split
    | intro _
    | with_reducible refine Keeps.lit ?_
    | dsimp -zeta only

theorem State.keyRefusal_keeps {r s : State} {a1} (h : Keeps r s) : Keeps r (State.keyRefusal s a1) := by
  unfold State.keyRefusal
  iterate 60 all_goals try first
    | with_reducible assumption
    | with_reducible refine State.record_keeps ?_
    | extract_lets
    | split
    | intro _
    | with_reducible refine Keeps.lit ?_
    | dsimp -zeta only

theorem State.perform_keeps {r s : State} {a1} {a2} {a3} (h : Keeps r s) : Keeps r (State.perform s a1 a2 a3).2 := by
  unfold State.perform
  iterate 60 all_goals try first
    | with_reducible assumption
    | with_reducible refine State.keyRefusal_keeps ?_
    | with_reducible refine State.lineOp_keeps ?_
    | with_reducible refine State.repairChunk_keeps ?_
    | with_reducible refine Keeps.ofEq ?_ (by with_reducible assumption)
    | extract_lets
    | split
    | intro _
    | with_reducible refine Keeps.lit ?_
    | dsimp -zeta only

theorem State.orderLine_keeps {r s : State} {a1} {a2} {a3} (h : Keeps r s) : Keeps r (State.orderLine s a1 a2 a3) := by
  unfold State.orderLine
  iterate 60 all_goals try first
    | with_reducible assumption
    | with_reducible refine State.perform_keeps ?_
    | with_reducible refine State.updHbm_keeps ?_
    | with_reducible refine Keeps.ofEq ?_ (by with_reducible assumption)
    | with_reducible refine Keeps.foldl ?_ ?_
    | with_reducible refine Keeps.foldlSnd ?_ ?_
    | with_reducible refine Keeps.foldlFst ?_ ?_
    | extract_lets
    | split
    | intro _
    | with_reducible refine Keeps.lit ?_
    | dsimp -zeta only

theorem State.readLine_keeps {r s : State} {a1} {a2} {a3} {a4} (h : Keeps r s) : Keeps r (State.readLine s a1 a2 a3 a4).2 := by
  unfold State.readLine
  iterate 60 all_goals try first
    | with_reducible assumption
    | with_reducible refine State.lineLoad_keeps ?_
    | with_reducible refine State.orderLine_keeps ?_
    | with_reducible refine Keeps.ofEq ?_ (by with_reducible assumption)
    | extract_lets
    | split
    | intro _
    | with_reducible refine Keeps.lit ?_
    | dsimp -zeta only

theorem State.hbmRead_keeps {r s : State} {a0} {a1} {a2} (h : Keeps r s) : Keeps r (State.hbmRead a0 a1 a2 s).2 := by
  induction a0 generalizing s a1 a2 with
  | zero => exact h
  | succ k ih =>
    unfold State.hbmRead
    iterate 60 all_goals try first
    | with_reducible assumption
    | with_reducible refine ih ?_
    | with_reducible refine Keeps.ofEq ?_ (by with_reducible assumption)
    | with_reducible refine State.readLine_keeps ?_
    | with_reducible refine Keeps.ofEq ?_ (by with_reducible assumption)
    | extract_lets
    | split
    | intro _
    | with_reducible refine Keeps.lit ?_
    | dsimp -zeta only

theorem State.writeInLine_keeps {r s : State} {a1} {a2} {a3} {a4} (h : Keeps r s) : Keeps r (State.writeInLine s a1 a2 a3 a4).2 := by
  unfold State.writeInLine
  iterate 60 all_goals try first
    | with_reducible assumption
    | with_reducible refine State.lineOp_keeps ?_
    | with_reducible refine State.orderLine_keeps ?_
    | with_reducible refine Keeps.ofEq ?_ (by with_reducible assumption)
    | extract_lets
    | split
    | intro _
    | with_reducible refine Keeps.lit ?_
    | dsimp -zeta only

theorem State.hbmWrite_keeps {r s : State} {a0} {a1} {a2} (h : Keeps r s) : Keeps r (State.hbmWrite a0 a1 a2 s).2 := by
  induction a0 generalizing s a1 a2 with
  | zero => exact h
  | succ k ih =>
    unfold State.hbmWrite
    iterate 60 all_goals try first
    | with_reducible assumption
    | with_reducible refine ih ?_
    | with_reducible refine Keeps.ofEq ?_ (by with_reducible assumption)
    | with_reducible refine State.writeInLine_keeps ?_
    | with_reducible refine Keeps.ofEq ?_ (by with_reducible assumption)
    | extract_lets
    | split
    | intro _
    | with_reducible refine Keeps.lit ?_
    | dsimp -zeta only

theorem State.tcrPut_keeps {r s : State} {a1} {a2} {a3} (h : Keeps r s) : Keeps r (State.tcrPut s a1 a2 a3) := by
  unfold State.tcrPut
  iterate 60 all_goals try first
    | with_reducible assumption
    | with_reducible refine State.updTile_keeps ?_
    | extract_lets
    | split
    | intro _
    | with_reducible refine Keeps.lit ?_
    | dsimp -zeta only

theorem State.unitRead_keeps {r s : State} {u off} (h : Keeps r s) : Keeps r (s.unitRead u off).2 := by
  unfold State.unitRead
  repeat' (first | with_reducible exact h | with_reducible refine Keeps.iteSnd ?_ ?_ | extract_lets)
  exact State.draw_keeps h

theorem State.badDoorbell_keeps {r s : State} {a1} (h : Keeps r s) : Keeps r (State.badDoorbell s a1) := by
  unfold State.badDoorbell
  iterate 60 all_goals try first
    | with_reducible assumption
    | with_reducible refine State.record_keeps ?_
    | extract_lets
    | split
    | intro _
    | with_reducible refine Keeps.lit ?_
    | dsimp -zeta only

theorem State.sqTail_keeps {r s : State} {a1} {a2} {a3} (h : Keeps r s) : Keeps r (State.sqTail s a1 a2 a3) := by
  unfold State.sqTail
  iterate 60 all_goals try first
    | with_reducible assumption
    | with_reducible refine State.badDoorbell_keeps ?_
    | with_reducible refine State.updPart_keeps ?_
    | extract_lets
    | split
    | intro _
    | with_reducible refine Keeps.lit ?_
    | dsimp -zeta only

theorem State.cqHead_keeps {r s : State} {a1} {a2} {a3} (h : Keeps r s) : Keeps r (State.cqHead s a1 a2 a3) := by
  unfold State.cqHead
  iterate 60 all_goals try first
    | with_reducible assumption
    | with_reducible refine State.badDoorbell_keeps ?_
    | with_reducible refine State.updPart_keeps ?_
    | extract_lets
    | split
    | intro _
    | with_reducible refine Keeps.lit ?_
    | dsimp -zeta only

theorem State.hashRefuse_keeps {r s : State} {a1} {a2} (h : Keeps r s) : Keeps r (State.hashRefuse s a1 a2) := by
  unfold State.hashRefuse
  iterate 60 all_goals try first
    | with_reducible assumption
    | with_reducible refine State.updPart_keeps ?_
    | extract_lets
    | split
    | intro _
    | with_reducible refine Keeps.lit ?_
    | dsimp -zeta only

theorem State.readEntry_keeps {r s : State} {a1} (h : Keeps r s) : Keeps r (State.readEntry s a1).2 := by
  unfold State.readEntry
  iterate 60 all_goals try first
    | with_reducible assumption
    | with_reducible refine State.readLine_keeps ?_
    | with_reducible refine Keeps.ofEq ?_ (by with_reducible assumption)
    | extract_lets
    | split
    | intro _
    | with_reducible refine Keeps.lit ?_
    | dsimp -zeta only

theorem State.walk_keeps {r s : State} {a1} {a2} (h : Keeps r s) : Keeps r (State.walk s a1 a2).2 := by
  unfold State.walk
  iterate 60 all_goals try first
    | with_reducible assumption
    | with_reducible refine State.readEntry_keeps ?_
    | with_reducible refine Keeps.ofEq ?_ (by with_reducible assumption)
    | extract_lets
    | split
    | intro _
    | with_reducible refine Keeps.lit ?_
    | dsimp -zeta only

theorem State.rangeExtents_keeps {r s : State} {a0} {a1} {a2} {a3} {a4} {a5} (h : Keeps r s) : Keeps r (State.rangeExtents a0 a1 a2 a3 a4 a5 s).2 := by
  induction a2 generalizing s a0 a1 a3 a4 a5 with
  | zero => exact h
  | succ k ih =>
    unfold State.rangeExtents
    iterate 60 all_goals try first
    | with_reducible assumption
    | with_reducible refine ih ?_
    | with_reducible refine Keeps.ofEq ?_ (by with_reducible assumption)
    | with_reducible refine State.walk_keeps ?_
    | with_reducible refine Keeps.ofEq ?_ (by with_reducible assumption)
    | extract_lets
    | split
    | intro _
    | with_reducible refine Keeps.lit ?_
    | dsimp -zeta only

theorem State.range_keeps {r s : State} {a1} {a2} {a3} {a4} (h : Keeps r s) : Keeps r (State.range s a1 a2 a3 a4).2 := by
  unfold State.range
  iterate 60 all_goals try first
    | with_reducible assumption
    | with_reducible refine State.rangeExtents_keeps ?_
    | with_reducible refine Keeps.ofEq ?_ (by with_reducible assumption)
    | extract_lets
    | split
    | intro _
    | with_reducible refine Keeps.lit ?_
    | dsimp -zeta only

theorem State.hashGo_keeps {r s : State} {a1} {a2} (h : Keeps r s) : Keeps r (State.hashGo s a1 a2) := by
  unfold State.hashGo
  iterate 60 all_goals try first
    | with_reducible assumption
    | with_reducible refine State.hashRefuse_keeps ?_
    | with_reducible refine State.range_keeps ?_
    | with_reducible refine State.updPart_keeps ?_
    | with_reducible refine Keeps.ofEq ?_ (by with_reducible assumption)
    | extract_lets
    | split
    | intro _
    | with_reducible refine Keeps.lit ?_
    | dsimp -zeta only

theorem State.pageWrite_keeps {r s : State} {a1} {a2} {a3} (h : Keeps r s) : Keeps r (State.pageWrite s a1 a2 a3) := by
  unfold State.pageWrite
  iterate 60 all_goals try first
    | with_reducible assumption
    | with_reducible refine State.cqHead_keeps ?_
    | with_reducible refine State.hashGo_keeps ?_
    | with_reducible refine State.sqTail_keeps ?_
    | with_reducible refine State.updPart_keeps ?_
    | extract_lets
    | split
    | intro _
    | with_reducible refine Keeps.lit ?_
    | dsimp -zeta only

theorem State.csTile_keeps {r s : State} {a1} {a2} (h : Keeps r s) : Keeps r (State.csTile s a1 a2) := by
  unfold State.csTile
  iterate 60 all_goals try first
    | with_reducible assumption
    | with_reducible refine State.draw_keeps ?_
    | with_reducible refine State.setTile_keeps ?_
    | with_reducible refine State.updTile_keeps ?_
    | with_reducible refine Keeps.ofEq ?_ (by with_reducible assumption)
    | extract_lets
    | split
    | intro _
    | with_reducible refine Keeps.getD (fun t e => ?_) ?_
    | with_reducible refine Keeps.litPutMany ?_ ?_
    | with_reducible refine Keeps.litFatal ?_
    | with_reducible refine Keeps.lit ?_
    | dsimp -zeta only

theorem State.csHbm_keeps {r s : State} {a1} {a2} (h : Keeps r s) : Keeps r (State.csHbm s a1 a2) := by
  unfold State.csHbm
  iterate 60 all_goals try first
    | with_reducible assumption
    | with_reducible refine State.orderLine_keeps ?_
    | with_reducible refine State.setHbm_keeps ?_
    | extract_lets
    | split
    | intro _
    | with_reducible refine Keeps.lit ?_
    | dsimp -zeta only

theorem State.unitWrite_keeps {r s : State} {a1} {a2} {a3} (h : Keeps r s) : Keeps r (State.unitWrite s a1 a2 a3) := by
  unfold State.unitWrite
  iterate 60 all_goals try first
    | with_reducible assumption
    | with_reducible refine State.csHbm_keeps ?_
    | with_reducible refine State.csTile_keeps ?_
    | with_reducible refine State.pageWrite_keeps ?_
    | with_reducible refine State.tcrPut_keeps ?_
    | with_reducible refine State.updHbm_keeps ?_
    | with_reducible refine State.updPart_keeps ?_
    | with_reducible refine State.updTile_keeps ?_
    | extract_lets
    | split
    | intro _
    | with_reducible refine Keeps.lit ?_
    | dsimp -zeta only

theorem State.unitPut_keeps {r s : State} {a1} {a2} {a3} (h : Keeps r s) : Keeps r (State.unitPut s a1 a2 a3) := by
  unfold State.unitPut
  iterate 60 all_goals try first
    | with_reducible assumption
    | with_reducible refine State.unitRead_keeps ?_
    | with_reducible refine State.unitWrite_keeps ?_
    | with_reducible refine Keeps.ofEq ?_ (by with_reducible assumption)
    | extract_lets
    | split
    | intro _
    | with_reducible refine Keeps.getD (fun t e => ?_) ?_
    | with_reducible refine Keeps.lit ?_
    | dsimp -zeta only

theorem State.hostBell_keeps {r s : State} {a1} {a2} {a3} (h : Keeps r s) : Keeps r (State.hostBell s a1 a2 a3) := by
  unfold State.hostBell
  iterate 60 all_goals try first
    | with_reducible assumption
    | with_reducible refine State.pageWrite_keeps ?_
    | extract_lets
    | split
    | intro _
    | with_reducible refine Keeps.litFatal ?_
    | with_reducible refine Keeps.lit ?_
    | dsimp -zeta only

theorem State.windowDone_keeps {r s : State} (h : Keeps r s) : Keeps r (State.windowDone s) := by
  unfold State.windowDone
  iterate 60 all_goals try first
    | with_reducible assumption
    | with_reducible refine State.pageWrite_keeps ?_
    | with_reducible refine Keeps.foldl ?_ ?_
    | with_reducible refine Keeps.foldlSnd ?_ ?_
    | with_reducible refine Keeps.foldlFst ?_ ?_
    | extract_lets
    | split
    | intro _
    | with_reducible refine Keeps.litFatal ?_
    | with_reducible refine Keeps.lit ?_
    | dsimp -zeta only

theorem State.refuse_keeps {r s : State} {a1} {a2} {a3} (h : Keeps r s) : Keeps r (State.refuse s a1 a2 a3) := by
  unfold State.refuse
  iterate 60 all_goals try first
    | with_reducible assumption
    | with_reducible refine State.record_keeps ?_
    | extract_lets
    | split
    | intro _
    | with_reducible refine Keeps.lit ?_
    | dsimp -zeta only

theorem State.memOp_keeps {r s : State} {a1} {a2} (h : Keeps r s) : Keeps r (State.memOp s a1 a2).2 := by
  unfold State.memOp
  iterate 60 all_goals try first
    | with_reducible assumption
    | with_reducible refine State.hbmRead_keeps ?_
    | with_reducible refine State.hbmWrite_keeps ?_
    | with_reducible refine State.keyRefusal_keeps ?_
    | with_reducible refine State.lsRead_keeps ?_
    | with_reducible refine State.lsWrite_keeps ?_
    | with_reducible refine Keeps.ofEq ?_ (by with_reducible assumption)
    | extract_lets
    | split
    | intro _
    | with_reducible refine Keeps.lit ?_
    | dsimp -zeta only

theorem State.regOp_keeps {r s : State} {a1} {a2} (h : Keeps r s) : Keeps r (State.regOp s a1 a2).2 := by
  unfold State.regOp
  iterate 60 all_goals try first
    | with_reducible assumption
    | with_reducible refine State.unitPut_keeps ?_
    | with_reducible refine State.unitRead_keeps ?_
    | with_reducible refine Keeps.ofEq ?_ (by with_reducible assumption)
    | extract_lets
    | split
    | intro _
    | with_reducible refine Keeps.getD (fun t e => ?_) ?_
    | with_reducible refine Keeps.lit ?_
    | dsimp -zeta only

theorem State.remoteAccess_keeps {r s : State} {a1} {a2} {a3} (h : Keeps r s) : Keeps r (State.remoteAccess s a1 a2 a3).2 := by
  unfold State.remoteAccess
  iterate 60 all_goals try first
    | with_reducible assumption
    | with_reducible refine State.netPut_keeps_of_eq ?_ (by with_reducible assumption)
    | with_reducible refine State.refuse_keeps ?_
    | extract_lets
    | split
    | intro _
    | with_reducible refine Keeps.litFatal ?_
    | with_reducible refine Keeps.lit ?_
    | dsimp -zeta only

theorem State.acting_keeps {r s : State} {a1} (h : Keeps r s) : Keeps r (State.acting s a1) := by
  unfold State.acting
  iterate 60 all_goals try first
    | with_reducible assumption
    | extract_lets
    | split
    | intro _
    | with_reducible refine Keeps.litFatal ?_
    | with_reducible refine Keeps.lit ?_
    | dsimp -zeta only

theorem State.acted_keeps {r s : State} {s0 : State} (h : Keeps r s) : Keeps r (State.acted s0 s) := by
  unfold State.acted
  iterate 60 all_goals try first
    | with_reducible assumption
    | extract_lets
    | split
    | intro _
    | with_reducible refine Keeps.litFatal ?_
    | with_reducible refine Keeps.lit ?_
    | dsimp -zeta only

theorem State.retry_keeps {r s : State} {a1} {a2} (h : Keeps r s) (hf2 : ∀ s, Keeps r s → Keeps r (a2 s)) : Keeps r (State.retry s a1 a2) := by
  unfold State.retry
  iterate 60 all_goals try first
    | with_reducible assumption
    | with_reducible refine hf2 _ ?_
    | with_reducible refine State.acted_keeps ?_
    | with_reducible refine State.acting_keeps ?_
    | with_reducible refine State.netSend_keeps ?_
    | with_reducible refine Keeps.foldl ?_ ?_
    | with_reducible refine Keeps.foldlSnd ?_ ?_
    | with_reducible refine Keeps.foldlFst ?_ ?_
    | extract_lets
    | split
    | intro _
    | with_reducible refine Keeps.litFatal ?_
    | with_reducible refine Keeps.lit ?_
    | dsimp -zeta only

theorem State.access_keeps {r s : State} {a1} {a2} {a3} (h : Keeps r s) : Keeps r (State.access s a1 a2 a3).2 := by
  unfold State.access
  iterate 60 all_goals try first
    | with_reducible assumption
    | with_reducible refine State.memOp_keeps ?_
    | with_reducible refine State.refuse_keeps ?_
    | with_reducible refine State.regOp_keeps ?_
    | with_reducible refine State.remoteAccess_keeps ?_
    | with_reducible refine Keeps.ofEq ?_ (by with_reducible assumption)
    | extract_lets
    | split
    | intro _
    | with_reducible refine Keeps.lit ?_
    | dsimp -zeta only

theorem State.windowSend_keeps {r s : State} {a1} {a2} {a3} (h : Keeps r s) : Keeps r (State.windowSend s a1 a2 a3) := by
  unfold State.windowSend
  iterate 60 all_goals try first
    | with_reducible assumption
    | with_reducible refine State.netSend_keeps ?_
    | with_reducible refine State.refuse_keeps ?_
    | extract_lets
    | split
    | intro _
    | with_reducible refine Keeps.litFatal ?_
    | with_reducible refine Keeps.lit ?_
    | dsimp -zeta only

theorem State.accessRead_keeps {r s : State} {a1} {a2} {a3} (h : Keeps r s) : Keeps r (State.accessRead s a1 a2 a3).2 := by
  unfold State.accessRead
  iterate 60 all_goals try first
    | with_reducible assumption
    | with_reducible refine State.access_keeps ?_
    | with_reducible refine State.freeBytes_keeps ?_
    | with_reducible refine Keeps.ofEq ?_ (by with_reducible assumption)
    | extract_lets
    | split
    | intro _
    | with_reducible refine Keeps.lit ?_
    | dsimp -zeta only

theorem State.accessWrite_keeps {r s : State} {a1} {a2} {a3} (h : Keeps r s) : Keeps r (State.accessWrite s a1 a2 a3).2 := by
  unfold State.accessWrite
  iterate 60 all_goals try first
    | with_reducible assumption
    | with_reducible refine State.access_keeps ?_
    | with_reducible refine Keeps.ofEq ?_ (by with_reducible assumption)
    | extract_lets
    | split
    | intro _
    | with_reducible refine Keeps.lit ?_
    | dsimp -zeta only

theorem State.readExtents_keeps {r s : State} {a1} {a2} (h : Keeps r s) : Keeps r (State.readExtents s a1 a2).2 := by
  unfold State.readExtents
  iterate 60 all_goals try first
    | with_reducible assumption
    | with_reducible refine State.accessRead_keeps ?_
    | with_reducible refine Keeps.ofEq ?_ (by with_reducible assumption)
    | with_reducible refine Keeps.foldl ?_ ?_
    | with_reducible refine Keeps.foldlSnd ?_ ?_
    | with_reducible refine Keeps.foldlFst ?_ ?_
    | extract_lets
    | split
    | intro _
    | with_reducible refine Keeps.lit ?_
    | dsimp -zeta only

theorem State.writeExtents_keeps {r s : State} {a1} {a2} {a3} (h : Keeps r s) : Keeps r (State.writeExtents s a1 a2 a3).2 := by
  unfold State.writeExtents
  iterate 60 all_goals try first
    | with_reducible assumption
    | with_reducible refine State.accessWrite_keeps ?_
    | with_reducible refine Keeps.ofEq ?_ (by with_reducible assumption)
    | with_reducible refine Keeps.foldl ?_ ?_
    | with_reducible refine Keeps.foldlSnd ?_ ?_
    | with_reducible refine Keeps.foldlFst ?_ ?_
    | extract_lets
    | split
    | intro _
    | with_reducible refine Keeps.lit ?_
    | dsimp -zeta only

theorem State.respond_keeps {r s : State} {a1} {a2} {a3} {a4} {a5} {a6} {a7} {a8} (h : Keeps r s) : Keeps r (State.respond s a1 a2 a3 a4 a5 a6 a7 a8) := by
  unfold State.respond
  iterate 60 all_goals try first
    | with_reducible assumption
    | with_reducible refine State.pump_keeps ?_
    | with_reducible refine State.updBox_keeps ?_
    | extract_lets
    | split
    | intro _
    | with_reducible refine Keeps.lit ?_
    | dsimp -zeta only

theorem State.answer_keeps {r s : State} {a1} {a2} {a3} {a4} (h : Keeps r s) : Keeps r (State.answer s a1 a2 a3 a4) := by
  unfold State.answer
  iterate 60 all_goals try first
    | with_reducible assumption
    | with_reducible refine State.respond_keeps ?_
    | with_reducible refine State.updBox_keeps ?_
    | extract_lets
    | split
    | intro _
    | with_reducible refine Keeps.lit ?_
    | dsimp -zeta only

theorem State.giveReport_keeps {r s : State} {a1} {a2} {a3} (h : Keeps r s) : Keeps r (State.giveReport s a1 a2 a3) := by
  unfold State.giveReport
  iterate 60 all_goals try first
    | with_reducible assumption
    | with_reducible refine State.answer_keeps ?_
    | with_reducible refine State.updBox_keeps ?_
    | extract_lets
    | split
    | intro _
    | with_reducible refine Keeps.lit ?_
    | dsimp -zeta only

theorem State.setTasks_keeps {r s : State} {a1} (h : Keeps r s) : Keeps r (State.setTasks s a1) := by
  unfold State.setTasks
  iterate 60 all_goals try first
    | with_reducible assumption
    | extract_lets
    | split
    | intro _
    | with_reducible refine Keeps.litFatal ?_
    | with_reducible refine Keeps.lit ?_
    | dsimp -zeta only

theorem State.spdm_keeps {r s : State} {a1} {a2} (h : Keeps r s) : Keeps r (State.spdm s a1 a2) := by
  unfold State.spdm
  iterate 60 all_goals try first
    | with_reducible assumption
    | with_reducible refine State.emit_keeps ?_
    | with_reducible refine State.msix_keeps ?_
    | extract_lets
    | split
    | intro _
    | with_reducible refine Keeps.lit ?_
    | dsimp -zeta only

theorem State.spdmError_keeps {r s : State} {a1} {a2} (h : Keeps r s) : Keeps r (State.spdmError s a1 a2) := by
  unfold State.spdmError
  iterate 60 all_goals try first
    | with_reducible assumption
    | with_reducible refine State.spdm_keeps ?_
    | extract_lets
    | split
    | intro _
    | with_reducible refine Keeps.lit ?_
    | dsimp -zeta only

theorem State.failTask_keeps {r s : State} {a1} (h : Keeps r s) : Keeps r (State.failTask s a1) := by
  unfold State.failTask
  iterate 60 all_goals try first
    | with_reducible assumption
    | with_reducible refine State.answer_keeps ?_
    | with_reducible refine State.setTasks_keeps ?_
    | with_reducible refine State.spdmError_keeps ?_
    | extract_lets
    | split
    | intro _
    | with_reducible refine Keeps.lit ?_
    | dsimp -zeta only

theorem State.addTask_keeps {r s : State} {a1} {a2} (h : Keeps r s) : Keeps r (State.addTask s a1 a2) := by
  unfold State.addTask
  iterate 60 all_goals try first
    | with_reducible assumption
    | with_reducible refine State.failTask_keeps ?_
    | with_reducible refine State.setTasks_keeps ?_
    | extract_lets
    | split
    | intro _
    | with_reducible refine Keeps.lit ?_
    | dsimp -zeta only

theorem State.attest_keeps {r s : State} {a1} {a2} {a3} (h : Keeps r s) : Keeps r (State.attest s a1 a2 a3) := by
  unfold State.attest
  iterate 60 all_goals try first
    | with_reducible assumption
    | with_reducible refine State.addTask_keeps ?_
    | with_reducible refine State.answer_keeps ?_
    | with_reducible refine State.giveReport_keeps ?_
    | with_reducible refine State.updBox_keeps ?_
    | extract_lets
    | split
    | intro _
    | with_reducible refine Keeps.lit ?_
    | dsimp -zeta only

theorem State.serve_keeps {r s : State} {m tag op chk run} (h : Keeps r s) (hf : ∀ x s, Keeps r s → Keeps r (run x s)) :
    Keeps r (s.serve m tag op chk run) := by
  unfold State.serve
  repeat' split
  · exact h
  · exact State.answer_keeps h
  · exact State.answer_keeps h
  · exact hf _ _ h

theorem State.atLeast_keeps {r s : State} {n} (h : Keeps r s) : Keeps r (s.atLeast n) := h.litNow (Nat.le_max_left _ _)

theorem State.giveSeed_keeps {r s : State} {a1} {a2} (h : Keeps r s) : Keeps r (State.giveSeed s a1 a2) := by
  unfold State.giveSeed
  iterate 60 all_goals try first
    | with_reducible assumption
    | with_reducible refine State.partChange_keeps ?_ ?_
    | with_reducible refine State.updPart_keeps ?_
    | with_reducible refine State.updTile_keeps ?_
    | with_reducible refine Keeps.foldl ?_ ?_
    | with_reducible refine Keeps.foldlSnd ?_ ?_
    | with_reducible refine Keeps.foldlFst ?_ ?_
    | extract_lets
    | split
    | intro _
    | with_reducible refine Keeps.lit ?_
    | dsimp -zeta only

theorem State.answerSeed_keeps {r s : State} {a1} {a2} {a3} (h : Keeps r s) : Keeps r (State.answerSeed s a1 a2 a3) := by
  unfold State.answerSeed
  iterate 60 all_goals try first
    | with_reducible assumption
    | with_reducible refine State.answer_keeps ?_
    | with_reducible refine State.giveSeed_keeps ?_
    | extract_lets
    | split
    | intro _
    | with_reducible refine Keeps.lit ?_
    | dsimp -zeta only

theorem State.applyKey_keeps {r s : State} {a1} {a2} (h : Keeps r s) : Keeps r (State.applyKey s a1 a2) := by
  unfold State.applyKey
  iterate 60 all_goals try first
    | with_reducible assumption
    | with_reducible refine State.partChange_keeps ?_ ?_
    | with_reducible refine State.updPart_keeps ?_
    | extract_lets
    | split
    | intro _
    | with_reducible refine Keeps.lit ?_
    | dsimp -zeta only

theorem State.dropRanks_keeps {r s : State} {a1} (h : Keeps r s) : Keeps r (State.dropRanks s a1) := by
  unfold State.dropRanks
  iterate 60 all_goals try first
    | with_reducible assumption
    | with_reducible refine State.updTile_keeps ?_
    | with_reducible refine Keeps.foldl ?_ ?_
    | with_reducible refine Keeps.foldlSnd ?_ ?_
    | with_reducible refine Keeps.foldlFst ?_ ?_
    | extract_lets
    | split
    | intro _
    | with_reducible refine Keeps.lit ?_
    | dsimp -zeta only

theorem State.updLed_keeps {r s : State} {a1} {a2} (h : Keeps r s) : Keeps r (State.updLed s a1 a2) := by
  unfold State.updLed
  iterate 60 all_goals try first
    | with_reducible assumption
    | with_reducible refine State.setLed_keeps ?_
    | extract_lets
    | split
    | intro _
    | with_reducible refine Keeps.lit ?_
    | dsimp -zeta only

theorem State.endPass_keeps {r s : State} {a1} {a2} (h : Keeps r s) : Keeps r (State.endPass s a1 a2) := by
  unfold State.endPass
  iterate 60 all_goals try first
    | with_reducible assumption
    | with_reducible refine State.dropRanks_keeps ?_
    | with_reducible refine State.updLed_keeps ?_
    | with_reducible refine State.updPart_keeps ?_
    | with_reducible refine State.updTile_keeps ?_
    | extract_lets
    | split
    | intro _
    | with_reducible refine Keeps.lit ?_
    | dsimp -zeta only

theorem State.endPassTrap_keeps {r s : State} {a1} {a2} {a3} {a4} (h : Keeps r s) : Keeps r (State.endPassTrap s a1 a2 a3 a4) := by
  unfold State.endPassTrap
  iterate 60 all_goals try first
    | with_reducible assumption
    | with_reducible refine State.endPass_keeps ?_
    | extract_lets
    | split
    | intro _
    | with_reducible refine Keeps.lit ?_
    | dsimp -zeta only

theorem State.translateT_keeps {r s : State} {a1} {a2} {a3} (h : Keeps r s) : Keeps r (State.translateT s a1 a2 a3).2 := by
  unfold State.translateT
  iterate 60 all_goals try first
    | with_reducible assumption
    | with_reducible refine State.updTile_keeps ?_
    | with_reducible refine State.walk_keeps ?_
    | with_reducible refine Keeps.ofEq ?_ (by with_reducible assumption)
    | extract_lets
    | split
    | intro _
    | with_reducible refine Keeps.lit ?_
    | dsimp -zeta only

theorem State.extentsT_keeps {r s : State} {a0} {a1} {a2} {a3} {a4} {a5} (h : Keeps r s) : Keeps r (State.extentsT a0 a1 a2 a3 a4 a5 s).2 := by
  induction a2 generalizing s a0 a1 a3 a4 a5 with
  | zero => exact h
  | succ k ih =>
    unfold State.extentsT
    iterate 60 all_goals try first
    | with_reducible assumption
    | with_reducible refine ih ?_
    | with_reducible refine Keeps.ofEq ?_ (by with_reducible assumption)
    | with_reducible refine State.translateT_keeps ?_
    | with_reducible refine Keeps.ofEq ?_ (by with_reducible assumption)
    | extract_lets
    | split
    | intro _
    | with_reducible refine Keeps.lit ?_
    | dsimp -zeta only

theorem State.rangeT_keeps {r s : State} {a1} {a2} {a3} {a4} (h : Keeps r s) : Keeps r (State.rangeT s a1 a2 a3 a4).2 := by
  unfold State.rangeT
  iterate 60 all_goals try first
    | with_reducible assumption
    | with_reducible refine State.extentsT_keeps ?_
    | with_reducible refine Keeps.ofEq ?_ (by with_reducible assumption)
    | extract_lets
    | split
    | intro _
    | with_reducible refine Keeps.lit ?_
    | dsimp -zeta only

theorem State.updCaches_keeps {r s : State} {a1} {a2} (h : Keeps r s) : Keeps r (State.updCaches s a1 a2) := by
  unfold State.updCaches
  iterate 60 all_goals try first
    | with_reducible assumption
    | with_reducible refine State.updTile_keeps ?_
    | extract_lets
    | split
    | intro _
    | with_reducible refine Keeps.lit ?_
    | dsimp -zeta only

theorem State.storeRefused_keeps {r s : State} {a1} {a2} {a3} (h : Keeps r s) : Keeps r (State.storeRefused s a1 a2 a3) := by
  unfold State.storeRefused
  iterate 60 all_goals try first
    | with_reducible assumption
    | with_reducible refine State.endPassTrap_keeps ?_
    | extract_lets
    | split
    | intro _
    | with_reducible refine Keeps.lit ?_
    | dsimp -zeta only

theorem State.lineHome_keeps {r s : State} {a1} {a2} (h : Keeps r s) : Keeps r (State.lineHome s a1 a2) := by
  unfold State.lineHome
  iterate 60 all_goals try first
    | with_reducible assumption
    | with_reducible refine State.accessWrite_keeps ?_
    | with_reducible refine State.storeRefused_keeps ?_
    | with_reducible refine Keeps.ofEq ?_ (by with_reducible assumption)
    | extract_lets
    | split
    | intro _
    | with_reducible refine Keeps.lit ?_
    | dsimp -zeta only

theorem State.parity_keeps {r s : State} {a1} {a2} {a3} {a4} (h : Keeps r s) : Keeps r (State.parity s a1 a2 a3 a4) := by
  unfold State.parity
  iterate 60 all_goals try first
    | with_reducible assumption
    | with_reducible refine State.retireTile_keeps ?_
    | with_reducible refine State.tileFatal_keeps ?_
    | with_reducible refine State.tileMasked_keeps ?_
    | extract_lets
    | split
    | intro _
    | with_reducible refine Keeps.lit ?_
    | dsimp -zeta only

theorem State.dropWay_keeps {r s : State} {a1} {a2} (h : Keeps r s) : Keeps r (State.dropWay s a1 a2) := by
  unfold State.dropWay
  iterate 60 all_goals try first
    | with_reducible assumption
    | with_reducible refine State.updCaches_keeps ?_
    | extract_lets
    | split
    | intro _
    | with_reducible refine Keeps.lit ?_
    | dsimp -zeta only

theorem State.failTwice_keeps {r s : State} {a1} {a2} (h : Keeps r s) : Keeps r (State.failTwice s a1 a2) := by
  unfold State.failTwice
  iterate 60 all_goals try first
    | with_reducible assumption
    | with_reducible refine State.parity_keeps ?_
    | with_reducible refine State.updCaches_keeps ?_
    | extract_lets
    | split
    | intro _
    | with_reducible refine Keeps.lit ?_
    | dsimp -zeta only

theorem State.checkWay_keeps {r s : State} {a1} {a2} {a3} (h : Keeps r s) : Keeps r (State.checkWay s a1 a2 a3) := by
  unfold State.checkWay
  iterate 60 all_goals try first
    | with_reducible assumption
    | with_reducible refine State.dropWay_keeps ?_
    | with_reducible refine State.failTwice_keeps ?_
    | with_reducible refine State.parity_keeps ?_
    | with_reducible refine State.updCaches_keeps ?_
    | with_reducible refine Keeps.foldl ?_ ?_
    | with_reducible refine Keeps.foldlSnd ?_ ?_
    | with_reducible refine Keeps.foldlFst ?_ ?_
    | extract_lets
    | split
    | intro _
    | with_reducible refine Keeps.lit ?_
    | dsimp -zeta only

theorem State.checkHit_keeps {r s : State} {a1} {a2} (h : Keeps r s) : Keeps r (State.checkHit s a1 a2) := by
  unfold State.checkHit
  iterate 60 all_goals try first
    | with_reducible assumption
    | with_reducible refine State.checkWay_keeps ?_
    | extract_lets
    | split
    | intro _
    | with_reducible refine Keeps.getD (fun t e => ?_) ?_
    | with_reducible refine Keeps.lit ?_
    | dsimp -zeta only

theorem State.strike_keeps {r s : State} {a1} {a2} (h : Keeps r s) : Keeps r (State.strike s a1 a2) := by
  unfold State.strike
  iterate 60 all_goals try first
    | with_reducible assumption
    | with_reducible refine State.updCaches_keeps ?_
    | with_reducible refine State.updTile_keeps ?_
    | extract_lets
    | split
    | intro _
    | with_reducible refine Keeps.getD (fun t e => ?_) ?_
    | with_reducible refine Keeps.litPutMany ?_ ?_
    | with_reducible refine Keeps.litFatal ?_
    | with_reducible refine Keeps.lit ?_
    | dsimp -zeta only

theorem State.ackDiscard_keeps {r s : State} {a1} {a2} (h : Keeps r s) : Keeps r (State.ackDiscard s a1 a2) := by
  unfold State.ackDiscard
  iterate 60 all_goals try first
    | with_reducible assumption
    | with_reducible refine State.lineHome_keeps ?_
    | with_reducible refine State.parity_keeps ?_
    | with_reducible refine State.updCaches_keeps ?_
    | extract_lets
    | split
    | intro _
    | with_reducible refine Keeps.lit ?_
    | dsimp -zeta only

theorem State.ackUntil_keeps {r s : State} {a0} {a1} {a2} (h : Keeps r s) : Keeps r (State.ackUntil a0 a1 a2 s) := by
  induction a1 generalizing s a0 a2 with
  | zero => exact h
  | succ k ih =>
    unfold State.ackUntil
    iterate 60 all_goals try first
    | with_reducible assumption
    | with_reducible refine ih ?_
    | with_reducible refine State.ackDiscard_keeps ?_
    | extract_lets
    | split
    | intro _
    | with_reducible refine Keeps.lit ?_
    | dsimp -zeta only

theorem State.l1Put_keeps {r s : State} {a1} {a2} (h : Keeps r s) : Keeps r (State.l1Put s a1 a2) := by
  unfold State.l1Put
  iterate 60 all_goals try first
    | with_reducible assumption
    | with_reducible refine State.ackDiscard_keeps ?_
    | with_reducible refine State.checkWay_keeps ?_
    | with_reducible refine State.lineHome_keeps ?_
    | with_reducible refine State.updCaches_keeps ?_
    | extract_lets
    | split
    | intro _
    | with_reducible refine Keeps.lit ?_
    | dsimp -zeta only

theorem State.fetchLine_keeps {r s : State} {a1} {a2} (h : Keeps r s) : Keeps r (State.fetchLine s a1 a2).2 := by
  unfold State.fetchLine
  iterate 60 all_goals try first
    | with_reducible assumption
    | with_reducible refine State.accessRead_keeps ?_
    | with_reducible refine Keeps.ofEq ?_ (by with_reducible assumption)
    | extract_lets
    | split
    | intro _
    | with_reducible refine Keeps.lit ?_
    | dsimp -zeta only

theorem State.fillDone_keeps {r s : State} {a1} {a2} (h : Keeps r s) : Keeps r (State.fillDone s a1 a2) := by
  unfold State.fillDone
  iterate 60 all_goals try first
    | with_reducible assumption
    | with_reducible refine State.fetchLine_keeps ?_
    | with_reducible refine State.l1Put_keeps ?_
    | with_reducible refine State.storeRefused_keeps ?_
    | with_reducible refine State.updCaches_keeps ?_
    | with_reducible refine Keeps.ofEq ?_ (by with_reducible assumption)
    | extract_lets
    | split
    | intro _
    | with_reducible refine Keeps.lit ?_
    | dsimp -zeta only

theorem State.fillRoom_keeps {r s : State} {a1} (h : Keeps r s) : Keeps r (State.fillRoom s a1) := by
  unfold State.fillRoom
  iterate 60 all_goals try first
    | with_reducible assumption
    | with_reducible refine State.fillDone_keeps ?_
    | extract_lets
    | split
    | intro _
    | with_reducible refine Keeps.lit ?_
    | dsimp -zeta only

theorem State.fillsFor_keeps {r s : State} {a0} {a1} {a2} (h : Keeps r s) : Keeps r (State.fillsFor a0 a1 a2 s) := by
  induction a1 generalizing s a0 a2 with
  | zero => exact h
  | succ k ih =>
    unfold State.fillsFor
    iterate 60 all_goals try first
    | with_reducible assumption
    | with_reducible refine ih ?_
    | with_reducible refine State.fillRoom_keeps ?_
    | extract_lets
    | split
    | intro _
    | with_reducible refine Keeps.lit ?_
    | dsimp -zeta only

theorem State.settleLine_keeps {r s : State} {a1} {a2} (h : Keeps r s) : Keeps r (State.settleLine s a1 a2) := by
  unfold State.settleLine
  iterate 60 all_goals try first
    | with_reducible assumption
    | with_reducible refine State.ackUntil_keeps ?_
    | with_reducible refine State.fillDone_keeps ?_
    | with_reducible refine State.fillsFor_keeps ?_
    | extract_lets
    | split
    | intro _
    | with_reducible refine Keeps.lit ?_
    | dsimp -zeta only

theorem State.settle_keeps {r s : State} {a1} {a2} (h : Keeps r s) : Keeps r (State.settle s a1 a2) := by
  unfold State.settle
  iterate 60 all_goals try first
    | with_reducible assumption
    | with_reducible refine State.settleLine_keeps ?_
    | with_reducible refine Keeps.foldl ?_ ?_
    | with_reducible refine Keeps.foldlSnd ?_ ?_
    | with_reducible refine Keeps.foldlFst ?_ ?_
    | extract_lets
    | split
    | intro _
    | with_reducible refine Keeps.lit ?_
    | dsimp -zeta only

theorem State.talonFill_keeps {r s : State} {a1} {a2} (h : Keeps r s) : Keeps r (State.talonFill s a1 a2) := by
  unfold State.talonFill
  iterate 60 all_goals try first
    | with_reducible assumption
    | with_reducible refine State.ackUntil_keeps ?_
    | with_reducible refine State.fetchLine_keeps ?_
    | with_reducible refine State.updCaches_keeps ?_
    | with_reducible refine Keeps.ofEq ?_ (by with_reducible assumption)
    | extract_lets
    | split
    | intro _
    | with_reducible refine Keeps.lit ?_
    | dsimp -zeta only

theorem State.awaitTalon_keeps {r s : State} {a1} {a2} (h : Keeps r s) : Keeps r (State.awaitTalon s a1 a2) := by
  unfold State.awaitTalon
  iterate 60 all_goals try first
    | with_reducible assumption
    | with_reducible refine State.talonFill_keeps ?_
    | with_reducible refine Keeps.foldl ?_ ?_
    | with_reducible refine Keeps.foldlSnd ?_ ?_
    | with_reducible refine Keeps.foldlFst ?_ ?_
    | extract_lets
    | split
    | intro _
    | with_reducible refine Keeps.lit ?_
    | dsimp -zeta only

theorem State.fromTalon_keeps {r s : State} {a1} {a2} (h : Keeps r s) : Keeps r (State.fromTalon s a1 a2) := by
  unfold State.fromTalon
  iterate 60 all_goals try first
    | with_reducible assumption
    | with_reducible refine State.l1Put_keeps ?_
    | with_reducible refine State.parity_keeps ?_
    | with_reducible refine State.talonFill_keeps ?_
    | with_reducible refine State.updCaches_keeps ?_
    | extract_lets
    | split
    | intro _
    | with_reducible refine Keeps.lit ?_
    | dsimp -zeta only

theorem State.hitData_keeps {r s : State} {a1} {a2} (h : Keeps r s) : Keeps r (State.hitData s a1 a2).2 := by
  unfold State.hitData
  iterate 60 all_goals try first
    | with_reducible assumption
    | with_reducible refine State.updCaches_keeps ?_
    | extract_lets
    | split
    | intro _
    | with_reducible refine Keeps.lit ?_
    | dsimp -zeta only

theorem State.lineData_keeps {r s : State} {a1} {a2} (h : Keeps r s) : Keeps r (State.lineData s a1 a2).2 := by
  unfold State.lineData
  iterate 60 all_goals try first
    | with_reducible assumption
    | with_reducible refine State.checkHit_keeps ?_
    | with_reducible refine State.fetchLine_keeps ?_
    | with_reducible refine State.fillRoom_keeps ?_
    | with_reducible refine State.fromTalon_keeps ?_
    | with_reducible refine State.hitData_keeps ?_
    | with_reducible refine State.l1Put_keeps ?_
    | with_reducible refine State.parity_keeps ?_
    | with_reducible refine State.settleLine_keeps ?_
    | with_reducible refine State.updCaches_keeps ?_
    | with_reducible refine Keeps.ofEq ?_ (by with_reducible assumption)
    | extract_lets
    | split
    | intro _
    | with_reducible refine Keeps.lit ?_
    | dsimp -zeta only

theorem State.loadPa_keeps {r s : State} {a1} {a2} {a3} (h : Keeps r s) : Keeps r (State.loadPa s a1 a2 a3).2 := by
  unfold State.loadPa
  iterate 60 all_goals try first
    | with_reducible assumption
    | with_reducible refine State.accessRead_keeps ?_
    | with_reducible refine State.lineData_keeps ?_
    | with_reducible refine Keeps.ofEq ?_ (by with_reducible assumption)
    | extract_lets
    | split
    | intro _
    | with_reducible refine Keeps.lit ?_
    | dsimp -zeta only

theorem State.storePa_keeps {r s : State} {a1} {a2} {a3} {a4} {a5} (h : Keeps r s) : Keeps r (State.storePa s a1 a2 a3 a4 a5) := by
  unfold State.storePa
  iterate 60 all_goals try first
    | with_reducible assumption
    | with_reducible refine State.accessWrite_keeps ?_
    | with_reducible refine State.checkHit_keeps ?_
    | with_reducible refine State.fillRoom_keeps ?_
    | with_reducible refine State.fromTalon_keeps ?_
    | with_reducible refine State.l1Put_keeps ?_
    | with_reducible refine State.storeRefused_keeps ?_
    | with_reducible refine State.updCaches_keeps ?_
    | with_reducible refine Keeps.ofEq ?_ (by with_reducible assumption)
    | extract_lets
    | split
    | intro _
    | with_reducible refine Keeps.lit ?_
    | dsimp -zeta only

theorem State.cleanWay_keeps {r s : State} {a1} {a2} (h : Keeps r s) : Keeps r (State.cleanWay s a1 a2) := by
  unfold State.cleanWay
  iterate 60 all_goals try first
    | with_reducible assumption
    | with_reducible refine State.checkWay_keeps ?_
    | with_reducible refine State.lineHome_keeps ?_
    | with_reducible refine State.updCaches_keeps ?_
    | extract_lets
    | split
    | intro _
    | with_reducible refine Keeps.getD (fun t e => ?_) ?_
    | with_reducible refine Keeps.lit ?_
    | dsimp -zeta only

theorem State.cleanL1_keeps {r s : State} {a1} {a2} (h : Keeps r s) : Keeps r (State.cleanL1 s a1 a2) := by
  unfold State.cleanL1
  iterate 60 all_goals try first
    | with_reducible assumption
    | with_reducible refine State.cleanWay_keeps ?_
    | with_reducible refine Keeps.foldl ?_ ?_
    | with_reducible refine Keeps.foldlSnd ?_ ?_
    | with_reducible refine Keeps.foldlFst ?_ ?_
    | extract_lets
    | split
    | intro _
    | with_reducible refine Keeps.lit ?_
    | dsimp -zeta only

theorem State.dropLines_keeps {r s : State} {a1} {a2} (h : Keeps r s) : Keeps r (State.dropLines s a1 a2) := by
  unfold State.dropLines
  iterate 60 all_goals try first
    | with_reducible assumption
    | with_reducible refine State.awaitTalon_keeps ?_
    | with_reducible refine State.updCaches_keeps ?_
    | extract_lets
    | split
    | intro _
    | with_reducible refine Keeps.lit ?_
    | dsimp -zeta only

theorem State.fenceRel_keeps {r s : State} {a1} {a2} (h : Keeps r s) : Keeps r (State.fenceRel s a1 a2) := by
  unfold State.fenceRel
  iterate 60 all_goals try first
    | with_reducible assumption
    | with_reducible refine State.ackUntil_keeps ?_
    | with_reducible refine State.cleanL1_keeps ?_
    | with_reducible refine State.settle_keeps ?_
    | extract_lets
    | split
    | intro _
    | with_reducible refine Keeps.lit ?_
    | dsimp -zeta only

theorem State.fenceAcq_keeps {r s : State} {a1} {a2} (h : Keeps r s) : Keeps r (State.fenceAcq s a1 a2) := by
  unfold State.fenceAcq
  iterate 60 all_goals try first
    | with_reducible assumption
    | with_reducible refine State.cleanL1_keeps ?_
    | with_reducible refine State.dropLines_keeps ?_
    | with_reducible refine State.settle_keeps ?_
    | extract_lets
    | split
    | intro _
    | with_reducible refine Keeps.lit ?_
    | dsimp -zeta only

theorem State.cacheClean_keeps {r s : State} {a1} {a2} {a3} (h : Keeps r s) : Keeps r (State.cacheClean s a1 a2 a3) := by
  unfold State.cacheClean
  iterate 60 all_goals try first
    | with_reducible assumption
    | with_reducible refine State.ackUntil_keeps ?_
    | with_reducible refine State.cleanL1_keeps ?_
    | with_reducible refine State.dropLines_keeps ?_
    | with_reducible refine State.settle_keeps ?_
    | extract_lets
    | split
    | intro _
    | with_reducible refine Keeps.lit ?_
    | dsimp -zeta only

theorem State.zeroLine_keeps {r s : State} {a1} {a2} {a3} (h : Keeps r s) : Keeps r (State.zeroLine s a1 a2 a3) := by
  unfold State.zeroLine
  iterate 60 all_goals try first
    | with_reducible assumption
    | with_reducible refine State.ackUntil_keeps ?_
    | with_reducible refine State.dropLines_keeps ?_
    | with_reducible refine State.l1Put_keeps ?_
    | with_reducible refine State.settleLine_keeps ?_
    | extract_lets
    | split
    | intro _
    | with_reducible refine Keeps.lit ?_
    | dsimp -zeta only

theorem State.moverRead_keeps {r s : State} {a1} {a2} {a3} (h : Keeps r s) : Keeps r (State.moverRead s a1 a2 a3).2 := by
  unfold State.moverRead
  iterate 60 all_goals try first
    | with_reducible assumption
    | with_reducible refine State.loadPa_keeps ?_
    | with_reducible refine Keeps.ofEq ?_ (by with_reducible assumption)
    | extract_lets
    | split
    | intro _
    | with_reducible refine Keeps.lit ?_
    | dsimp -zeta only

theorem State.moverWrite_keeps {r s : State} {a1} {a2} {a3} (h : Keeps r s) : Keeps r (State.moverWrite s a1 a2 a3).2 := by
  unfold State.moverWrite
  iterate 60 all_goals try first
    | with_reducible assumption
    | with_reducible refine State.accessWrite_keeps ?_
    | with_reducible refine State.ackUntil_keeps ?_
    | with_reducible refine State.checkHit_keeps ?_
    | with_reducible refine State.dropLines_keeps ?_
    | with_reducible refine State.l1Put_keeps ?_
    | with_reducible refine State.lineData_keeps ?_
    | with_reducible refine State.settleLine_keeps ?_
    | with_reducible refine Keeps.ofEq ?_ (by with_reducible assumption)
    | extract_lets
    | split
    | intro _
    | with_reducible refine Keeps.lit ?_
    | dsimp -zeta only

theorem State.moverReadAll_keeps {r s : State} {a1} {a2} (h : Keeps r s) : Keeps r (State.moverReadAll s a1 a2).2 := by
  unfold State.moverReadAll
  iterate 60 all_goals try first
    | with_reducible assumption
    | with_reducible refine State.moverRead_keeps ?_
    | with_reducible refine Keeps.ofEq ?_ (by with_reducible assumption)
    | with_reducible refine Keeps.foldl ?_ ?_
    | with_reducible refine Keeps.foldlSnd ?_ ?_
    | with_reducible refine Keeps.foldlFst ?_ ?_
    | extract_lets
    | split
    | intro _
    | with_reducible refine Keeps.lit ?_
    | dsimp -zeta only

theorem State.moverWriteAll_keeps {r s : State} {a1} {a2} {a3} (h : Keeps r s) : Keeps r (State.moverWriteAll s a1 a2 a3).2 := by
  unfold State.moverWriteAll
  iterate 60 all_goals try first
    | with_reducible assumption
    | with_reducible refine State.moverWrite_keeps ?_
    | with_reducible refine Keeps.ofEq ?_ (by with_reducible assumption)
    | with_reducible refine Keeps.foldl ?_ ?_
    | with_reducible refine Keeps.foldlSnd ?_ ?_
    | with_reducible refine Keeps.foldlFst ?_ ?_
    | extract_lets
    | split
    | intro _
    | with_reducible refine Keeps.lit ?_
    | dsimp -zeta only

theorem State.clearTile_keeps {r s : State} {a1} (h : Keeps r s) : Keeps r (State.clearTile s a1) := by
  unfold State.clearTile
  iterate 60 all_goals try first
    | with_reducible assumption
    | with_reducible refine State.lsClear_keeps ?_
    | with_reducible refine State.updTile_keeps ?_
    | extract_lets
    | split
    | intro _
    | with_reducible refine Keeps.lit ?_
    | dsimp -zeta only

theorem State.flushTile_keeps {r s : State} {a1} (h : Keeps r s) : Keeps r (State.flushTile s a1) := by
  unfold State.flushTile
  iterate 60 all_goals try first
    | with_reducible assumption
    | with_reducible refine State.fenceRel_keeps ?_
    | extract_lets
    | split
    | intro _
    | with_reducible refine Keeps.lit ?_
    | dsimp -zeta only

theorem State.leaveTile_keeps {r s : State} {a1} (h : Keeps r s) : Keeps r (State.leaveTile s a1) := by
  unfold State.leaveTile
  iterate 60 all_goals try first
    | with_reducible assumption
    | with_reducible refine State.clearTile_keeps ?_
    | with_reducible refine State.flushTile_keeps ?_
    | extract_lets
    | split
    | intro _
    | with_reducible refine Keeps.lit ?_
    | dsimp -zeta only

theorem State.newNonce_keeps {r s : State} {a1} (h : Keeps r s) : Keeps r (State.newNonce s a1) := by
  unfold State.newNonce
  iterate 60 all_goals try first
    | with_reducible assumption
    | with_reducible refine State.addTask_keeps ?_
    | with_reducible refine State.updBox_keeps ?_
    | extract_lets
    | split
    | intro _
    | with_reducible refine Keeps.lit ?_
    | dsimp -zeta only

theorem State.propose_keeps {r s : State} {a1} {a2} (h : Keeps r s) : Keeps r (State.propose s a1 a2) := by
  unfold State.propose
  iterate 60 all_goals try first
    | with_reducible assumption
    | with_reducible refine State.answer_keeps ?_
    | extract_lets
    | split
    | intro _
    | with_reducible refine Keeps.litFatal ?_
    | with_reducible refine Keeps.lit ?_
    | dsimp -zeta only

theorem State.proposalEvent_keeps {r s : State} {a1} {a2} (h : Keeps r s) : Keeps r (State.proposalEvent s a1 a2) := by
  unfold State.proposalEvent
  iterate 60 all_goals try first
    | with_reducible assumption
    | with_reducible refine State.eventAll_keeps ?_
    | extract_lets
    | split
    | intro _
    | with_reducible refine Keeps.getD (fun t e => ?_) ?_
    | with_reducible refine Keeps.lit ?_
    | dsimp -zeta only

theorem State.setProposal_keeps {r s : State} {a1} {a2} (h : Keeps r s) : Keeps r (State.setProposal s a1 a2) := by
  unfold State.setProposal
  iterate 60 all_goals try first
    | with_reducible assumption
    | extract_lets
    | split
    | intro _
    | with_reducible refine Keeps.litFatal ?_
    | with_reducible refine Keeps.lit ?_
    | dsimp -zeta only

theorem State.approve_keeps {r s : State} {a1} {a2} (h : Keeps r s) : Keeps r (State.approve s a1 a2) := by
  unfold State.approve
  iterate 60 all_goals try first
    | with_reducible assumption
    | with_reducible refine State.answer_keeps ?_
    | with_reducible refine State.proposalEvent_keeps ?_
    | with_reducible refine State.setProposal_keeps ?_
    | extract_lets
    | split
    | intro _
    | with_reducible refine Keeps.getD (fun t e => ?_) ?_
    | with_reducible refine Keeps.lit ?_
    | dsimp -zeta only

theorem State.accept_keeps {r s : State} {a1} {a2} {a3} (h : Keeps r s) : Keeps r (State.accept s a1 a2 a3) := by
  unfold State.accept
  iterate 60 all_goals try first
    | with_reducible assumption
    | with_reducible refine State.respond_keeps ?_
    | with_reducible refine State.updBox_keeps ?_
    | extract_lets
    | split
    | intro _
    | with_reducible refine Keeps.lit ?_
    | dsimp -zeta only

theorem State.resume_keeps {r s : State} {a1} (h : Keeps r s) : Keeps r (State.resume s a1) := by
  unfold State.resume
  iterate 60 all_goals try first
    | with_reducible assumption
    | with_reducible refine State.updPart_keeps ?_
    | with_reducible refine Keeps.foldl ?_ ?_
    | with_reducible refine Keeps.foldlSnd ?_ ?_
    | with_reducible refine Keeps.foldlFst ?_ ?_
    | extract_lets
    | split
    | intro _
    | with_reducible refine Keeps.lit ?_
    | dsimp -zeta only

theorem State.endWait_keeps {r s : State} {a1} {a2} {a3} {a4} {a5} (h : Keeps r s) : Keeps r (State.endWait s a1 a2 a3 a4 a5) := by
  unfold State.endWait
  iterate 60 all_goals try first
    | with_reducible assumption
    | with_reducible refine State.commandDone_keeps ?_
    | with_reducible refine State.resume_keeps ?_
    | extract_lets
    | split
    | intro _
    | with_reducible refine Keeps.litFatal ?_
    | with_reducible refine Keeps.lit ?_
    | dsimp -zeta only

theorem State.applyDevice_keeps {r s : State} (h : Keeps r s) : Keeps r (State.applyDevice s) := by
  unfold State.applyDevice
  iterate 60 all_goals try first
    | with_reducible assumption
    | with_reducible refine State.updHbm_keeps ?_
    | with_reducible refine Keeps.foldl ?_ ?_
    | with_reducible refine Keeps.foldlSnd ?_ ?_
    | with_reducible refine Keeps.foldlFst ?_ ?_
    | extract_lets
    | split
    | intro _
    | with_reducible refine Keeps.lit ?_
    | dsimp -zeta only

theorem State.waitLate_keeps {r s : State} (h : Keeps r s) : Keeps r (State.waitLate s) := by
  unfold State.waitLate
  iterate 60 all_goals try first
    | with_reducible assumption
    | with_reducible refine State.applyDevice_keeps ?_
    | with_reducible refine State.endWait_keeps ?_
    | with_reducible refine State.setProposal_keeps ?_
    | extract_lets
    | split
    | intro _
    | with_reducible refine Keeps.litFatal ?_
    | with_reducible refine Keeps.lit ?_
    | dsimp -zeta only

theorem State.applyOverlay_keeps {r s : State} {a1} (h : Keeps r s) : Keeps r (State.applyOverlay s a1) := by
  unfold State.applyOverlay
  iterate 60 all_goals try first
    | with_reducible assumption
    | with_reducible refine State.applyDevice_keeps ?_
    | with_reducible refine State.updPart_keeps ?_
    | with_reducible refine Keeps.foldl ?_ ?_
    | with_reducible refine Keeps.foldlSnd ?_ ?_
    | with_reducible refine Keeps.foldlFst ?_ ?_
    | extract_lets
    | split
    | intro _
    | with_reducible refine Keeps.litFatal ?_
    | with_reducible refine Keeps.lit ?_
    | dsimp -zeta only

theorem State.writtenAntes_keeps {r s : State} {a1} (h : Keeps r s) : Keeps r (State.writtenAntes s a1) := by
  unfold State.writtenAntes
  iterate 60 all_goals try first
    | with_reducible assumption
    | with_reducible refine State.updPart_keeps ?_
    | with_reducible refine Keeps.foldl ?_ ?_
    | with_reducible refine Keeps.foldlSnd ?_ ?_
    | with_reducible refine Keeps.foldlFst ?_ ?_
    | extract_lets
    | split
    | intro _
    | with_reducible refine Keeps.lit ?_
    | dsimp -zeta only

theorem State.zeroHbm_keeps {r s : State} {a1} (h : Keeps r s) : Keeps r (State.zeroHbm s a1) := by
  unfold State.zeroHbm
  iterate 60 all_goals try first
    | with_reducible assumption
    | with_reducible refine State.updHbm_keeps ?_
    | with_reducible refine Keeps.foldl ?_ ?_
    | with_reducible refine Keeps.foldlSnd ?_ ?_
    | with_reducible refine Keeps.foldlFst ?_ ?_
    | extract_lets
    | split
    | intro _
    | with_reducible refine Keeps.litClear ?_ ?_
    | with_reducible refine Keeps.litFatal ?_
    | with_reducible refine Keeps.lit ?_
    | dsimp -zeta only

theorem State.commitLeave_keeps {r s : State} {a1} {a2} (h : Keeps r s) : Keeps r (State.commitLeave s a1 a2) := by
  unfold State.commitLeave
  iterate 60 all_goals try first
    | with_reducible assumption
    | with_reducible refine State.clearTile_keeps ?_
    | with_reducible refine State.leaveTile_keeps ?_
    | with_reducible refine State.zeroHbm_keeps ?_
    | with_reducible refine Keeps.foldl ?_ ?_
    | with_reducible refine Keeps.foldlSnd ?_ ?_
    | with_reducible refine Keeps.foldlFst ?_ ?_
    | extract_lets
    | split
    | intro _
    | with_reducible refine Keeps.lit ?_
    | dsimp -zeta only

theorem State.writeLine_keeps {r s : State} {a1} {a2} {a3} (h : Keeps r s) : Keeps r (State.writeLine s a1 a2 a3) := by
  unfold State.writeLine
  iterate 60 all_goals try first
    | with_reducible assumption
    | with_reducible refine State.lineStore_keeps ?_
    | with_reducible refine State.orderLine_keeps ?_
    | extract_lets
    | split
    | intro _
    | with_reducible refine Keeps.lit ?_
    | dsimp -zeta only

theorem State.putTable_keeps {r s : State} {a1} {a2} (h : Keeps r s) : Keeps r (State.putTable s a1 a2) := by
  unfold State.putTable
  iterate 60 all_goals try first
    | with_reducible assumption
    | with_reducible refine State.writeLine_keeps ?_
    | with_reducible refine Keeps.foldl ?_ ?_
    | with_reducible refine Keeps.foldlSnd ?_ ?_
    | with_reducible refine Keeps.foldlFst ?_ ?_
    | extract_lets
    | split
    | intro _
    | with_reducible refine Keeps.lit ?_
    | dsimp -zeta only
theorem Build.store_keeps {r : State} {b : Build} {o t} (h : Keeps r b.s) : Keeps r (b.store o t).2.s := by
  unfold Build.store
  repeat' split
  all_goals dsimp only
  all_goals first
    | with_reducible assumption
    | with_reducible exact State.putTable_keeps h

theorem Build.edit_keeps {r : State} {b : Build} {e lo hi f} (h : Keeps r b.s)
    (hf : ∀ i w (c : Build), Keeps r c.s → Keeps r (f i w c).2.s) : Keeps r (b.edit e lo hi f).2.s := by
  have k : ∀ (l : List Nat) (p : SMap Word × Build), Keeps r p.2.s →
      Keeps r (l.foldl (fun (q : SMap Word × Build) i => (SMap.put 0 q.1 (lo + i) (f (lo + i) (SMap.get 0 (b.table e) (lo + i)) q.2).1,
        (f (lo + i) (SMap.get 0 (b.table e) (lo + i)) q.2).2)) p).2.s := by
    intro l
    induction l with
    | nil => exact fun _ w => w
    | cons x l ih => exact fun p w => ih _ (hf _ _ _ w)
  have j := k (List.range (hi - lo)) (b.table e, b) h
  simp only [Build.edit]
  repeat' split
  all_goals first
    | exact j
    | exact Build.store_keeps j

theorem Build.pages_keeps {r : State} {b : Build} {e lo hi g} (h : Keeps r b.s) : Keeps r (b.pages e lo hi g).2.s := by
  unfold Build.pages
  split
  · extract_lets
    split
    · exact h
    · exact Build.store_keeps h
  · exact Build.edit_keeps h (fun _ _ _ k => k)

theorem Build.change_keeps {r : State} {b : Build} {w c} (h : Keeps r b.s) : Keeps r (b.change w c).2.s := by
  refine Build.edit_keeps h (fun _ _ _ k => ?_)
  extract_lets
  split
  · exact Build.edit_keeps k (fun _ _ _ k => k)
  · exact Build.edit_keeps k (fun _ _ _ k => Build.pages_keeps k)

theorem Build.changes_keeps {r : State} {b : Build} {w cs} (h : Keeps r b.s) : Keeps r (b.changes w cs).2.s := by
  have k : ∀ (l : List Change) (p : Word × Build), Keeps r p.2.s →
      Keeps r (l.foldl (fun (q : Word × Build) c => q.2.change q.1 c) p).2.s := by
    intro l
    induction l with
    | nil => exact fun _ w => w
    | cons x l ih => exact fun p w => ih _ (Build.change_keeps w)
  exact k cs (w, b) h


theorem State.moveTables_keeps {r s : State} {n a} (h : Keeps r s) : Keeps r (s.moveTables n a) := by
  unfold State.moveTables
  extract_lets root pages s1
  have k : Keeps r s1 := State.updPart_keeps h
  exact State.updPart_keeps (Build.changes_keeps k)

theorem State.setAreas_keeps {r s : State} {a1} (h : Keeps r s) : Keeps r (State.setAreas s a1) := by
  unfold State.setAreas
  iterate 60 all_goals try first
    | with_reducible assumption
    | with_reducible refine State.moveTables_keeps ?_
    | with_reducible refine Keeps.foldl ?_ ?_
    | with_reducible refine Keeps.foldlSnd ?_ ?_
    | with_reducible refine Keeps.foldlFst ?_ ?_
    | extract_lets
    | split
    | intro _
    | with_reducible refine Keeps.lit ?_
    | dsimp -zeta only

theorem State.unmapped_keeps {r s : State} {n cs} (h : Keeps r s) : Keeps r (s.unmapped n cs).2 := Build.changes_keeps h

theorem State.tdiError_keeps {r s : State} {a1} {a2} (h : Keeps r s) : Keeps r (State.tdiError s a1 a2) := by
  unfold State.tdiError
  iterate 60 all_goals try first
    | with_reducible assumption
    | with_reducible refine State.partFatal_keeps ?_
    | extract_lets
    | split
    | intro _
    | with_reducible refine Keeps.litFatal ?_
    | with_reducible refine Keeps.lit ?_
    | dsimp -zeta only

theorem State.commitEntry_keeps {r s : State} {a1} {a2} (h : Keeps r s) : Keeps r (State.commitEntry s a1 a2) := by
  unfold State.commitEntry
  iterate 60 all_goals try first
    | with_reducible assumption
    | with_reducible refine State.tdiError_keeps ?_
    | with_reducible refine State.unmapped_keeps ?_
    | with_reducible refine State.updPart_keeps ?_
    | with_reducible refine State.updTile_keeps ?_
    | with_reducible refine Keeps.ofEq ?_ (by with_reducible assumption)
    | with_reducible refine Keeps.foldl ?_ ?_
    | with_reducible refine Keeps.foldlSnd ?_ ?_
    | with_reducible refine Keeps.foldlFst ?_ ?_
    | extract_lets
    | split
    | intro _
    | with_reducible refine Keeps.lit ?_
    | dsimp -zeta only

theorem State.statusEvents_keeps {r s s0 : State} (h : Keeps r s) : Keeps r (s0.statusEvents s) :=
  Keeps.foldl h (fun s n k => by split; exact State.event_keeps k; exact k)

theorem State.setRotations_keeps {r s : State} (h : Keeps r s) : Keeps r (State.setRotations s) := by
  unfold State.setRotations
  iterate 60 all_goals try first
    | with_reducible assumption
    | with_reducible refine State.setArb_keeps ?_
    | with_reducible refine State.updPart_keeps ?_
    | with_reducible refine Keeps.foldl ?_ ?_
    | with_reducible refine Keeps.foldlSnd ?_ ?_
    | with_reducible refine Keeps.foldlFst ?_ ?_
    | extract_lets
    | split
    | intro _
    | with_reducible refine Keeps.litPutMany ?_ ?_
    | with_reducible refine Keeps.litFatal ?_
    | with_reducible refine Keeps.lit ?_
    | dsimp -zeta only

theorem State.applyCommit_keeps {r s : State} {a1} (h : Keeps r s) : Keeps r (State.applyCommit s a1) := by
  unfold State.applyCommit
  iterate 60 all_goals try first
    | with_reducible assumption
    | with_reducible refine State.commitEntry_keeps ?_
    | with_reducible refine State.commitLeave_keeps ?_
    | with_reducible refine State.setAreas_keeps ?_
    | with_reducible refine State.setRotations_keeps ?_
    | with_reducible refine State.statusEvents_keeps ?_
    | with_reducible refine Keeps.foldl ?_ ?_
    | with_reducible refine Keeps.foldlSnd ?_ ?_
    | with_reducible refine Keeps.foldlFst ?_ ?_
    | extract_lets
    | split
    | intro _
    | with_reducible refine Keeps.getD (fun t e => ?_) ?_
    | with_reducible refine Keeps.litFatal ?_
    | with_reducible refine Keeps.lit ?_
    | dsimp -zeta only

theorem State.checkWait_keeps {r s : State} (h : Keeps r s) : Keeps r (State.checkWait s) := by
  unfold State.checkWait
  iterate 60 all_goals try first
    | with_reducible assumption
    | with_reducible refine State.applyCommit_keeps ?_
    | with_reducible refine State.applyOverlay_keeps ?_
    | with_reducible refine State.endWait_keeps ?_
    | with_reducible refine State.setProposal_keeps ?_
    | with_reducible refine State.waitLate_keeps ?_
    | with_reducible refine State.writtenAntes_keeps ?_
    | extract_lets
    | split
    | intro _
    | with_reducible refine Keeps.getD (fun t e => ?_) ?_
    | with_reducible refine Keeps.litFatal ?_
    | with_reducible refine Keeps.lit ?_
    | dsimp -zeta only

theorem State.holdAll_keeps {r s : State} {a1} (h : Keeps r s) : Keeps r (State.holdAll s a1) := by
  unfold State.holdAll
  iterate 60 all_goals try first
    | with_reducible assumption
    | with_reducible refine State.updPart_keeps ?_
    | with_reducible refine Keeps.foldl ?_ ?_
    | with_reducible refine Keeps.foldlSnd ?_ ?_
    | with_reducible refine Keeps.foldlFst ?_ ?_
    | extract_lets
    | split
    | intro _
    | with_reducible refine Keeps.lit ?_
    | dsimp -zeta only

theorem State.commitAsk_keeps {r s : State} {a1} {a2} (h : Keeps r s) : Keeps r (State.commitAsk s a1 a2) := by
  unfold State.commitAsk
  iterate 60 all_goals try first
    | with_reducible assumption
    | with_reducible refine State.accept_keeps ?_
    | with_reducible refine State.answer_keeps ?_
    | with_reducible refine State.checkWait_keeps ?_
    | with_reducible refine State.holdAll_keeps ?_
    | with_reducible refine State.setProposal_keeps ?_
    | extract_lets
    | split
    | intro _
    | with_reducible refine Keeps.getD (fun t e => ?_) ?_
    | with_reducible refine Keeps.litFatal ?_
    | with_reducible refine Keeps.lit ?_
    | dsimp -zeta only

theorem State.withdrawProposal_keeps {r s : State} {a1} {a2} (h : Keeps r s) : Keeps r (State.withdrawProposal s a1 a2) := by
  unfold State.withdrawProposal
  iterate 60 all_goals try first
    | with_reducible assumption
    | with_reducible refine State.answer_keeps ?_
    | with_reducible refine State.proposalEvent_keeps ?_
    | with_reducible refine State.setProposal_keeps ?_
    | extract_lets
    | split
    | intro _
    | with_reducible refine Keeps.lit ?_
    | dsimp -zeta only

theorem State.runSigned_keeps {r s : State} {a1} {a2} (h : Keeps r s) : Keeps r (State.runSigned s a1 a2) := by
  unfold State.runSigned
  iterate 60 all_goals try first
    | with_reducible assumption
    | with_reducible refine State.answer_keeps ?_
    | with_reducible refine State.approve_keeps ?_
    | with_reducible refine State.commitAsk_keeps ?_
    | with_reducible refine State.newNonce_keeps ?_
    | with_reducible refine State.propose_keeps ?_
    | with_reducible refine State.withdrawProposal_keeps ?_
    | extract_lets
    | split
    | intro _
    | with_reducible refine Keeps.lit ?_
    | dsimp -zeta only

theorem State.imageRead_keeps {r s : State} {a1} {a2} {a3} {a4} (h : Keeps r s) : Keeps r (State.imageRead s a1 a2 a3 a4) := by
  unfold State.imageRead
  iterate 60 all_goals try first
    | with_reducible assumption
    | with_reducible refine State.commandDone_keeps ?_
    | extract_lets
    | split
    | intro _
    | with_reducible refine Keeps.litFatal ?_
    | with_reducible refine Keeps.lit ?_
    | dsimp -zeta only

theorem State.updResponder_keeps {r s : State} {a1} {a2} (h : Keeps r s) : Keeps r (State.updResponder s a1 a2) := by
  unfold State.updResponder
  iterate 60 all_goals try first
    | with_reducible assumption
    | extract_lets
    | split
    | intro _
    | with_reducible refine Keeps.litFatal ?_
    | with_reducible refine Keeps.lit ?_
    | dsimp -zeta only

theorem State.answerSpdm_keeps {r s : State} {a1} {a2} {a3} (h : Keeps r s) : Keeps r (State.answerSpdm s a1 a2 a3) := by
  unfold State.answerSpdm
  iterate 60 all_goals try first
    | with_reducible assumption
    | with_reducible refine State.freeBytes_keeps ?_
    | with_reducible refine State.spdm_keeps ?_
    | with_reducible refine State.spdmError_keeps ?_
    | with_reducible refine State.updResponder_keeps ?_
    | with_reducible refine Keeps.ofEq ?_ (by with_reducible assumption)
    | extract_lets
    | split
    | intro _
    | with_reducible refine Keeps.lit ?_
    | dsimp -zeta only

theorem State.finishTask_keeps {r s : State} {a1} {a2} (h : Keeps r s) : Keeps r (State.finishTask s a1 a2) := by
  unfold State.finishTask
  iterate 60 all_goals try first
    | with_reducible assumption
    | with_reducible refine State.answer_keeps ?_
    | with_reducible refine State.answerSeed_keeps ?_
    | with_reducible refine State.answerSpdm_keeps ?_
    | with_reducible refine State.giveReport_keeps ?_
    | with_reducible refine State.imageRead_keeps ?_
    | with_reducible refine State.runSigned_keeps ?_
    | with_reducible refine State.updBox_keeps ?_
    | extract_lets
    | split
    | intro _
    | with_reducible refine Keeps.lit ?_
    | dsimp -zeta only

theorem State.failStarved_keeps {r s : State} (h : Keeps r s) : Keeps r (State.failStarved s) := by
  unfold State.failStarved
  iterate 60 all_goals try first
    | with_reducible assumption
    | with_reducible refine State.failTask_keeps ?_
    | with_reducible refine Keeps.foldl ?_ ?_
    | with_reducible refine Keeps.foldlSnd ?_ ?_
    | with_reducible refine Keeps.foldlFst ?_ ?_
    | extract_lets
    | split
    | intro _
    | with_reducible refine Keeps.lit ?_
    | dsimp -zeta only

theorem State.deferSpdm_keeps {r s : State} {a1} {a2} {a3} (h : Keeps r s) : Keeps r (State.deferSpdm s a1 a2 a3) := by
  unfold State.deferSpdm
  iterate 60 all_goals try first
    | with_reducible assumption
    | with_reducible refine State.spdmError_keeps ?_
    | with_reducible refine State.updResponder_keeps ?_
    | extract_lets
    | split
    | intro _
    | with_reducible refine Keeps.lit ?_
    | dsimp -zeta only

theorem State.deferStarved_keeps {r s : State} (h : Keeps r s) : Keeps r (State.deferStarved s) := by
  unfold State.deferStarved
  iterate 60 all_goals try first
    | with_reducible assumption
    | with_reducible refine State.deferSpdm_keeps ?_
    | with_reducible refine State.setTasks_keeps ?_
    | with_reducible refine Keeps.foldl ?_ ?_
    | with_reducible refine Keeps.foldlSnd ?_ ?_
    | with_reducible refine Keeps.foldlFst ?_ ?_
    | extract_lets
    | split
    | intro _
    | with_reducible refine Keeps.lit ?_
    | dsimp -zeta only

theorem State.proceed_keeps {r s : State} {a1} {a2} {a3} (h : Keeps r s) : Keeps r (State.proceed s a1 a2 a3) := by
  unfold State.proceed
  iterate 60 all_goals try first
    | with_reducible assumption
    | with_reducible refine State.deferStarved_keeps ?_
    | with_reducible refine State.failStarved_keeps ?_
    | with_reducible refine State.finishTask_keeps ?_
    | with_reducible refine State.setTasks_keeps ?_
    | extract_lets
    | split
    | intro _
    | with_reducible refine Keeps.lit ?_
    | dsimp -zeta only

theorem State.drbgGen_keeps {r s : State} {a1} {a2} (h : Keeps r s) : Keeps r (State.drbgGen s a1 a2).2 := by
  unfold State.drbgGen
  iterate 60 all_goals try first
    | with_reducible assumption
    | extract_lets
    | split
    | intro _
    | with_reducible refine Keeps.litFatal ?_
    | with_reducible refine Keeps.lit ?_
    | dsimp -zeta only

theorem State.advance_keeps {r s : State} {a1} (h : Keeps r s) : Keeps r (State.advance s a1) := by
  unfold State.advance
  iterate 60 all_goals try first
    | with_reducible assumption
    | with_reducible refine State.drbgGen_keeps ?_
    | with_reducible refine State.failTask_keeps ?_
    | with_reducible refine State.proceed_keeps ?_
    | with_reducible refine Keeps.ofEq ?_ (by with_reducible assumption)
    | extract_lets
    | split
    | intro _
    | with_reducible refine Keeps.lit ?_
    | dsimp -zeta only

theorem State.jobSlot_keeps {r s : State} {a1} {a2} (h : Keeps r s) : Keeps r (State.jobSlot s a1 a2) := by
  unfold State.jobSlot
  iterate 60 all_goals try first
    | with_reducible assumption
    | with_reducible refine State.endHash_keeps ?_
    | with_reducible refine State.readExtents_keeps ?_
    | with_reducible refine State.updPart_keeps ?_
    | with_reducible refine Keeps.ofEq ?_ (by with_reducible assumption)
    | extract_lets
    | split
    | intro _
    | with_reducible refine Keeps.lit ?_
    | dsimp -zeta only

theorem State.endUpdate_keeps {r s : State} {a1} {a2} {a3} (h : Keeps r s) : Keeps r (State.endUpdate s a1 a2 a3) := by
  unfold State.endUpdate
  iterate 60 all_goals try first
    | with_reducible assumption
    | with_reducible refine State.commandDone_keeps ?_
    | with_reducible refine State.updRegion_keeps ?_
    | extract_lets
    | split
    | intro _
    | with_reducible refine Keeps.lit ?_
    | dsimp -zeta only

theorem State.copySegment_keeps {r s : State} {a1} {a2} {a3} (h : Keeps r s) : Keeps r (State.copySegment s a1 a2 a3) := by
  unfold State.copySegment
  iterate 60 all_goals try first
    | with_reducible assumption
    | with_reducible refine State.endUpdate_keeps ?_
    | with_reducible refine State.readExtents_keeps ?_
    | with_reducible refine State.updRegion_keeps ?_
    | with_reducible refine State.writeExtents_keeps ?_
    | with_reducible refine Keeps.ofEq ?_ (by with_reducible assumption)
    | extract_lets
    | split
    | intro _
    | with_reducible refine Keeps.lit ?_
    | dsimp -zeta only

theorem State.updateSlot_keeps {r s : State} {a1} {a2} {a3} (h : Keeps r s) : Keeps r (State.updateSlot s a1 a2 a3) := by
  unfold State.updateSlot
  iterate 60 all_goals try first
    | with_reducible assumption
    | with_reducible refine State.copySegment_keeps ?_
    | with_reducible refine State.updRegion_keeps ?_
    | extract_lets
    | split
    | intro _
    | with_reducible refine Keeps.lit ?_
    | dsimp -zeta only

theorem State.hashSlot_keeps {r s : State} {a1} (h : Keeps r s) : Keeps r (State.hashSlot s a1) := by
  unfold State.hashSlot
  iterate 60 all_goals try first
    | with_reducible assumption
    | with_reducible refine State.jobSlot_keeps ?_
    | with_reducible refine State.retry_keeps ?_ ?_
    | with_reducible refine State.updateSlot_keeps ?_
    | extract_lets
    | split
    | intro _
    | with_reducible refine Keeps.lit ?_
    | dsimp -zeta only

theorem State.serveSlot_keeps {r s : State} {a1} {a2} (h : Keeps r s) : Keeps r (State.serveSlot s a1 a2) := by
  unfold State.serveSlot
  iterate 60 all_goals try first
    | with_reducible assumption
    | with_reducible refine State.advance_keeps ?_
    | with_reducible refine State.hashSlot_keeps ?_
    | extract_lets
    | split
    | intro _
    | with_reducible refine Keeps.lit ?_
    | dsimp -zeta only

theorem State.beginSlot_keeps {r s : State} {a1} {a2} (h : Keeps r s) : Keeps r (State.beginSlot s a1 a2).2 := by
  unfold State.beginSlot
  iterate 60 all_goals try first
    | with_reducible assumption
    | with_reducible refine State.atLeast_keeps ?_
    | with_reducible refine State.setArb_keeps ?_
    | extract_lets
    | split
    | intro _
    | with_reducible refine Keeps.litFatal ?_
    | with_reducible refine Keeps.lit ?_
    | dsimp -zeta only

theorem State.setEntropy_keeps {r s : State} {a1} (h : Keeps r s) : Keeps r (State.setEntropy s a1) := by
  unfold State.setEntropy
  iterate 60 all_goals try first
    | with_reducible assumption
    | extract_lets
    | split
    | intro _
    | with_reducible refine Keeps.litFatal ?_
    | with_reducible refine Keeps.lit ?_
    | dsimp -zeta only

theorem State.entropyEvent_keeps {r s : State} {a1} (h : Keeps r s) : Keeps r (State.entropyEvent s a1) := by
  unfold State.entropyEvent
  iterate 60 all_goals try first
    | with_reducible assumption
    | with_reducible refine State.event_keeps ?_
    | extract_lets
    | split
    | intro _
    | with_reducible refine Keeps.lit ?_
    | dsimp -zeta only

theorem State.entropyFail_keeps {r s : State} {a1} (h : Keeps r s) : Keeps r (State.entropyFail s a1) := by
  unfold State.entropyFail
  iterate 60 all_goals try first
    | with_reducible assumption
    | with_reducible refine State.deferStarved_keeps ?_
    | with_reducible refine State.entropyEvent_keeps ?_
    | with_reducible refine State.record_keeps ?_
    | with_reducible refine State.setEntropy_keeps ?_
    | extract_lets
    | split
    | intro _
    | with_reducible refine Keeps.lit ?_
    | dsimp -zeta only

theorem State.setFloor_keeps {r s : State} {f} (h : Keeps r s) : Keeps r (s.setFloor f) :=
  Keeps.foldl (State.setDev_keeps (Keeps.lit h)) (fun _ _ k => State.partChange_keeps k (fun _ k => k))

theorem State.loseEntropy_keeps {r s : State} (h : Keeps r s) : Keeps r (State.loseEntropy s) := by
  unfold State.loseEntropy
  iterate 60 all_goals try first
    | with_reducible assumption
    | with_reducible refine State.setFloor_keeps ?_
    | extract_lets
    | split
    | intro _
    | with_reducible refine Keeps.lit ?_
    | dsimp -zeta only

theorem State.entropyDies_keeps {r s : State} (h : Keeps r s) : Keeps r (State.entropyDies s) := by
  unfold State.entropyDies
  iterate 60 all_goals try first
    | with_reducible assumption
    | with_reducible refine State.entropyEvent_keeps ?_
    | with_reducible refine State.failStarved_keeps ?_
    | with_reducible refine State.loseEntropy_keeps ?_
    | with_reducible refine State.setEntropy_keeps ?_
    | extract_lets
    | split
    | intro _
    | with_reducible refine Keeps.lit ?_
    | dsimp -zeta only

theorem State.entropyTry_keeps {r s : State} {a1} (h : Keeps r s) : Keeps r (State.entropyTry s a1) := by
  unfold State.entropyTry
  iterate 60 all_goals try first
    | with_reducible assumption
    | with_reducible refine State.entropyDies_keeps ?_
    | with_reducible refine State.entropyEvent_keeps ?_
    | with_reducible refine State.setEntropy_keeps ?_
    | extract_lets
    | split
    | intro _
    | with_reducible refine Keeps.lit ?_
    | dsimp -zeta only

theorem State.seedDrbg_keeps {r s : State} {a1} (h : Keeps r s) : Keeps r (State.seedDrbg s a1) := by
  unfold State.seedDrbg
  iterate 60 all_goals try first
    | with_reducible assumption
    | extract_lets
    | split
    | intro _
    | with_reducible refine Keeps.litFatal ?_
    | with_reducible refine Keeps.lit ?_
    | dsimp -zeta only

theorem State.windowEnd_keeps {r s : State} (h : Keeps r s) : Keeps r (State.windowEnd s) := by
  unfold State.windowEnd
  iterate 60 all_goals try first
    | with_reducible assumption
    | with_reducible refine State.seedDrbg_keeps ?_
    | with_reducible refine State.setEntropy_keeps ?_
    | extract_lets
    | split
    | intro _
    | with_reducible refine Keeps.lit ?_
    | dsimp -zeta only

theorem State.entropyTests_keeps {r s : State} {a1} (h : Keeps r s) : Keeps r (State.entropyTests s a1) := by
  induction a1 generalizing s  with
  | nil => exact h
  | cons x l ih =>
    unfold State.entropyTests
    iterate 60 all_goals try first
    | with_reducible assumption
    | with_reducible refine ih ?_
    | with_reducible refine State.entropyFail_keeps ?_
    | with_reducible refine State.entropyTry_keeps ?_
    | with_reducible refine State.setEntropy_keeps ?_
    | extract_lets
    | split
    | intro _
    | with_reducible refine Keeps.lit ?_
    | dsimp -zeta only

theorem State.entropyStart_keeps {r s : State} {a1} {a2} (h : Keeps r s) : Keeps r (State.entropyStart s a1 a2) := by
  unfold State.entropyStart
  iterate 60 all_goals try first
    | with_reducible assumption
    | with_reducible refine State.entropyFail_keeps ?_
    | with_reducible refine State.entropyTests_keeps ?_
    | with_reducible refine State.seedDrbg_keeps ?_
    | with_reducible refine State.setEntropy_keeps ?_
    | extract_lets
    | split
    | intro _
    | with_reducible refine Keeps.litFatal ?_
    | with_reducible refine Keeps.lit ?_
    | dsimp -zeta only

theorem State.ownRange_keeps {r s : State} {a1} {a2} {a3} {a4} (h : Keeps r s) : Keeps r (State.ownRange s a1 a2 a3 a4).2 := by
  unfold State.ownRange
  iterate 60 all_goals try first
    | with_reducible assumption
    | with_reducible refine State.rangeT_keeps ?_
    | with_reducible refine Keeps.ofEq ?_ (by with_reducible assumption)
    | extract_lets
    | split
    | intro _
    | with_reducible refine Keeps.lit ?_
    | dsimp -zeta only

theorem State.ownRead_keeps {r s : State} {a1} {a2} (h : Keeps r s) : Keeps r (State.ownRead s a1 a2).2 := by
  unfold State.ownRead
  iterate 60 all_goals try first
    | with_reducible assumption
    | with_reducible refine State.lsRead_keeps ?_
    | with_reducible refine Keeps.ofEq ?_ (by with_reducible assumption)
    | with_reducible refine Keeps.foldl ?_ ?_
    | with_reducible refine Keeps.foldlSnd ?_ ?_
    | with_reducible refine Keeps.foldlFst ?_ ?_
    | extract_lets
    | split
    | intro _
    | with_reducible refine Keeps.lit ?_
    | dsimp -zeta only

theorem State.ownWrite_keeps {r s : State} {a1} {a2} {a3} (h : Keeps r s) : Keeps r (State.ownWrite s a1 a2 a3) := by
  unfold State.ownWrite
  iterate 60 all_goals try first
    | with_reducible assumption
    | with_reducible refine State.lsWrite_keeps ?_
    | with_reducible refine Keeps.foldl ?_ ?_
    | with_reducible refine Keeps.foldlSnd ?_ ?_
    | with_reducible refine Keeps.foldlFst ?_ ?_
    | extract_lets
    | split
    | intro _
    | with_reducible refine Keeps.lit ?_
    | dsimp -zeta only

theorem State.dealItem_keeps {r s : State} {a1} {a2} {a3} {a4} {a5} (h : Keeps r s) : Keeps r (State.dealItem s a1 a2 a3 a4 a5).2 := by
  unfold State.dealItem
  iterate 60 all_goals try first
    | with_reducible assumption
    | with_reducible refine State.lsWrite_keeps ?_
    | extract_lets
    | split
    | intro _
    | with_reducible refine Keeps.lit ?_
    | dsimp -zeta only

theorem State.vecFault_keeps {r s : State} {a1} {a2} (h : Keeps r s) : Keeps r (State.vecFault s a1 a2) := by
  unfold State.vecFault
  iterate 60 all_goals try first
    | with_reducible assumption
    | with_reducible refine State.endPassTrap_keeps ?_
    | extract_lets
    | split
    | intro _
    | with_reducible refine Keeps.lit ?_
    | dsimp -zeta only

theorem State.vxDealOp_keeps {r s : State} {a1} {a2} (h : Keeps r s) : Keeps r (State.vxDealOp s a1 a2) := by
  unfold State.vxDealOp
  iterate 60 all_goals try first
    | with_reducible assumption
    | with_reducible refine State.dealItem_keeps ?_
    | with_reducible refine State.ownRange_keeps ?_
    | with_reducible refine State.ownRead_keeps ?_
    | with_reducible refine State.ownWrite_keeps ?_
    | with_reducible refine State.vecFault_keeps ?_
    | with_reducible refine Keeps.ofEq ?_ (by with_reducible assumption)
    | with_reducible refine Keeps.foldl ?_ ?_
    | with_reducible refine Keeps.foldlSnd ?_ ?_
    | with_reducible refine Keeps.foldlFst ?_ ?_
    | extract_lets
    | split
    | intro _
    | with_reducible refine Keeps.lit ?_
    | dsimp -zeta only

theorem State.readVa_keeps {r s : State} {a0} {a1} {a2} (h : Keeps r s) : Keeps r (State.readVa a0 a1 a2 s).2 := by
  induction a1 generalizing s a0 a2 with
  | nil => exact h
  | cons x l ih =>
    unfold State.readVa
    iterate 60 all_goals try first
    | with_reducible assumption
    | with_reducible refine ih ?_
    | with_reducible refine Keeps.ofEq ?_ (by with_reducible assumption)
    | with_reducible refine State.loadPa_keeps ?_
    | with_reducible refine State.translateT_keeps ?_
    | with_reducible refine Keeps.ofEq ?_ (by with_reducible assumption)
    | extract_lets
    | split
    | intro _
    | with_reducible refine Keeps.lit ?_
    | dsimp -zeta only

theorem State.readRows_keeps {r s : State} {a0} {a1} {a2} {a3} (h : Keeps r s) : Keeps r (State.readRows a0 a1 a2 a3 s).2 := by
  induction a2 generalizing s a0 a1 a3 with
  | nil => exact h
  | cons x l ih =>
    unfold State.readRows
    iterate 60 all_goals try first
    | with_reducible assumption
    | with_reducible refine ih ?_
    | with_reducible refine Keeps.ofEq ?_ (by with_reducible assumption)
    | with_reducible refine State.readVa_keeps ?_
    | with_reducible refine Keeps.ofEq ?_ (by with_reducible assumption)
    | extract_lets
    | split
    | intro _
    | with_reducible refine Keeps.lit ?_
    | dsimp -zeta only

theorem State.putRow_keeps {r s : State} {a1} {a2} {a3} {a4} {a5} (h : Keeps r s) : Keeps r (State.putRow s a1 a2 a3 a4 a5) := by
  unfold State.putRow
  iterate 60 all_goals try first
    | with_reducible assumption
    | with_reducible refine State.lsRead_keeps ?_
    | with_reducible refine State.lsWrite_keeps ?_
    | with_reducible refine Keeps.ofEq ?_ (by with_reducible assumption)
    | extract_lets
    | split
    | intro _
    | with_reducible refine Keeps.lit ?_
    | dsimp -zeta only

theorem State.vxCombinePutOp_keeps {r s : State} {a1} {a2} (h : Keeps r s) : Keeps r (State.vxCombinePutOp s a1 a2) := by
  unfold State.vxCombinePutOp
  iterate 60 all_goals try first
    | with_reducible assumption
    | with_reducible refine State.lsCheckAll_keeps ?_
    | with_reducible refine State.ownRange_keeps ?_
    | with_reducible refine State.ownRead_keeps ?_
    | with_reducible refine State.putRow_keeps ?_
    | with_reducible refine State.readRows_keeps ?_
    | with_reducible refine State.vecFault_keeps ?_
    | with_reducible refine Keeps.ofEq ?_ (by with_reducible assumption)
    | with_reducible refine Keeps.foldl ?_ ?_
    | with_reducible refine Keeps.foldlSnd ?_ ?_
    | with_reducible refine Keeps.foldlFst ?_ ?_
    | extract_lets
    | split
    | intro _
    | with_reducible refine Keeps.lit ?_
    | dsimp -zeta only

theorem State.updLvu_keeps {r s : State} {a1} {a2} (h : Keeps r s) : Keeps r (State.updLvu s a1 a2) := by
  unfold State.updLvu
  iterate 60 all_goals try first
    | with_reducible assumption
    | with_reducible refine State.updTile_keeps ?_
    | extract_lets
    | split
    | intro _
    | with_reducible refine Keeps.lit ?_
    | dsimp -zeta only

theorem State.sumPos_keeps {r s : State} {a1} {a2} {a3} (h : Keeps r s) : Keeps r (State.sumPos s a1 a2 a3) := by
  unfold State.sumPos
  iterate 60 all_goals try first
    | with_reducible assumption
    | with_reducible refine State.lsRead_keeps ?_
    | with_reducible refine State.lsWrite_keeps ?_
    | with_reducible refine State.updLvu_keeps ?_
    | with_reducible refine Keeps.ofEq ?_ (by with_reducible assumption)
    | with_reducible refine Keeps.foldl ?_ ?_
    | with_reducible refine Keeps.foldlSnd ?_ ?_
    | with_reducible refine Keeps.foldlFst ?_ ?_
    | extract_lets
    | split
    | intro _
    | with_reducible refine Keeps.lit ?_
    | dsimp -zeta only

theorem State.vxCombineSumOp_keeps {r s : State} {a1} {a2} (h : Keeps r s) : Keeps r (State.vxCombineSumOp s a1 a2) := by
  unfold State.vxCombineSumOp
  iterate 60 all_goals try first
    | with_reducible assumption
    | with_reducible refine State.ownRange_keeps ?_
    | with_reducible refine State.ownRead_keeps ?_
    | with_reducible refine State.ownWrite_keeps ?_
    | with_reducible refine State.sumPos_keeps ?_
    | with_reducible refine State.vecFault_keeps ?_
    | with_reducible refine Keeps.ofEq ?_ (by with_reducible assumption)
    | with_reducible refine Keeps.foldl ?_ ?_
    | with_reducible refine Keeps.foldlSnd ?_ ?_
    | with_reducible refine Keeps.foldlFst ?_ ?_
    | extract_lets
    | split
    | intro _
    | with_reducible refine Keeps.lit ?_
    | dsimp -zeta only

theorem State.replyTo_keeps {r s : State} {a1} {a2} {a3} (h : Keeps r s) : Keeps r (State.replyTo s a1 a2 a3) := by
  unfold State.replyTo
  iterate 60 all_goals try first
    | with_reducible assumption
    | with_reducible refine State.emit_keeps ?_
    | with_reducible refine State.netSend_keeps ?_
    | extract_lets
    | split
    | intro _
    | with_reducible refine Keeps.lit ?_
    | dsimp -zeta only

theorem State.answerRemote_keeps {r s : State} {a1} {a2} (h : Keeps r s) : Keeps r (State.answerRemote s a1 a2) := by
  unfold State.answerRemote
  iterate 60 all_goals try first
    | with_reducible assumption
    | extract_lets
    | split
    | intro _
    | with_reducible refine Keeps.litFatal ?_
    | with_reducible refine Keeps.lit ?_
    | dsimp -zeta only

theorem State.sendRecalls_keeps {r s : State} (h : Keeps r s) : Keeps r (State.sendRecalls s) := by
  unfold State.sendRecalls
  iterate 60 all_goals try first
    | with_reducible assumption
    | with_reducible refine State.netPut_keeps_of_eq ?_ (by with_reducible assumption)
    | with_reducible refine Keeps.foldl ?_ ?_
    | with_reducible refine Keeps.foldlSnd ?_ ?_
    | with_reducible refine Keeps.foldlFst ?_ ?_
    | extract_lets
    | split
    | intro _
    | with_reducible refine Keeps.litFatal ?_
    | with_reducible refine Keeps.lit ?_
    | dsimp -zeta only

theorem State.recallAnswered_keeps {r s : State} {a1} {a2} (h : Keeps r s) : Keeps r (State.recallAnswered s a1 a2) := by
  unfold State.recallAnswered
  iterate 60 all_goals try first
    | with_reducible assumption
    | extract_lets
    | split
    | intro _
    | with_reducible refine Keeps.litFatal ?_
    | with_reducible refine Keeps.lit ?_
    | dsimp -zeta only

theorem State.recallChains_keeps {r s : State} {a1} {a2} (h : Keeps r s) : Keeps r (State.recallChains s a1 a2) := by
  unfold State.recallChains
  iterate 60 all_goals try first
    | with_reducible assumption
    | with_reducible refine State.sendRecalls_keeps ?_
    | extract_lets
    | split
    | intro _
    | with_reducible refine Keeps.litFatal ?_
    | with_reducible refine Keeps.lit ?_
    | dsimp -zeta only

theorem State.makeNotice_keeps {r s : State} {a1} (h : Keeps r s) : Keeps r (State.makeNotice s a1) := by
  unfold State.makeNotice
  iterate 60 all_goals try first
    | with_reducible assumption
    | with_reducible refine State.recallChains_keeps ?_
    | with_reducible refine State.updPart_keeps ?_
    | with_reducible refine Keeps.foldl ?_ ?_
    | with_reducible refine Keeps.foldlSnd ?_ ?_
    | with_reducible refine Keeps.foldlFst ?_ ?_
    | extract_lets
    | split
    | intro _
    | with_reducible refine Keeps.lit ?_
    | dsimp -zeta only

theorem State.failTile_keeps {r s : State} {a1} {a2} (h : Keeps r s) : Keeps r (State.failTile s a1 a2) := by
  unfold State.failTile
  iterate 60 all_goals try first
    | with_reducible assumption
    | with_reducible refine State.makeNotice_keeps ?_
    | with_reducible refine State.retireTile_keeps ?_
    | with_reducible refine State.tileFatal_keeps ?_
    | with_reducible refine State.updTile_keeps ?_
    | extract_lets
    | split
    | intro _
    | with_reducible refine Keeps.getD (fun t e => ?_) ?_
    | with_reducible refine Keeps.lit ?_
    | dsimp -zeta only

theorem State.fatalTo_keeps {r s : State} {a1} {a2} (h : Keeps r s) : Keeps r (State.fatalTo s a1 a2) := by
  unfold State.fatalTo
  iterate 60 all_goals try first
    | with_reducible assumption
    | with_reducible refine State.flagPart_keeps ?_
    | with_reducible refine State.record_keeps ?_
    | with_reducible refine Keeps.foldl ?_ ?_
    | with_reducible refine Keeps.foldlSnd ?_ ?_
    | with_reducible refine Keeps.foldlFst ?_ ?_
    | extract_lets
    | split
    | intro _
    | with_reducible refine Keeps.lit ?_
    | dsimp -zeta only

theorem State.loseController_keeps {r s : State} {a1} {a2} (h : Keeps r s) : Keeps r (State.loseController s a1 a2) := by
  unfold State.loseController
  iterate 60 all_goals try first
    | with_reducible assumption
    | with_reducible refine State.fatalTo_keeps ?_
    | with_reducible refine State.updHbm_keeps ?_
    | extract_lets
    | split
    | intro _
    | with_reducible refine Keeps.lit ?_
    | dsimp -zeta only

theorem State.failController_keeps {r s : State} {a1} {a2} (h : Keeps r s) : Keeps r (State.failController s a1 a2) := by
  unfold State.failController
  iterate 60 all_goals try first
    | with_reducible assumption
    | with_reducible refine State.fatalTo_keeps ?_
    | with_reducible refine State.loseController_keeps ?_
    | extract_lets
    | split
    | intro _
    | with_reducible refine Keeps.lit ?_
    | dsimp -zeta only

theorem State.updHealth_keeps {r s : State} {a1} {a2} (h : Keeps r s) : Keeps r (State.updHealth s a1 a2) := by
  unfold State.updHealth
  iterate 60 all_goals try first
    | with_reducible assumption
    | with_reducible refine State.updTile_keeps ?_
    | extract_lets
    | split
    | intro _
    | with_reducible refine Keeps.lit ?_
    | dsimp -zeta only

theorem State.startPass_keeps {r s : State} {a1} (h : Keeps r s) : Keeps r (State.startPass s a1) := by
  unfold State.startPass
  iterate 60 all_goals try first
    | with_reducible assumption
    | with_reducible refine State.updHealth_keeps ?_
    | extract_lets
    | split
    | intro _
    | with_reducible refine Keeps.lit ?_
    | dsimp -zeta only

theorem State.postNotice_keeps {r s : State} {a1} {a2} (h : Keeps r s) : Keeps r (State.postNotice s a1 a2) := by
  unfold State.postNotice
  iterate 60 all_goals try first
    | with_reducible assumption
    | with_reducible refine State.event_keeps ?_
    | with_reducible refine State.updPart_keeps ?_
    | extract_lets
    | split
    | intro _
    | with_reducible refine Keeps.lit ?_
    | dsimp -zeta only

theorem State.updMxu_keeps {r s : State} {a1} {a2} (h : Keeps r s) : Keeps r (State.updMxu s a1 a2) := by
  unfold State.updMxu
  iterate 60 all_goals try first
    | with_reducible assumption
    | with_reducible refine State.updTile_keeps ?_
    | extract_lets
    | split
    | intro _
    | with_reducible refine Keeps.lit ?_
    | dsimp -zeta only

theorem State.acmCheck_keeps {r s : State} {a1} {a2} {a3} (h : Keeps r s) : Keeps r (State.acmCheck s a1 a2 a3) := by
  unfold State.acmCheck
  iterate 60 all_goals try first
    | with_reducible assumption
    | with_reducible refine State.eccFatal_keeps ?_
    | with_reducible refine State.tileMasked_keeps ?_
    | with_reducible refine State.updMxu_keeps ?_
    | extract_lets
    | split
    | intro _
    | with_reducible refine Keeps.lit ?_
    | dsimp -zeta only

theorem State.acmCheckRows_keeps {r s : State} {a1} {a2} {a3} {a4} (h : Keeps r s) : Keeps r (State.acmCheckRows s a1 a2 a3 a4) := by
  unfold State.acmCheckRows
  iterate 60 all_goals try first
    | with_reducible assumption
    | with_reducible refine State.acmCheck_keeps ?_
    | with_reducible refine Keeps.foldl ?_ ?_
    | with_reducible refine Keeps.foldlSnd ?_ ?_
    | with_reducible refine Keeps.foldlFst ?_ ?_
    | extract_lets
    | split
    | intro _
    | with_reducible refine Keeps.lit ?_
    | dsimp -zeta only

theorem State.spend_keeps {r s : State} {a1} {a2} (h : Keeps r s) : Keeps r (State.spend s a1 a2) := by
  unfold State.spend
  iterate 60 all_goals try first
    | with_reducible assumption
    | with_reducible refine State.updTile_keeps ?_
    | extract_lets
    | split
    | intro _
    | with_reducible refine Keeps.lit ?_
    | dsimp -zeta only

theorem State.startScrubs_keeps {r s : State} (h : Keeps r s) : Keeps r (State.startScrubs s) := by
  unfold State.startScrubs
  iterate 60 all_goals try first
    | with_reducible assumption
    | with_reducible refine State.updTile_keeps ?_
    | with_reducible refine Keeps.foldl ?_ ?_
    | with_reducible refine Keeps.foldlSnd ?_ ?_
    | with_reducible refine Keeps.foldlFst ?_ ?_
    | extract_lets
    | split
    | intro _
    | with_reducible refine Keeps.lit ?_
    | dsimp -zeta only

theorem State.setHostl_keeps {r s : State} {a1} (h : Keeps r s) : Keeps r (State.setHostl s a1) := by
  unfold State.setHostl
  iterate 60 all_goals try first
    | with_reducible assumption
    | extract_lets
    | split
    | intro _
    | with_reducible refine Keeps.litFatal ?_
    | with_reducible refine Keeps.lit ?_
    | dsimp -zeta only

theorem State.setBoard_keeps {r s : State} {a1} (h : Keeps r s) : Keeps r (State.setBoard s a1) := by
  unfold State.setBoard
  iterate 60 all_goals try first
    | with_reducible assumption
    | extract_lets
    | split
    | intro _
    | with_reducible refine Keeps.litFatal ?_
    | with_reducible refine Keeps.lit ?_
    | dsimp -zeta only

theorem State.cfgEffect_keeps {r s : State} {a1} {a2} (h : Keeps r s) : Keeps r (State.cfgEffect s a1 a2) := by
  unfold State.cfgEffect
  iterate 60 all_goals try first
    | with_reducible assumption
    | with_reducible refine State.emit_keeps ?_
    | with_reducible refine State.msix_keeps ?_
    | with_reducible refine State.setHostl_keeps ?_
    | extract_lets
    | split
    | intro _
    | with_reducible refine Keeps.lit ?_
    | dsimp -zeta only

theorem State.writePieces_keeps {r s : State} {wr es bs} (h : Keeps r s) (hf : ∀ s a b, Keeps r s → Keeps r (wr s a b)) :
    Keeps r (s.writePieces wr es bs) :=
  Keeps.foldlFst (p := (s, bs)) h (fun p _ k => hf p.1 _ _ k)

theorem State.unsupported_keeps {r s : State} {a1} (h : Keeps r s) : Keeps r (State.unsupported s a1) := by
  unfold State.unsupported
  iterate 60 all_goals try first
    | with_reducible assumption
    | with_reducible refine State.emit_keeps ?_
    | extract_lets
    | split
    | intro _
    | with_reducible refine Keeps.litFatal ?_
    | with_reducible refine Keeps.lit ?_
    | dsimp -zeta only

theorem windowRead_keeps {r : State} {s} {a0} (h : Keeps r s.2) : Keeps r (windowRead a0 s) := by
  unfold windowRead
  iterate 60 all_goals try first
    | with_reducible assumption
    | with_reducible refine State.emit_keeps ?_
    | with_reducible refine State.unsupported_keeps ?_
    | extract_lets
    | split
    | intro _
    | with_reducible refine Keeps.lit ?_
    | dsimp -zeta only

theorem State.winFill_keeps {r s : State} {a1} {a2} (h : Keeps r s) : Keeps r (State.winFill s a1 a2) := by
  unfold State.winFill
  iterate 60 all_goals try first
    | with_reducible assumption
    | with_reducible refine State.setHostl_keeps ?_
    | with_reducible refine State.walk_keeps ?_
    | with_reducible refine Keeps.ofEq ?_ (by with_reducible assumption)
    | extract_lets
    | split
    | intro _
    | with_reducible refine Keeps.lit ?_
    | dsimp -zeta only

theorem State.vfWrite_keeps {r s : State} {a1} {a2} {a3} (h : Keeps r s) : Keeps r (State.vfWrite s a1 a2 a3) := by
  unfold State.vfWrite
  iterate 60 all_goals try first
    | with_reducible assumption
    | with_reducible refine State.access_keeps ?_
    | with_reducible refine State.refuse_keeps ?_
    | with_reducible refine State.windowSend_keeps ?_
    | with_reducible refine Keeps.ofEq ?_ (by with_reducible assumption)
    | extract_lets
    | split
    | intro _
    | with_reducible refine Keeps.lit ?_
    | dsimp -zeta only

theorem State.vfWindow_keeps {r s : State} {a1} {a2} {a3} (h : Keeps r s) : Keeps r (State.vfWindow s a1 a2 a3) := by
  unfold State.vfWindow
  iterate 60 all_goals try first
    | with_reducible assumption
    | with_reducible refine State.range_keeps ?_
    | with_reducible refine State.readExtents_keeps ?_
    | with_reducible refine State.refuse_keeps ?_
    | with_reducible refine State.unsupported_keeps ?_
    | with_reducible refine State.vfWrite_keeps ?_
    | with_reducible refine State.winFill_keeps ?_
    | with_reducible refine State.writePieces_keeps ?_ ?_
    | with_reducible refine windowRead_keeps ?_
    | with_reducible refine Keeps.ofEq ?_ (by with_reducible assumption)
    | extract_lets
    | split
    | intro _
    | with_reducible refine Keeps.lit ?_
    | dsimp -zeta only

theorem State.setEvtHead_keeps {r s : State} {a1} {a2} (h : Keeps r s) : Keeps r (State.setEvtHead s a1 a2) := by
  unfold State.setEvtHead
  iterate 60 all_goals try first
    | with_reducible assumption
    | with_reducible refine State.pump_keeps ?_
    | with_reducible refine State.updBox_keeps ?_
    | extract_lets
    | split
    | intro _
    | with_reducible refine Keeps.lit ?_
    | dsimp -zeta only

theorem State.setIrq_keeps {r s : State} {a1} {a2} (h : Keeps r s) : Keeps r (State.setIrq s a1 a2) := by
  unfold State.setIrq
  iterate 60 all_goals try first
    | with_reducible assumption
    | extract_lets
    | split
    | intro _
    | with_reducible refine Keeps.litFatal ?_
    | with_reducible refine Keeps.lit ?_
    | dsimp -zeta only

theorem State.refuseHeader_keeps {r s : State} {a1} {a2} (h : Keeps r s) : Keeps r (State.refuseHeader s a1 a2) := by
  unfold State.refuseHeader
  iterate 60 all_goals try first
    | with_reducible assumption
    | with_reducible refine State.respond_keeps ?_
    | extract_lets
    | split
    | intro _
    | with_reducible refine Keeps.lit ?_
    | dsimp -zeta only

theorem State.hold_keeps {r s : State} {a1} {a2} (h : Keeps r s) : Keeps r (State.hold s a1 a2) := by
  unfold State.hold
  iterate 60 all_goals try first
    | with_reducible assumption
    | with_reducible refine State.updBox_keeps ?_
    | extract_lets
    | split
    | intro _
    | with_reducible refine Keeps.lit ?_
    | dsimp -zeta only

theorem State.takeChecked_keeps {r s : State} {a1} {a2} {a3} {a4} (h : Keeps r s) : Keeps r (State.takeChecked s a1 a2 a3 a4) := by
  unfold State.takeChecked
  iterate 60 all_goals try first
    | with_reducible assumption
    | with_reducible refine State.hold_keeps ?_
    | with_reducible refine State.respond_keeps ?_
    | with_reducible refine State.updBox_keeps ?_
    | extract_lets
    | split
    | intro _
    | with_reducible refine Keeps.lit ?_
    | dsimp -zeta only

theorem State.dropSeg_keeps {r s : State} {a1} (h : Keeps r s) : Keeps r (State.dropSeg s a1) := by
  unfold State.dropSeg
  iterate 60 all_goals try first
    | with_reducible assumption
    | with_reducible refine State.respond_keeps ?_
    | with_reducible refine State.updBox_keeps ?_
    | extract_lets
    | split
    | intro _
    | with_reducible refine Keeps.lit ?_
    | dsimp -zeta only

theorem State.takeMessage_keeps {r s : State} {a1} (h : Keeps r s) : Keeps r (State.takeMessage s a1) := by
  unfold State.takeMessage
  iterate 60 all_goals try first
    | with_reducible assumption
    | with_reducible refine State.dropSeg_keeps ?_
    | with_reducible refine State.refuseHeader_keeps ?_
    | with_reducible refine State.takeChecked_keeps ?_
    | with_reducible refine State.updBox_keeps ?_
    | extract_lets
    | split
    | intro _
    | with_reducible refine Keeps.lit ?_
    | dsimp -zeta only

theorem State.bellHandler_keeps {r s : State} {a1} (h : Keeps r s) : Keeps r (State.bellHandler s a1) := by
  unfold State.bellHandler
  iterate 60 all_goals try first
    | with_reducible assumption
    | with_reducible refine State.takeMessage_keeps ?_
    | with_reducible refine State.updBox_keeps ?_
    | extract_lets
    | split
    | intro _
    | with_reducible refine Keeps.lit ?_
    | dsimp -zeta only

theorem State.runHandlers_keeps {r s : State} {a0} {a1} (h : Keeps r s) : Keeps r (State.runHandlers a0 a1 s) := by
  induction a1 generalizing s a0 with
  | zero => exact h
  | succ k ih =>
    unfold State.runHandlers
    iterate 60 all_goals try first
    | with_reducible assumption
    | with_reducible refine ih ?_
    | with_reducible refine State.bellHandler_keeps ?_
    | with_reducible refine State.setIrq_keeps ?_
    | extract_lets
    | split
    | intro _
    | with_reducible refine Keeps.lit ?_
    | dsimp -zeta only

theorem State.takeIrqs_keeps {r s : State} (h : Keeps r s) : Keeps r (State.takeIrqs s) := by
  unfold State.takeIrqs
  iterate 60 all_goals try first
    | with_reducible assumption
    | with_reducible refine State.runHandlers_keeps ?_
    | with_reducible refine Keeps.foldl ?_ ?_
    | with_reducible refine Keeps.foldlSnd ?_ ?_
    | with_reducible refine Keeps.foldlFst ?_ ?_
    | extract_lets
    | split
    | intro _
    | with_reducible refine Keeps.lit ?_
    | dsimp -zeta only

theorem State.setReq_keeps {r s : State} {a1} (h : Keeps r s) : Keeps r (State.setReq s a1) := by
  unfold State.setReq
  iterate 60 all_goals try first
    | with_reducible assumption
    | with_reducible refine State.setIrq_keeps ?_
    | with_reducible refine State.updBox_keeps ?_
    | extract_lets
    | split
    | intro _
    | with_reducible refine Keeps.lit ?_
    | dsimp -zeta only

theorem State.ringReq_keeps {r s : State} {a1} (h : Keeps r s) : Keeps r (State.ringReq s a1) := by
  unfold State.ringReq
  iterate 60 all_goals try first
    | with_reducible assumption
    | with_reducible refine State.setReq_keeps ?_
    | with_reducible refine State.takeIrqs_keeps ?_
    | extract_lets
    | split
    | intro _
    | with_reducible refine Keeps.lit ?_
    | dsimp -zeta only

theorem State.ringDone_keeps {r s : State} {a1} (h : Keeps r s) : Keeps r (State.ringDone s a1) := by
  unfold State.ringDone
  iterate 60 all_goals try first
    | with_reducible assumption
    | with_reducible refine State.finishLong_keeps ?_
    | with_reducible refine State.pump_keeps ?_
    | with_reducible refine State.setBox_keeps ?_
    | extract_lets
    | split
    | intro _
    | with_reducible refine Keeps.lit ?_
    | dsimp -zeta only

theorem State.bellWrite_keeps {r s : State} {a1} {a2} (h : Keeps r s) : Keeps r (State.bellWrite s a1 a2) := by
  unfold State.bellWrite
  iterate 60 all_goals try first
    | with_reducible assumption
    | with_reducible refine State.ringDone_keeps ?_
    | with_reducible refine State.ringReq_keeps ?_
    | with_reducible refine State.setEvtHead_keeps ?_
    | extract_lets
    | split
    | intro _
    | with_reducible refine Keeps.lit ?_
    | dsimp -zeta only

theorem State.boxPut_keeps_of_eq {r s t : State} {m off bs} (h : Keeps r s) (e : s.boxPut m off bs = some t) : Keeps r t := by
  simp only [State.boxPut] at e
  repeat' split at e
  all_goals first
    | cases e; done
    | (obtain rfl := Option.some.inj e; first | exact h | exact State.updBox_keeps h | exact State.bellWrite_keeps h)

theorem State.boxWrite_keeps {r s : State} {a1} {a2} {a3} (h : Keeps r s) : Keeps r (State.boxWrite s a1 a2 a3) := by
  unfold State.boxWrite
  iterate 60 all_goals try first
    | with_reducible assumption
    | with_reducible refine State.boxPut_keeps_of_eq ?_ (by with_reducible assumption)
    | with_reducible refine State.unsupported_keeps ?_
    | extract_lets
    | split
    | intro _
    | with_reducible refine Keeps.getD (fun t e => ?_) ?_
    | with_reducible refine Keeps.lit ?_
    | dsimp -zeta only

theorem State.msixWrite_keeps {r s : State} {a1} {a2} {a3} (h : Keeps r s) : Keeps r (State.msixWrite s a1 a2 a3) := by
  unfold State.msixWrite
  iterate 60 all_goals try first
    | with_reducible assumption
    | with_reducible refine State.emit_keeps ?_
    | with_reducible refine State.setMsix_keeps ?_
    | with_reducible refine State.unsupported_keeps ?_
    | extract_lets
    | split
    | intro _
    | with_reducible refine Keeps.lit ?_
    | dsimp -zeta only

theorem State.vfBar0Write_keeps {r s : State} {a1} {a2} {a3} (h : Keeps r s) : Keeps r (State.vfBar0Write s a1 a2 a3) := by
  unfold State.vfBar0Write
  iterate 60 all_goals try first
    | with_reducible assumption
    | with_reducible refine State.boxWrite_keeps ?_
    | with_reducible refine State.hostBell_keeps ?_
    | with_reducible refine State.msixWrite_keeps ?_
    | with_reducible refine State.unitPut_keeps ?_
    | with_reducible refine State.unsupported_keeps ?_
    | extract_lets
    | split
    | intro _
    | with_reducible refine Keeps.lit ?_
    | dsimp -zeta only

theorem State.pfBar0Write_keeps {r s : State} {a1} {a2} (h : Keeps r s) : Keeps r (State.pfBar0Write s a1 a2) := by
  unfold State.pfBar0Write
  iterate 60 all_goals try first
    | with_reducible assumption
    | with_reducible refine State.boxWrite_keeps ?_
    | with_reducible refine State.msixWrite_keeps ?_
    | with_reducible refine State.unsupported_keeps ?_
    | extract_lets
    | split
    | intro _
    | with_reducible refine Keeps.lit ?_
    | dsimp -zeta only

theorem State.reservedTag_keeps {r s : State} {a1} (h : Keeps r s) : Keeps r (State.reservedTag s a1) := by
  unfold State.reservedTag
  iterate 60 all_goals try first
    | with_reducible assumption
    | with_reducible refine State.devFatal_keeps ?_
    | extract_lets
    | split
    | intro _
    | with_reducible refine Keeps.lit ?_
    | dsimp -zeta only

theorem State.accessBox_keeps {r s : State} {a1} {a2} {a3} (h : Keeps r s) : Keeps r (State.accessBox s a1 a2 a3).2 := by
  unfold State.accessBox
  iterate 60 all_goals try first
    | with_reducible assumption
    | with_reducible refine State.access_keeps ?_
    | with_reducible refine State.boxPut_keeps_of_eq ?_ (by with_reducible assumption)
    | with_reducible refine State.refuse_keeps ?_
    | with_reducible refine Keeps.ofEq ?_ (by with_reducible assumption)
    | extract_lets
    | split
    | intro _
    | with_reducible refine Keeps.lit ?_
    | dsimp -zeta only

theorem State.csRaw_keeps {r s : State} {a1} {a2} (h : Keeps r s) : Keeps r (State.csRaw s a1 a2) := by
  unfold State.csRaw
  iterate 60 all_goals try first
    | with_reducible assumption
    | with_reducible refine State.csHbm_keeps ?_
    | with_reducible refine State.csTile_keeps ?_
    | with_reducible refine State.refuse_keeps ?_
    | extract_lets
    | split
    | intro _
    | with_reducible refine Keeps.lit ?_
    | dsimp -zeta only

theorem State.commitSlot_keeps {r s : State} {a1} {a2} (h : Keeps r s) : Keeps r (State.commitSlot s a1 a2) := by
  unfold State.commitSlot
  iterate 60 all_goals try first
    | with_reducible assumption
    | with_reducible refine State.setArb_keeps ?_
    | extract_lets
    | split
    | intro _
    | with_reducible refine Keeps.lit ?_
    | dsimp -zeta only

theorem State.txSlot_keeps {r s : State} {a1} (h : Keeps r s) : Keeps r (State.txSlot s a1) := by
  unfold State.txSlot
  iterate 60 all_goals try first
    | with_reducible assumption
    | with_reducible refine State.atLeast_keeps ?_
    | with_reducible refine State.setArb_keeps ?_
    | extract_lets
    | split
    | intro _
    | with_reducible refine Keeps.litFatal ?_
    | with_reducible refine Keeps.lit ?_
    | dsimp -zeta only

theorem State.takeSlot_keeps {r s : State} {a0} {a1} {a2} {a3} {a4} {a5} (h : Keeps r s) : Keeps r (State.takeSlot a0 a1 a2 a3 a4 a5 s) := by
  induction a5 generalizing s a0 a1 a2 a3 a4 with
  | nil => exact h
  | cons x l ih =>
    unfold State.takeSlot
    iterate 60 all_goals try first
    | with_reducible assumption
    | with_reducible refine ih ?_
    | with_reducible refine State.updHbm_keeps ?_
    | extract_lets
    | split
    | intro _
    | with_reducible refine Keeps.lit ?_
    | dsimp -zeta only

theorem State.fillSlot_keeps {r s : State} {a1} {a2} {a3} {a4} (h : Keeps r s) : Keeps r (State.fillSlot s a1 a2 a3 a4) := by
  unfold State.fillSlot
  iterate 60 all_goals try first
    | with_reducible assumption
    | with_reducible refine State.takeSlot_keeps ?_
    | with_reducible refine State.updHbm_keeps ?_
    | extract_lets
    | split
    | intro _
    | with_reducible refine Keeps.lit ?_
    | dsimp -zeta only

theorem State.slotAt_keeps {r s : State} {a1} {a2} (h : Keeps r s) : Keeps r (State.slotAt s a1 a2).2 := by
  unfold State.slotAt
  iterate 60 all_goals try first
    | with_reducible assumption
    | with_reducible refine State.atLeast_keeps ?_
    | with_reducible refine State.setArb_keeps ?_
    | extract_lets
    | split
    | intro _
    | with_reducible refine Keeps.lit ?_
    | dsimp -zeta only

theorem State.hbmSlot_keeps {r s : State} {a1} {a2} (h : Keeps r s) : Keeps r (State.hbmSlot s a1 a2) := by
  unfold State.hbmSlot
  iterate 60 all_goals try first
    | with_reducible assumption
    | with_reducible refine State.commitSlot_keeps ?_
    | with_reducible refine State.fillSlot_keeps ?_
    | with_reducible refine State.replyTo_keeps ?_
    | with_reducible refine State.slotAt_keeps ?_
    | with_reducible refine State.updHbm_keeps ?_
    | with_reducible refine Keeps.ofEq ?_ (by with_reducible assumption)
    | with_reducible refine Keeps.foldl ?_ ?_
    | with_reducible refine Keeps.foldlSnd ?_ ?_
    | with_reducible refine Keeps.foldlFst ?_ ?_
    | extract_lets
    | split
    | intro _
    | with_reducible refine Keeps.lit ?_
    | dsimp -zeta only

theorem State.serveAccess_keeps {r s : State} {a1} {a2} {a3} {a4} (h : Keeps r s) : Keeps r (State.serveAccess s a1 a2 a3 a4) := by
  unfold State.serveAccess
  iterate 60 all_goals try first
    | with_reducible assumption
    | with_reducible refine State.accessBox_keeps ?_
    | with_reducible refine State.replyTo_keeps ?_
    | with_reducible refine State.updHbm_keeps ?_
    | with_reducible refine Keeps.ofEq ?_ (by with_reducible assumption)
    | extract_lets
    | split
    | intro _
    | with_reducible refine Keeps.lit ?_
    | dsimp -zeta only

theorem State.sendFlit_keeps {r s : State} {a1} {a2} (h : Keeps r s) : Keeps r (State.sendFlit s a1 a2) := by
  unfold State.sendFlit
  iterate 60 all_goals try first
    | with_reducible assumption
    | with_reducible refine State.emit_keeps ?_
    | with_reducible refine State.setLink_keeps ?_
    | extract_lets
    | split
    | intro _
    | with_reducible refine Keeps.lit ?_
    | dsimp -zeta only

theorem State.sendNumbered_keeps {r s : State} {a1} {a2} {a3} (h : Keeps r s) : Keeps r (State.sendNumbered s a1 a2 a3) := by
  unfold State.sendNumbered
  iterate 60 all_goals try first
    | with_reducible assumption
    | with_reducible refine State.sendFlit_keeps ?_
    | with_reducible refine State.setLink_keeps ?_
    | extract_lets
    | split
    | intro _
    | with_reducible refine Keeps.lit ?_
    | dsimp -zeta only

theorem State.freeHold_keeps {r s : State} {a1} (h : Keeps r s) : Keeps r (State.freeHold s a1) := by
  unfold State.freeHold
  iterate 60 all_goals try first
    | with_reducible assumption
    | with_reducible refine State.updTile_keeps ?_
    | extract_lets
    | split
    | intro _
    | with_reducible refine Keeps.lit ?_
    | dsimp -zeta only

theorem State.breakHere_keeps {r s : State} {a1} {a2} {a3} {a4} (h : Keeps r s) : Keeps r (State.breakHere s a1 a2 a3 a4) := by
  unfold State.breakHere
  iterate 60 all_goals try first
    | with_reducible assumption
    | with_reducible refine State.dropOffers_keeps ?_
    | with_reducible refine State.endRequest_keeps ?_
    | with_reducible refine State.freeHold_keeps ?_
    | with_reducible refine State.sendBreak_keeps ?_
    | extract_lets
    | split
    | intro _
    | with_reducible refine Keeps.lit ?_
    | dsimp -zeta only

theorem State.breakLost_keeps {r s : State} {a1} {a2} {a3} {a4} (h : Keeps r s) : Keeps r (State.breakLost s a1 a2 a3 a4) := by
  unfold State.breakLost
  iterate 60 all_goals try first
    | with_reducible assumption
    | with_reducible refine State.breakHere_keeps ?_
    | with_reducible refine State.netSend_keeps ?_
    | extract_lets
    | split
    | intro _
    | with_reducible refine Keeps.lit ?_
    | dsimp -zeta only

theorem State.losePacket_keeps {r s : State} {a1} (h : Keeps r s) : Keeps r (State.losePacket s a1) := by
  unfold State.losePacket
  iterate 60 all_goals try first
    | with_reducible assumption
    | with_reducible refine State.answerRemote_keeps ?_
    | with_reducible refine State.breakLost_keeps ?_
    | with_reducible refine State.netSend_keeps ?_
    | with_reducible refine State.recallAnswered_keeps ?_
    | with_reducible refine State.windowDone_keeps ?_
    | extract_lets
    | split
    | intro _
    | with_reducible refine Keeps.lit ?_
    | dsimp -zeta only

theorem State.transit_keeps {r s : State} {a1} {a2} (h : Keeps r s) : Keeps r (State.transit s a1 a2) := by
  unfold State.transit
  iterate 60 all_goals try first
    | with_reducible assumption
    | with_reducible refine State.losePacket_keeps ?_
    | with_reducible refine State.netPut_keeps_of_eq ?_ (by with_reducible assumption)
    | with_reducible refine State.routeDown_keeps ?_
    | extract_lets
    | split
    | intro _
    | with_reducible refine Keeps.lit ?_
    | dsimp -zeta only

theorem State.breakReceived_keeps {r s : State} {a1} {a2} {a3} (h : Keeps r s) : Keeps r (State.breakReceived s a1 a2 a3) := by
  unfold State.breakReceived
  iterate 60 all_goals try first
    | with_reducible assumption
    | with_reducible refine State.breakHere_keeps ?_
    | extract_lets
    | split
    | intro _
    | with_reducible refine Keeps.lit ?_
    | dsimp -zeta only

theorem State.recallReceived_keeps {r s : State} {a1} (h : Keeps r s) : Keeps r (State.recallReceived s a1).2 := by
  unfold State.recallReceived
  iterate 60 all_goals try first
    | with_reducible assumption
    | with_reducible refine State.postNotice_keeps ?_
    | with_reducible refine State.updPart_keeps ?_
    | extract_lets
    | split
    | intro _
    | with_reducible refine Keeps.lit ?_
    | dsimp -zeta only

theorem State.netArrive_keeps {r s : State} {a1} {a2} {a3} (h : Keeps r s) : Keeps r (State.netArrive s a1 a2 a3) := by
  unfold State.netArrive
  iterate 60 all_goals try first
    | with_reducible assumption
    | with_reducible refine State.answerRemote_keeps ?_
    | with_reducible refine State.breakReceived_keeps ?_
    | with_reducible refine State.netSend_keeps ?_
    | with_reducible refine State.offer_keeps ?_
    | with_reducible refine State.recallAnswered_keeps ?_
    | with_reducible refine State.recallReceived_keeps ?_
    | with_reducible refine State.reservedTag_keeps ?_
    | with_reducible refine State.serveAccess_keeps ?_
    | with_reducible refine State.transit_keeps ?_
    | with_reducible refine State.windowDone_keeps ?_
    | with_reducible refine Keeps.ofEq ?_ (by with_reducible assumption)
    | extract_lets
    | split
    | intro _
    | with_reducible refine Keeps.lit ?_
    | dsimp -zeta only

theorem State.linkDown_keeps {r s : State} {a1} (h : Keeps r s) : Keeps r (State.linkDown s a1) := by
  unfold State.linkDown
  iterate 60 all_goals try first
    | with_reducible assumption
    | with_reducible refine State.losePacket_keeps ?_
    | with_reducible refine State.record_keeps ?_
    | with_reducible refine State.setLink_keeps ?_
    | with_reducible refine State.transit_keeps ?_
    | with_reducible refine Keeps.foldl ?_ ?_
    | with_reducible refine Keeps.foldlSnd ?_ ?_
    | with_reducible refine Keeps.foldlFst ?_ ?_
    | extract_lets
    | split
    | intro _
    | with_reducible refine Keeps.lit ?_
    | dsimp -zeta only

theorem State.trainFailed_keeps {r s : State} {a1} (h : Keeps r s) : Keeps r (State.trainFailed s a1) := by
  unfold State.trainFailed
  iterate 60 all_goals try first
    | with_reducible assumption
    | with_reducible refine State.setLink_keeps ?_
    | extract_lets
    | split
    | intro _
    | with_reducible refine Keeps.lit ?_
    | dsimp -zeta only

theorem State.raiseHeld_keeps {r s : State} (h : Keeps r s) : Keeps r (State.raiseHeld s) := by
  unfold State.raiseHeld
  iterate 60 all_goals try first
    | with_reducible assumption
    | with_reducible refine State.setIrq_keeps ?_
    | with_reducible refine Keeps.foldl ?_ ?_
    | with_reducible refine Keeps.foldlSnd ?_ ?_
    | with_reducible refine Keeps.foldlFst ?_ ?_
    | extract_lets
    | split
    | intro _
    | with_reducible refine Keeps.lit ?_
    | dsimp -zeta only

theorem State.pairMismatch_keeps {r s : State} {a1} (h : Keeps r s) : Keeps r (State.pairMismatch s a1) := by
  unfold State.pairMismatch
  iterate 60 all_goals try first
    | with_reducible assumption
    | with_reducible refine State.devFatal_keeps ?_
    | extract_lets
    | split
    | intro _
    | with_reducible refine Keeps.litFatal ?_
    | with_reducible refine Keeps.lit ?_
    | dsimp -zeta only

theorem State.askSigned_keeps {r s : State} {a1} {a2} (h : Keeps r s) : Keeps r (State.askSigned s a1 a2) := by
  unfold State.askSigned
  iterate 60 all_goals try first
    | with_reducible assumption
    | with_reducible refine State.addTask_keeps ?_
    | extract_lets
    | split
    | intro _
    | with_reducible refine Keeps.lit ?_
    | dsimp -zeta only

theorem State.firstNonce_keeps {r s : State} {a1} (h : Keeps r s) : Keeps r (State.firstNonce s a1) := by
  unfold State.firstNonce
  iterate 60 all_goals try first
    | with_reducible assumption
    | with_reducible refine State.drbgGen_keeps ?_
    | with_reducible refine State.newNonce_keeps ?_
    | with_reducible refine State.updBox_keeps ?_
    | with_reducible refine Keeps.ofEq ?_ (by with_reducible assumption)
    | extract_lets
    | split
    | intro _
    | with_reducible refine Keeps.lit ?_
    | dsimp -zeta only

theorem State.changed_keeps_of_eq {r s t : State} {o n cs} (h : Keeps r s) (e : s.changed n cs = some (o, t)) : Keeps r t := by
  simp only [State.changed] at e
  split at e
  · cases e
  · cases e
    exact Build.changes_keeps h

theorem State.releaseRoot_keeps {r s : State} {a1} (h : Keeps r s) : Keeps r (State.releaseRoot s a1) := by
  unfold State.releaseRoot
  iterate 60 all_goals try first
    | with_reducible assumption
    | with_reducible refine State.commandDone_keeps ?_
    | with_reducible refine State.event_keeps ?_
    | with_reducible refine State.updPart_keeps ?_
    | extract_lets
    | split
    | intro _
    | with_reducible refine Keeps.lit ?_
    | dsimp -zeta only

theorem State.newRoot_keeps {r s : State} {a1} {a2} {a3} (h : Keeps r s) : Keeps r (State.newRoot s a1 a2 a3) := by
  unfold State.newRoot
  iterate 60 all_goals try first
    | with_reducible assumption
    | with_reducible refine State.releaseRoot_keeps ?_
    | with_reducible refine State.updPart_keeps ?_
    | extract_lets
    | split
    | intro _
    | with_reducible refine Keeps.lit ?_
    | dsimp -zeta only

theorem State.mxFault_keeps {r s : State} {a1} {a2} (h : Keeps r s) : Keeps r (State.mxFault s a1 a2) := by
  unfold State.mxFault
  iterate 60 all_goals try first
    | with_reducible assumption
    | with_reducible refine State.endPassTrap_keeps ?_
    | extract_lets
    | split
    | intro _
    | with_reducible refine Keeps.lit ?_
    | dsimp -zeta only

theorem State.ownRanges_keeps {r s : State} {a0} {a1} {a2} {a3} (h : Keeps r s) : Keeps r (State.ownRanges a0 a1 a2 a3 s).2 := by
  induction a2 generalizing s a0 a1 a3 with
  | nil => exact h
  | cons x l ih =>
    unfold State.ownRanges
    iterate 60 all_goals try first
    | with_reducible assumption
    | with_reducible refine ih ?_
    | with_reducible refine Keeps.ofEq ?_ (by with_reducible assumption)
    | with_reducible refine State.ownRange_keeps ?_
    | with_reducible refine Keeps.ofEq ?_ (by with_reducible assumption)
    | extract_lets
    | split
    | intro _
    | with_reducible refine Keeps.lit ?_
    | dsimp -zeta only

theorem State.mxLdwOp_keeps {r s : State} {a1} {a2} {a3} (h : Keeps r s) : Keeps r (State.mxLdwOp s a1 a2 a3) := by
  unfold State.mxLdwOp
  iterate 60 all_goals try first
    | with_reducible assumption
    | with_reducible refine State.mxFault_keeps ?_
    | with_reducible refine State.ownRanges_keeps ?_
    | with_reducible refine State.ownRead_keeps ?_
    | with_reducible refine State.updMxu_keeps ?_
    | with_reducible refine Keeps.ofEq ?_ (by with_reducible assumption)
    | with_reducible refine Keeps.foldl ?_ ?_
    | with_reducible refine Keeps.foldlSnd ?_ ?_
    | with_reducible refine Keeps.foldlFst ?_ ?_
    | extract_lets
    | split
    | intro _
    | with_reducible refine Keeps.lit ?_
    | dsimp -zeta only

theorem State.mxSwapOp_keeps {r s : State} {a1} (h : Keeps r s) : Keeps r (State.mxSwapOp s a1) := by
  unfold State.mxSwapOp
  iterate 60 all_goals try first
    | with_reducible assumption
    | with_reducible refine State.updMxu_keeps ?_
    | extract_lets
    | split
    | intro _
    | with_reducible refine Keeps.lit ?_
    | dsimp -zeta only

theorem State.mxZeroOp_keeps {r s : State} {a1} {a2} (h : Keeps r s) : Keeps r (State.mxZeroOp s a1 a2) := by
  unfold State.mxZeroOp
  iterate 60 all_goals try first
    | with_reducible assumption
    | with_reducible refine State.mxFault_keeps ?_
    | with_reducible refine State.updMxu_keeps ?_
    | with_reducible refine Keeps.foldl ?_ ?_
    | with_reducible refine Keeps.foldlSnd ?_ ?_
    | with_reducible refine Keeps.foldlFst ?_ ?_
    | extract_lets
    | split
    | intro _
    | with_reducible refine Keeps.lit ?_
    | dsimp -zeta only

theorem State.accumulate_keeps {r s : State} {a1} {a2} {a3} {a4} (h : Keeps r s) : Keeps r (State.accumulate s a1 a2 a3 a4) := by
  unfold State.accumulate
  iterate 60 all_goals try first
    | with_reducible assumption
    | with_reducible refine State.acmCheckRows_keeps ?_
    | with_reducible refine State.updMxu_keeps ?_
    | with_reducible refine Keeps.foldl ?_ ?_
    | with_reducible refine Keeps.foldlSnd ?_ ?_
    | with_reducible refine Keeps.foldlFst ?_ ?_
    | extract_lets
    | split
    | intro _
    | with_reducible refine Keeps.lit ?_
    | dsimp -zeta only

theorem State.runRow_keeps {r s : State} {a1} {a2} {a3} {a4} (h : Keeps r s) : Keeps r (State.runRow s a1 a2 a3 a4) := by
  unfold State.runRow
  iterate 60 all_goals try first
    | with_reducible assumption
    | with_reducible refine State.accumulate_keeps ?_
    | with_reducible refine State.ownRead_keeps ?_
    | with_reducible refine Keeps.ofEq ?_ (by with_reducible assumption)
    | extract_lets
    | split
    | intro _
    | with_reducible refine Keeps.lit ?_
    | dsimp -zeta only

theorem State.mxRunOp_keeps {r s : State} {a1} {a2} {a3} (h : Keeps r s) : Keeps r (State.mxRunOp s a1 a2 a3) := by
  unfold State.mxRunOp
  iterate 60 all_goals try first
    | with_reducible assumption
    | with_reducible refine State.mxFault_keeps ?_
    | with_reducible refine State.ownRanges_keeps ?_
    | with_reducible refine State.runRow_keeps ?_
    | with_reducible refine Keeps.ofEq ?_ (by with_reducible assumption)
    | with_reducible refine Keeps.foldl ?_ ?_
    | with_reducible refine Keeps.foldlSnd ?_ ?_
    | with_reducible refine Keeps.foldlFst ?_ ?_
    | extract_lets
    | split
    | intro _
    | with_reducible refine Keeps.lit ?_
    | dsimp -zeta only

theorem State.drainRow_keeps {r s : State} {a1} {a2} {a3} {a4} {a5} {a6} {a7} (h : Keeps r s) : Keeps r (State.drainRow s a1 a2 a3 a4 a5 a6 a7) := by
  unfold State.drainRow
  iterate 60 all_goals try first
    | with_reducible assumption
    | with_reducible refine State.acmCheckRows_keeps ?_
    | with_reducible refine State.ownWrite_keeps ?_
    | with_reducible refine State.updMxu_keeps ?_
    | with_reducible refine Keeps.foldl ?_ ?_
    | with_reducible refine Keeps.foldlSnd ?_ ?_
    | with_reducible refine Keeps.foldlFst ?_ ?_
    | extract_lets
    | split
    | intro _
    | with_reducible refine Keeps.lit ?_
    | dsimp -zeta only

theorem State.mxDrainOp_keeps {r s : State} {a1} {a2} {a3} {a4} (h : Keeps r s) : Keeps r (State.mxDrainOp s a1 a2 a3 a4) := by
  unfold State.mxDrainOp
  iterate 60 all_goals try first
    | with_reducible assumption
    | with_reducible refine State.drainRow_keeps ?_
    | with_reducible refine State.mxFault_keeps ?_
    | with_reducible refine State.ownRanges_keeps ?_
    | with_reducible refine State.tileFatal_keeps ?_
    | with_reducible refine State.updMxu_keeps ?_
    | with_reducible refine Keeps.ofEq ?_ (by with_reducible assumption)
    | with_reducible refine Keeps.foldl ?_ ?_
    | with_reducible refine Keeps.foldlSnd ?_ ?_
    | with_reducible refine Keeps.foldlFst ?_ ?_
    | extract_lets
    | split
    | intro _
    | with_reducible refine Keeps.getD (fun t e => ?_) ?_
    | with_reducible refine Keeps.lit ?_
    | dsimp -zeta only

theorem State.forEach_keeps {r s : State} {l f} (h : Keeps r s) (hf : ∀ n s, Keeps r s → Keeps r (f n s)) : Keeps r (s.forEach l f) :=
  Keeps.foldl h (fun s n => hf n s)

theorem State.atsTouch_keeps {r s : State} {a1} {a2} (h : Keeps r s) : Keeps r (State.atsTouch s a1 a2) := by
  unfold State.atsTouch
  iterate 60 all_goals try first
    | with_reducible assumption
    | extract_lets
    | split
    | intro _
    | with_reducible refine Keeps.litFatal ?_
    | with_reducible refine Keeps.lit ?_
    | dsimp -zeta only

theorem State.setPlant_keeps {r s : State} {a1} (h : Keeps r s) : Keeps r (State.setPlant s a1) := by
  unfold State.setPlant
  iterate 60 all_goals try first
    | with_reducible assumption
    | extract_lets
    | split
    | intro _
    | with_reducible refine Keeps.litFatal ?_
    | with_reducible refine Keeps.lit ?_
    | dsimp -zeta only

theorem State.loseDie_keeps {r s : State} {a1} {a2} (h : Keeps r s) : Keeps r (State.loseDie s a1 a2) := by
  unfold State.loseDie
  iterate 60 all_goals try first
    | with_reducible assumption
    | with_reducible refine State.failController_keeps ?_
    | with_reducible refine State.record_keeps ?_
    | with_reducible refine State.updHbm_keeps ?_
    | extract_lets
    | split
    | intro _
    | with_reducible refine Keeps.litFatal ?_
    | with_reducible refine Keeps.lit ?_
    | dsimp -zeta only

theorem State.paceWindow_keeps {r s : State} {a1} (h : Keeps r s) : Keeps r (State.paceWindow s a1) := by
  unfold State.paceWindow
  dsimp only
  iterate 60 all_goals try first
    | with_reducible assumption
    | with_reducible refine State.setPlant_keeps ?_
    | with_reducible refine Keeps.foldl ?_ ?_
    | with_reducible refine Keeps.foldlSnd ?_ ?_
    | with_reducible refine Keeps.foldlFst ?_ ?_
    | extract_lets
    | split
    | intro _
    | with_reducible refine Keeps.lit ?_
    | dsimp -zeta only

theorem State.profile_keeps {r s : State} (h : Keeps r s) : Keeps r (State.profile s) := by
  unfold State.profile
  iterate 60 all_goals try first
    | with_reducible assumption
    | extract_lets
    | split
    | intro _
    | with_reducible refine Keeps.litFatal ?_
    | with_reducible refine Keeps.lit ?_
    | dsimp -zeta only

theorem State.breakOver_keeps {r s : State} {a1} (h : Keeps r s) : Keeps r (State.breakOver s a1) := by
  unfold State.breakOver
  iterate 60 all_goals try first
    | with_reducible assumption
    | with_reducible refine State.breakHere_keeps ?_
    | with_reducible refine Keeps.foldl ?_ ?_
    | with_reducible refine Keeps.foldlSnd ?_ ?_
    | with_reducible refine Keeps.foldlFst ?_ ?_
    | extract_lets
    | split
    | intro _
    | with_reducible refine Keeps.lit ?_
    | dsimp -zeta only

theorem State.queueWrite_keeps {r s : State} {a1} {a2} {a3} {a4} (h : Keeps r s) : Keeps r (State.queueWrite s a1 a2 a3 a4) := by
  unfold State.queueWrite
  iterate 60 all_goals try first
    | with_reducible assumption
    | with_reducible refine State.atsTouch_keeps ?_
    | with_reducible refine State.emit_keeps ?_
    | with_reducible refine State.range_keeps ?_
    | with_reducible refine State.writeExtents_keeps ?_
    | with_reducible refine Keeps.ofEq ?_ (by with_reducible assumption)
    | extract_lets
    | split
    | intro _
    | with_reducible refine Keeps.lit ?_
    | dsimp -zeta only

theorem State.cqPut_keeps {r s : State} {a1} {a2} {a3} (h : Keeps r s) : Keeps r (State.cqPut s a1 a2 a3) := by
  unfold State.cqPut
  iterate 60 all_goals try first
    | with_reducible assumption
    | with_reducible refine State.msix_keeps ?_
    | with_reducible refine State.queueWrite_keeps ?_
    | with_reducible refine State.updPart_keeps ?_
    | extract_lets
    | split
    | intro _
    | with_reducible refine Keeps.lit ?_
    | dsimp -zeta only

theorem State.postAnswers_keeps {r s : State} {a0} {a1} (h : Keeps r s) : Keeps r (State.postAnswers a0 a1 s) := by
  induction a0 generalizing s a1 with
  | zero => exact h
  | succ k ih =>
    unfold State.postAnswers
    iterate 60 all_goals try first
    | with_reducible assumption
    | with_reducible refine ih ?_
    | with_reducible refine State.cqPut_keeps ?_
    | with_reducible refine State.updPart_keeps ?_
    | extract_lets
    | split
    | intro _
    | with_reducible refine Keeps.lit ?_
    | dsimp -zeta only

theorem State.answerReq_keeps {r s : State} {a1} {a2} {a3} {a4} {a5} (h : Keeps r s) : Keeps r (State.answerReq s a1 a2 a3 a4 a5) := by
  unfold State.answerReq
  iterate 60 all_goals try first
    | with_reducible assumption
    | with_reducible refine State.postAnswers_keeps ?_
    | with_reducible refine State.updPart_keeps ?_
    | extract_lets
    | split
    | intro _
    | with_reducible refine Keeps.lit ?_
    | dsimp -zeta only

theorem State.journal_keeps {r s : State} {a1} {a2} {a3} (h : Keeps r s) : Keeps r (State.journal s a1 a2 a3) := by
  unfold State.journal
  iterate 60 all_goals try first
    | with_reducible assumption
    | with_reducible refine State.updTile_keeps ?_
    | with_reducible refine Keeps.foldl ?_ ?_
    | with_reducible refine Keeps.foldlSnd ?_ ?_
    | with_reducible refine Keeps.foldlFst ?_ ?_
    | extract_lets
    | split
    | intro _
    | with_reducible refine Keeps.lit ?_
    | dsimp -zeta only

theorem State.freeEntry_keeps {r s : State} {a1} (h : Keeps r s) : Keeps r (State.freeEntry s a1) := by
  unfold State.freeEntry
  iterate 60 all_goals try first
    | with_reducible assumption
    | with_reducible refine State.setLed_keeps ?_
    | with_reducible refine State.unbind_keeps ?_
    | extract_lets
    | split
    | intro _
    | with_reducible refine Keeps.lit ?_
    | dsimp -zeta only

theorem State.postLedger_keeps {r s : State} {a1} (h : Keeps r s) : Keeps r (State.postLedger s a1) := by
  unfold State.postLedger
  iterate 60 all_goals try first
    | with_reducible assumption
    | with_reducible refine State.cqPut_keeps ?_
    | with_reducible refine State.freeEntry_keeps ?_
    | with_reducible refine State.journal_keeps ?_
    | with_reducible refine State.setLed_keeps ?_
    | extract_lets
    | split
    | intro _
    | with_reducible refine Keeps.lit ?_
    | dsimp -zeta only

theorem State.dealRanks_keeps {r s : State} {a1} {a2} {a3} (h : Keeps r s) : Keeps r (State.dealRanks s a1 a2 a3) := by
  unfold State.dealRanks
  iterate 60 all_goals try first
    | with_reducible assumption
    | with_reducible refine State.updTile_keeps ?_
    | with_reducible refine Keeps.foldl ?_ ?_
    | with_reducible refine Keeps.foldlSnd ?_ ?_
    | with_reducible refine Keeps.foldlFst ?_ ?_
    | extract_lets
    | split
    | intro _
    | with_reducible refine Keeps.lit ?_
    | dsimp -zeta only

theorem State.readMoves_keeps {r s : State} {a0} {a1} {a2} {a3} {a4} (h : Keeps r s) : Keeps r (State.readMoves a0 a1 a2 a3 a4 s).2 := by
  induction a2 generalizing s a0 a1 a3 a4 with
  | zero => exact h
  | succ k ih =>
    unfold State.readMoves
    iterate 60 all_goals try first
    | with_reducible assumption
    | with_reducible refine ih ?_
    | with_reducible refine Keeps.ofEq ?_ (by with_reducible assumption)
    | with_reducible refine State.range_keeps ?_
    | with_reducible refine State.readExtents_keeps ?_
    | with_reducible refine Keeps.ofEq ?_ (by with_reducible assumption)
    | extract_lets
    | split
    | intro _
    | with_reducible refine Keeps.lit ?_
    | dsimp -zeta only

theorem State.transRange_keeps {r s : State} {a1} {a2} {a3} {a4} {a5} (h : Keeps r s) : Keeps r (State.transRange s a1 a2 a3 a4 a5).2 := by
  unfold State.transRange
  iterate 60 all_goals try first
    | with_reducible assumption
    | with_reducible refine State.range_keeps ?_
    | with_reducible refine Keeps.ofEq ?_ (by with_reducible assumption)
    | extract_lets
    | split
    | intro _
    | with_reducible refine Keeps.lit ?_
    | dsimp -zeta only

theorem State.transSide_keeps {r s : State} {a1} {a2} {a3} {a4} {a5} {a6} {a7} (h : Keeps r s) : Keeps r (State.transSide s a1 a2 a3 a4 a5 a6 a7).2 := by
  unfold State.transSide
  iterate 60 all_goals try first
    | with_reducible assumption
    | with_reducible refine State.transRange_keeps ?_
    | with_reducible refine Keeps.ofEq ?_ (by with_reducible assumption)
    | extract_lets
    | split
    | intro _
    | with_reducible refine Keeps.lit ?_
    | dsimp -zeta only

theorem State.transMoves_keeps {r s : State} {a0} {a1} {a2} {a3} {a4} (h : Keeps r s) : Keeps r (State.transMoves a0 a1 a2 a3 a4 s).2 := by
  induction a2 generalizing s a0 a1 a3 a4 with
  | nil => exact h
  | cons x l ih =>
    unfold State.transMoves
    iterate 60 all_goals try first
    | with_reducible assumption
    | with_reducible refine ih ?_
    | with_reducible refine Keeps.ofEq ?_ (by with_reducible assumption)
    | with_reducible refine State.transSide_keeps ?_
    | with_reducible refine Keeps.ofEq ?_ (by with_reducible assumption)
    | extract_lets
    | split
    | intro _
    | with_reducible refine Keeps.lit ?_
    | dsimp -zeta only

theorem State.transList_keeps {r s : State} {a1} {a2} {a3} {a4} {a5} {a6} (h : Keeps r s) : Keeps r (State.transList s a1 a2 a3 a4 a5 a6).2 := by
  unfold State.transList
  iterate 60 all_goals try first
    | with_reducible assumption
    | with_reducible refine State.transMoves_keeps ?_
    | with_reducible refine State.transRange_keeps ?_
    | with_reducible refine Keeps.ofEq ?_ (by with_reducible assumption)
    | extract_lets
    | split
    | intro _
    | with_reducible refine Keeps.lit ?_
    | dsimp -zeta only

theorem State.transAll_keeps {r s : State} {a1} {a2} {a3} {a4} {a5} {a6} {a7} (h : Keeps r s) : Keeps r (State.transAll s a1 a2 a3 a4 a5 a6 a7).2 := by
  unfold State.transAll
  iterate 60 all_goals try first
    | with_reducible assumption
    | with_reducible refine State.readMoves_keeps ?_
    | with_reducible refine State.transList_keeps ?_
    | with_reducible refine Keeps.ofEq ?_ (by with_reducible assumption)
    | extract_lets
    | split
    | intro _
    | with_reducible refine Keeps.lit ?_
    | dsimp -zeta only

theorem State.runMoves_keeps {r s : State} {a1} {a2} {a3} {a4} (h : Keeps r s) : Keeps r (State.runMoves s a1 a2 a3 a4).2 := by
  induction a4 generalizing s a1 a2 a3 with
  | nil => exact h
  | cons x l ih =>
    unfold State.runMoves
    iterate 60 all_goals try first
    | with_reducible assumption
    | with_reducible refine ih ?_
    | with_reducible refine Keeps.ofEq ?_ (by with_reducible assumption)
    | with_reducible refine State.moverReadAll_keeps ?_
    | with_reducible refine State.moverWriteAll_keeps ?_
    | with_reducible refine State.readExtents_keeps ?_
    | with_reducible refine State.writeExtents_keeps ?_
    | with_reducible refine Keeps.ofEq ?_ (by with_reducible assumption)
    | extract_lets
    | split
    | intro _
    | with_reducible refine Keeps.lit ?_
    | dsimp -zeta only

theorem State.runPhase_keeps {r s : State} {a1} {a2} (h : Keeps r s) : Keeps r (State.runPhase s a1 a2).2 := by
  unfold State.runPhase
  iterate 60 all_goals try first
    | with_reducible assumption
    | with_reducible refine State.runMoves_keeps ?_
    | with_reducible refine Keeps.ofEq ?_ (by with_reducible assumption)
    | extract_lets
    | split
    | intro _
    | with_reducible refine Keeps.lit ?_
    | dsimp -zeta only

theorem State.closeStream_keeps {r s : State} {a1} {a2} {a3} {a4} (h : Keeps r s) : Keeps r (State.closeStream s a1 a2 a3 a4) := by
  unfold State.closeStream
  iterate 60 all_goals try first
    | with_reducible assumption
    | with_reducible refine State.answerReq_keeps ?_
    | with_reducible refine State.endRequest_keeps ?_
    | with_reducible refine State.updLed_keeps ?_
    | extract_lets
    | split
    | intro _
    | with_reducible refine Keeps.lit ?_
    | dsimp -zeta only

theorem State.bindRegion_keeps {r s : State} {a1} (h : Keeps r s) : Keeps r (State.bindRegion s a1) := by
  unfold State.bindRegion
  iterate 60 all_goals try first
    | with_reducible assumption
    | with_reducible refine State.updRegion_keeps ?_
    | extract_lets
    | split
    | intro _
    | with_reducible refine Keeps.lit ?_
    | dsimp -zeta only

theorem State.joinMoves_keeps {r s : State} {a1} {a2} {a3} (h : Keeps r s) : Keeps r (State.joinMoves s a1 a2 a3) := by
  unfold State.joinMoves
  iterate 60 all_goals try first
    | with_reducible assumption
    | with_reducible refine State.updPart_keeps ?_
    | extract_lets
    | split
    | intro _
    | with_reducible refine Keeps.lit ?_
    | dsimp -zeta only

theorem State.admitRoom_keeps {r s : State} {a1} {a2} {a3} {a4} (h : Keeps r s) : Keeps r (State.admitRoom s a1 a2 a3 a4) := by
  unfold State.admitRoom
  dsimp only
  iterate 60 all_goals try first
    | with_reducible assumption
    | with_reducible refine State.answerReq_keeps ?_
    | with_reducible refine State.bindRegion_keeps ?_
    | with_reducible refine State.dealRanks_keeps ?_
    | with_reducible refine State.joinMoves_keeps ?_
    | with_reducible refine State.setLed_keeps ?_
    | with_reducible refine State.transAll_keeps ?_
    | with_reducible refine Keeps.ofEq ?_ (by with_reducible assumption)
    | extract_lets
    | split
    | intro _
    | with_reducible refine Keeps.lit ?_
    | dsimp -zeta only

theorem State.admitEntry_keeps {r s : State} {a1} {a2} {a3} (h : Keeps r s) : Keeps r (State.admitEntry s a1 a2 a3) := by
  unfold State.admitEntry
  iterate 60 all_goals try first
    | with_reducible assumption
    | with_reducible refine State.admitRoom_keeps ?_
    | with_reducible refine State.answerReq_keeps ?_
    | with_reducible refine State.closeStream_keeps ?_
    | extract_lets
    | split
    | intro _
    | with_reducible refine Keeps.lit ?_
    | dsimp -zeta only

theorem State.sqEntry_keeps {r s : State} {a1} {a2} {a3} (h : Keeps r s) : Keeps r (State.sqEntry s a1 a2 a3).2 := by
  unfold State.sqEntry
  iterate 60 all_goals try first
    | with_reducible assumption
    | with_reducible refine State.atsTouch_keeps ?_
    | with_reducible refine State.range_keeps ?_
    | with_reducible refine State.readExtents_keeps ?_
    | with_reducible refine Keeps.ofEq ?_ (by with_reducible assumption)
    | extract_lets
    | split
    | intro _
    | with_reducible refine Keeps.lit ?_
    | dsimp -zeta only

theorem State.takeEntry_keeps_of_eq {r s t : State} {n g q e} (h : Keeps r s) (k : s.takeEntry n g = some (q, e, t)) : Keeps r t := by
  unfold State.takeEntry at k
  repeat' split at k
  all_goals simp only [reduceCtorEq, Option.some.injEq, Prod.mk.injEq] at k
  all_goals
    obtain ⟨-, -, rfl⟩ := k
    exact State.updPart_keeps (Keeps.ofEq (State.sqEntry_keeps h) (by assumption))

theorem State.ledgerEcc_keeps {r s : State} {a1} (h : Keeps r s) : Keeps r (State.ledgerEcc s a1) := by
  unfold State.ledgerEcc
  iterate 60 all_goals try first
    | with_reducible assumption
    | with_reducible refine State.devFatal_keeps ?_
    | with_reducible refine State.partFatal_keeps ?_
    | with_reducible refine State.record_keeps ?_
    | extract_lets
    | split
    | intro _
    | with_reducible refine Keeps.lit ?_
    | dsimp -zeta only

theorem State.submit_keeps {r s : State} {a1} {a2} {a3} {a4} (h : Keeps r s) : Keeps r (State.submit s a1 a2 a3 a4) := by
  unfold State.submit
  iterate 60 all_goals try first
    | with_reducible assumption
    | with_reducible refine State.admitEntry_keeps ?_
    | with_reducible refine State.takeEntry_keeps_of_eq ?_ (by with_reducible assumption)
    | with_reducible refine State.updPart_keeps ?_
    | extract_lets
    | split
    | intro _
    | with_reducible refine Keeps.lit ?_
    | dsimp -zeta only

theorem State.windowApply_keeps {r s : State} {a1} (h : Keeps r s) : Keeps r (State.windowApply s a1) := by
  unfold State.windowApply
  iterate 60 all_goals try first
    | with_reducible assumption
    | with_reducible refine State.admitEntry_keeps ?_
    | with_reducible refine State.forEach_keeps ?_ ?_
    | with_reducible refine State.postAnswers_keeps ?_
    | with_reducible refine State.postLedger_keeps ?_
    | with_reducible refine State.updPart_keeps ?_
    | extract_lets
    | split
    | intro _
    | with_reducible refine Keeps.lit ?_
    | dsimp -zeta only

theorem State.retranslate_keeps {r s : State} {a1} (h : Keeps r s) : Keeps r (State.retranslate s a1).2 := by
  unfold State.retranslate
  iterate 60 all_goals try first
    | with_reducible assumption
    | with_reducible refine State.setLed_keeps ?_
    | with_reducible refine State.transList_keeps ?_
    | with_reducible refine Keeps.ofEq ?_ (by with_reducible assumption)
    | extract_lets
    | split
    | intro _
    | with_reducible refine Keeps.lit ?_
    | dsimp -zeta only

theorem State.firstDispatch_keeps {r s : State} {a1} {a2} (h : Keeps r s) : Keeps r (State.firstDispatch s a1 a2) := by
  unfold State.firstDispatch
  iterate 60 all_goals try first
    | with_reducible assumption
    | with_reducible refine State.endRequest_keeps ?_
    | with_reducible refine State.retranslate_keeps ?_
    | with_reducible refine State.runPhase_keeps ?_
    | with_reducible refine State.updLed_keeps ?_
    | with_reducible refine Keeps.ofEq ?_ (by with_reducible assumption)
    | extract_lets
    | split
    | intro _
    | with_reducible refine Keeps.lit ?_
    | dsimp -zeta only

theorem State.stopQueue_keeps {r s : State} {a1} {a2} {a3} (h : Keeps r s) : Keeps r (State.stopQueue s a1 a2 a3) := by
  unfold State.stopQueue
  iterate 60 all_goals try first
    | with_reducible assumption
    | with_reducible refine State.event_keeps ?_
    | with_reducible refine State.forEach_keeps ?_ ?_
    | with_reducible refine State.freeEntry_keeps ?_
    | with_reducible refine State.record_keeps ?_
    | with_reducible refine State.updPart_keeps ?_
    | with_reducible refine Keeps.foldl ?_ ?_
    | with_reducible refine Keeps.foldlSnd ?_ ?_
    | with_reducible refine Keeps.foldlFst ?_ ?_
    | extract_lets
    | split
    | intro _
    | with_reducible refine Keeps.lit ?_
    | dsimp -zeta only

theorem State.enterConf_keeps {r s : State} {a1} (h : Keeps r s) : Keeps r (State.enterConf s a1) := by
  unfold State.enterConf
  iterate 60 all_goals try first
    | with_reducible assumption
    | with_reducible refine State.lsClear_keeps ?_
    | with_reducible refine State.partChange_keeps ?_ ?_
    | with_reducible refine State.updPart_keeps ?_
    | with_reducible refine State.updTile_keeps ?_
    | with_reducible refine State.zeroHbm_keeps ?_
    | with_reducible refine Keeps.foldl ?_ ?_
    | with_reducible refine Keeps.foldlSnd ?_ ?_
    | with_reducible refine Keeps.foldlFst ?_ ?_
    | extract_lets
    | split
    | intro _
    | with_reducible refine Keeps.litFatal ?_
    | with_reducible refine Keeps.lit ?_
    | dsimp -zeta only

theorem State.jobLate_keeps {r s : State} {a1} {a2} (h : Keeps r s) : Keeps r (State.jobLate s a1 a2) := by
  unfold State.jobLate
  iterate 60 all_goals try first
    | with_reducible assumption
    | with_reducible refine State.commandDone_keeps ?_
    | with_reducible refine State.updPart_keeps ?_
    | extract_lets
    | split
    | intro _
    | with_reducible refine Keeps.lit ?_
    | dsimp -zeta only

theorem State.runJob_keeps {r s : State} {a1} {a2} (h : Keeps r s) : Keeps r (State.runJob s a1 a2) := by
  unfold State.runJob
  iterate 60 all_goals try first
    | with_reducible assumption
    | with_reducible refine State.commandDone_keeps ?_
    | with_reducible refine State.enterConf_keeps ?_
    | with_reducible refine State.jobLate_keeps ?_
    | with_reducible refine State.partChange_keeps ?_ ?_
    | with_reducible refine State.updPart_keeps ?_
    | extract_lets
    | split
    | intro _
    | with_reducible refine Keeps.litFatal ?_
    | with_reducible refine Keeps.lit ?_
    | dsimp -zeta only

theorem State.quietPoint_keeps {r s : State} {a1} (h : Keeps r s) : Keeps r (State.quietPoint s a1) := by
  unfold State.quietPoint
  iterate 60 all_goals try first
    | with_reducible assumption
    | with_reducible refine State.applyKey_keeps ?_
    | with_reducible refine State.checkWait_keeps ?_
    | with_reducible refine State.runJob_keeps ?_
    | with_reducible refine State.updPart_keeps ?_
    | with_reducible refine Keeps.foldl ?_ ?_
    | with_reducible refine Keeps.foldlSnd ?_ ?_
    | with_reducible refine Keeps.foldlFst ?_ ?_
    | extract_lets
    | split
    | intro _
    | with_reducible refine Keeps.lit ?_
    | dsimp -zeta only

theorem State.addJob_keeps {r s : State} {a1} {a2} (h : Keeps r s) : Keeps r (State.addJob s a1 a2) := by
  unfold State.addJob
  iterate 60 all_goals try first
    | with_reducible assumption
    | with_reducible refine State.quietPoint_keeps ?_
    | with_reducible refine State.updPart_keeps ?_
    | extract_lets
    | split
    | intro _
    | with_reducible refine Keeps.lit ?_
    | dsimp -zeta only

theorem State.timeoutJob_keeps {r s : State} {a1} {a2} (h : Keeps r s) : Keeps r (State.timeoutJob s a1 a2) := by
  unfold State.timeoutJob
  iterate 60 all_goals try first
    | with_reducible assumption
    | with_reducible refine State.atLeast_keeps ?_
    | with_reducible refine State.jobLate_keeps ?_
    | with_reducible refine State.quietPoint_keeps ?_
    | extract_lets
    | split
    | intro _
    | with_reducible refine Keeps.lit ?_
    | dsimp -zeta only

theorem State.timeoutWait_keeps {r s : State} {a1} {a2} (h : Keeps r s) : Keeps r (State.timeoutWait s a1 a2) := by
  unfold State.timeoutWait
  iterate 60 all_goals try first
    | with_reducible assumption
    | with_reducible refine State.atLeast_keeps ?_
    | with_reducible refine State.checkWait_keeps ?_
    | with_reducible refine State.waitLate_keeps ?_
    | extract_lets
    | split
    | intro _
    | with_reducible refine Keeps.lit ?_
    | dsimp -zeta only

theorem State.orphan_keeps {r s : State} {n k} (h : Keeps r s) : Keeps r (s.orphan n k) := by
  refine State.setTasks_keeps ?_
  refine ⟨fun c => ?_, h.2.1, h.2.2⟩
  have d := h.1 c
  exact ⟨d.mem, d.tiles, d.parts, d.hbm, d.arbs, d.links, d.ledger, SMap.wf_mapFilter (Region.orphan n k) d.regions, d.mbx, d.fatals, d.ring⟩

theorem State.restartRoot_keeps {r s : State} {a1} (h : Keeps r s) : Keeps r (State.restartRoot s a1) := by
  unfold State.restartRoot
  iterate 60 all_goals try first
    | with_reducible assumption
    | with_reducible refine State.releaseRoot_keeps ?_
    | with_reducible refine State.updPart_keeps ?_
    | extract_lets
    | split
    | intro _
    | with_reducible refine Keeps.lit ?_
    | dsimp -zeta only

theorem State.postOut_keeps {r s : State} {a1} (h : Keeps r s) : Keeps r (State.postOut s a1) := by
  unfold State.postOut
  iterate 60 all_goals try first
    | with_reducible assumption
    | with_reducible refine State.postAnswers_keeps ?_
    | with_reducible refine State.postLedger_keeps ?_
    | with_reducible refine Keeps.foldl ?_ ?_
    | with_reducible refine Keeps.foldlSnd ?_ ?_
    | with_reducible refine Keeps.foldlFst ?_ ?_
    | extract_lets
    | split
    | intro _
    | with_reducible refine Keeps.lit ?_
    | dsimp -zeta only

theorem State.beginRestart_keeps {r s : State} {a1} {a2} {a3} (h : Keeps r s) : Keeps r (State.beginRestart s a1 a2 a3) := by
  unfold State.beginRestart
  iterate 60 all_goals try first
    | with_reducible assumption
    | with_reducible refine State.checkWait_keeps ?_
    | with_reducible refine State.endWork_keeps ?_
    | with_reducible refine State.orphan_keeps ?_
    | with_reducible refine State.partChange_keeps ?_ ?_
    | with_reducible refine State.postOut_keeps ?_
    | with_reducible refine State.restartRoot_keeps ?_
    | with_reducible refine State.setLed_keeps ?_
    | with_reducible refine State.stopTiles_keeps ?_
    | with_reducible refine State.updBox_keeps ?_
    | with_reducible refine State.updPart_keeps ?_
    | with_reducible refine State.updTile_keeps ?_
    | with_reducible refine Keeps.foldl ?_ ?_
    | with_reducible refine Keeps.foldlSnd ?_ ?_
    | with_reducible refine Keeps.foldlFst ?_ ?_
    | extract_lets
    | split
    | intro _
    | with_reducible refine Keeps.lit ?_
    | dsimp -zeta only

theorem State.resetVf_keeps {r s : State} {a1} (h : Keeps r s) : Keeps r (State.resetVf s a1) := by
  unfold State.resetVf
  iterate 60 all_goals try first
    | with_reducible assumption
    | with_reducible refine State.setTasks_keeps ?_
    | with_reducible refine State.updResponder_keeps ?_
    | extract_lets
    | split
    | intro _
    | with_reducible refine Keeps.litFatal ?_
    | with_reducible refine Keeps.lit ?_
    | dsimp -zeta only

theorem State.clearPoison_keeps {r s : State} {a1} (h : Keeps r s) : Keeps r (State.clearPoison s a1) := by
  unfold State.clearPoison
  iterate 60 all_goals try first
    | with_reducible assumption
    | with_reducible refine State.writeLine_keeps ?_
    | with_reducible refine Keeps.foldl ?_ ?_
    | with_reducible refine Keeps.foldlSnd ?_ ?_
    | with_reducible refine Keeps.foldlFst ?_ ?_
    | extract_lets
    | split
    | intro _
    | with_reducible refine Keeps.lit ?_
    | dsimp -zeta only

theorem State.reviveTile_keeps {r s : State} {a1} {a2} (h : Keeps r s) : Keeps r (State.reviveTile s a1 a2) := by
  unfold State.reviveTile
  iterate 60 all_goals try first
    | with_reducible assumption
    | with_reducible refine State.clearTile_keeps ?_
    | with_reducible refine State.updTile_keeps ?_
    | extract_lets
    | split
    | intro _
    | with_reducible refine Keeps.lit ?_
    | dsimp -zeta only

theorem State.finishRestart_keeps {r s : State} {a1} {a2} (h : Keeps r s) : Keeps r (State.finishRestart s a1 a2) := by
  unfold State.finishRestart
  iterate 60 all_goals try first
    | with_reducible assumption
    | with_reducible refine State.commandDone_keeps ?_
    | with_reducible refine State.partChange_keeps ?_ ?_
    | with_reducible refine State.tdiError_keeps ?_
    | with_reducible refine State.updPart_keeps ?_
    | extract_lets
    | split
    | intro _
    | with_reducible refine Keeps.litFatal ?_
    | with_reducible refine Keeps.lit ?_
    | dsimp -zeta only

theorem State.fatalNote_keeps {r s : State} {a1} {a2} (h : Keeps r s) : Keeps r (State.fatalNote s a1 a2) := by
  unfold State.fatalNote
  iterate 60 all_goals try first
    | with_reducible assumption
    | with_reducible refine State.record_keeps ?_
    | with_reducible refine State.updPart_keeps ?_
    | extract_lets
    | split
    | intro _
    | with_reducible refine Keeps.lit ?_
    | dsimp -zeta only

theorem State.updTsu_keeps {r s : State} {a1} {a2} (h : Keeps r s) : Keeps r (State.updTsu s a1 a2) := by
  unfold State.updTsu
  iterate 60 all_goals try first
    | with_reducible assumption
    | with_reducible refine State.updTile_keeps ?_
    | extract_lets
    | split
    | intro _
    | with_reducible refine Keeps.lit ?_
    | dsimp -zeta only

theorem State.setX_keeps {r s : State} {a1} {a2} {a3} (h : Keeps r s) : Keeps r (State.setX s a1 a2 a3) := by
  unfold State.setX
  iterate 60 all_goals try first
    | with_reducible assumption
    | with_reducible refine State.updTsu_keeps ?_
    | extract_lets
    | split
    | intro _
    | with_reducible refine Keeps.lit ?_
    | dsimp -zeta only

theorem State.setF_keeps {r s : State} {a1} {a2} {a3} (h : Keeps r s) : Keeps r (State.setF s a1 a2 a3) := by
  unfold State.setF
  iterate 60 all_goals try first
    | with_reducible assumption
    | with_reducible refine State.updTsu_keeps ?_
    | extract_lets
    | split
    | intro _
    | with_reducible refine Keeps.lit ?_
    | dsimp -zeta only

theorem State.trapT_keeps {r s : State} {a1} {a2} {a3} (h : Keeps r s) : Keeps r (State.trapT s a1 a2 a3) := by
  unfold State.trapT
  iterate 60 all_goals try first
    | with_reducible assumption
    | with_reducible refine State.endPassTrap_keeps ?_
    | with_reducible refine State.updTsu_keeps ?_
    | extract_lets
    | split
    | intro _
    | with_reducible refine Keeps.lit ?_
    | dsimp -zeta only

theorem State.stepped_keeps {r s : State} {a1} {a2} {a3} {a4} (h : Keeps r s) : Keeps r (State.stepped s a1 a2 a3 a4) := by
  unfold State.stepped
  iterate 60 all_goals try first
    | with_reducible assumption
    | with_reducible refine State.updTile_keeps ?_
    | extract_lets
    | split
    | intro _
    | with_reducible refine Keeps.lit ?_
    | dsimp -zeta only

theorem State.setvlOp_keeps {r s : State} {a1} {a2} (h : Keeps r s) : Keeps r (State.setvlOp s a1 a2) := by
  unfold State.setvlOp
  iterate 60 all_goals try first
    | with_reducible assumption
    | with_reducible refine State.updLvu_keeps ?_
    | extract_lets
    | split
    | intro _
    | with_reducible refine Keeps.lit ?_
    | dsimp -zeta only

theorem State.vgetvlOp_keeps {r s : State} {a1} {a2} (h : Keeps r s) : Keeps r (State.vgetvlOp s a1 a2) := by
  unfold State.vgetvlOp
  iterate 60 all_goals try first
    | with_reducible assumption
    | with_reducible refine State.setX_keeps ?_
    | extract_lets
    | split
    | intro _
    | with_reducible refine Keeps.lit ?_
    | dsimp -zeta only

theorem State.vecTrans_keeps {r s : State} {a0} {a1} {a2} {a3} {a4} (h : Keeps r s) : Keeps r (State.vecTrans a0 a1 a2 a3 a4 s).2 := by
  induction a3 generalizing s a0 a1 a2 a4 with
  | nil => exact h
  | cons x l ih =>
    unfold State.vecTrans
    iterate 60 all_goals try first
    | with_reducible assumption
    | with_reducible refine ih ?_
    | with_reducible refine Keeps.ofEq ?_ (by with_reducible assumption)
    | with_reducible refine State.translateT_keeps ?_
    | with_reducible refine Keeps.ofEq ?_ (by with_reducible assumption)
    | extract_lets
    | split
    | intro _
    | with_reducible refine Keeps.lit ?_
    | dsimp -zeta only

theorem State.vecRead_keeps {r s : State} {a0} {a1} {a2} {a3} (h : Keeps r s) : Keeps r (State.vecRead a0 a1 a2 a3 s).2 := by
  induction a2 generalizing s a0 a1 a3 with
  | nil => exact h
  | cons x l ih =>
    unfold State.vecRead
    iterate 60 all_goals try first
    | with_reducible assumption
    | with_reducible refine ih ?_
    | with_reducible refine Keeps.ofEq ?_ (by with_reducible assumption)
    | with_reducible refine State.loadPa_keeps ?_
    | with_reducible refine Keeps.ofEq ?_ (by with_reducible assumption)
    | extract_lets
    | split
    | intro _
    | with_reducible refine Keeps.lit ?_
    | dsimp -zeta only

theorem State.vecLoad_keeps {r s : State} {a1} {a2} {a3} (h : Keeps r s) : Keeps r (State.vecLoad s a1 a2 a3) := by
  unfold State.vecLoad
  iterate 60 all_goals try first
    | with_reducible assumption
    | with_reducible refine State.updLvu_keeps ?_
    | with_reducible refine State.vecFault_keeps ?_
    | with_reducible refine State.vecRead_keeps ?_
    | with_reducible refine Keeps.ofEq ?_ (by with_reducible assumption)
    | extract_lets
    | split
    | intro _
    | with_reducible refine Keeps.lit ?_
    | dsimp -zeta only

theorem State.vecLoadAt_keeps {r s : State} {a1} {a2} {a3} (h : Keeps r s) : Keeps r (State.vecLoadAt s a1 a2 a3) := by
  unfold State.vecLoadAt
  iterate 60 all_goals try first
    | with_reducible assumption
    | with_reducible refine State.vecFault_keeps ?_
    | with_reducible refine State.vecLoad_keeps ?_
    | with_reducible refine State.vecTrans_keeps ?_
    | with_reducible refine Keeps.ofEq ?_ (by with_reducible assumption)
    | extract_lets
    | split
    | intro _
    | with_reducible refine Keeps.lit ?_
    | dsimp -zeta only

theorem State.vldOp_keeps {r s : State} {a1} {a2} (h : Keeps r s) : Keeps r (State.vldOp s a1 a2) := by
  unfold State.vldOp
  iterate 60 all_goals try first
    | with_reducible assumption
    | with_reducible refine State.vecLoadAt_keeps ?_
    | extract_lets
    | split
    | intro _
    | with_reducible refine Keeps.lit ?_
    | dsimp -zeta only

theorem State.vlduOp_keeps {r s : State} {a1} {a2} (h : Keeps r s) : Keeps r (State.vlduOp s a1 a2) := by
  unfold State.vlduOp
  iterate 60 all_goals try first
    | with_reducible assumption
    | with_reducible refine State.vecLoadAt_keeps ?_
    | extract_lets
    | split
    | intro _
    | with_reducible refine Keeps.lit ?_
    | dsimp -zeta only

theorem State.vldFfOp_keeps {r s : State} {a1} {a2} (h : Keeps r s) : Keeps r (State.vldFfOp s a1 a2) := by
  unfold State.vldFfOp
  iterate 60 all_goals try first
    | with_reducible assumption
    | with_reducible refine State.updLvu_keeps ?_
    | with_reducible refine State.vecFault_keeps ?_
    | with_reducible refine State.vecLoad_keeps ?_
    | with_reducible refine State.vecTrans_keeps ?_
    | with_reducible refine Keeps.ofEq ?_ (by with_reducible assumption)
    | extract_lets
    | split
    | intro _
    | with_reducible refine Keeps.lit ?_
    | dsimp -zeta only

theorem State.vlxOp_keeps {r s : State} {a1} {a2} (h : Keeps r s) : Keeps r (State.vlxOp s a1 a2) := by
  unfold State.vlxOp
  iterate 60 all_goals try first
    | with_reducible assumption
    | with_reducible refine State.vecLoadAt_keeps ?_
    | extract_lets
    | split
    | intro _
    | with_reducible refine Keeps.lit ?_
    | dsimp -zeta only

theorem State.vecStore_keeps {r s : State} {a1} {a2} (h : Keeps r s) : Keeps r (State.vecStore s a1 a2) := by
  unfold State.vecStore
  iterate 60 all_goals try first
    | with_reducible assumption
    | with_reducible refine State.storePa_keeps ?_
    | with_reducible refine Keeps.foldl ?_ ?_
    | with_reducible refine Keeps.foldlSnd ?_ ?_
    | with_reducible refine Keeps.foldlFst ?_ ?_
    | extract_lets
    | split
    | intro _
    | with_reducible refine Keeps.lit ?_
    | dsimp -zeta only

theorem State.vecStoreAt_keeps {r s : State} {a1} {a2} {a3} {a4} (h : Keeps r s) : Keeps r (State.vecStoreAt s a1 a2 a3 a4) := by
  unfold State.vecStoreAt
  iterate 60 all_goals try first
    | with_reducible assumption
    | with_reducible refine State.vecFault_keeps ?_
    | with_reducible refine State.vecStore_keeps ?_
    | with_reducible refine State.vecTrans_keeps ?_
    | with_reducible refine Keeps.ofEq ?_ (by with_reducible assumption)
    | extract_lets
    | split
    | intro _
    | with_reducible refine Keeps.lit ?_
    | dsimp -zeta only

theorem State.vstOp_keeps {r s : State} {a1} {a2} (h : Keeps r s) : Keeps r (State.vstOp s a1 a2) := by
  unfold State.vstOp
  iterate 60 all_goals try first
    | with_reducible assumption
    | with_reducible refine State.vecStoreAt_keeps ?_
    | extract_lets
    | split
    | intro _
    | with_reducible refine Keeps.lit ?_
    | dsimp -zeta only

theorem State.vstuOp_keeps {r s : State} {a1} {a2} (h : Keeps r s) : Keeps r (State.vstuOp s a1 a2) := by
  unfold State.vstuOp
  iterate 60 all_goals try first
    | with_reducible assumption
    | with_reducible refine State.vecStoreAt_keeps ?_
    | extract_lets
    | split
    | intro _
    | with_reducible refine Keeps.lit ?_
    | dsimp -zeta only

theorem State.vsxOp_keeps {r s : State} {a1} {a2} (h : Keeps r s) : Keeps r (State.vsxOp s a1 a2) := by
  unfold State.vsxOp
  iterate 60 all_goals try first
    | with_reducible assumption
    | with_reducible refine State.vecStoreAt_keeps ?_
    | extract_lets
    | split
    | intro _
    | with_reducible refine Keeps.lit ?_
    | dsimp -zeta only

theorem State.vectorIntegerOp_keeps {r s : State} {a1} {a2} (h : Keeps r s) : Keeps r (State.vectorIntegerOp s a1 a2) := by
  unfold State.vectorIntegerOp
  iterate 60 all_goals try first
    | with_reducible assumption
    | with_reducible refine State.updLvu_keeps ?_
    | extract_lets
    | split
    | intro _
    | with_reducible refine Keeps.lit ?_
    | dsimp -zeta only

theorem State.vmergeOp_keeps {r s : State} {a1} {a2} (h : Keeps r s) : Keeps r (State.vmergeOp s a1 a2) := by
  unfold State.vmergeOp
  iterate 60 all_goals try first
    | with_reducible assumption
    | with_reducible refine State.updLvu_keeps ?_
    | extract_lets
    | split
    | intro _
    | with_reducible refine Keeps.lit ?_
    | dsimp -zeta only

theorem State.vectorCompareOp_keeps {r s : State} {a1} {a2} (h : Keeps r s) : Keeps r (State.vectorCompareOp s a1 a2) := by
  unfold State.vectorCompareOp
  iterate 60 all_goals try first
    | with_reducible assumption
    | with_reducible refine State.updLvu_keeps ?_
    | extract_lets
    | split
    | intro _
    | with_reducible refine Keeps.lit ?_
    | dsimp -zeta only

theorem State.vectorFloatOp_keeps {r s : State} {a1} {a2} (h : Keeps r s) : Keeps r (State.vectorFloatOp s a1 a2) := by
  unfold State.vectorFloatOp
  iterate 60 all_goals try first
    | with_reducible assumption
    | with_reducible refine State.updLvu_keeps ?_
    | with_reducible refine Keeps.foldl ?_ ?_
    | with_reducible refine Keeps.foldlSnd ?_ ?_
    | with_reducible refine Keeps.foldlFst ?_ ?_
    | extract_lets
    | split
    | intro _
    | with_reducible refine Keeps.lit ?_
    | dsimp -zeta only

theorem State.vfcvtFromOp_keeps {r s : State} {a1} {a2} (h : Keeps r s) : Keeps r (State.vfcvtFromOp s a1 a2) := by
  unfold State.vfcvtFromOp
  iterate 60 all_goals try first
    | with_reducible assumption
    | with_reducible refine State.updLvu_keeps ?_
    | extract_lets
    | split
    | intro _
    | with_reducible refine Keeps.lit ?_
    | dsimp -zeta only

theorem State.vfcvtToOp_keeps {r s : State} {a1} {a2} {a3} (h : Keeps r s) : Keeps r (State.vfcvtToOp s a1 a2 a3) := by
  unfold State.vfcvtToOp
  iterate 60 all_goals try first
    | with_reducible assumption
    | with_reducible refine State.tileFatal_keeps ?_
    | with_reducible refine State.updLvu_keeps ?_
    | with_reducible refine State.vecFault_keeps ?_
    | extract_lets
    | split
    | intro _
    | with_reducible refine Keeps.lit ?_
    | dsimp -zeta only

theorem State.vfcvtIntegerOp_keeps {r s : State} {a1} {a2} (h : Keeps r s) : Keeps r (State.vfcvtIntegerOp s a1 a2) := by
  unfold State.vfcvtIntegerOp
  iterate 60 all_goals try first
    | with_reducible assumption
    | with_reducible refine State.updLvu_keeps ?_
    | extract_lets
    | split
    | intro _
    | with_reducible refine Keeps.lit ?_
    | dsimp -zeta only

theorem State.maskLogicOp_keeps {r s : State} {a1} {a2} (h : Keeps r s) : Keeps r (State.maskLogicOp s a1 a2) := by
  unfold State.maskLogicOp
  iterate 60 all_goals try first
    | with_reducible assumption
    | with_reducible refine State.updLvu_keeps ?_
    | extract_lets
    | split
    | intro _
    | with_reducible refine Keeps.lit ?_
    | dsimp -zeta only

theorem State.kpopcKfirstOp_keeps {r s : State} {a1} {a2} (h : Keeps r s) : Keeps r (State.kpopcKfirstOp s a1 a2) := by
  unfold State.kpopcKfirstOp
  iterate 60 all_goals try first
    | with_reducible assumption
    | with_reducible refine State.setX_keeps ?_
    | extract_lets
    | split
    | intro _
    | with_reducible refine Keeps.lit ?_
    | dsimp -zeta only

theorem State.vlmVsmOp_keeps {r s : State} {a1} {a2} (h : Keeps r s) : Keeps r (State.vlmVsmOp s a1 a2) := by
  unfold State.vlmVsmOp
  iterate 60 all_goals try first
    | with_reducible assumption
    | with_reducible refine State.updLvu_keeps ?_
    | with_reducible refine State.vecFault_keeps ?_
    | with_reducible refine State.vecRead_keeps ?_
    | with_reducible refine State.vecStore_keeps ?_
    | with_reducible refine State.vecTrans_keeps ?_
    | with_reducible refine Keeps.ofEq ?_ (by with_reducible assumption)
    | extract_lets
    | split
    | intro _
    | with_reducible refine Keeps.lit ?_
    | dsimp -zeta only

theorem State.vectorReductionOp_keeps {r s : State} {a1} {a2} (h : Keeps r s) : Keeps r (State.vectorReductionOp s a1 a2) := by
  unfold State.vectorReductionOp
  iterate 60 all_goals try first
    | with_reducible assumption
    | with_reducible refine State.setF_keeps ?_
    | with_reducible refine State.setX_keeps ?_
    | with_reducible refine State.updLvu_keeps ?_
    | extract_lets
    | split
    | intro _
    | with_reducible refine Keeps.getD (fun t e => ?_) ?_
    | with_reducible refine Keeps.lit ?_
    | dsimp -zeta only

theorem State.vectorScalarMoveOp_keeps {r s : State} {a1} {a2} (h : Keeps r s) : Keeps r (State.vectorScalarMoveOp s a1 a2) := by
  unfold State.vectorScalarMoveOp
  iterate 60 all_goals try first
    | with_reducible assumption
    | with_reducible refine State.setF_keeps ?_
    | with_reducible refine State.setX_keeps ?_
    | with_reducible refine State.updLvu_keeps ?_
    | extract_lets
    | split
    | intro _
    | with_reducible refine Keeps.lit ?_
    | dsimp -zeta only

theorem State.vectorPermutationOp_keeps {r s : State} {a1} {a2} (h : Keeps r s) : Keeps r (State.vectorPermutationOp s a1 a2) := by
  unfold State.vectorPermutationOp
  iterate 60 all_goals try first
    | with_reducible assumption
    | with_reducible refine State.updLvu_keeps ?_
    | extract_lets
    | split
    | intro _
    | with_reducible refine Keeps.lit ?_
    | dsimp -zeta only

theorem State.unitOp_keeps {r s : State} {a1} {a2} {a3} {a4} {a5} (h : Keeps r s) : Keeps r (State.unitOp s a1 a2 a3 a4 a5) := by
  unfold State.unitOp
  iterate 60 all_goals try first
    | with_reducible assumption
    | with_reducible refine State.kpopcKfirstOp_keeps ?_
    | with_reducible refine State.maskLogicOp_keeps ?_
    | with_reducible refine State.mxDrainOp_keeps ?_
    | with_reducible refine State.mxLdwOp_keeps ?_
    | with_reducible refine State.mxRunOp_keeps ?_
    | with_reducible refine State.mxSwapOp_keeps ?_
    | with_reducible refine State.mxZeroOp_keeps ?_
    | with_reducible refine State.setvlOp_keeps ?_
    | with_reducible refine State.vectorCompareOp_keeps ?_
    | with_reducible refine State.vectorFloatOp_keeps ?_
    | with_reducible refine State.vectorIntegerOp_keeps ?_
    | with_reducible refine State.vectorPermutationOp_keeps ?_
    | with_reducible refine State.vectorReductionOp_keeps ?_
    | with_reducible refine State.vectorScalarMoveOp_keeps ?_
    | with_reducible refine State.vfcvtFromOp_keeps ?_
    | with_reducible refine State.vfcvtIntegerOp_keeps ?_
    | with_reducible refine State.vfcvtToOp_keeps ?_
    | with_reducible refine State.vgetvlOp_keeps ?_
    | with_reducible refine State.vldFfOp_keeps ?_
    | with_reducible refine State.vldOp_keeps ?_
    | with_reducible refine State.vlduOp_keeps ?_
    | with_reducible refine State.vlmVsmOp_keeps ?_
    | with_reducible refine State.vlxOp_keeps ?_
    | with_reducible refine State.vmergeOp_keeps ?_
    | with_reducible refine State.vstOp_keeps ?_
    | with_reducible refine State.vstuOp_keeps ?_
    | with_reducible refine State.vsxOp_keeps ?_
    | with_reducible refine State.vxCombinePutOp_keeps ?_
    | with_reducible refine State.vxCombineSumOp_keeps ?_
    | with_reducible refine State.vxDealOp_keeps ?_
    | extract_lets
    | split
    | intro _
    | with_reducible refine Keeps.lit ?_
    | dsimp -zeta only

theorem State.unitStep_keeps {r s : State} {a1} {a2} {a3} {a4} {a5} (h : Keeps r s) : Keeps r (State.unitStep s a1 a2 a3 a4 a5) := by
  unfold State.unitStep
  iterate 60 all_goals try first
    | with_reducible assumption
    | with_reducible refine State.stepped_keeps ?_
    | with_reducible refine State.tileFatal_keeps ?_
    | with_reducible refine State.unitOp_keeps ?_
    | extract_lets
    | split
    | intro _
    | with_reducible refine Keeps.lit ?_
    | dsimp -zeta only

theorem State.runQueued_keeps {r s : State} {a1} {a2} (h : Keeps r s) : Keeps r (State.runQueued s a1 a2) := by
  unfold State.runQueued
  iterate 60 all_goals try first
    | with_reducible assumption
    | with_reducible refine State.spend_keeps ?_
    | with_reducible refine State.unitStep_keeps ?_
    | with_reducible refine State.updTile_keeps ?_
    | with_reducible refine State.updTsu_keeps ?_
    | extract_lets
    | split
    | intro _
    | with_reducible refine Keeps.lit ?_
    | dsimp -zeta only

theorem State.drainQueue_keeps {r s : State} {a0} {a1} (h : Keeps r s) : Keeps r (State.drainQueue a0 a1 s) := by
  induction a0 generalizing s a1 with
  | zero => exact h
  | succ k ih =>
    unfold State.drainQueue
    iterate 60 all_goals try first
    | with_reducible assumption
    | with_reducible refine ih ?_
    | with_reducible refine State.runQueued_keeps ?_
    | extract_lets
    | split
    | intro _
    | with_reducible refine Keeps.lit ?_
    | dsimp -zeta only

theorem State.unitsFirst_keeps {r s : State} {a1} {a2} {a3} (h : Keeps r s) : Keeps r (State.unitsFirst s a1 a2 a3) := by
  unfold State.unitsFirst
  iterate 60 all_goals try first
    | with_reducible assumption
    | with_reducible refine State.drainQueue_keeps ?_
    | extract_lets
    | split
    | intro _
    | with_reducible refine Keeps.lit ?_
    | dsimp -zeta only

theorem State.retire_keeps {r s : State} {a1} {a2} (h : Keeps r s) : Keeps r (State.retire s a1 a2) := by
  unfold State.retire
  iterate 60 all_goals try first
    | with_reducible assumption
    | with_reducible refine State.updTile_keeps ?_
    | extract_lets
    | split
    | intro _
    | with_reducible refine Keeps.lit ?_
    | dsimp -zeta only

theorem State.finish_keeps {r : State} {s} {a0} {a1} {a2} (h : Keeps r s.2) : Keeps r (State.finish a0 a1 a2 s) := by
  unfold State.finish
  iterate 60 all_goals try first
    | with_reducible assumption
    | with_reducible refine State.retire_keeps ?_
    | with_reducible refine State.trapT_keeps ?_
    | extract_lets
    | split
    | intro _
    | with_reducible refine Keeps.lit ?_
    | dsimp -zeta only

theorem State.begin_keeps {r s : State} {a1} {a2} {a3} {a4} {a5} (h : Keeps r s) (hf5 : ∀ s, Keeps r s → Keeps r (a5 s).2) : Keeps r (State.begin s a1 a2 a3 a4 a5) := by
  unfold State.begin
  iterate 60 all_goals try first
    | with_reducible assumption
    | with_reducible refine hf5 _ ?_
    | with_reducible refine Keeps.ofEq ?_ (by with_reducible assumption)
    | with_reducible refine State.finish_keeps ?_
    | with_reducible refine State.tileFatal_keeps ?_
    | with_reducible refine State.trapT_keeps ?_
    | extract_lets
    | split
    | intro _
    | with_reducible refine Keeps.lit ?_
    | dsimp -zeta only

theorem State.sisStep_keeps {r s : State} {a1} {a2} {a3} {a4} {a5} {a6} (h : Keeps r s) (hf6 : ∀ s, Keeps r s → Keeps r (a6 s).2) : Keeps r (State.sisStep s a1 a2 a3 a4 a5 a6) := by
  unfold State.sisStep
  iterate 60 all_goals try first
    | with_reducible assumption
    | with_reducible refine hf6 _ ?_
    | with_reducible refine Keeps.ofEq ?_ (by with_reducible assumption)
    | with_reducible refine State.begin_keeps ?_ ?_
    | with_reducible refine State.spend_keeps ?_
    | with_reducible refine State.strike_keeps ?_
    | with_reducible refine State.unitsFirst_keeps ?_
    | extract_lets
    | split
    | intro _
    | with_reducible refine Keeps.lit ?_
    | dsimp -zeta only

theorem State.sis_keeps {r s : State} {a1} {a2} {a3} {a4} {a5} {a6} (h : Keeps r s) (hf6 : ∀ s, Keeps r s → Keeps r (a6 s).2) : Keeps r (State.sis s a1 a2 a3 a4 a5 a6) := by
  unfold State.sis
  iterate 60 all_goals try first
    | with_reducible assumption
    | with_reducible refine hf6 _ ?_
    | with_reducible refine Keeps.ofEq ?_ (by with_reducible assumption)
    | with_reducible refine State.retry_keeps ?_ ?_
    | with_reducible refine State.sisStep_keeps ?_ ?_
    | extract_lets
    | split
    | intro _
    | with_reducible refine Keeps.lit ?_
    | dsimp -zeta only

theorem State.sis1_keeps {r s : State} {a1} {a2} {a3} {a4} {a5} (h : Keeps r s) (hf5 : ∀ s, Keeps r s → Keeps r (a5 s).2) : Keeps r (State.sis1 s a1 a2 a3 a4 a5) := by
  unfold State.sis1
  iterate 60 all_goals try first
    | with_reducible assumption
    | with_reducible refine hf5 _ ?_
    | with_reducible refine Keeps.ofEq ?_ (by with_reducible assumption)
    | with_reducible refine State.sis_keeps ?_ ?_
    | extract_lets
    | split
    | intro _
    | with_reducible refine Keeps.lit ?_
    | dsimp -zeta only

theorem State.sisReg_keeps {r s : State} {a1} {a2} {a3} {a4} {a5} (h : Keeps r s) : Keeps r (State.sisReg s a1 a2 a3 a4 a5) := by
  unfold State.sisReg
  iterate 60 all_goals try first
    | with_reducible assumption
    | with_reducible refine State.sis1_keeps ?_ ?_
    | with_reducible refine State.updTsu_keeps ?_
    | extract_lets
    | split
    | intro _
    | with_reducible refine Keeps.lit ?_
    | dsimp -zeta only

theorem State.loaded_keeps {r s : State} {a1} {a2} {a3} {a4} (h : Keeps r s) : Keeps r (State.loaded s a1 a2 a3 a4) := by
  unfold State.loaded
  iterate 60 all_goals try first
    | with_reducible assumption
    | with_reducible refine State.setF_keeps ?_
    | with_reducible refine State.setX_keeps ?_
    | extract_lets
    | split
    | intro _
    | with_reducible refine Keeps.lit ?_
    | dsimp -zeta only

theorem State.atomicClean_keeps {r s : State} {a1} {a2} (h : Keeps r s) : Keeps r (State.atomicClean s a1 a2) := by
  unfold State.atomicClean
  iterate 60 all_goals try first
    | with_reducible assumption
    | with_reducible refine State.ackUntil_keeps ?_
    | with_reducible refine State.cleanL1_keeps ?_
    | with_reducible refine State.settleLine_keeps ?_
    | with_reducible refine State.updCaches_keeps ?_
    | extract_lets
    | split
    | intro _
    | with_reducible refine Keeps.lit ?_
    | dsimp -zeta only

theorem State.prefetch_keeps {r s : State} {a1} {a2} (h : Keeps r s) : Keeps r (State.prefetch s a1 a2) := by
  unfold State.prefetch
  iterate 60 all_goals try first
    | with_reducible assumption
    | with_reducible refine State.talonFill_keeps ?_
    | with_reducible refine State.updCaches_keeps ?_
    | extract_lets
    | split
    | intro _
    | with_reducible refine Keeps.lit ?_
    | dsimp -zeta only

theorem State.lsClearLine_keeps {r s : State} {a1} {a2} (h : Keeps r s) : Keeps r (State.lsClearLine s a1 a2) := by
  unfold State.lsClearLine
  iterate 60 all_goals try first
    | with_reducible assumption
    | with_reducible refine State.updTile_keeps ?_
    | extract_lets
    | split
    | intro _
    | with_reducible refine Keeps.lit ?_
    | dsimp -zeta only

theorem State.zeroExtent_keeps {r s : State} {a1} {a2} (h : Keeps r s) : Keeps r (State.zeroExtent s a1 a2) := by
  unfold State.zeroExtent
  iterate 60 all_goals try first
    | with_reducible assumption
    | with_reducible refine State.lsClearLine_keeps ?_
    | with_reducible refine State.zeroLine_keeps ?_
    | with_reducible refine Keeps.foldl ?_ ?_
    | with_reducible refine Keeps.foldlSnd ?_ ?_
    | with_reducible refine Keeps.foldlFst ?_ ?_
    | extract_lets
    | split
    | intro _
    | with_reducible refine Keeps.lit ?_
    | dsimp -zeta only

theorem State.dropI_keeps {r s : State} {a1} {a2} (h : Keeps r s) : Keeps r (State.dropI s a1 a2) := by
  unfold State.dropI
  iterate 60 all_goals try first
    | with_reducible assumption
    | with_reducible refine State.updCaches_keeps ?_
    | extract_lets
    | split
    | intro _
    | with_reducible refine Keeps.lit ?_
    | dsimp -zeta only

theorem State.sendChain_keeps {r s : State} {a1} {a2} {a3} {a4} {a5} {a6} (h : Keeps r s) : Keeps r (State.sendChain s a1 a2 a3 a4 a5 a6) := by
  unfold State.sendChain
  iterate 60 all_goals try first
    | with_reducible assumption
    | with_reducible refine State.breakHere_keeps ?_
    | with_reducible refine State.record_keeps ?_
    | with_reducible refine State.toMember_keeps ?_
    | with_reducible refine Keeps.foldl ?_ ?_
    | with_reducible refine Keeps.foldlSnd ?_ ?_
    | with_reducible refine Keeps.foldlFst ?_ ?_
    | extract_lets
    | split
    | intro _
    | with_reducible refine Keeps.lit ?_
    | dsimp -zeta only

theorem State.writeFinal_keeps {r s : State} {a1} {a2} {a3} (h : Keeps r s) : Keeps r (State.writeFinal s a1 a2 a3) := by
  unfold State.writeFinal
  iterate 60 all_goals try first
    | with_reducible assumption
    | with_reducible refine State.lsWrite_keeps ?_
    | extract_lets
    | split
    | intro _
    | with_reducible refine Keeps.lit ?_
    | dsimp -zeta only

theorem State.stepDone_keeps {r s : State} {a1} {a2} {a3} {a4} {a5} (h : Keeps r s) : Keeps r (State.stepDone s a1 a2 a3 a4 a5) := by
  unfold State.stepDone
  iterate 60 all_goals try first
    | with_reducible assumption
    | with_reducible refine State.freeHold_keeps ?_
    | with_reducible refine State.toMember_keeps ?_
    | with_reducible refine State.updLed_keeps ?_
    | with_reducible refine Keeps.foldl ?_ ?_
    | with_reducible refine Keeps.foldlSnd ?_ ?_
    | with_reducible refine Keeps.foldlFst ?_ ?_
    | extract_lets
    | split
    | intro _
    | with_reducible refine Keeps.lit ?_
    | dsimp -zeta only

theorem State.sealChain_keeps {r s : State} {a1} {a2} {a3} {a4} (h : Keeps r s) : Keeps r (State.sealChain s a1 a2 a3 a4) := by
  unfold State.sealChain
  iterate 60 all_goals try first
    | with_reducible assumption
    | with_reducible refine State.stepDone_keeps ?_
    | with_reducible refine State.updLed_keeps ?_
    | with_reducible refine State.writeFinal_keeps ?_
    | extract_lets
    | split
    | intro _
    | with_reducible refine Keeps.lit ?_
    | dsimp -zeta only

theorem State.mismatch_keeps {r s : State} {a1} {a2} {a3} (h : Keeps r s) : Keeps r (State.mismatch s a1 a2 a3) := by
  unfold State.mismatch
  iterate 60 all_goals try first
    | with_reducible assumption
    | with_reducible refine State.breakHere_keeps ?_
    | with_reducible refine State.record_keeps ?_
    | extract_lets
    | split
    | intro _
    | with_reducible refine Keeps.lit ?_
    | dsimp -zeta only

theorem State.takeOffer_keeps {r s : State} {a1} (h : Keeps r s) : Keeps r (State.takeOffer s a1) := by
  unfold State.takeOffer
  iterate 60 all_goals try first
    | with_reducible assumption
    | extract_lets
    | split
    | intro _
    | with_reducible refine Keeps.litFatal ?_
    | with_reducible refine Keeps.lit ?_
    | dsimp -zeta only

theorem State.keepOffer_keeps {r s : State} {a1} (h : Keeps r s) : Keeps r (State.keepOffer s a1) := by
  unfold State.keepOffer
  iterate 60 all_goals try first
    | with_reducible assumption
    | with_reducible refine State.offer_keeps ?_
    | extract_lets
    | split
    | intro _
    | with_reducible refine Keeps.lit ?_
    | dsimp -zeta only

theorem State.issue_keeps {r s : State} {a1} {a2} {a3} {a4} {a5} (h : Keeps r s) : Keeps r (State.issue s a1 a2 a3 a4 a5) := by
  unfold State.issue
  iterate 60 all_goals try first
    | with_reducible assumption
    | with_reducible refine State.setX_keeps ?_
    | with_reducible refine State.spend_keeps ?_
    | with_reducible refine State.unitStep_keeps ?_
    | with_reducible refine State.updTile_keeps ?_
    | extract_lets
    | split
    | intro _
    | with_reducible refine Keeps.lit ?_
    | dsimp -zeta only

theorem State.sisQ_keeps {r s : State} {a1} {a2} {a3} {a4} {a5} {a6} (h : Keeps r s) : Keeps r (State.sisQ s a1 a2 a3 a4 a5 a6) := by
  unfold State.sisQ
  iterate 60 all_goals try first
    | with_reducible assumption
    | with_reducible refine State.issue_keeps ?_
    | with_reducible refine State.sis_keeps ?_ ?_
    | extract_lets
    | split
    | intro _
    | with_reducible refine Keeps.lit ?_
    | dsimp -zeta only

theorem State.sisV_keeps {r s : State} {a1} {a2} {a3} {a4} (h : Keeps r s) : Keeps r (State.sisV s a1 a2 a3 a4) := by
  unfold State.sisV
  iterate 60 all_goals try first
    | with_reducible assumption
    | with_reducible refine State.sisQ_keeps ?_
    | extract_lets
    | split
    | intro _
    | with_reducible refine Keeps.lit ?_
    | dsimp -zeta only

theorem State.sisM_keeps {r s : State} {a1} {a2} {a3} {a4} {a5} (h : Keeps r s) : Keeps r (State.sisM s a1 a2 a3 a4 a5) := by
  unfold State.sisM
  iterate 60 all_goals try first
    | with_reducible assumption
    | with_reducible refine State.sisQ_keeps ?_
    | extract_lets
    | split
    | intro _
    | with_reducible refine Keeps.lit ?_
    | dsimp -zeta only

theorem State.notReady_keeps {r s : State} {a1} (h : Keeps r s) : Keeps r (State.notReady s a1) := by
  unfold State.notReady
  iterate 60 all_goals try first
    | with_reducible assumption
    | with_reducible refine State.spdmError_keeps ?_
    | with_reducible refine State.updResponder_keeps ?_
    | extract_lets
    | split
    | intro _
    | with_reducible refine Keeps.lit ?_
    | dsimp -zeta only

theorem State.toResponder_keeps {r s : State} {a1} {a2} (h : Keeps r s) (hf2 : ∀ s, Keeps r s → Keeps r (a2 s)) : Keeps r (State.toResponder s a1 a2) := by
  unfold State.toResponder
  iterate 60 all_goals try first
    | with_reducible assumption
    | with_reducible refine hf2 _ ?_
    | with_reducible refine State.emit_keeps ?_
    | with_reducible refine State.notReady_keeps ?_
    | extract_lets
    | split
    | intro _
    | with_reducible refine Keeps.lit ?_
    | dsimp -zeta only

theorem State.connected_keeps {r s : State} {a1} {a2} {a3} {a4} (h : Keeps r s) (hf4 : ∀ s, Keeps r s → Keeps r (a4 s)) : Keeps r (State.connected s a1 a2 a3 a4) := by
  unfold State.connected
  iterate 60 all_goals try first
    | with_reducible assumption
    | with_reducible refine hf4 _ ?_
    | with_reducible refine State.spdmError_keeps ?_
    | with_reducible refine State.updResponder_keeps ?_
    | extract_lets
    | split
    | intro _
    | with_reducible refine Keeps.lit ?_
    | dsimp -zeta only

theorem State.negotiated_keeps {r s : State} {a1} {a2} (h : Keeps r s) (hf2 : ∀ s, Keeps r s → Keeps r (a2 s)) : Keeps r (State.negotiated s a1 a2) := by
  unfold State.negotiated
  iterate 60 all_goals try first
    | with_reducible assumption
    | with_reducible refine hf2 _ ?_
    | with_reducible refine State.connected_keeps ?_ ?_
    | with_reducible refine State.toResponder_keeps ?_ ?_
    | extract_lets
    | split
    | intro _
    | with_reducible refine Keeps.lit ?_
    | dsimp -zeta only

theorem State.tryFresh_keeps {r s : State} {a1} {a2} (h : Keeps r s) : Keeps r (State.tryFresh s a1 a2) := by
  unfold State.tryFresh
  iterate 60 all_goals try first
    | with_reducible assumption
    | with_reducible refine State.addTask_keeps ?_
    | with_reducible refine State.deferSpdm_keeps ?_
    | with_reducible refine State.spdmError_keeps ?_
    | extract_lets
    | split
    | intro _
    | with_reducible refine Keeps.lit ?_
    | dsimp -zeta only

theorem State.dropSession_keeps {r s : State} {a1} {a2} (h : Keeps r s) : Keeps r (State.dropSession s a1 a2) := by
  unfold State.dropSession
  iterate 60 all_goals try first
    | with_reducible assumption
    | with_reducible refine State.updResponder_keeps ?_
    | extract_lets
    | split
    | intro _
    | with_reducible refine Keeps.lit ?_
    | dsimp -zeta only

theorem State.updSession_keeps {r s : State} {a1} {a2} {a3} (h : Keeps r s) : Keeps r (State.updSession s a1 a2 a3) := by
  unfold State.updSession
  iterate 60 all_goals try first
    | with_reducible assumption
    | with_reducible refine State.updResponder_keeps ?_
    | extract_lets
    | split
    | intro _
    | with_reducible refine Keeps.lit ?_
    | dsimp -zeta only

theorem State.inSession_keeps {r s : State} {a1} {a2} {a3} (h : Keeps r s) (hf3 : ∀ s, Keeps r s → Keeps r (a3 s)) : Keeps r (State.inSession s a1 a2 a3) := by
  unfold State.inSession
  iterate 60 all_goals try first
    | with_reducible assumption
    | with_reducible refine hf3 _ ?_
    | with_reducible refine State.spdmError_keeps ?_
    | extract_lets
    | split
    | intro _
    | with_reducible refine Keeps.lit ?_
    | dsimp -zeta only

theorem State.toManager_keeps {r s : State} {a1} {a2} {a3} (h : Keeps r s) (hf3 : ∀ s, Keeps r s → Keeps r (a3 s)) : Keeps r (State.toManager s a1 a2 a3) := by
  unfold State.toManager
  iterate 60 all_goals try first
    | with_reducible assumption
    | with_reducible refine hf3 _ ?_
    | with_reducible refine State.inSession_keeps ?_ ?_
    | with_reducible refine State.spdmError_keeps ?_
    | with_reducible refine State.toResponder_keeps ?_ ?_
    | extract_lets
    | split
    | intro _
    | with_reducible refine Keeps.lit ?_
    | dsimp -zeta only

theorem State.setSec_keeps {r s : State} {a1} (h : Keeps r s) : Keeps r (State.setSec s a1) := by
  unfold State.setSec
  iterate 60 all_goals try first
    | with_reducible assumption
    | extract_lets
    | split
    | intro _
    | with_reducible refine Keeps.litFatal ?_
    | with_reducible refine Keeps.lit ?_
    | dsimp -zeta only

theorem State.setTdi_keeps {r s : State} {a1} {a2} (h : Keeps r s) : Keeps r (State.setTdi s a1 a2) := by
  unfold State.setTdi
  iterate 60 all_goals try first
    | with_reducible assumption
    | with_reducible refine State.setSec_keeps ?_
    | extract_lets
    | split
    | intro _
    | with_reducible refine Keeps.lit ?_
    | dsimp -zeta only

theorem State.tdisp_keeps {r s : State} {a1} {a2} {a3} {a4} (h : Keeps r s) (hf4 : ∀ s, Keeps r s → Keeps r (a4 s)) : Keeps r (State.tdisp s a1 a2 a3 a4) := by
  unfold State.tdisp
  iterate 60 all_goals try first
    | with_reducible assumption
    | with_reducible refine hf4 _ ?_
    | with_reducible refine State.spdm_keeps ?_
    | with_reducible refine State.toManager_keeps ?_ ?_
    | extract_lets
    | split
    | intro _
    | with_reducible refine Keeps.lit ?_
    | dsimp -zeta only

theorem State.setBoot_keeps {r s : State} {a1} (h : Keeps r s) : Keeps r (State.setBoot s a1) := by
  unfold State.setBoot
  iterate 60 all_goals try first
    | with_reducible assumption
    | extract_lets
    | split
    | intro _
    | with_reducible refine Keeps.litFatal ?_
    | with_reducible refine Keeps.lit ?_
    | dsimp -zeta only

theorem State.endStep_keeps {r s : State} {a1} (h : Keeps r s) : Keeps r (State.endStep s a1) := by
  unfold State.endStep
  iterate 60 all_goals try first
    | with_reducible assumption
    | with_reducible refine State.setBoot_keeps ?_
    | extract_lets
    | split
    | intro _
    | with_reducible refine Keeps.lit ?_
    | dsimp -zeta only

theorem State.blowFuses_keeps {r s : State} {a1} {a2} {a3} (h : Keeps r s) : Keeps r (State.blowFuses s a1 a2 a3) := by
  unfold State.blowFuses
  iterate 60 all_goals try first
    | with_reducible assumption
    | with_reducible refine State.record_keeps ?_
    | with_reducible refine Keeps.foldl ?_ ?_
    | with_reducible refine Keeps.foldlSnd ?_ ?_
    | with_reducible refine Keeps.foldlFst ?_ ?_
    | extract_lets
    | split
    | intro _
    | with_reducible refine Keeps.litFatal ?_
    | with_reducible refine Keeps.lit ?_
    | dsimp -zeta only

theorem State.warm_keeps {r s : State} (h : Keeps r s) : Keeps r s.warm :=
  ⟨fun c => let d := h.1 c
    ⟨rfl, SMap.wf_mapFilter Tile.warm d.tiles, SMap.wf_mapFilter (fun p => ({ notices := p.notices, nextNotice := p.nextNotice } : Part)) d.parts, SMap.wf_mapFilter (fun c => ({ dieState := c.dieState, corrected := c.corrected, passes := c.passes } : Hbm)) d.hbm, rfl, rfl, rfl, rfl, rfl, d.fatals, d.ring⟩,
   h.2.1, h.2.2⟩

theorem State.loadBundle_keeps {r s : State} {a1} (h : Keeps r s) : Keeps r (State.loadBundle s a1) := by
  unfold State.loadBundle
  iterate 60 all_goals try first
    | with_reducible assumption
    | with_reducible refine State.setSec_keeps ?_
    | with_reducible refine Keeps.foldl ?_ ?_
    | with_reducible refine Keeps.foldlSnd ?_ ?_
    | with_reducible refine Keeps.foldlFst ?_ ?_
    | extract_lets
    | split
    | intro _
    | with_reducible refine Keeps.lit ?_
    | dsimp -zeta only

theorem State.bootImage_keeps {r s : State} {a1} (h : Keeps r s) : Keeps r (State.bootImage s a1) := by
  unfold State.bootImage
  iterate 60 all_goals try first
    | with_reducible assumption
    | with_reducible refine Keeps.foldl ?_ ?_
    | with_reducible refine Keeps.foldlSnd ?_ ?_
    | with_reducible refine Keeps.foldlFst ?_ ?_
    | extract_lets
    | split
    | intro _
    | with_reducible refine Keeps.getD (fun t e => ?_) ?_
    | with_reducible refine Keeps.litFatal ?_
    | with_reducible refine Keeps.lit ?_
    | dsimp -zeta only

theorem State.stayLow_keeps {r s : State} {a1} (h : Keeps r s) : Keeps r (State.stayLow s a1) := by
  unfold State.stayLow
  iterate 60 all_goals try first
    | with_reducible assumption
    | with_reducible refine State.setBoot_keeps ?_
    | with_reducible refine State.setSec_keeps ?_
    | extract_lets
    | split
    | intro _
    | with_reducible refine Keeps.lit ?_
    | dsimp -zeta only

theorem State.bindDie_keeps {r s : State} {a1} {a2} (h : Keeps r s) : Keeps r (State.bindDie s a1 a2) := by
  unfold State.bindDie
  dsimp only
  iterate 60 all_goals try first
    | with_reducible assumption
    | with_reducible refine State.record_keeps ?_
    | with_reducible refine State.setBoot_keeps ?_
    | with_reducible refine State.setPlant_keeps ?_
    | with_reducible refine State.updTile_keeps ?_
    | with_reducible refine Keeps.foldl ?_ ?_
    | with_reducible refine Keeps.foldlSnd ?_ ?_
    | with_reducible refine Keeps.foldlFst ?_ ?_
    | extract_lets
    | split
    | intro _
    | with_reducible refine Keeps.getD (fun t e => ?_) ?_
    | with_reducible refine Keeps.lit ?_
    | dsimp -zeta only

theorem State.startLost_keeps {r s : State} {a1} {a2} (h : Keeps r s) : Keeps r (State.startLost s a1 a2) := by
  unfold State.startLost
  iterate 60 all_goals try first
    | with_reducible assumption
    | with_reducible refine State.failController_keeps ?_
    | with_reducible refine State.updHbm_keeps ?_
    | extract_lets
    | split
    | intro _
    | with_reducible refine Keeps.lit ?_
    | dsimp -zeta only

theorem State.beginPart_keeps {r s : State} {a1} (h : Keeps r s) : Keeps r (State.beginPart s a1) := by
  unfold State.beginPart
  iterate 60 all_goals try first
    | with_reducible assumption
    | with_reducible refine State.updPart_keeps ?_
    | extract_lets
    | split
    | intro _
    | with_reducible refine Keeps.lit ?_
    | dsimp -zeta only

theorem State.beginTile_keeps {r s : State} {a1} (h : Keeps r s) : Keeps r (State.beginTile s a1) := by
  unfold State.beginTile
  iterate 60 all_goals try first
    | with_reducible assumption
    | with_reducible refine State.updTile_keeps ?_
    | extract_lets
    | split
    | intro _
    | with_reducible refine Keeps.getD (fun t e => ?_) ?_
    | with_reducible refine Keeps.lit ?_
    | dsimp -zeta only

theorem State.openBoxes_keeps {r s : State} (h : Keeps r s) : Keeps r (State.openBoxes s) := by
  unfold State.openBoxes
  iterate 60 all_goals try first
    | with_reducible assumption
    | with_reducible refine State.firstNonce_keeps ?_
    | with_reducible refine State.postNotice_keeps ?_
    | with_reducible refine State.pump_keeps ?_
    | with_reducible refine State.raiseHeld_keeps ?_
    | with_reducible refine State.takeIrqs_keeps ?_
    | with_reducible refine State.updBox_keeps ?_
    | with_reducible refine Keeps.foldl ?_ ?_
    | with_reducible refine Keeps.foldlSnd ?_ ?_
    | with_reducible refine Keeps.foldlFst ?_ ?_
    | extract_lets
    | split
    | intro _
    | with_reducible refine Keeps.lit ?_
    | dsimp -zeta only

theorem tick_keeps {r s : State} (h : Keeps r s) : Keeps r (tick s) :=
  h.litNow (by split <;> omega)

theorem State.failTwiceI_keeps {r s : State} {a1} {a2} (h : Keeps r s) : Keeps r (State.failTwiceI s a1 a2) := by
  unfold State.failTwiceI
  iterate 60 all_goals try first
    | with_reducible assumption
    | with_reducible refine State.parity_keeps ?_
    | with_reducible refine State.updCaches_keeps ?_
    | extract_lets
    | split
    | intro _
    | with_reducible refine Keeps.lit ?_
    | dsimp -zeta only

theorem State.checkI_keeps {r s : State} {a1} {a2} (h : Keeps r s) : Keeps r (State.checkI s a1 a2) := by
  unfold State.checkI
  iterate 60 all_goals try first
    | with_reducible assumption
    | with_reducible refine State.failTwiceI_keeps ?_
    | with_reducible refine State.parity_keeps ?_
    | with_reducible refine State.updCaches_keeps ?_
    | extract_lets
    | split
    | intro _
    | with_reducible refine Keeps.getD (fun t e => ?_) ?_
    | with_reducible refine Keeps.lit ?_
    | dsimp -zeta only

theorem State.arriveI_keeps {r s : State} {a1} {a2} {a3} (h : Keeps r s) : Keeps r (State.arriveI s a1 a2 a3) := by
  unfold State.arriveI
  iterate 60 all_goals try first
    | with_reducible assumption
    | with_reducible refine State.failTwiceI_keeps ?_
    | with_reducible refine State.parity_keeps ?_
    | extract_lets
    | split
    | intro _
    | with_reducible refine Keeps.lit ?_
    | dsimp -zeta only

theorem State.arriveD_keeps {r s : State} {a1} {a2} {a3} (h : Keeps r s) : Keeps r (State.arriveD s a1 a2 a3) := by
  unfold State.arriveD
  iterate 60 all_goals try first
    | with_reducible assumption
    | with_reducible refine State.failTwice_keeps ?_
    | with_reducible refine State.parity_keeps ?_
    | extract_lets
    | split
    | intro _
    | with_reducible refine Keeps.lit ?_
    | dsimp -zeta only

theorem State.configValue_keeps {r s : State} {a1} {a2} (h : Keeps r s) : Keeps r (State.configValue s a1 a2).2 := by
  unfold State.configValue
  dsimp only
  iterate 60 all_goals try first
    | with_reducible assumption
    | with_reducible refine State.unitRead_keeps ?_
    | with_reducible refine Keeps.ofEq ?_ (by with_reducible assumption)
    | extract_lets
    | split
    | intro _
    | with_reducible refine Keeps.lit ?_
    | dsimp -zeta only

theorem State.ledgerBytes_keeps {r s : State} {a1} (h : Keeps r s) : Keeps r (State.ledgerBytes s a1).2 := by
  unfold State.ledgerBytes
  iterate 60 all_goals try first
    | with_reducible assumption
    | with_reducible refine State.draw_keeps ?_
    | with_reducible refine Keeps.ofEq ?_ (by with_reducible assumption)
    | with_reducible refine Keeps.foldl ?_ ?_
    | with_reducible refine Keeps.foldlSnd ?_ ?_
    | with_reducible refine Keeps.foldlFst ?_ ?_
    | extract_lets
    | split
    | intro _
    | with_reducible refine Keeps.lit ?_
    | dsimp -zeta only

end Sys2Proof.Machine
end

