-- ==== Sys2Proof/Laws/ExecKeeps.lean ====
section
/-!
SUPPORT. What every command keeps, from the lemmas about the operations: it answers a state, and (but for the two that take CI13 back to
0) that state keeps what `Keeps` says.
-/

set_option linter.unusedTactic false
set_option linter.unreachableTactic false

namespace Sys2Proof.Machine

/-- A command answers a state that keeps what `Keeps` says. -/
def NextKeeps (s : State) (o : Host.Outcome State Fault Refusal) : Prop := ∃ t, o = .next t ∧ Keeps s t

theorem NextKeeps.mk {s t : State} (h : Keeps s t) : NextKeeps s (.next t) := ⟨t, rfl, h⟩

theorem execAttestDevice_keeps {s : State} {a0} {a1} : NextKeeps s (execAttestDevice a0 a1 s) := by
  have h := Keeps.refl s
  unfold execAttestDevice
  iterate 60 all_goals try first
    | with_reducible refine NextKeeps.mk ?_
    | with_reducible assumption
    | with_reducible refine State.attest_keeps ?_
    | with_reducible refine State.serve_keeps ?_ ?_
    | extract_lets
    | split
    | intro _
    | with_reducible refine Keeps.lit ?_
    | dsimp -zeta only

theorem execAttestPartition_keeps {s : State} {a0} {a1} : NextKeeps s (execAttestPartition a0 a1 s) := by
  have h := Keeps.refl s
  unfold execAttestPartition
  iterate 60 all_goals try first
    | with_reducible refine NextKeeps.mk ?_
    | with_reducible assumption
    | with_reducible refine State.attest_keeps ?_
    | with_reducible refine State.serve_keeps ?_ ?_
    | extract_lets
    | split
    | intro _
    | with_reducible refine Keeps.lit ?_
    | dsimp -zeta only

theorem execReportSnapshotExpiry_keeps {s : State} {a0} : NextKeeps s (execReportSnapshotExpiry a0 s) := by
  have h := Keeps.refl s
  unfold execReportSnapshotExpiry
  iterate 60 all_goals try first
    | with_reducible refine NextKeeps.mk ?_
    | with_reducible assumption
    | with_reducible refine State.atLeast_keeps ?_
    | with_reducible refine State.updBox_keeps ?_
    | extract_lets
    | split
    | intro _
    | with_reducible refine Keeps.lit ?_
    | dsimp -zeta only

theorem execGrainSeed_keeps {s : State} {a0} {a1} : NextKeeps s (execGrainSeed a0 a1 s) := by
  have h := Keeps.refl s
  unfold execGrainSeed
  iterate 60 all_goals try first
    | with_reducible refine NextKeeps.mk ?_
    | with_reducible assumption
    | with_reducible refine State.addTask_keeps ?_
    | with_reducible refine State.answer_keeps ?_
    | with_reducible refine State.answerSeed_keeps ?_
    | with_reducible refine State.serve_keeps ?_ ?_
    | extract_lets
    | split
    | intro _
    | with_reducible refine Keeps.lit ?_
    | dsimp -zeta only

theorem execKeyInstall_keeps {s : State} {a0} {a1} : NextKeeps s (execKeyInstall a0 a1 s) := by
  have h := Keeps.refl s
  unfold execKeyInstall
  iterate 60 all_goals try first
    | with_reducible refine NextKeeps.mk ?_
    | with_reducible assumption
    | with_reducible refine State.answer_keeps ?_
    | with_reducible refine State.applyKey_keeps ?_
    | with_reducible refine State.serve_keeps ?_ ?_
    | with_reducible refine State.updPart_keeps ?_
    | extract_lets
    | split
    | intro _
    | with_reducible refine Keeps.lit ?_
    | dsimp -zeta only

theorem execEngineSlotStart_keeps {s : State} {a0} : NextKeeps s (execEngineSlotStart a0 s) := by
  have h := Keeps.refl s
  unfold execEngineSlotStart
  iterate 60 all_goals try first
    | with_reducible refine NextKeeps.mk ?_
    | with_reducible assumption
    | with_reducible refine State.beginSlot_keeps ?_
    | with_reducible refine State.serveSlot_keeps ?_
    | with_reducible refine State.setArb_keeps ?_
    | with_reducible refine Keeps.ofEq ?_ (by with_reducible assumption)
    | extract_lets
    | split
    | intro _
    | with_reducible refine Keeps.lit ?_
    | dsimp -zeta only

theorem execEngineKat_keeps {s : State} {a0} {a1} : NextKeeps s (execEngineKat a0 a1 s) := by
  have h := Keeps.refl s
  unfold execEngineKat
  iterate 60 all_goals try first
    | with_reducible refine NextKeeps.mk ?_
    | with_reducible assumption
    | with_reducible refine State.beginSlot_keeps ?_
    | with_reducible refine State.devFatal_keeps ?_
    | with_reducible refine State.setArb_keeps ?_
    | with_reducible refine Keeps.ofEq ?_ (by with_reducible assumption)
    | extract_lets
    | split
    | intro _
    | with_reducible refine Keeps.litFatal ?_
    | with_reducible refine Keeps.lit ?_
    | dsimp -zeta only

theorem execNoiseSourceSample_keeps {s : State} {a0} : NextKeeps s (execNoiseSourceSample a0 s) := by
  have h := Keeps.refl s
  unfold execNoiseSourceSample
  iterate 60 all_goals try first
    | with_reducible refine NextKeeps.mk ?_
    | with_reducible assumption
    | with_reducible refine State.atLeast_keeps ?_
    | with_reducible refine State.entropyFail_keeps ?_
    | with_reducible refine State.setEntropy_keeps ?_
    | with_reducible refine State.windowEnd_keeps ?_
    | extract_lets
    | split
    | intro _
    | with_reducible refine Keeps.lit ?_
    | dsimp -zeta only

theorem execEntropyWindowEnd_keeps {s : State} : NextKeeps s (execEntropyWindowEnd s) := by
  have h := Keeps.refl s
  unfold execEntropyWindowEnd
  iterate 60 all_goals try first
    | with_reducible refine NextKeeps.mk ?_
    | with_reducible assumption
    | with_reducible refine State.windowEnd_keeps ?_
    | extract_lets
    | split
    | intro _
    | with_reducible refine Keeps.lit ?_
    | dsimp -zeta only

theorem execEntropyRestart_keeps {s : State} {a0} : NextKeeps s (execEntropyRestart a0 s) := by
  have h := Keeps.refl s
  unfold execEntropyRestart
  iterate 60 all_goals try first
    | with_reducible refine NextKeeps.mk ?_
    | with_reducible assumption
    | with_reducible refine State.atLeast_keeps ?_
    | with_reducible refine State.entropyTry_keeps ?_
    | extract_lets
    | split
    | intro _
    | with_reducible refine Keeps.lit ?_
    | dsimp -zeta only

theorem execEntropyWaitTimeout_keeps {s : State} : NextKeeps s (execEntropyWaitTimeout s) := by
  have h := Keeps.refl s
  unfold execEntropyWaitTimeout
  iterate 60 all_goals try first
    | with_reducible refine NextKeeps.mk ?_
    | with_reducible assumption
    | with_reducible refine State.atLeast_keeps ?_
    | with_reducible refine State.failTask_keeps ?_
    | extract_lets
    | split
    | intro _
    | with_reducible refine Keeps.lit ?_
    | dsimp -zeta only

theorem execHashGo_keeps {s : State} {a0} {a1} : NextKeeps s (execHashGo a0 a1 s) := by
  have h := Keeps.refl s
  unfold execHashGo
  iterate 60 all_goals try first
    | with_reducible refine NextKeeps.mk ?_
    | with_reducible assumption
    | with_reducible refine State.hashGo_keeps ?_
    | extract_lets
    | split
    | intro _
    | with_reducible refine Keeps.lit ?_
    | dsimp -zeta only

theorem execHashJobComplete_keeps {s : State} {a0} : NextKeeps s (execHashJobComplete a0 s) := by
  have h := Keeps.refl s
  unfold execHashJobComplete
  iterate 60 all_goals try first
    | with_reducible refine NextKeeps.mk ?_
    | with_reducible assumption
    | with_reducible refine State.endHash_keeps ?_
    | with_reducible refine State.readExtents_keeps ?_
    | with_reducible refine State.retry_keeps ?_ ?_
    | with_reducible refine State.writeExtents_keeps ?_
    | with_reducible refine Keeps.ofEq ?_ (by with_reducible assumption)
    | extract_lets
    | split
    | intro _
    | with_reducible refine Keeps.lit ?_
    | dsimp -zeta only

theorem execHealthPassDue_keeps {s : State} {a0} : NextKeeps s (execHealthPassDue a0 s) := by
  have h := Keeps.refl s
  unfold execHealthPassDue
  iterate 60 all_goals try first
    | with_reducible refine NextKeeps.mk ?_
    | with_reducible assumption
    | with_reducible refine State.atLeast_keeps ?_
    | with_reducible refine State.updHealth_keeps ?_
    | extract_lets
    | split
    | intro _
    | with_reducible refine Keeps.getD (fun t e => ?_) ?_
    | with_reducible refine Keeps.lit ?_
    | dsimp -zeta only

theorem execHealthPassStart_keeps {s : State} {a0} : NextKeeps s (execHealthPassStart a0 s) := by
  have h := Keeps.refl s
  unfold execHealthPassStart
  iterate 60 all_goals try first
    | with_reducible refine NextKeeps.mk ?_
    | with_reducible assumption
    | with_reducible refine State.startPass_keeps ?_
    | extract_lets
    | split
    | intro _
    | with_reducible refine Keeps.lit ?_
    | dsimp -zeta only

theorem execJournalThreshold_keeps {s : State} {a0} : NextKeeps s (execJournalThreshold a0 s) := by
  have h := Keeps.refl s
  unfold execJournalThreshold
  iterate 60 all_goals try first
    | with_reducible refine NextKeeps.mk ?_
    | with_reducible assumption
    | with_reducible refine State.startPass_keeps ?_
    | extract_lets
    | split
    | intro _
    | with_reducible refine Keeps.lit ?_
    | dsimp -zeta only

theorem execHealthPassEnd_keeps {s : State} {a0} {a1} : NextKeeps s (execHealthPassEnd a0 a1 s) := by
  have h := Keeps.refl s
  unfold execHealthPassEnd
  iterate 60 all_goals try first
    | with_reducible refine NextKeeps.mk ?_
    | with_reducible assumption
    | with_reducible refine State.failTile_keeps ?_
    | with_reducible refine State.updHealth_keeps ?_
    | extract_lets
    | split
    | intro _
    | with_reducible refine Keeps.lit ?_
    | dsimp -zeta only

theorem execClosingPassEnd_keeps {s : State} {a0} {a1} : NextKeeps s (execClosingPassEnd a0 a1 s) := by
  have h := Keeps.refl s
  unfold execClosingPassEnd
  iterate 60 all_goals try first
    | with_reducible refine NextKeeps.mk ?_
    | with_reducible assumption
    | with_reducible refine State.failTile_keeps ?_
    | with_reducible refine State.updHealth_keeps ?_
    | extract_lets
    | split
    | intro _
    | with_reducible refine Keeps.lit ?_
    | dsimp -zeta only

theorem execRecallNoticePost_keeps {s : State} {a0} {a1} : NextKeeps s (execRecallNoticePost a0 a1 s) := by
  have h := Keeps.refl s
  unfold execRecallNoticePost
  iterate 60 all_goals try first
    | with_reducible refine NextKeeps.mk ?_
    | with_reducible assumption
    | with_reducible refine State.postNotice_keeps ?_
    | extract_lets
    | split
    | intro _
    | with_reducible refine Keeps.lit ?_
    | dsimp -zeta only

theorem execFaultEventPost_keeps {s : State} {a0} : NextKeeps s (execFaultEventPost a0 s) := by
  have h := Keeps.refl s
  unfold execFaultEventPost
  iterate 60 all_goals try first
    | with_reducible refine NextKeeps.mk ?_
    | with_reducible assumption
    | with_reducible refine State.eventAll_keeps ?_
    | with_reducible refine State.updPart_keeps ?_
    | extract_lets
    | split
    | intro _
    | with_reducible refine Keeps.litFatal ?_
    | with_reducible refine Keeps.lit ?_
    | dsimp -zeta only

theorem execStallDeclare_keeps {s : State} {a0} {a1} {a2} : NextKeeps s (execStallDeclare a0 a1 a2 s) := by
  have h := Keeps.refl s
  unfold execStallDeclare
  iterate 60 all_goals try first
    | with_reducible refine NextKeeps.mk ?_
    | with_reducible assumption
    | with_reducible refine State.atLeast_keeps ?_
    | with_reducible refine State.devFatal_keeps ?_
    | with_reducible refine State.partFatal_keeps ?_
    | extract_lets
    | split
    | intro _
    | with_reducible refine Keeps.lit ?_
    | dsimp -zeta only

theorem execAcmScrubRead_keeps {s : State} {a0} {a1} : NextKeeps s (execAcmScrubRead a0 a1 s) := by
  have h := Keeps.refl s
  unfold execAcmScrubRead
  iterate 60 all_goals try first
    | with_reducible refine NextKeeps.mk ?_
    | with_reducible assumption
    | with_reducible refine State.acmCheckRows_keeps ?_
    | with_reducible refine State.atLeast_keeps ?_
    | with_reducible refine State.spend_keeps ?_
    | with_reducible refine State.strike_keeps ?_
    | with_reducible refine State.updTile_keeps ?_
    | extract_lets
    | split
    | intro _
    | with_reducible refine Keeps.lit ?_
    | dsimp -zeta only

theorem execLsScrubRead_keeps {s : State} {a0} {a1} : NextKeeps s (execLsScrubRead a0 a1 s) := by
  have h := Keeps.refl s
  unfold execLsScrubRead
  iterate 60 all_goals try first
    | with_reducible refine NextKeeps.mk ?_
    | with_reducible assumption
    | with_reducible refine State.atLeast_keeps ?_
    | with_reducible refine State.lsCheck_keeps ?_
    | with_reducible refine State.spend_keeps ?_
    | with_reducible refine State.strike_keeps ?_
    | with_reducible refine State.updTile_keeps ?_
    | with_reducible refine Keeps.foldl ?_ ?_
    | with_reducible refine Keeps.foldlSnd ?_ ?_
    | with_reducible refine Keeps.foldlFst ?_ ?_
    | extract_lets
    | split
    | intro _
    | with_reducible refine Keeps.lit ?_
    | dsimp -zeta only

theorem execConfigurationRequest_keeps {s : State} {a0} {a1} : NextKeeps s (execConfigurationRequest a0 a1 s) := by
  have h := Keeps.refl s
  unfold execConfigurationRequest
  iterate 60 all_goals try first
    | with_reducible refine NextKeeps.mk ?_
    | with_reducible assumption
    | with_reducible refine State.cfgEffect_keeps ?_
    | with_reducible refine State.emit_keeps ?_
    | extract_lets
    | split
    | intro _
    | with_reducible refine Keeps.lit ?_
    | dsimp -zeta only

theorem execAtsInvalidation_keeps {s : State} {a0} {a1} {a2} : NextKeeps s (execAtsInvalidation a0 a1 a2 s) := by
  have h := Keeps.refl s
  unfold execAtsInvalidation
  iterate 60 all_goals try first
    | with_reducible refine NextKeeps.mk ?_
    | with_reducible assumption
    | with_reducible refine State.emit_keeps ?_
    | with_reducible refine State.setHostl_keeps ?_
    | extract_lets
    | split
    | intro _
    | with_reducible refine Keeps.lit ?_
    | dsimp -zeta only

theorem execPfBar2Access_keeps {s : State} {a0} {a1} : NextKeeps s (execPfBar2Access a0 a1 s) := by
  have h := Keeps.refl s
  unfold execPfBar2Access
  iterate 60 all_goals try first
    | with_reducible refine NextKeeps.mk ?_
    | with_reducible assumption
    | with_reducible refine State.access_keeps ?_
    | with_reducible refine State.readExtents_keeps ?_
    | with_reducible refine State.unsupported_keeps ?_
    | with_reducible refine State.writePieces_keeps ?_ ?_
    | with_reducible refine windowRead_keeps ?_
    | with_reducible refine Keeps.ofEq ?_ (by with_reducible assumption)
    | extract_lets
    | split
    | intro _
    | with_reducible refine Keeps.lit ?_
    | dsimp -zeta only

theorem execVfBar2Access_keeps {s : State} {a0} {a1} {a2} {a3} : NextKeeps s (execVfBar2Access a0 a1 a2 a3 s) := by
  have h := Keeps.refl s
  unfold execVfBar2Access
  iterate 60 all_goals try first
    | with_reducible refine NextKeeps.mk ?_
    | with_reducible assumption
    | with_reducible refine State.retry_keeps ?_ ?_
    | with_reducible refine State.unsupported_keeps ?_
    | with_reducible refine State.vfWindow_keeps ?_
    | extract_lets
    | split
    | intro _
    | with_reducible refine Keeps.lit ?_
    | dsimp -zeta only

theorem execRegisterWrite_keeps {s : State} {a0} {a1} : NextKeeps s (execRegisterWrite a0 a1 s) := by
  have h := Keeps.refl s
  unfold execRegisterWrite
  iterate 60 all_goals try first
    | with_reducible refine NextKeeps.mk ?_
    | with_reducible assumption
    | with_reducible refine State.accessBox_keeps ?_
    | with_reducible refine State.emit_keeps ?_
    | with_reducible refine State.pfBar0Write_keeps ?_
    | with_reducible refine State.reservedTag_keeps ?_
    | with_reducible refine State.unsupported_keeps ?_
    | with_reducible refine State.vfBar0Write_keeps ?_
    | with_reducible refine Keeps.ofEq ?_ (by with_reducible assumption)
    | extract_lets
    | split
    | intro _
    | with_reducible refine Keeps.lit ?_
    | dsimp -zeta only

theorem execCsRawRead_keeps {s : State} {a0} : NextKeeps s (execCsRawRead a0 s) := by
  have h := Keeps.refl s
  unfold execCsRawRead
  iterate 60 all_goals try first
    | with_reducible refine NextKeeps.mk ?_
    | with_reducible assumption
    | with_reducible refine State.csRaw_keeps ?_
    | extract_lets
    | split
    | intro _
    | with_reducible refine Keeps.lit ?_
    | dsimp -zeta only

theorem execCsRawWrite_keeps {s : State} {a0} : NextKeeps s (execCsRawWrite a0 s) := by
  have h := Keeps.refl s
  unfold execCsRawWrite
  iterate 60 all_goals try first
    | with_reducible refine NextKeeps.mk ?_
    | with_reducible assumption
    | with_reducible refine State.csRaw_keeps ?_
    | extract_lets
    | split
    | intro _
    | with_reducible refine Keeps.lit ?_
    | dsimp -zeta only

theorem execI3cWriteCapW_keeps {s : State} {a0} : NextKeeps s (execI3cWriteCapW a0 s) := by
  have h := Keeps.refl s
  unfold execI3cWriteCapW
  iterate 60 all_goals try first
    | with_reducible refine NextKeeps.mk ?_
    | with_reducible assumption
    | with_reducible refine State.setBoard_keeps ?_
    | extract_lets
    | split
    | intro _
    | with_reducible refine Keeps.lit ?_
    | dsimp -zeta only

theorem execI3cReadFlags_keeps {s : State} {a0} : NextKeeps s (execI3cReadFlags a0 s) := by
  have h := Keeps.refl s
  unfold execI3cReadFlags
  iterate 60 all_goals try first
    | with_reducible refine NextKeeps.mk ?_
    | with_reducible assumption
    | with_reducible refine State.emit_keeps ?_
    | with_reducible refine State.setBoard_keeps ?_
    | extract_lets
    | split
    | intro _
    | with_reducible refine Keeps.lit ?_
    | dsimp -zeta only

theorem execTapInstruction_keeps {s : State} {a0} : NextKeeps s (execTapInstruction a0 s) := by
  have h := Keeps.refl s
  unfold execTapInstruction
  iterate 60 all_goals try first
    | with_reducible refine NextKeeps.mk ?_
    | with_reducible assumption
    | with_reducible refine State.emit_keeps ?_
    | with_reducible refine State.setBoard_keeps ?_
    | extract_lets
    | split
    | intro _
    | with_reducible refine Keeps.lit ?_
    | dsimp -zeta only

theorem execUartInput_keeps {s : State} {a0} : NextKeeps s (execUartInput a0 s) := by
  have h := Keeps.refl s
  unfold execUartInput
  iterate 60 all_goals try first
    | with_reducible refine NextKeeps.mk ?_
    | with_reducible assumption
    | with_reducible refine State.setBoard_keeps ?_
    | extract_lets
    | split
    | intro _
    | with_reducible refine Keeps.lit ?_
    | dsimp -zeta only

theorem execArbiterSlotStart_keeps {s : State} {a0} {a1} : NextKeeps s (execArbiterSlotStart a0 a1 s) := by
  have h := Keeps.refl s
  unfold execArbiterSlotStart
  iterate 60 all_goals try first
    | with_reducible refine NextKeeps.mk ?_
    | with_reducible assumption
    | with_reducible refine State.commitSlot_keeps ?_
    | with_reducible refine State.hbmSlot_keeps ?_
    | with_reducible refine State.txSlot_keeps ?_
    | with_reducible refine Keeps.foldl ?_ ?_
    | with_reducible refine Keeps.foldlSnd ?_ ?_
    | with_reducible refine Keeps.foldlFst ?_ ?_
    | extract_lets
    | split
    | intro _
    | with_reducible refine Keeps.lit ?_
    | dsimp -zeta only

theorem execHbmAccessComplete_keeps {s : State} {a0} {a1} : NextKeeps s (execHbmAccessComplete a0 a1 s) := by
  have h := Keeps.refl s
  unfold execHbmAccessComplete
  iterate 60 all_goals try first
    | with_reducible refine NextKeeps.mk ?_
    | with_reducible assumption
    | with_reducible refine State.atLeast_keeps ?_
    | with_reducible refine State.orderLine_keeps ?_
    | with_reducible refine State.perform_keeps ?_
    | with_reducible refine State.replyTo_keeps ?_
    | with_reducible refine State.updHbm_keeps ?_
    | with_reducible refine Keeps.ofEq ?_ (by with_reducible assumption)
    | extract_lets
    | split
    | intro _
    | with_reducible refine Keeps.lit ?_
    | dsimp -zeta only

theorem execFabricPacketArrive_keeps {s : State} {a0} : NextKeeps s (execFabricPacketArrive a0 s) := by
  have h := Keeps.refl s
  unfold execFabricPacketArrive
  iterate 60 all_goals try first
    | with_reducible refine NextKeeps.mk ?_
    | with_reducible assumption
    | with_reducible refine State.devFatal_keeps ?_
    | with_reducible refine State.emit_keeps ?_
    | with_reducible refine State.partFatal_keeps ?_
    | with_reducible refine State.record_keeps ?_
    | with_reducible refine State.reservedTag_keeps ?_
    | with_reducible refine State.serveAccess_keeps ?_
    | extract_lets
    | split
    | intro _
    | with_reducible refine Keeps.litFatal ?_
    | with_reducible refine Keeps.lit ?_
    | dsimp -zeta only

theorem execLinkFlitSend_keeps {s : State} {a0} : NextKeeps s (execLinkFlitSend a0 s) := by
  have h := Keeps.refl s
  unfold execLinkFlitSend
  iterate 60 all_goals try first
    | with_reducible refine NextKeeps.mk ?_
    | with_reducible assumption
    | with_reducible refine State.sendFlit_keeps ?_
    | with_reducible refine State.sendNumbered_keeps ?_
    | with_reducible refine State.setArb_keeps ?_
    | with_reducible refine State.updLink_keeps ?_
    | extract_lets
    | split
    | intro _
    | with_reducible refine Keeps.lit ?_
    | dsimp -zeta only

theorem execLinkFlitReceive_keeps {s : State} {a0} {a1} : NextKeeps s (execLinkFlitReceive a0 a1 s) := by
  have h := Keeps.refl s
  unfold execLinkFlitReceive
  iterate 60 all_goals try first
    | with_reducible refine NextKeeps.mk ?_
    | with_reducible assumption
    | with_reducible refine State.netArrive_keeps ?_
    | with_reducible refine State.setLink_keeps ?_
    | extract_lets
    | split
    | intro _
    | with_reducible refine Keeps.lit ?_
    | dsimp -zeta only

theorem execLinkReplay_keeps {s : State} {a0} : NextKeeps s (execLinkReplay a0 s) := by
  have h := Keeps.refl s
  unfold execLinkReplay
  iterate 60 all_goals try first
    | with_reducible refine NextKeeps.mk ?_
    | with_reducible assumption
    | with_reducible refine State.atLeast_keeps ?_
    | with_reducible refine State.record_keeps ?_
    | with_reducible refine State.sendFlit_keeps ?_
    | with_reducible refine State.updLink_keeps ?_
    | with_reducible refine Keeps.foldl ?_ ?_
    | with_reducible refine Keeps.foldlSnd ?_ ?_
    | with_reducible refine Keeps.foldlFst ?_ ?_
    | extract_lets
    | split
    | intro _
    | with_reducible refine Keeps.lit ?_
    | dsimp -zeta only

theorem execLinkFailedAfterReplay_keeps {s : State} {a0} : NextKeeps s (execLinkFailedAfterReplay a0 s) := by
  have h := Keeps.refl s
  unfold execLinkFailedAfterReplay
  iterate 60 all_goals try first
    | with_reducible refine NextKeeps.mk ?_
    | with_reducible assumption
    | with_reducible refine State.linkDown_keeps ?_
    | extract_lets
    | split
    | intro _
    | with_reducible refine Keeps.lit ?_
    | dsimp -zeta only

theorem execLinkTrainingEnd_keeps {s : State} {a0} {a1} : NextKeeps s (execLinkTrainingEnd a0 a1 s) := by
  have h := Keeps.refl s
  unfold execLinkTrainingEnd
  iterate 60 all_goals try first
    | with_reducible refine NextKeeps.mk ?_
    | with_reducible assumption
    | with_reducible refine State.record_keeps ?_
    | with_reducible refine State.setLink_keeps ?_
    | with_reducible refine State.trainFailed_keeps ?_
    | extract_lets
    | split
    | intro _
    | with_reducible refine Keeps.litPutMany ?_ ?_
    | with_reducible refine Keeps.lit ?_
    | dsimp -zeta only

theorem execMbxBellReq_keeps {s : State} {a0} : NextKeeps s (execMbxBellReq a0 s) := by
  have h := Keeps.refl s
  unfold execMbxBellReq
  iterate 60 all_goals try first
    | with_reducible refine NextKeeps.mk ?_
    | with_reducible assumption
    | with_reducible refine State.setReq_keeps ?_
    | with_reducible refine State.takeIrqs_keeps ?_
    | with_reducible refine Keeps.foldl ?_ ?_
    | with_reducible refine Keeps.foldlSnd ?_ ?_
    | with_reducible refine Keeps.foldlFst ?_ ?_
    | extract_lets
    | split
    | intro _
    | with_reducible refine Keeps.lit ?_
    | dsimp -zeta only

theorem execMbxMessageTake_keeps {s : State} {a0} {a1} : NextKeeps s (execMbxMessageTake a0 a1 s) := by
  have h := Keeps.refl s
  unfold execMbxMessageTake
  iterate 60 all_goals try first
    | with_reducible refine NextKeeps.mk ?_
    | with_reducible assumption
    | with_reducible refine State.atLeast_keeps ?_
    | with_reducible refine State.pairMismatch_keeps ?_
    | with_reducible refine State.takeMessage_keeps ?_
    | extract_lets
    | split
    | intro _
    | with_reducible refine Keeps.lit ?_
    | dsimp -zeta only

theorem execMbxBellRspDone_keeps {s : State} {a0} : NextKeeps s (execMbxBellRspDone a0 s) := by
  have h := Keeps.refl s
  unfold execMbxBellRspDone
  iterate 60 all_goals try first
    | with_reducible refine NextKeeps.mk ?_
    | with_reducible assumption
    | with_reducible refine State.ringDone_keeps ?_
    | extract_lets
    | split
    | intro _
    | with_reducible refine Keeps.lit ?_
    | dsimp -zeta only

theorem execMbxEvtHeadWrite_keeps {s : State} {a0} {a1} : NextKeeps s (execMbxEvtHeadWrite a0 a1 s) := by
  have h := Keeps.refl s
  unfold execMbxEvtHeadWrite
  iterate 60 all_goals try first
    | with_reducible refine NextKeeps.mk ?_
    | with_reducible assumption
    | with_reducible refine State.setEvtHead_keeps ?_
    | extract_lets
    | split
    | intro _
    | with_reducible refine Keeps.lit ?_
    | dsimp -zeta only

theorem execSegmentGapTimeout_keeps {s : State} {a0} : NextKeeps s (execSegmentGapTimeout a0 s) := by
  have h := Keeps.refl s
  unfold execSegmentGapTimeout
  iterate 60 all_goals try first
    | with_reducible refine NextKeeps.mk ?_
    | with_reducible assumption
    | with_reducible refine State.atLeast_keeps ?_
    | with_reducible refine State.dropSeg_keeps ?_
    | extract_lets
    | split
    | intro _
    | with_reducible refine Keeps.lit ?_
    | dsimp -zeta only

theorem execStrictMailboxPost_keeps {s : State} {a0} : NextKeeps s (execStrictMailboxPost a0 s) := by
  have h := Keeps.refl s
  unfold execStrictMailboxPost
  iterate 60 all_goals try first
    | with_reducible refine NextKeeps.mk ?_
    | with_reducible assumption
    | with_reducible refine State.atLeast_keeps ?_
    | with_reducible refine State.loadRsp_keeps ?_
    | with_reducible refine State.postEvents_keeps ?_
    | extract_lets
    | split
    | intro _
    | with_reducible refine Keeps.lit ?_
    | dsimp -zeta only

theorem execRootDrained_keeps {s : State} {a0} : NextKeeps s (execRootDrained a0 s) := by
  have h := Keeps.refl s
  unfold execRootDrained
  iterate 60 all_goals try first
    | with_reducible refine NextKeeps.mk ?_
    | with_reducible assumption
    | with_reducible refine State.releaseRoot_keeps ?_
    | extract_lets
    | split
    | intro _
    | with_reducible refine Keeps.lit ?_
    | dsimp -zeta only

theorem execMapUpdateDrainTimeout_keeps {s : State} {a0} : NextKeeps s (execMapUpdateDrainTimeout a0 s) := by
  have h := Keeps.refl s
  unfold execMapUpdateDrainTimeout
  iterate 60 all_goals try first
    | with_reducible refine NextKeeps.mk ?_
    | with_reducible assumption
    | with_reducible refine State.atLeast_keeps ?_
    | with_reducible refine State.commandDone_keeps ?_
    | with_reducible refine State.updPart_keeps ?_
    | extract_lets
    | split
    | intro _
    | with_reducible refine Keeps.lit ?_
    | dsimp -zeta only

theorem execMapUpdate_keeps {s : State} {a0} {a1} : NextKeeps s (execMapUpdate a0 a1 s) := by
  have h := Keeps.refl s
  unfold execMapUpdate
  iterate 60 all_goals try first
    | with_reducible refine NextKeeps.mk ?_
    | with_reducible assumption
    | with_reducible refine State.accept_keeps ?_
    | with_reducible refine State.answer_keeps ?_
    | with_reducible refine State.changed_keeps_of_eq ?_ (by with_reducible assumption)
    | with_reducible refine State.newRoot_keeps ?_
    | with_reducible refine State.serve_keeps ?_ ?_
    | extract_lets
    | split
    | intro _
    | with_reducible refine Keeps.lit ?_
    | dsimp -zeta only

theorem execRegionCreate_keeps {s : State} {a0} {a1} : NextKeeps s (execRegionCreate a0 a1 s) := by
  have h := Keeps.refl s
  unfold execRegionCreate
  iterate 60 all_goals try first
    | with_reducible refine NextKeeps.mk ?_
    | with_reducible assumption
    | with_reducible refine State.accept_keeps ?_
    | with_reducible refine State.answer_keeps ?_
    | with_reducible refine State.changed_keeps_of_eq ?_ (by with_reducible assumption)
    | with_reducible refine State.newRoot_keeps ?_
    | with_reducible refine State.serve_keeps ?_ ?_
    | with_reducible refine State.setRegion_keeps ?_
    | extract_lets
    | split
    | intro _
    | with_reducible refine Keeps.lit ?_
    | dsimp -zeta only

theorem execRegionUpdate_keeps {s : State} {a0} {a1} : NextKeeps s (execRegionUpdate a0 a1 s) := by
  have h := Keeps.refl s
  unfold execRegionUpdate
  iterate 60 all_goals try first
    | with_reducible refine NextKeeps.mk ?_
    | with_reducible assumption
    | with_reducible refine State.accept_keeps ?_
    | with_reducible refine State.answer_keeps ?_
    | with_reducible refine State.commandDone_keeps ?_
    | with_reducible refine State.serve_keeps ?_ ?_
    | with_reducible refine State.updRegion_keeps ?_
    | extract_lets
    | split
    | intro _
    | with_reducible refine Keeps.lit ?_
    | dsimp -zeta only

theorem execRegionRetire_keeps {s : State} {a0} {a1} : NextKeeps s (execRegionRetire a0 a1 s) := by
  have h := Keeps.refl s
  unfold execRegionRetire
  iterate 60 all_goals try first
    | with_reducible refine NextKeeps.mk ?_
    | with_reducible assumption
    | with_reducible refine State.accept_keeps ?_
    | with_reducible refine State.answer_keeps ?_
    | with_reducible refine State.commandDone_keeps ?_
    | with_reducible refine State.serve_keeps ?_ ?_
    | with_reducible refine State.updRegion_keeps ?_
    | extract_lets
    | split
    | intro _
    | with_reducible refine Keeps.lit ?_
    | dsimp -zeta only

theorem execRegionStatus_keeps {s : State} {a0} {a1} : NextKeeps s (execRegionStatus a0 a1 s) := by
  have h := Keeps.refl s
  unfold execRegionStatus
  iterate 60 all_goals try first
    | with_reducible refine NextKeeps.mk ?_
    | with_reducible assumption
    | with_reducible refine State.answer_keeps ?_
    | with_reducible refine State.serve_keeps ?_ ?_
    | extract_lets
    | split
    | intro _
    | with_reducible refine Keeps.lit ?_
    | dsimp -zeta only

theorem execRegionUpdateStart_keeps {s : State} {a0} : NextKeeps s (execRegionUpdateStart a0 s) := by
  have h := Keeps.refl s
  unfold execRegionUpdateStart
  iterate 60 all_goals try first
    | with_reducible refine NextKeeps.mk ?_
    | with_reducible assumption
    | with_reducible refine State.endUpdate_keeps ?_
    | with_reducible refine State.range_keeps ?_
    | with_reducible refine State.updRegion_keeps ?_
    | with_reducible refine Keeps.ofEq ?_ (by with_reducible assumption)
    | extract_lets
    | split
    | intro _
    | with_reducible refine Keeps.lit ?_
    | dsimp -zeta only

theorem execRegionUpdateComplete_keeps {s : State} {a0} : NextKeeps s (execRegionUpdateComplete a0 s) := by
  have h := Keeps.refl s
  unfold execRegionUpdateComplete
  iterate 60 all_goals try first
    | with_reducible refine NextKeeps.mk ?_
    | with_reducible assumption
    | with_reducible refine State.endUpdate_keeps ?_
    | with_reducible refine State.updRegion_keeps ?_
    | extract_lets
    | split
    | intro _
    | with_reducible refine Keeps.lit ?_
    | dsimp -zeta only

theorem execRegionRetireComplete_keeps {s : State} {a0} : NextKeeps s (execRegionRetireComplete a0 s) := by
  have h := Keeps.refl s
  unfold execRegionRetireComplete
  iterate 60 all_goals try first
    | with_reducible refine NextKeeps.mk ?_
    | with_reducible assumption
    | with_reducible refine State.changed_keeps_of_eq ?_ (by with_reducible assumption)
    | with_reducible refine State.commandDone_keeps ?_
    | with_reducible refine State.newRoot_keeps ?_
    | with_reducible refine State.setRegion_keeps ?_
    | extract_lets
    | split
    | intro _
    | with_reducible refine Keeps.lit ?_
    | dsimp -zeta only

theorem execHbmTempRead_keeps {s : State} {a0} : NextKeeps s (execHbmTempRead a0 s) := by
  have h := Keeps.refl s
  unfold execHbmTempRead
  iterate 60 all_goals try first
    | with_reducible refine NextKeeps.mk ?_
    | with_reducible assumption
    | with_reducible refine State.atLeast_keeps ?_
    | with_reducible refine State.setPlant_keeps ?_
    | with_reducible refine State.updHbm_keeps ?_
    | with_reducible refine Keeps.foldl ?_ ?_
    | with_reducible refine Keeps.foldlSnd ?_ ?_
    | with_reducible refine Keeps.foldlFst ?_ ?_
    | extract_lets
    | split
    | intro _
    | with_reducible refine Keeps.getD (fun t e => ?_) ?_
    | with_reducible refine Keeps.lit ?_
    | dsimp -zeta only

theorem execHbmThermal_keeps {s : State} {a0} : NextKeeps s (execHbmThermal a0 s) := by
  have h := Keeps.refl s
  unfold execHbmThermal
  iterate 60 all_goals try first
    | with_reducible refine NextKeeps.mk ?_
    | with_reducible assumption
    | with_reducible refine State.atLeast_keeps ?_
    | with_reducible refine State.failController_keeps ?_
    | extract_lets
    | split
    | intro _
    | with_reducible refine Keeps.lit ?_
    | dsimp -zeta only

theorem execHbmScrubRead_keeps {s : State} {a0} {a1} : NextKeeps s (execHbmScrubRead a0 a1 s) := by
  have h := Keeps.refl s
  unfold execHbmScrubRead
  iterate 60 all_goals try first
    | with_reducible refine NextKeeps.mk ?_
    | with_reducible assumption
    | with_reducible refine State.atLeast_keeps ?_
    | with_reducible refine State.fillSlot_keeps ?_
    | with_reducible refine State.readLine_keeps ?_
    | with_reducible refine State.setArb_keeps ?_
    | with_reducible refine State.slotAt_keeps ?_
    | with_reducible refine State.updHbm_keeps ?_
    | with_reducible refine Keeps.ofEq ?_ (by with_reducible assumption)
    | extract_lets
    | split
    | intro _
    | with_reducible refine Keeps.lit ?_
    | dsimp -zeta only

theorem execHbmRefresh_keeps {s : State} {a0} : NextKeeps s (execHbmRefresh a0 s) := by
  have h := Keeps.refl s
  unfold execHbmRefresh
  iterate 60 all_goals try first
    | with_reducible refine NextKeeps.mk ?_
    | with_reducible assumption
    | with_reducible refine State.updHbm_keeps ?_
    | extract_lets
    | split
    | intro _
    | with_reducible refine Keeps.lit ?_
    | dsimp -zeta only

theorem execHbmDieLost_keeps {s : State} {a0} {a1} : NextKeeps s (execHbmDieLost a0 a1 s) := by
  have h := Keeps.refl s
  unfold execHbmDieLost
  iterate 60 all_goals try first
    | with_reducible refine NextKeeps.mk ?_
    | with_reducible assumption
    | with_reducible refine State.loseDie_keeps ?_
    | extract_lets
    | split
    | intro _
    | with_reducible refine Keeps.lit ?_
    | dsimp -zeta only

theorem execPaceWindowEnd_keeps {s : State} {a0} : NextKeeps s (execPaceWindowEnd a0 s) := by
  have h := Keeps.refl s
  unfold execPaceWindowEnd
  iterate 60 all_goals try first
    | with_reducible refine NextKeeps.mk ?_
    | with_reducible assumption
    | with_reducible refine State.atLeast_keeps ?_
    | with_reducible refine State.paceWindow_keeps ?_
    | with_reducible refine State.setPlant_keeps ?_
    | with_reducible refine Keeps.foldl ?_ ?_
    | with_reducible refine Keeps.foldlSnd ?_ ?_
    | with_reducible refine Keeps.foldlFst ?_ ?_
    | extract_lets
    | split
    | intro _
    | with_reducible refine Keeps.lit ?_
    | dsimp -zeta only

theorem execPowerLoopTick_keeps {s : State} {a0} : NextKeeps s (execPowerLoopTick a0 s) := by
  have h := Keeps.refl s
  unfold execPowerLoopTick
  iterate 60 all_goals try first
    | with_reducible refine NextKeeps.mk ?_
    | with_reducible assumption
    | with_reducible refine State.atLeast_keeps ?_
    | with_reducible refine State.profile_keeps ?_
    | with_reducible refine State.setPlant_keeps ?_
    | extract_lets
    | split
    | intro _
    | with_reducible refine Keeps.lit ?_
    | dsimp -zeta only

theorem execPaceDeficit_keeps {s : State} {a0} : NextKeeps s (execPaceDeficit a0 s) := by
  have h := Keeps.refl s
  unfold execPaceDeficit
  dsimp only
  iterate 60 all_goals try first
    | with_reducible refine NextKeeps.mk ?_
    | with_reducible assumption
    | with_reducible refine State.atLeast_keeps ?_
    | with_reducible refine State.countFatal_keeps ?_
    | with_reducible refine State.fatalTo_keeps ?_
    | with_reducible refine State.partFatal_keeps ?_
    | with_reducible refine State.setPlant_keeps ?_
    | extract_lets
    | split
    | intro _
    | with_reducible refine Keeps.lit ?_
    | dsimp -zeta only

theorem execOutOfRating_keeps {s : State} {a0} : NextKeeps s (execOutOfRating a0 s) := by
  have h := Keeps.refl s
  unfold execOutOfRating
  iterate 60 all_goals try first
    | with_reducible refine NextKeeps.mk ?_
    | with_reducible assumption
    | with_reducible refine State.devFatal_keeps ?_
    | with_reducible refine State.setPlant_keeps ?_
    | extract_lets
    | split
    | intro _
    | with_reducible refine Keeps.lit ?_
    | dsimp -zeta only

theorem execTokenRelease_keeps {s : State} {a0} : NextKeeps s (execTokenRelease a0 s) := by
  have h := Keeps.refl s
  unfold execTokenRelease
  iterate 60 all_goals try first
    | with_reducible refine NextKeeps.mk ?_
    | with_reducible assumption
    | with_reducible refine State.updTile_keeps ?_
    | with_reducible refine Keeps.foldl ?_ ?_
    | with_reducible refine Keeps.foldlSnd ?_ ?_
    | with_reducible refine Keeps.foldlFst ?_ ?_
    | extract_lets
    | split
    | intro _
    | with_reducible refine Keeps.lit ?_
    | dsimp -zeta only

theorem execPwrBrakeAssert_keeps {s : State} : NextKeeps s (execPwrBrakeAssert s) := by
  have h := Keeps.refl s
  unfold execPwrBrakeAssert
  iterate 60 all_goals try first
    | with_reducible refine NextKeeps.mk ?_
    | with_reducible assumption
    | with_reducible refine State.setPlant_keeps ?_
    | extract_lets
    | split
    | intro _
    | with_reducible refine Keeps.lit ?_
    | dsimp -zeta only

theorem execPwrBrakeRelease_keeps {s : State} : NextKeeps s (execPwrBrakeRelease s) := by
  have h := Keeps.refl s
  unfold execPwrBrakeRelease
  iterate 60 all_goals try first
    | with_reducible refine NextKeeps.mk ?_
    | with_reducible assumption
    | with_reducible refine State.setPlant_keeps ?_
    | extract_lets
    | split
    | intro _
    | with_reducible refine Keeps.lit ?_
    | dsimp -zeta only

theorem execVrHotAssert_keeps {s : State} : NextKeeps s (execVrHotAssert s) := by
  have h := Keeps.refl s
  unfold execVrHotAssert
  iterate 60 all_goals try first
    | with_reducible refine NextKeeps.mk ?_
    | with_reducible assumption
    | with_reducible refine State.setPlant_keeps ?_
    | extract_lets
    | split
    | intro _
    | with_reducible refine Keeps.lit ?_
    | dsimp -zeta only

theorem execClockLoss_keeps {s : State} {a0} : NextKeeps s (execClockLoss a0 s) := by
  have h := Keeps.refl s
  unfold execClockLoss
  iterate 60 all_goals try first
    | with_reducible refine NextKeeps.mk ?_
    | with_reducible assumption
    | with_reducible refine State.breakOver_keeps ?_
    | with_reducible refine State.devFatal_keeps ?_
    | with_reducible refine State.linkDown_keeps ?_
    | with_reducible refine State.loseController_keeps ?_
    | with_reducible refine State.record_keeps ?_
    | with_reducible refine State.setPlant_keeps ?_
    | with_reducible refine State.updLink_keeps ?_
    | with_reducible refine Keeps.foldl ?_ ?_
    | with_reducible refine Keeps.foldlSnd ?_ ?_
    | with_reducible refine Keeps.foldlFst ?_ ?_
    | extract_lets
    | split
    | intro _
    | with_reducible refine Keeps.litFatal ?_
    | with_reducible refine Keeps.lit ?_
    | dsimp -zeta only

theorem execProtectPropose_keeps {s : State} {a0} {a1} : NextKeeps s (execProtectPropose a0 a1 s) := by
  have h := Keeps.refl s
  unfold execProtectPropose
  iterate 60 all_goals try first
    | with_reducible refine NextKeeps.mk ?_
    | with_reducible assumption
    | with_reducible refine State.askSigned_keeps ?_
    | with_reducible refine State.serve_keeps ?_ ?_
    | extract_lets
    | split
    | intro _
    | with_reducible refine Keeps.lit ?_
    | dsimp -zeta only

theorem execProtectApprove_keeps {s : State} {a0} {a1} : NextKeeps s (execProtectApprove a0 a1 s) := by
  have h := Keeps.refl s
  unfold execProtectApprove
  iterate 60 all_goals try first
    | with_reducible refine NextKeeps.mk ?_
    | with_reducible assumption
    | with_reducible refine State.askSigned_keeps ?_
    | with_reducible refine State.serve_keeps ?_ ?_
    | extract_lets
    | split
    | intro _
    | with_reducible refine Keeps.lit ?_
    | dsimp -zeta only

theorem execSetMode_keeps {s : State} {a0} {a1} : NextKeeps s (execSetMode a0 a1 s) := by
  have h := Keeps.refl s
  unfold execSetMode
  iterate 60 all_goals try first
    | with_reducible refine NextKeeps.mk ?_
    | with_reducible assumption
    | with_reducible refine State.accept_keeps ?_
    | with_reducible refine State.answer_keeps ?_
    | with_reducible refine State.applyDevice_keeps ?_
    | with_reducible refine State.checkWait_keeps ?_
    | with_reducible refine State.holdAll_keeps ?_
    | with_reducible refine State.serve_keeps ?_ ?_
    | extract_lets
    | split
    | intro _
    | with_reducible refine Keeps.litFatal ?_
    | with_reducible refine Keeps.lit ?_
    | dsimp -zeta only

theorem execProtectCommit_keeps {s : State} {a0} {a1} : NextKeeps s (execProtectCommit a0 a1 s) := by
  have h := Keeps.refl s
  unfold execProtectCommit
  iterate 60 all_goals try first
    | with_reducible refine NextKeeps.mk ?_
    | with_reducible assumption
    | with_reducible refine State.askSigned_keeps ?_
    | with_reducible refine State.serve_keeps ?_ ?_
    | extract_lets
    | split
    | intro _
    | with_reducible refine Keeps.lit ?_
    | dsimp -zeta only

theorem execProtectWithdraw_keeps {s : State} {a0} {a1} : NextKeeps s (execProtectWithdraw a0 a1 s) := by
  have h := Keeps.refl s
  unfold execProtectWithdraw
  iterate 60 all_goals try first
    | with_reducible refine NextKeeps.mk ?_
    | with_reducible assumption
    | with_reducible refine State.askSigned_keeps ?_
    | with_reducible refine State.serve_keeps ?_ ?_
    | extract_lets
    | split
    | intro _
    | with_reducible refine Keeps.lit ?_
    | dsimp -zeta only

theorem execAuthorityList_keeps {s : State} {a0} {a1} : NextKeeps s (execAuthorityList a0 a1 s) := by
  have h := Keeps.refl s
  unfold execAuthorityList
  iterate 60 all_goals try first
    | with_reducible refine NextKeeps.mk ?_
    | with_reducible assumption
    | with_reducible refine State.answer_keeps ?_
    | with_reducible refine State.serve_keeps ?_ ?_
    | extract_lets
    | split
    | intro _
    | with_reducible refine Keeps.lit ?_
    | dsimp -zeta only

theorem execProposalExpiry_keeps {s : State} {a0} : NextKeeps s (execProposalExpiry a0 s) := by
  have h := Keeps.refl s
  unfold execProposalExpiry
  iterate 60 all_goals try first
    | with_reducible refine NextKeeps.mk ?_
    | with_reducible assumption
    | with_reducible refine State.atLeast_keeps ?_
    | with_reducible refine State.proposalEvent_keeps ?_
    | with_reducible refine State.setProposal_keeps ?_
    | extract_lets
    | split
    | intro _
    | with_reducible refine Keeps.lit ?_
    | dsimp -zeta only

theorem execProtectedRecordWritten_keeps {s : State} : NextKeeps s (execProtectedRecordWritten s) := by
  have h := Keeps.refl s
  unfold execProtectedRecordWritten
  iterate 60 all_goals try first
    | with_reducible refine NextKeeps.mk ?_
    | with_reducible assumption
    | with_reducible refine State.endWait_keeps ?_
    | with_reducible refine State.eventAll_keeps ?_
    | with_reducible refine State.setProposal_keeps ?_
    | extract_lets
    | split
    | intro _
    | with_reducible refine Keeps.litFatal ?_
    | with_reducible refine Keeps.lit ?_
    | dsimp -zeta only

theorem execConfigLoad_keeps {s : State} {a0} {a1} {a2} : NextKeeps s (execConfigLoad a0 a1 a2 s) := by
  have h := Keeps.refl s
  unfold execConfigLoad
  iterate 60 all_goals try first
    | with_reducible refine NextKeeps.mk ?_
    | with_reducible assumption
    | with_reducible refine State.accept_keeps ?_
    | with_reducible refine State.addTask_keeps ?_
    | with_reducible refine State.atsTouch_keeps ?_
    | with_reducible refine State.commandDone_keeps ?_
    | with_reducible refine State.serve_keeps ?_ ?_
    | extract_lets
    | split
    | intro _
    | with_reducible refine Keeps.lit ?_
    | dsimp -zeta only

theorem execFlashWriteComplete_keeps {s : State} : NextKeeps s (execFlashWriteComplete s) := by
  have h := Keeps.refl s
  unfold execFlashWriteComplete
  iterate 60 all_goals try first
    | with_reducible refine NextKeeps.mk ?_
    | with_reducible assumption
    | with_reducible refine State.commandDone_keeps ?_
    | extract_lets
    | split
    | intro _
    | with_reducible refine Keeps.litFatal ?_
    | with_reducible refine Keeps.lit ?_
    | dsimp -zeta only

theorem execSubmitPass_keeps {s : State} {a0} {a1} {a2} {a3} : NextKeeps s (execSubmitPass a0 a1 a2 a3 s) := by
  have h := Keeps.refl s
  unfold execSubmitPass
  iterate 60 all_goals try first
    | with_reducible refine NextKeeps.mk ?_
    | with_reducible assumption
    | with_reducible refine State.ledgerEcc_keeps ?_
    | with_reducible refine State.retry_keeps ?_ ?_
    | with_reducible refine State.submit_keeps ?_
    | extract_lets
    | split
    | intro _
    | with_reducible refine Keeps.lit ?_
    | dsimp -zeta only

theorem execSubmitMove_keeps {s : State} {a0} {a1} {a2} : NextKeeps s (execSubmitMove a0 a1 a2 s) := by
  have h := Keeps.refl s
  unfold execSubmitMove
  iterate 60 all_goals try first
    | with_reducible refine NextKeeps.mk ?_
    | with_reducible assumption
    | with_reducible refine State.retry_keeps ?_ ?_
    | with_reducible refine State.submit_keeps ?_
    | extract_lets
    | split
    | intro _
    | with_reducible refine Keeps.lit ?_
    | dsimp -zeta only

theorem execSubmitStream_keeps {s : State} {a0} {a1} {a2} : NextKeeps s (execSubmitStream a0 a1 a2 s) := by
  have h := Keeps.refl s
  unfold execSubmitStream
  iterate 60 all_goals try first
    | with_reducible refine NextKeeps.mk ?_
    | with_reducible assumption
    | with_reducible refine State.retry_keeps ?_ ?_
    | with_reducible refine State.submit_keeps ?_
    | extract_lets
    | split
    | intro _
    | with_reducible refine Keeps.lit ?_
    | dsimp -zeta only

theorem execSubmitStreamClose_keeps {s : State} {a0} {a1} {a2} : NextKeeps s (execSubmitStreamClose a0 a1 a2 s) := by
  have h := Keeps.refl s
  unfold execSubmitStreamClose
  iterate 60 all_goals try first
    | with_reducible refine NextKeeps.mk ?_
    | with_reducible assumption
    | with_reducible refine State.retry_keeps ?_ ?_
    | with_reducible refine State.submit_keeps ?_
    | extract_lets
    | split
    | intro _
    | with_reducible refine Keeps.lit ?_
    | dsimp -zeta only

theorem execSqTailWrite_keeps {s : State} {a0} {a1} {a2} : NextKeeps s (execSqTailWrite a0 a1 a2 s) := by
  have h := Keeps.refl s
  unfold execSqTailWrite
  iterate 60 all_goals try first
    | with_reducible refine NextKeeps.mk ?_
    | with_reducible assumption
    | with_reducible refine State.hostBell_keeps ?_
    | extract_lets
    | split
    | intro _
    | with_reducible refine Keeps.lit ?_
    | dsimp -zeta only

theorem execCqHeadWrite_keeps {s : State} {a0} {a1} {a2} : NextKeeps s (execCqHeadWrite a0 a1 a2 s) := by
  have h := Keeps.refl s
  unfold execCqHeadWrite
  iterate 60 all_goals try first
    | with_reducible refine NextKeeps.mk ?_
    | with_reducible assumption
    | with_reducible refine State.hostBell_keeps ?_
    | extract_lets
    | split
    | intro _
    | with_reducible refine Keeps.lit ?_
    | dsimp -zeta only

theorem execAdmissionWindow_keeps {s : State} {a0} : NextKeeps s (execAdmissionWindow a0 s) := by
  have h := Keeps.refl s
  unfold execAdmissionWindow
  iterate 60 all_goals try first
    | with_reducible refine NextKeeps.mk ?_
    | with_reducible assumption
    | with_reducible refine State.atLeast_keeps ?_
    | with_reducible refine State.forEach_keeps ?_ ?_
    | with_reducible refine State.retry_keeps ?_ ?_
    | with_reducible refine State.takeEntry_keeps_of_eq ?_ (by with_reducible assumption)
    | with_reducible refine State.updPart_keeps ?_
    | with_reducible refine State.windowApply_keeps ?_
    | extract_lets
    | split
    | intro _
    | with_reducible refine Keeps.getD (fun t e => ?_) ?_
    | with_reducible refine Keeps.litFatal ?_
    | with_reducible refine Keeps.lit ?_
    | dsimp -zeta only

theorem execCompletionPost_keeps {s : State} {a0} : NextKeeps s (execCompletionPost a0 s) := by
  have h := Keeps.refl s
  unfold execCompletionPost
  iterate 60 all_goals try first
    | with_reducible refine NextKeeps.mk ?_
    | with_reducible assumption
    | with_reducible refine State.atLeast_keeps ?_
    | with_reducible refine State.postLedger_keeps ?_
    | extract_lets
    | split
    | intro _
    | with_reducible refine Keeps.lit ?_
    | dsimp -zeta only

theorem execCompletionReady_keeps {s : State} {a0} : NextKeeps s (execCompletionReady a0 s) := by
  have h := Keeps.refl s
  unfold execCompletionReady
  iterate 60 all_goals try first
    | with_reducible refine NextKeeps.mk ?_
    | with_reducible assumption
    | with_reducible refine State.endRequest_keeps ?_
    | with_reducible refine State.retry_keeps ?_ ?_
    | with_reducible refine State.runPhase_keeps ?_
    | with_reducible refine State.setLed_keeps ?_
    | with_reducible refine State.writeExtents_keeps ?_
    | with_reducible refine Keeps.ofEq ?_ (by with_reducible assumption)
    | extract_lets
    | split
    | intro _
    | with_reducible refine Keeps.lit ?_
    | dsimp -zeta only

theorem execStreamNextPass_keeps {s : State} {a0} : NextKeeps s (execStreamNextPass a0 s) := by
  have h := Keeps.refl s
  unfold execStreamNextPass
  iterate 60 all_goals try first
    | with_reducible refine NextKeeps.mk ?_
    | with_reducible assumption
    | with_reducible refine State.dealRanks_keeps ?_
    | with_reducible refine State.endRequest_keeps ?_
    | with_reducible refine State.setLed_keeps ?_
    | with_reducible refine State.updLed_keeps ?_
    | extract_lets
    | split
    | intro _
    | with_reducible refine Keeps.lit ?_
    | dsimp -zeta only

theorem execDispatch_keeps {s : State} {a0} : NextKeeps s (execDispatch a0 s) := by
  have h := Keeps.refl s
  unfold execDispatch
  iterate 60 all_goals try first
    | with_reducible refine NextKeeps.mk ?_
    | with_reducible assumption
    | with_reducible refine State.endRequest_keeps ?_
    | with_reducible refine State.firstDispatch_keeps ?_
    | with_reducible refine State.retry_keeps ?_ ?_
    | with_reducible refine State.runPhase_keeps ?_
    | with_reducible refine State.setTile_keeps ?_
    | with_reducible refine State.updLed_keeps ?_
    | with_reducible refine Keeps.ofEq ?_ (by with_reducible assumption)
    | extract_lets
    | split
    | intro _
    | with_reducible refine Keeps.lit ?_
    | dsimp -zeta only

theorem execMoveDispatch_keeps {s : State} {a0} : NextKeeps s (execMoveDispatch a0 s) := by
  have h := Keeps.refl s
  unfold execMoveDispatch
  iterate 60 all_goals try first
    | with_reducible refine NextKeeps.mk ?_
    | with_reducible assumption
    | with_reducible refine State.firstDispatch_keeps ?_
    | with_reducible refine State.retry_keeps ?_ ?_
    | with_reducible refine State.updPart_keeps ?_
    | extract_lets
    | split
    | intro _
    | with_reducible refine Keeps.litFatal ?_
    | with_reducible refine Keeps.lit ?_
    | dsimp -zeta only

theorem execQueueDmaFailure_keeps {s : State} {a0} {a1} {a2} : NextKeeps s (execQueueDmaFailure a0 a1 a2 s) := by
  have h := Keeps.refl s
  unfold execQueueDmaFailure
  iterate 60 all_goals try first
    | with_reducible refine NextKeeps.mk ?_
    | with_reducible assumption
    | with_reducible refine State.stopQueue_keeps ?_
    | extract_lets
    | split
    | intro _
    | with_reducible refine Keeps.lit ?_
    | dsimp -zeta only

theorem execQuietPointReached_keeps {s : State} {a0} : NextKeeps s (execQuietPointReached a0 s) := by
  have h := Keeps.refl s
  unfold execQuietPointReached
  iterate 60 all_goals try first
    | with_reducible refine NextKeeps.mk ?_
    | with_reducible assumption
    | with_reducible refine State.quietPoint_keeps ?_
    | extract_lets
    | split
    | intro _
    | with_reducible refine Keeps.lit ?_
    | dsimp -zeta only

theorem execPaceLock_keeps {s : State} {a0} {a1} : NextKeeps s (execPaceLock a0 a1 s) := by
  have h := Keeps.refl s
  unfold execPaceLock
  iterate 60 all_goals try first
    | with_reducible refine NextKeeps.mk ?_
    | with_reducible assumption
    | with_reducible refine State.accept_keeps ?_
    | with_reducible refine State.addJob_keeps ?_
    | with_reducible refine State.answer_keeps ?_
    | with_reducible refine State.serve_keeps ?_ ?_
    | extract_lets
    | split
    | intro _
    | with_reducible refine Keeps.lit ?_
    | dsimp -zeta only

theorem execSelfTestRun_keeps {s : State} {a0} {a1} : NextKeeps s (execSelfTestRun a0 a1 s) := by
  have h := Keeps.refl s
  unfold execSelfTestRun
  iterate 60 all_goals try first
    | with_reducible refine NextKeeps.mk ?_
    | with_reducible assumption
    | with_reducible refine State.accept_keeps ?_
    | with_reducible refine State.addJob_keeps ?_
    | with_reducible refine State.answer_keeps ?_
    | with_reducible refine State.serve_keeps ?_ ?_
    | extract_lets
    | split
    | intro _
    | with_reducible refine Keeps.litFatal ?_
    | with_reducible refine Keeps.lit ?_
    | dsimp -zeta only

theorem execKnownPatternTestEnd_keeps {s : State} {a0} {a1} : NextKeeps s (execKnownPatternTestEnd a0 a1 s) := by
  have h := Keeps.refl s
  unfold execKnownPatternTestEnd
  iterate 60 all_goals try first
    | with_reducible refine NextKeeps.mk ?_
    | with_reducible assumption
    | with_reducible refine State.commandDone_keeps ?_
    | with_reducible refine State.devFatal_keeps ?_
    | with_reducible refine State.failTile_keeps ?_
    | with_reducible refine Keeps.foldl ?_ ?_
    | with_reducible refine Keeps.foldlSnd ?_ ?_
    | with_reducible refine Keeps.foldlFst ?_ ?_
    | extract_lets
    | split
    | intro _
    | with_reducible refine Keeps.litFatal ?_
    | with_reducible refine Keeps.lit ?_
    | dsimp -zeta only

theorem execConfidentialEnter_keeps {s : State} {a0} {a1} : NextKeeps s (execConfidentialEnter a0 a1 s) := by
  have h := Keeps.refl s
  unfold execConfidentialEnter
  iterate 60 all_goals try first
    | with_reducible refine NextKeeps.mk ?_
    | with_reducible assumption
    | with_reducible refine State.accept_keeps ?_
    | with_reducible refine State.addJob_keeps ?_
    | with_reducible refine State.answer_keeps ?_
    | with_reducible refine State.serve_keeps ?_ ?_
    | with_reducible refine State.updPart_keeps ?_
    | extract_lets
    | split
    | intro _
    | with_reducible refine Keeps.lit ?_
    | dsimp -zeta only

theorem execQuietTimeout_keeps {s : State} {a0} : NextKeeps s (execQuietTimeout a0 s) := by
  have h := Keeps.refl s
  unfold execQuietTimeout
  iterate 60 all_goals try first
    | with_reducible refine NextKeeps.mk ?_
    | with_reducible assumption
    | with_reducible refine State.timeoutJob_keeps ?_
    | with_reducible refine State.timeoutWait_keeps ?_
    | extract_lets
    | split
    | intro _
    | with_reducible refine Keeps.lit ?_
    | dsimp -zeta only

theorem execPartitionRestart_keeps {s : State} {a0} {a1} : NextKeeps s (execPartitionRestart a0 a1 s) := by
  have h := Keeps.refl s
  unfold execPartitionRestart
  iterate 60 all_goals try first
    | with_reducible refine NextKeeps.mk ?_
    | with_reducible assumption
    | with_reducible refine State.accept_keeps ?_
    | with_reducible refine State.answer_keeps ?_
    | with_reducible refine State.beginRestart_keeps ?_
    | with_reducible refine State.serve_keeps ?_ ?_
    | extract_lets
    | split
    | intro _
    | with_reducible refine Keeps.lit ?_
    | dsimp -zeta only

theorem execVfFlr_keeps {s : State} {a0} : NextKeeps s (execVfFlr a0 s) := by
  have h := Keeps.refl s
  unfold execVfFlr
  iterate 60 all_goals try first
    | with_reducible refine NextKeeps.mk ?_
    | with_reducible assumption
    | with_reducible refine State.beginRestart_keeps ?_
    | with_reducible refine State.orphan_keeps ?_
    | with_reducible refine State.resetVf_keeps ?_
    | with_reducible refine State.tdiError_keeps ?_
    | with_reducible refine State.updBox_keeps ?_
    | with_reducible refine State.updPart_keeps ?_
    | extract_lets
    | split
    | intro _
    | with_reducible refine Keeps.lit ?_
    | dsimp -zeta only

theorem execRestartPassEnd_keeps {s : State} {a0} {a1} : NextKeeps s (execRestartPassEnd a0 a1 s) := by
  have h := Keeps.refl s
  unfold execRestartPassEnd
  iterate 60 all_goals try first
    | with_reducible refine NextKeeps.mk ?_
    | with_reducible assumption
    | with_reducible refine State.clearPoison_keeps ?_
    | with_reducible refine State.fatalNote_keeps ?_
    | with_reducible refine State.finishRestart_keeps ?_
    | with_reducible refine State.retireTile_keeps ?_
    | with_reducible refine State.reviveTile_keeps ?_
    | with_reducible refine Keeps.foldl ?_ ?_
    | with_reducible refine Keeps.foldlSnd ?_ ?_
    | with_reducible refine Keeps.foldlFst ?_ ?_
    | extract_lets
    | split
    | intro _
    | with_reducible refine Keeps.lit ?_
    | dsimp -zeta only

theorem execIntegerAlu_keeps {s : State} {a0} {a1} {a2} : NextKeeps s (execIntegerAlu a0 a1 a2 s) := by
  have h := Keeps.refl s
  unfold execIntegerAlu
  iterate 60 all_goals try first
    | with_reducible refine NextKeeps.mk ?_
    | with_reducible assumption
    | with_reducible refine State.sisReg_keeps ?_
    | extract_lets
    | split
    | intro _
    | with_reducible refine Keeps.lit ?_
    | dsimp -zeta only

theorem execAluImmediate_keeps {s : State} {a0} {a1} {a2} : NextKeeps s (execAluImmediate a0 a1 a2 s) := by
  have h := Keeps.refl s
  unfold execAluImmediate
  iterate 60 all_goals try first
    | with_reducible refine NextKeeps.mk ?_
    | with_reducible assumption
    | with_reducible refine State.sisReg_keeps ?_
    | extract_lets
    | split
    | intro _
    | with_reducible refine Keeps.lit ?_
    | dsimp -zeta only

theorem execShiftImmediate_keeps {s : State} {a0} {a1} {a2} : NextKeeps s (execShiftImmediate a0 a1 a2 s) := by
  have h := Keeps.refl s
  unfold execShiftImmediate
  iterate 60 all_goals try first
    | with_reducible refine NextKeeps.mk ?_
    | with_reducible assumption
    | with_reducible refine State.sisReg_keeps ?_
    | extract_lets
    | split
    | intro _
    | with_reducible refine Keeps.lit ?_
    | dsimp -zeta only

theorem execMovhi_keeps {s : State} {a0} {a1} {a2} : NextKeeps s (execMovhi a0 a1 a2 s) := by
  have h := Keeps.refl s
  unfold execMovhi
  iterate 60 all_goals try first
    | with_reducible refine NextKeeps.mk ?_
    | with_reducible assumption
    | with_reducible refine State.sisReg_keeps ?_
    | extract_lets
    | split
    | intro _
    | with_reducible refine Keeps.lit ?_
    | dsimp -zeta only

theorem execPcrel_keeps {s : State} {a0} {a1} {a2} : NextKeeps s (execPcrel a0 a1 a2 s) := by
  have h := Keeps.refl s
  unfold execPcrel
  iterate 60 all_goals try first
    | with_reducible refine NextKeeps.mk ?_
    | with_reducible assumption
    | with_reducible refine State.sisReg_keeps ?_
    | extract_lets
    | split
    | intro _
    | with_reducible refine Keeps.lit ?_
    | dsimp -zeta only

theorem execMultiplyDivide_keeps {s : State} {a0} {a1} {a2} : NextKeeps s (execMultiplyDivide a0 a1 a2 s) := by
  have h := Keeps.refl s
  unfold execMultiplyDivide
  iterate 60 all_goals try first
    | with_reducible refine NextKeeps.mk ?_
    | with_reducible assumption
    | with_reducible refine State.sisReg_keeps ?_
    | extract_lets
    | split
    | intro _
    | with_reducible refine Keeps.lit ?_
    | dsimp -zeta only

theorem execBranch_keeps {s : State} {a0} {a1} {a2} : NextKeeps s (execBranch a0 a1 a2 s) := by
  have h := Keeps.refl s
  unfold execBranch
  iterate 60 all_goals try first
    | with_reducible refine NextKeeps.mk ?_
    | with_reducible assumption
    | with_reducible refine State.sis1_keeps ?_ ?_
    | extract_lets
    | split
    | intro _
    | with_reducible refine Keeps.lit ?_
    | dsimp -zeta only

theorem execJl_keeps {s : State} {a0} {a1} {a2} : NextKeeps s (execJl a0 a1 a2 s) := by
  have h := Keeps.refl s
  unfold execJl
  iterate 60 all_goals try first
    | with_reducible refine NextKeeps.mk ?_
    | with_reducible assumption
    | with_reducible refine State.setX_keeps ?_
    | with_reducible refine State.sis1_keeps ?_ ?_
    | extract_lets
    | split
    | intro _
    | with_reducible refine Keeps.lit ?_
    | dsimp -zeta only

theorem execJlr_keeps {s : State} {a0} {a1} {a2} : NextKeeps s (execJlr a0 a1 a2 s) := by
  have h := Keeps.refl s
  unfold execJlr
  iterate 60 all_goals try first
    | with_reducible refine NextKeeps.mk ?_
    | with_reducible assumption
    | with_reducible refine State.setX_keeps ?_
    | with_reducible refine State.sis1_keeps ?_ ?_
    | extract_lets
    | split
    | intro _
    | with_reducible refine Keeps.lit ?_
    | dsimp -zeta only

theorem execLoad_keeps {s : State} {a0} {a1} {a2} : NextKeeps s (execLoad a0 a1 a2 s) := by
  have h := Keeps.refl s
  unfold execLoad
  iterate 60 all_goals try first
    | with_reducible refine NextKeeps.mk ?_
    | with_reducible assumption
    | with_reducible refine State.loadPa_keeps ?_
    | with_reducible refine State.loaded_keeps ?_
    | with_reducible refine State.sis1_keeps ?_ ?_
    | with_reducible refine State.translateT_keeps ?_
    | with_reducible refine Keeps.ofEq ?_ (by with_reducible assumption)
    | extract_lets
    | split
    | intro _
    | with_reducible refine Keeps.lit ?_
    | dsimp -zeta only

theorem execStore_keeps {s : State} {a0} {a1} {a2} : NextKeeps s (execStore a0 a1 a2 s) := by
  have h := Keeps.refl s
  unfold execStore
  iterate 60 all_goals try first
    | with_reducible refine NextKeeps.mk ?_
    | with_reducible assumption
    | with_reducible refine State.sis1_keeps ?_ ?_
    | with_reducible refine State.storePa_keeps ?_
    | with_reducible refine State.translateT_keeps ?_
    | with_reducible refine Keeps.ofEq ?_ (by with_reducible assumption)
    | extract_lets
    | split
    | intro _
    | with_reducible refine Keeps.lit ?_
    | dsimp -zeta only

theorem execAtomic_keeps {s : State} {a0} {a1} {a2} : NextKeeps s (execAtomic a0 a1 a2 s) := by
  have h := Keeps.refl s
  unfold execAtomic
  iterate 60 all_goals try first
    | with_reducible refine NextKeeps.mk ?_
    | with_reducible assumption
    | with_reducible refine State.access_keeps ?_
    | with_reducible refine State.atomicClean_keeps ?_
    | with_reducible refine State.setX_keeps ?_
    | with_reducible refine State.sis1_keeps ?_ ?_
    | with_reducible refine State.translateT_keeps ?_
    | with_reducible refine Keeps.ofEq ?_ (by with_reducible assumption)
    | extract_lets
    | split
    | intro _
    | with_reducible refine Keeps.lit ?_
    | dsimp -zeta only

theorem execTrap_keeps {s : State} {a0} {a1} {a2} : NextKeeps s (execTrap a0 a1 a2 s) := by
  have h := Keeps.refl s
  unfold execTrap
  iterate 60 all_goals try first
    | with_reducible refine NextKeeps.mk ?_
    | with_reducible assumption
    | with_reducible refine State.sis1_keeps ?_ ?_
    | extract_lets
    | split
    | intro _
    | with_reducible refine Keeps.lit ?_
    | dsimp -zeta only

theorem execTret_keeps {s : State} {a0} {a1} {a2} : NextKeeps s (execTret a0 a1 a2 s) := by
  have h := Keeps.refl s
  unfold execTret
  iterate 60 all_goals try first
    | with_reducible refine NextKeeps.mk ?_
    | with_reducible assumption
    | with_reducible refine State.sis1_keeps ?_ ?_
    | with_reducible refine State.updTsu_keeps ?_
    | extract_lets
    | split
    | intro _
    | with_reducible refine Keeps.lit ?_
    | dsimp -zeta only

theorem execRdtime_keeps {s : State} {a0} {a1} {a2} : NextKeeps s (execRdtime a0 a1 a2 s) := by
  have h := Keeps.refl s
  unfold execRdtime
  iterate 60 all_goals try first
    | with_reducible refine NextKeeps.mk ?_
    | with_reducible assumption
    | with_reducible refine State.setX_keeps ?_
    | with_reducible refine State.sis1_keeps ?_ ?_
    | with_reducible refine State.updLed_keeps ?_
    | with_reducible refine State.updTsu_keeps ?_
    | extract_lets
    | split
    | intro _
    | with_reducible refine Keeps.litFatal ?_
    | with_reducible refine Keeps.litNow ?_ (Nat.le_add_right _ _)
    | with_reducible refine Keeps.lit ?_
    | dsimp -zeta only

theorem execPdone_keeps {s : State} {a0} {a1} {a2} : NextKeeps s (execPdone a0 a1 a2 s) := by
  have h := Keeps.refl s
  unfold execPdone
  iterate 60 all_goals try first
    | with_reducible refine NextKeeps.mk ?_
    | with_reducible assumption
    | with_reducible refine State.endPass_keeps ?_
    | with_reducible refine State.fenceRel_keeps ?_
    | with_reducible refine State.retire_keeps ?_
    | with_reducible refine State.sis1_keeps ?_ ?_
    | with_reducible refine State.updTile_keeps ?_
    | extract_lets
    | split
    | intro _
    | with_reducible refine Keeps.lit ?_
    | dsimp -zeta only

theorem execBrk_keeps {s : State} {a0} {a1} {a2} : NextKeeps s (execBrk a0 a1 a2 s) := by
  have h := Keeps.refl s
  unfold execBrk
  iterate 60 all_goals try first
    | with_reducible refine NextKeeps.mk ?_
    | with_reducible assumption
    | with_reducible refine State.sis1_keeps ?_ ?_
    | extract_lets
    | split
    | intro _
    | with_reducible refine Keeps.lit ?_
    | dsimp -zeta only

theorem execTcrr_keeps {s : State} {a0} {a1} {a2} : NextKeeps s (execTcrr a0 a1 a2 s) := by
  have h := Keeps.refl s
  unfold execTcrr
  iterate 60 all_goals try first
    | with_reducible refine NextKeeps.mk ?_
    | with_reducible assumption
    | with_reducible refine State.setX_keeps ?_
    | with_reducible refine State.sis1_keeps ?_ ?_
    | extract_lets
    | split
    | intro _
    | with_reducible refine Keeps.lit ?_
    | dsimp -zeta only

theorem execTcrw_keeps {s : State} {a0} {a1} {a2} : NextKeeps s (execTcrw a0 a1 a2 s) := by
  have h := Keeps.refl s
  unfold execTcrw
  iterate 60 all_goals try first
    | with_reducible refine NextKeeps.mk ?_
    | with_reducible assumption
    | with_reducible refine State.sis1_keeps ?_ ?_
    | with_reducible refine State.tcrPut_keeps ?_
    | extract_lets
    | split
    | intro _
    | with_reducible refine Keeps.lit ?_
    | dsimp -zeta only

theorem execFenceRel_keeps {s : State} {a0} {a1} {a2} : NextKeeps s (execFenceRel a0 a1 a2 s) := by
  have h := Keeps.refl s
  unfold execFenceRel
  iterate 60 all_goals try first
    | with_reducible refine NextKeeps.mk ?_
    | with_reducible assumption
    | with_reducible refine State.fenceRel_keeps ?_
    | with_reducible refine State.sis1_keeps ?_ ?_
    | extract_lets
    | split
    | intro _
    | with_reducible refine Keeps.lit ?_
    | dsimp -zeta only

theorem execFenceAcq_keeps {s : State} {a0} {a1} {a2} : NextKeeps s (execFenceAcq a0 a1 a2 s) := by
  have h := Keeps.refl s
  unfold execFenceAcq
  iterate 60 all_goals try first
    | with_reducible refine NextKeeps.mk ?_
    | with_reducible assumption
    | with_reducible refine State.fenceAcq_keeps ?_
    | with_reducible refine State.sis1_keeps ?_ ?_
    | extract_lets
    | split
    | intro _
    | with_reducible refine Keeps.lit ?_
    | dsimp -zeta only

theorem execFenceRelAll_keeps {s : State} {a0} {a1} {a2} : NextKeeps s (execFenceRelAll a0 a1 a2 s) := by
  have h := Keeps.refl s
  unfold execFenceRelAll
  iterate 60 all_goals try first
    | with_reducible refine NextKeeps.mk ?_
    | with_reducible assumption
    | with_reducible refine State.fenceRel_keeps ?_
    | with_reducible refine State.sis1_keeps ?_ ?_
    | extract_lets
    | split
    | intro _
    | with_reducible refine Keeps.lit ?_
    | dsimp -zeta only

theorem execFenceAcqAll_keeps {s : State} {a0} {a1} {a2} : NextKeeps s (execFenceAcqAll a0 a1 a2 s) := by
  have h := Keeps.refl s
  unfold execFenceAcqAll
  iterate 60 all_goals try first
    | with_reducible refine NextKeeps.mk ?_
    | with_reducible assumption
    | with_reducible refine State.fenceAcq_keeps ?_
    | with_reducible refine State.sis1_keeps ?_ ?_
    | extract_lets
    | split
    | intro _
    | with_reducible refine Keeps.lit ?_
    | dsimp -zeta only

theorem execCpf_keeps {s : State} {a0} {a1} {a2} : NextKeeps s (execCpf a0 a1 a2 s) := by
  have h := Keeps.refl s
  unfold execCpf
  iterate 60 all_goals try first
    | with_reducible refine NextKeeps.mk ?_
    | with_reducible assumption
    | with_reducible refine State.prefetch_keeps ?_
    | with_reducible refine State.sis1_keeps ?_ ?_
    | with_reducible refine State.translateT_keeps ?_
    | with_reducible refine Keeps.ofEq ?_ (by with_reducible assumption)
    | with_reducible refine Keeps.foldl ?_ ?_
    | with_reducible refine Keeps.foldlSnd ?_ ?_
    | with_reducible refine Keeps.foldlFst ?_ ?_
    | extract_lets
    | split
    | intro _
    | with_reducible refine Keeps.lit ?_
    | dsimp -zeta only

theorem execCwb_keeps {s : State} {a0} {a1} {a2} : NextKeeps s (execCwb a0 a1 a2 s) := by
  have h := Keeps.refl s
  unfold execCwb
  iterate 60 all_goals try first
    | with_reducible refine NextKeeps.mk ?_
    | with_reducible assumption
    | with_reducible refine State.cacheClean_keeps ?_
    | with_reducible refine State.sis1_keeps ?_ ?_
    | extract_lets
    | split
    | intro _
    | with_reducible refine Keeps.lit ?_
    | dsimp -zeta only

theorem execCwbi_keeps {s : State} {a0} {a1} {a2} : NextKeeps s (execCwbi a0 a1 a2 s) := by
  have h := Keeps.refl s
  unfold execCwbi
  iterate 60 all_goals try first
    | with_reducible refine NextKeeps.mk ?_
    | with_reducible assumption
    | with_reducible refine State.cacheClean_keeps ?_
    | with_reducible refine State.sis1_keeps ?_ ?_
    | extract_lets
    | split
    | intro _
    | with_reducible refine Keeps.lit ?_
    | dsimp -zeta only

theorem execCzero_keeps {s : State} {a0} {a1} {a2} : NextKeeps s (execCzero a0 a1 a2 s) := by
  have h := Keeps.refl s
  unfold execCzero
  iterate 60 all_goals try first
    | with_reducible refine NextKeeps.mk ?_
    | with_reducible assumption
    | with_reducible refine State.rangeT_keeps ?_
    | with_reducible refine State.sis1_keeps ?_ ?_
    | with_reducible refine State.zeroExtent_keeps ?_
    | with_reducible refine Keeps.ofEq ?_ (by with_reducible assumption)
    | with_reducible refine Keeps.foldl ?_ ?_
    | with_reducible refine Keeps.foldlSnd ?_ ?_
    | with_reducible refine Keeps.foldlFst ?_ ?_
    | extract_lets
    | split
    | intro _
    | with_reducible refine Keeps.lit ?_
    | dsimp -zeta only

theorem execIinv_keeps {s : State} {a0} {a1} {a2} : NextKeeps s (execIinv a0 a1 a2 s) := by
  have h := Keeps.refl s
  unfold execIinv
  iterate 60 all_goals try first
    | with_reducible refine NextKeeps.mk ?_
    | with_reducible assumption
    | with_reducible refine State.dropI_keeps ?_
    | with_reducible refine State.sis1_keeps ?_ ?_
    | extract_lets
    | split
    | intro _
    | with_reducible refine Keeps.lit ?_
    | dsimp -zeta only

theorem execIinvAll_keeps {s : State} {a0} {a1} {a2} : NextKeeps s (execIinvAll a0 a1 a2 s) := by
  have h := Keeps.refl s
  unfold execIinvAll
  iterate 60 all_goals try first
    | with_reducible refine NextKeeps.mk ?_
    | with_reducible assumption
    | with_reducible refine State.dropI_keeps ?_
    | with_reducible refine State.sis1_keeps ?_ ?_
    | extract_lets
    | split
    | intro _
    | with_reducible refine Keeps.lit ?_
    | dsimp -zeta only

theorem execFpArithmetic_keeps {s : State} {a0} {a1} {a2} : NextKeeps s (execFpArithmetic a0 a1 a2 s) := by
  have h := Keeps.refl s
  unfold execFpArithmetic
  iterate 60 all_goals try first
    | with_reducible refine NextKeeps.mk ?_
    | with_reducible assumption
    | with_reducible refine State.sisReg_keeps ?_
    | extract_lets
    | split
    | intro _
    | with_reducible refine Keeps.lit ?_
    | dsimp -zeta only

theorem execFpSign_keeps {s : State} {a0} {a1} {a2} : NextKeeps s (execFpSign a0 a1 a2 s) := by
  have h := Keeps.refl s
  unfold execFpSign
  iterate 60 all_goals try first
    | with_reducible refine NextKeeps.mk ?_
    | with_reducible assumption
    | with_reducible refine State.sisReg_keeps ?_
    | extract_lets
    | split
    | intro _
    | with_reducible refine Keeps.lit ?_
    | dsimp -zeta only

theorem execFpFused_keeps {s : State} {a0} {a1} {a2} : NextKeeps s (execFpFused a0 a1 a2 s) := by
  have h := Keeps.refl s
  unfold execFpFused
  iterate 60 all_goals try first
    | with_reducible refine NextKeeps.mk ?_
    | with_reducible assumption
    | with_reducible refine State.sisReg_keeps ?_
    | extract_lets
    | split
    | intro _
    | with_reducible refine Keeps.lit ?_
    | dsimp -zeta only

theorem execFpConversion_keeps {s : State} {a0} {a1} {a2} : NextKeeps s (execFpConversion a0 a1 a2 s) := by
  have h := Keeps.refl s
  unfold execFpConversion
  iterate 60 all_goals try first
    | with_reducible refine NextKeeps.mk ?_
    | with_reducible assumption
    | with_reducible refine State.sisReg_keeps ?_
    | extract_lets
    | split
    | intro _
    | with_reducible refine Keeps.lit ?_
    | dsimp -zeta only

theorem execFkind_keeps {s : State} {a0} {a1} {a2} : NextKeeps s (execFkind a0 a1 a2 s) := by
  have h := Keeps.refl s
  unfold execFkind
  iterate 60 all_goals try first
    | with_reducible refine NextKeeps.mk ?_
    | with_reducible assumption
    | with_reducible refine State.sisReg_keeps ?_
    | extract_lets
    | split
    | intro _
    | with_reducible refine Keeps.lit ?_
    | dsimp -zeta only

theorem execChainStepStart_keeps {s : State} {a0} : NextKeeps s (execChainStepStart a0 s) := by
  have h := Keeps.refl s
  unfold execChainStepStart
  iterate 60 all_goals try first
    | with_reducible refine NextKeeps.mk ?_
    | with_reducible assumption
    | with_reducible refine State.acmCheckRows_keeps ?_
    | with_reducible refine State.sealChain_keeps ?_
    | with_reducible refine State.sendChain_keeps ?_
    | with_reducible refine State.updLed_keeps ?_
    | extract_lets
    | split
    | intro _
    | with_reducible refine Keeps.lit ?_
    | dsimp -zeta only

theorem execChainPacketReceive_keeps {s : State} {a0} {a1} {a2} : NextKeeps s (execChainPacketReceive a0 a1 a2 s) := by
  have h := Keeps.refl s
  unfold execChainPacketReceive
  iterate 60 all_goals try first
    | with_reducible refine NextKeeps.mk ?_
    | with_reducible assumption
    | with_reducible refine State.keepOffer_keeps ?_
    | with_reducible refine State.mismatch_keeps ?_
    | with_reducible refine State.sealChain_keeps ?_
    | with_reducible refine State.sendChain_keeps ?_
    | with_reducible refine State.takeOffer_keeps ?_
    | with_reducible refine State.tileFatal_keeps ?_
    | with_reducible refine State.updLed_keeps ?_
    | with_reducible refine State.updMxu_keeps ?_
    | with_reducible refine Keeps.foldl ?_ ?_
    | with_reducible refine Keeps.foldlSnd ?_ ?_
    | with_reducible refine Keeps.foldlFst ?_ ?_
    | extract_lets
    | split
    | intro _
    | with_reducible refine Keeps.lit ?_
    | dsimp -zeta only

theorem execChainDoneReceive_keeps {s : State} {a0} {a1} : NextKeeps s (execChainDoneReceive a0 a1 s) := by
  have h := Keeps.refl s
  unfold execChainDoneReceive
  iterate 60 all_goals try first
    | with_reducible refine NextKeeps.mk ?_
    | with_reducible assumption
    | with_reducible refine State.keepOffer_keeps ?_
    | with_reducible refine State.mismatch_keeps ?_
    | with_reducible refine State.stepDone_keeps ?_
    | with_reducible refine State.takeOffer_keeps ?_
    | with_reducible refine State.updLed_keeps ?_
    | with_reducible refine State.writeFinal_keeps ?_
    | extract_lets
    | split
    | intro _
    | with_reducible refine Keeps.litPutMany ?_ ?_
    | with_reducible refine Keeps.lit ?_
    | dsimp -zeta only

theorem execChainBreakReceive_keeps {s : State} {a0} {a1} {a2} : NextKeeps s (execChainBreakReceive a0 a1 a2 s) := by
  have h := Keeps.refl s
  unfold execChainBreakReceive
  iterate 60 all_goals try first
    | with_reducible refine NextKeeps.mk ?_
    | with_reducible assumption
    | with_reducible refine State.breakReceived_keeps ?_
    | with_reducible refine State.takeOffer_keeps ?_
    | extract_lets
    | split
    | intro _
    | with_reducible refine Keeps.lit ?_
    | dsimp -zeta only

theorem execChainWaitExpiry_keeps {s : State} {a0} : NextKeeps s (execChainWaitExpiry a0 s) := by
  have h := Keeps.refl s
  unfold execChainWaitExpiry
  iterate 60 all_goals try first
    | with_reducible refine NextKeeps.mk ?_
    | with_reducible assumption
    | with_reducible refine State.atLeast_keeps ?_
    | with_reducible refine State.breakHere_keeps ?_
    | extract_lets
    | split
    | intro _
    | with_reducible refine Keeps.lit ?_
    | dsimp -zeta only

theorem execChainRecallReceive_keeps {s : State} {a0} : NextKeeps s (execChainRecallReceive a0 s) := by
  have h := Keeps.refl s
  unfold execChainRecallReceive
  iterate 60 all_goals try first
    | with_reducible refine NextKeeps.mk ?_
    | with_reducible assumption
    | with_reducible refine State.recallReceived_keeps ?_
    | with_reducible refine Keeps.ofEq ?_ (by with_reducible assumption)
    | extract_lets
    | split
    | intro _
    | with_reducible refine Keeps.lit ?_
    | dsimp -zeta only

theorem execChainRecallResend_keeps {s : State} : NextKeeps s (execChainRecallResend s) := by
  have h := Keeps.refl s
  unfold execChainRecallResend
  iterate 60 all_goals try first
    | with_reducible refine NextKeeps.mk ?_
    | with_reducible assumption
    | with_reducible refine State.atLeast_keeps ?_
    | with_reducible refine State.sendRecalls_keeps ?_
    | extract_lets
    | split
    | intro _
    | with_reducible refine Keeps.lit ?_
    | dsimp -zeta only

theorem execChainLogAging_keeps {s : State} : NextKeeps s (execChainLogAging s) := by
  have h := Keeps.refl s
  unfold execChainLogAging
  iterate 60 all_goals try first
    | with_reducible refine NextKeeps.mk ?_
    | with_reducible assumption
    | with_reducible refine State.atLeast_keeps ?_
    | extract_lets
    | split
    | intro _
    | with_reducible refine Keeps.litFatal ?_
    | with_reducible refine Keeps.lit ?_
    | dsimp -zeta only

theorem execGetVersion_keeps {s : State} {a0} : NextKeeps s (execGetVersion a0 s) := by
  have h := Keeps.refl s
  unfold execGetVersion
  iterate 60 all_goals try first
    | with_reducible refine NextKeeps.mk ?_
    | with_reducible assumption
    | with_reducible refine State.connected_keeps ?_ ?_
    | with_reducible refine State.spdm_keeps ?_
    | with_reducible refine State.toResponder_keeps ?_ ?_
    | extract_lets
    | split
    | intro _
    | with_reducible refine Keeps.lit ?_
    | dsimp -zeta only

theorem execGetCapabilities_keeps {s : State} {a0} : NextKeeps s (execGetCapabilities a0 s) := by
  have h := Keeps.refl s
  unfold execGetCapabilities
  iterate 60 all_goals try first
    | with_reducible refine NextKeeps.mk ?_
    | with_reducible assumption
    | with_reducible refine State.connected_keeps ?_ ?_
    | with_reducible refine State.spdm_keeps ?_
    | with_reducible refine State.toResponder_keeps ?_ ?_
    | extract_lets
    | split
    | intro _
    | with_reducible refine Keeps.lit ?_
    | dsimp -zeta only

theorem execNegotiateAlgorithms_keeps {s : State} {a0} : NextKeeps s (execNegotiateAlgorithms a0 s) := by
  have h := Keeps.refl s
  unfold execNegotiateAlgorithms
  iterate 60 all_goals try first
    | with_reducible refine NextKeeps.mk ?_
    | with_reducible assumption
    | with_reducible refine State.connected_keeps ?_ ?_
    | with_reducible refine State.spdm_keeps ?_
    | with_reducible refine State.toResponder_keeps ?_ ?_
    | extract_lets
    | split
    | intro _
    | with_reducible refine Keeps.lit ?_
    | dsimp -zeta only

theorem execGetDigests_keeps {s : State} {a0} : NextKeeps s (execGetDigests a0 s) := by
  have h := Keeps.refl s
  unfold execGetDigests
  iterate 60 all_goals try first
    | with_reducible refine NextKeeps.mk ?_
    | with_reducible assumption
    | with_reducible refine State.negotiated_keeps ?_ ?_
    | with_reducible refine State.spdm_keeps ?_
    | extract_lets
    | split
    | intro _
    | with_reducible refine Keeps.lit ?_
    | dsimp -zeta only

theorem execGetCertificate_keeps {s : State} {a0} {a1} {a2} {a3} : NextKeeps s (execGetCertificate a0 a1 a2 a3 s) := by
  have h := Keeps.refl s
  unfold execGetCertificate
  iterate 60 all_goals try first
    | with_reducible refine NextKeeps.mk ?_
    | with_reducible assumption
    | with_reducible refine State.negotiated_keeps ?_ ?_
    | with_reducible refine State.spdm_keeps ?_
    | with_reducible refine State.spdmError_keeps ?_
    | extract_lets
    | split
    | intro _
    | with_reducible refine Keeps.lit ?_
    | dsimp -zeta only

theorem execChallenge_keeps {s : State} {a0} {a1} {a2} : NextKeeps s (execChallenge a0 a1 a2 s) := by
  have h := Keeps.refl s
  unfold execChallenge
  iterate 60 all_goals try first
    | with_reducible refine NextKeeps.mk ?_
    | with_reducible assumption
    | with_reducible refine State.negotiated_keeps ?_ ?_
    | with_reducible refine State.spdmError_keeps ?_
    | with_reducible refine State.tryFresh_keeps ?_
    | extract_lets
    | split
    | intro _
    | with_reducible refine Keeps.lit ?_
    | dsimp -zeta only

theorem execGetMeasurements_keeps {s : State} {a0} {a1} {a2} {a3} : NextKeeps s (execGetMeasurements a0 a1 a2 a3 s) := by
  have h := Keeps.refl s
  unfold execGetMeasurements
  iterate 60 all_goals try first
    | with_reducible refine NextKeeps.mk ?_
    | with_reducible assumption
    | with_reducible refine State.negotiated_keeps ?_ ?_
    | with_reducible refine State.spdm_keeps ?_
    | with_reducible refine State.spdmError_keeps ?_
    | with_reducible refine State.tryFresh_keeps ?_
    | extract_lets
    | split
    | intro _
    | with_reducible refine Keeps.lit ?_
    | dsimp -zeta only

theorem execKeyExchange_keeps {s : State} {a0} {a1} {a2} : NextKeeps s (execKeyExchange a0 a1 a2 s) := by
  have h := Keeps.refl s
  unfold execKeyExchange
  iterate 60 all_goals try first
    | with_reducible refine NextKeeps.mk ?_
    | with_reducible assumption
    | with_reducible refine State.negotiated_keeps ?_ ?_
    | with_reducible refine State.spdmError_keeps ?_
    | with_reducible refine State.tryFresh_keeps ?_
    | extract_lets
    | split
    | intro _
    | with_reducible refine Keeps.lit ?_
    | dsimp -zeta only

theorem execRespondIfReady_keeps {s : State} {a0} {a1} : NextKeeps s (execRespondIfReady a0 a1 s) := by
  have h := Keeps.refl s
  unfold execRespondIfReady
  iterate 60 all_goals try first
    | with_reducible refine NextKeeps.mk ?_
    | with_reducible assumption
    | with_reducible refine State.addTask_keeps ?_
    | with_reducible refine State.spdmError_keeps ?_
    | with_reducible refine State.toResponder_keeps ?_ ?_
    | with_reducible refine State.updResponder_keeps ?_
    | extract_lets
    | split
    | intro _
    | with_reducible refine Keeps.lit ?_
    | dsimp -zeta only

theorem execFinish_keeps {s : State} {a0} {a1} {a2} : NextKeeps s (execFinish a0 a1 a2 s) := by
  have h := Keeps.refl s
  unfold execFinish
  iterate 60 all_goals try first
    | with_reducible refine NextKeeps.mk ?_
    | with_reducible assumption
    | with_reducible refine State.dropSession_keeps ?_
    | with_reducible refine State.spdm_keeps ?_
    | with_reducible refine State.spdmError_keeps ?_
    | with_reducible refine State.toResponder_keeps ?_ ?_
    | with_reducible refine State.updSession_keeps ?_
    | extract_lets
    | split
    | intro _
    | with_reducible refine Keeps.lit ?_
    | dsimp -zeta only

theorem execHeartbeat_keeps {s : State} {a0} {a1} : NextKeeps s (execHeartbeat a0 a1 s) := by
  have h := Keeps.refl s
  unfold execHeartbeat
  iterate 60 all_goals try first
    | with_reducible refine NextKeeps.mk ?_
    | with_reducible assumption
    | with_reducible refine State.inSession_keeps ?_ ?_
    | with_reducible refine State.spdm_keeps ?_
    | with_reducible refine State.toResponder_keeps ?_ ?_
    | with_reducible refine State.updSession_keeps ?_
    | extract_lets
    | split
    | intro _
    | with_reducible refine Keeps.lit ?_
    | dsimp -zeta only

theorem execSpdmHeartbeatTimeout_keeps {s : State} {a0} {a1} : NextKeeps s (execSpdmHeartbeatTimeout a0 a1 s) := by
  have h := Keeps.refl s
  unfold execSpdmHeartbeatTimeout
  iterate 60 all_goals try first
    | with_reducible refine NextKeeps.mk ?_
    | with_reducible assumption
    | with_reducible refine State.atLeast_keeps ?_
    | with_reducible refine State.dropSession_keeps ?_
    | extract_lets
    | split
    | intro _
    | with_reducible refine Keeps.lit ?_
    | dsimp -zeta only

theorem execKeyUpdate_keeps {s : State} {a0} {a1} : NextKeeps s (execKeyUpdate a0 a1 s) := by
  have h := Keeps.refl s
  unfold execKeyUpdate
  iterate 60 all_goals try first
    | with_reducible refine NextKeeps.mk ?_
    | with_reducible assumption
    | with_reducible refine State.inSession_keeps ?_ ?_
    | with_reducible refine State.spdm_keeps ?_
    | with_reducible refine State.toResponder_keeps ?_ ?_
    | with_reducible refine State.updSession_keeps ?_
    | extract_lets
    | split
    | intro _
    | with_reducible refine Keeps.lit ?_
    | dsimp -zeta only

theorem execEndSession_keeps {s : State} {a0} {a1} : NextKeeps s (execEndSession a0 a1 s) := by
  have h := Keeps.refl s
  unfold execEndSession
  iterate 60 all_goals try first
    | with_reducible refine NextKeeps.mk ?_
    | with_reducible assumption
    | with_reducible refine State.dropSession_keeps ?_
    | with_reducible refine State.inSession_keeps ?_ ?_
    | with_reducible refine State.spdm_keeps ?_
    | with_reducible refine State.toResponder_keeps ?_ ?_
    | extract_lets
    | split
    | intro _
    | with_reducible refine Keeps.lit ?_
    | dsimp -zeta only

theorem execSpdmUnsupportedRequest_keeps {s : State} {a0} {a1} : NextKeeps s (execSpdmUnsupportedRequest a0 a1 s) := by
  have h := Keeps.refl s
  unfold execSpdmUnsupportedRequest
  iterate 60 all_goals try first
    | with_reducible refine NextKeeps.mk ?_
    | with_reducible assumption
    | with_reducible refine State.spdmError_keeps ?_
    | with_reducible refine State.toResponder_keeps ?_ ?_
    | extract_lets
    | split
    | intro _
    | with_reducible refine Keeps.lit ?_
    | dsimp -zeta only

theorem execIdeKm_keeps {s : State} {a0} {a1} {a2} {a3} : NextKeeps s (execIdeKm a0 a1 a2 a3 s) := by
  have h := Keeps.refl s
  unfold execIdeKm
  iterate 60 all_goals try first
    | with_reducible refine NextKeeps.mk ?_
    | with_reducible assumption
    | with_reducible refine State.setSec_keeps ?_
    | with_reducible refine State.spdm_keeps ?_
    | with_reducible refine State.tdiError_keeps ?_
    | with_reducible refine State.toManager_keeps ?_ ?_
    | extract_lets
    | split
    | intro _
    | with_reducible refine Keeps.lit ?_
    | dsimp -zeta only

theorem execGetTdispVersion_keeps {s : State} {a0} {a1} {a2} : NextKeeps s (execGetTdispVersion a0 a1 a2 s) := by
  have h := Keeps.refl s
  unfold execGetTdispVersion
  iterate 60 all_goals try first
    | with_reducible refine NextKeeps.mk ?_
    | with_reducible assumption
    | with_reducible refine State.spdm_keeps ?_
    | with_reducible refine State.tdisp_keeps ?_ ?_
    | extract_lets
    | split
    | intro _
    | with_reducible refine Keeps.lit ?_
    | dsimp -zeta only

theorem execGetTdispCapabilities_keeps {s : State} {a0} {a1} {a2} : NextKeeps s (execGetTdispCapabilities a0 a1 a2 s) := by
  have h := Keeps.refl s
  unfold execGetTdispCapabilities
  iterate 60 all_goals try first
    | with_reducible refine NextKeeps.mk ?_
    | with_reducible assumption
    | with_reducible refine State.spdm_keeps ?_
    | with_reducible refine State.tdisp_keeps ?_ ?_
    | extract_lets
    | split
    | intro _
    | with_reducible refine Keeps.lit ?_
    | dsimp -zeta only

theorem execLockInterfaceRequest_keeps {s : State} {a0} {a1} {a2} : NextKeeps s (execLockInterfaceRequest a0 a1 a2 s) := by
  have h := Keeps.refl s
  unfold execLockInterfaceRequest
  iterate 60 all_goals try first
    | with_reducible refine NextKeeps.mk ?_
    | with_reducible assumption
    | with_reducible refine State.freeBytes_keeps ?_
    | with_reducible refine State.setTdi_keeps ?_
    | with_reducible refine State.spdm_keeps ?_
    | with_reducible refine State.tdisp_keeps ?_ ?_
    | with_reducible refine Keeps.ofEq ?_ (by with_reducible assumption)
    | extract_lets
    | split
    | intro _
    | with_reducible refine Keeps.lit ?_
    | dsimp -zeta only

theorem execGetDeviceInterfaceReport_keeps {s : State} {a0} {a1} {a2} : NextKeeps s (execGetDeviceInterfaceReport a0 a1 a2 s) := by
  have h := Keeps.refl s
  unfold execGetDeviceInterfaceReport
  iterate 60 all_goals try first
    | with_reducible refine NextKeeps.mk ?_
    | with_reducible assumption
    | with_reducible refine State.spdm_keeps ?_
    | with_reducible refine State.tdisp_keeps ?_ ?_
    | extract_lets
    | split
    | intro _
    | with_reducible refine Keeps.lit ?_
    | dsimp -zeta only

theorem execGetDeviceInterfaceState_keeps {s : State} {a0} {a1} {a2} : NextKeeps s (execGetDeviceInterfaceState a0 a1 a2 s) := by
  have h := Keeps.refl s
  unfold execGetDeviceInterfaceState
  iterate 60 all_goals try first
    | with_reducible refine NextKeeps.mk ?_
    | with_reducible assumption
    | with_reducible refine State.spdm_keeps ?_
    | with_reducible refine State.tdisp_keeps ?_ ?_
    | extract_lets
    | split
    | intro _
    | with_reducible refine Keeps.lit ?_
    | dsimp -zeta only

theorem execStartInterfaceRequest_keeps {s : State} {a0} {a1} {a2} {a3} : NextKeeps s (execStartInterfaceRequest a0 a1 a2 a3 s) := by
  have h := Keeps.refl s
  unfold execStartInterfaceRequest
  iterate 60 all_goals try first
    | with_reducible refine NextKeeps.mk ?_
    | with_reducible assumption
    | with_reducible refine State.setTdi_keeps ?_
    | with_reducible refine State.spdm_keeps ?_
    | with_reducible refine State.tdisp_keeps ?_ ?_
    | extract_lets
    | split
    | intro _
    | with_reducible refine Keeps.lit ?_
    | dsimp -zeta only

theorem execStopInterfaceRequest_keeps {s : State} {a0} {a1} {a2} : NextKeeps s (execStopInterfaceRequest a0 a1 a2 s) := by
  have h := Keeps.refl s
  unfold execStopInterfaceRequest
  iterate 60 all_goals try first
    | with_reducible refine NextKeeps.mk ?_
    | with_reducible assumption
    | with_reducible refine State.partFatal_keeps ?_
    | with_reducible refine State.setTdi_keeps ?_
    | with_reducible refine State.spdm_keeps ?_
    | with_reducible refine State.tdisp_keeps ?_ ?_
    | extract_lets
    | split
    | intro _
    | with_reducible refine Keeps.lit ?_
    | dsimp -zeta only

theorem execWarmReset_keeps {s : State} {a0} : NextKeeps s (execWarmReset a0 s) := by
  have h := Keeps.refl s
  unfold execWarmReset
  iterate 60 all_goals try first
    | with_reducible refine NextKeeps.mk ?_
    | with_reducible assumption
    | with_reducible refine State.warm_keeps ?_
    | extract_lets
    | split
    | intro _
    | with_reducible refine Keeps.lit ?_
    | dsimp -zeta only

theorem execD3hotEntry_keeps {s : State} {a0} : NextKeeps s (execD3hotEntry a0 s) := by
  have h := Keeps.refl s
  unfold execD3hotEntry
  iterate 60 all_goals try first
    | with_reducible refine NextKeeps.mk ?_
    | with_reducible assumption
    | extract_lets
    | split
    | intro _
    | with_reducible refine Keeps.litFatal ?_
    | with_reducible refine Keeps.lit ?_
    | dsimp -zeta only

theorem execStartupT0_keeps {s : State} : NextKeeps s (execStartupT0 s) := by
  have h := Keeps.refl s
  unfold execStartupT0
  iterate 60 all_goals try first
    | with_reducible refine NextKeeps.mk ?_
    | with_reducible assumption
    | with_reducible refine State.endStep_keeps ?_
    | with_reducible refine State.setBoot_keeps ?_
    | with_reducible refine State.setSec_keeps ?_
    | extract_lets
    | split
    | intro _
    | with_reducible refine Keeps.lit ?_
    | dsimp -zeta only

theorem execHostLinkUp_keeps {s : State} {a0} {a1} : NextKeeps s (execHostLinkUp a0 a1 s) := by
  have h := Keeps.refl s
  unfold execHostLinkUp
  iterate 60 all_goals try first
    | with_reducible refine NextKeeps.mk ?_
    | with_reducible assumption
    | with_reducible refine State.endStep_keeps ?_
    | extract_lets
    | split
    | intro _
    | with_reducible refine Keeps.litFatal ?_
    | with_reducible refine Keeps.lit ?_
    | dsimp -zeta only

theorem execStartupSelfTest_keeps {s : State} {a0} {a1} : NextKeeps s (execStartupSelfTest a0 a1 s) := by
  have h := Keeps.refl s
  unfold execStartupSelfTest
  iterate 60 all_goals try first
    | with_reducible refine NextKeeps.mk ?_
    | with_reducible assumption
    | with_reducible refine State.endStep_keeps ?_
    | with_reducible refine State.failController_keeps ?_
    | with_reducible refine State.record_keeps ?_
    | with_reducible refine State.setBoot_keeps ?_
    | with_reducible refine State.updLink_keeps ?_
    | with_reducible refine Keeps.foldl ?_ ?_
    | with_reducible refine Keeps.foldlSnd ?_ ?_
    | with_reducible refine Keeps.foldlFst ?_ ?_
    | extract_lets
    | split
    | intro _
    | with_reducible refine Keeps.lit ?_
    | dsimp -zeta only

theorem execFirmwareBundleLoad_keeps {s : State} : NextKeeps s (execFirmwareBundleLoad s) := by
  have h := Keeps.refl s
  unfold execFirmwareBundleLoad
  iterate 60 all_goals try first
    | with_reducible refine NextKeeps.mk ?_
    | with_reducible assumption
    | with_reducible refine State.endStep_keeps ?_
    | with_reducible refine State.loadBundle_keeps ?_
    | with_reducible refine State.setBoot_keeps ?_
    | with_reducible refine State.setSec_keeps ?_
    | extract_lets
    | split
    | intro _
    | with_reducible refine Keeps.litFatal ?_
    | with_reducible refine Keeps.lit ?_
    | dsimp -zeta only

theorem execProtectedRecordRead_keeps {s : State} {a0} : NextKeeps s (execProtectedRecordRead a0 s) := by
  have h := Keeps.refl s
  unfold execProtectedRecordRead
  iterate 60 all_goals try first
    | with_reducible refine NextKeeps.mk ?_
    | with_reducible assumption
    | with_reducible refine State.blowFuses_keeps ?_
    | with_reducible refine State.bootImage_keeps ?_
    | with_reducible refine State.endStep_keeps ?_
    | with_reducible refine State.stayLow_keeps ?_
    | extract_lets
    | split
    | intro _
    | with_reducible refine Keeps.litFatal ?_
    | with_reducible refine Keeps.lit ?_
    | dsimp -zeta only

theorem execPairsRelease_keeps {s : State} : NextKeeps s (execPairsRelease s) := by
  have h := Keeps.refl s
  unfold execPairsRelease
  iterate 60 all_goals try first
    | with_reducible refine NextKeeps.mk ?_
    | with_reducible assumption
    | with_reducible refine State.bindDie_keeps ?_
    | with_reducible refine State.endStep_keeps ?_
    | with_reducible refine State.setBoot_keeps ?_
    | with_reducible refine State.startScrubs_keeps ?_
    | with_reducible refine State.updLink_keeps ?_
    | with_reducible refine Keeps.foldl ?_ ?_
    | with_reducible refine Keeps.foldlSnd ?_ ?_
    | with_reducible refine Keeps.foldlFst ?_ ?_
    | extract_lets
    | split
    | intro _
    | with_reducible refine Keeps.lit ?_
    | dsimp -zeta only

theorem execEntropyStartup_keeps {s : State} {a0} {a1} : NextKeeps s (execEntropyStartup a0 a1 s) := by
  have h := Keeps.refl s
  unfold execEntropyStartup
  iterate 60 all_goals try first
    | with_reducible refine NextKeeps.mk ?_
    | with_reducible assumption
    | with_reducible refine State.endStep_keeps ?_
    | with_reducible refine State.entropyStart_keeps ?_
    | extract_lets
    | split
    | intro _
    | with_reducible refine Keeps.lit ?_
    | dsimp -zeta only

theorem execHbmTraining_keeps {s : State} {a0} : NextKeeps s (execHbmTraining a0 s) := by
  have h := Keeps.refl s
  unfold execHbmTraining
  iterate 60 all_goals try first
    | with_reducible refine NextKeeps.mk ?_
    | with_reducible assumption
    | with_reducible refine State.endStep_keeps ?_
    | with_reducible refine State.loseDie_keeps ?_
    | with_reducible refine State.startLost_keeps ?_
    | with_reducible refine Keeps.foldl ?_ ?_
    | with_reducible refine Keeps.foldlSnd ?_ ?_
    | with_reducible refine Keeps.foldlFst ?_ ?_
    | extract_lets
    | split
    | intro _
    | with_reducible refine Keeps.lit ?_
    | dsimp -zeta only

theorem execHbmZeroing_keeps {s : State} : NextKeeps s (execHbmZeroing s) := by
  have h := Keeps.refl s
  unfold execHbmZeroing
  iterate 60 all_goals try first
    | with_reducible refine NextKeeps.mk ?_
    | with_reducible assumption
    | with_reducible refine State.endStep_keeps ?_
    | with_reducible refine State.updHbm_keeps ?_
    | with_reducible refine Keeps.foldl ?_ ?_
    | with_reducible refine Keeps.foldlSnd ?_ ?_
    | with_reducible refine Keeps.foldlFst ?_ ?_
    | extract_lets
    | split
    | intro _
    | with_reducible refine Keeps.litClear ?_ ?_
    | with_reducible refine Keeps.litFatal ?_
    | with_reducible refine Keeps.lit ?_
    | dsimp -zeta only

theorem execConfigurationApply_keeps {s : State} {a0} : NextKeeps s (execConfigurationApply a0 s) := by
  have h := Keeps.refl s
  refine NextKeeps.mk (Keeps.ite h ?_)
  · extract_lets s1 bound s2 s3 s4 f s5 s6 s7
    have k1 : Keeps s s1 := Keeps.foldl h (fun t l ht => by
      split
      · exact State.trainFailed_keeps ht
      · exact ht)
    have k2 : Keeps s s2 := State.setPlant_keeps k1
    have k3 : Keeps s s3 := by
      simp only [s3]
      split
      · exact k2
      · exact State.setRotations_keeps (State.setAreas_keeps (Keeps.foldl k2 (fun _ _ ht => State.beginPart_keeps ht)))
    have k4 : Keeps s s4 := by
      simp only [s4]
      split
      · exact k3
      · exact State.applyDevice_keeps (Keeps.foldl k3 (fun _ _ ht => State.beginTile_keeps ht))
    have k6 : Keeps s s6 := State.endStep_keeps (State.setBoot_keeps k4)
    refine State.openBoxes_keeps ?_
    clear_value s6 f
    simp only [s7]
    split
    · exact State.setDev_keeps k6
    · exact State.setDev_keeps k6
    · exact State.setDev_keeps (State.blowFuses_keeps k6)

theorem execPassStart_keeps {s : State} {a0} : NextKeeps s (execPassStart a0 s) := by
  have h := Keeps.refl s
  unfold execPassStart
  iterate 60 all_goals try first
    | with_reducible refine NextKeeps.mk ?_
    | with_reducible assumption
    | with_reducible refine State.dropRemote_keeps ?_
    | with_reducible refine State.setTile_keeps ?_
    | extract_lets
    | split
    | intro _
    | with_reducible refine Keeps.getD (fun t e => ?_) ?_
    | with_reducible refine Keeps.lit ?_
    | dsimp -zeta only

theorem execL1FillComplete_keeps {s : State} {a0} {a1} {a2} : NextKeeps s (execL1FillComplete a0 a1 a2 s) := by
  have h := Keeps.refl s
  unfold execL1FillComplete
  iterate 60 all_goals try first
    | with_reducible refine NextKeeps.mk ?_
    | with_reducible assumption
    | with_reducible refine State.arriveD_keeps ?_
    | with_reducible refine State.arriveI_keeps ?_
    | with_reducible refine State.checkI_keeps ?_
    | with_reducible refine State.fetchLine_keeps ?_
    | with_reducible refine State.fillDone_keeps ?_
    | with_reducible refine State.retry_keeps ?_ ?_
    | with_reducible refine State.spend_keeps ?_
    | with_reducible refine State.strike_keeps ?_
    | with_reducible refine State.trapT_keeps ?_
    | with_reducible refine State.updCaches_keeps ?_
    | with_reducible refine Keeps.ofEq ?_ (by with_reducible assumption)
    | extract_lets
    | split
    | intro _
    | with_reducible refine Keeps.lit ?_
    | dsimp -zeta only

theorem execTalonFillComplete_keeps {s : State} {a0} {a1} {a2} : NextKeeps s (execTalonFillComplete a0 a1 a2 s) := by
  have h := Keeps.refl s
  unfold execTalonFillComplete
  iterate 60 all_goals try first
    | with_reducible refine NextKeeps.mk ?_
    | with_reducible assumption
    | with_reducible refine State.retry_keeps ?_ ?_
    | with_reducible refine State.spend_keeps ?_
    | with_reducible refine State.strike_keeps ?_
    | with_reducible refine State.talonFill_keeps ?_
    | extract_lets
    | split
    | intro _
    | with_reducible refine Keeps.lit ?_
    | dsimp -zeta only

theorem execDiscardWritebackAck_keeps {s : State} {a0} {a1} {a2} : NextKeeps s (execDiscardWritebackAck a0 a1 a2 s) := by
  have h := Keeps.refl s
  unfold execDiscardWritebackAck
  iterate 60 all_goals try first
    | with_reducible refine NextKeeps.mk ?_
    | with_reducible assumption
    | with_reducible refine State.ackDiscard_keeps ?_
    | with_reducible refine State.retry_keeps ?_ ?_
    | with_reducible refine State.spend_keeps ?_
    | with_reducible refine State.strike_keeps ?_
    | extract_lets
    | split
    | intro _
    | with_reducible refine Keeps.lit ?_
    | dsimp -zeta only

theorem execTlbWalkComplete_keeps {s : State} {a0} {a1} {a2} : NextKeeps s (execTlbWalkComplete a0 a1 a2 s) := by
  have h := Keeps.refl s
  unfold execTlbWalkComplete
  iterate 60 all_goals try first
    | with_reducible refine NextKeeps.mk ?_
    | with_reducible assumption
    | with_reducible refine State.translateT_keeps ?_
    | with_reducible refine State.trapT_keeps ?_
    | with_reducible refine Keeps.ofEq ?_ (by with_reducible assumption)
    | extract_lets
    | split
    | intro _
    | with_reducible refine Keeps.lit ?_
    | dsimp -zeta only

theorem execDeferredFault_keeps {s : State} {a0} {a1} {a2} : NextKeeps s (execDeferredFault a0 a1 a2 s) := by
  have h := Keeps.refl s
  unfold execDeferredFault
  iterate 60 all_goals try first
    | with_reducible refine NextKeeps.mk ?_
    | with_reducible assumption
    | with_reducible refine State.endPassTrap_keeps ?_
    | extract_lets
    | split
    | intro _
    | with_reducible refine Keeps.lit ?_
    | dsimp -zeta only

theorem execSetvl_keeps {s : State} {a0} {a1} {a2} : NextKeeps s (execSetvl a0 a1 a2 s) := by
  have h := Keeps.refl s
  unfold execSetvl
  iterate 60 all_goals try first
    | with_reducible refine NextKeeps.mk ?_
    | with_reducible assumption
    | with_reducible refine State.sisV_keeps ?_
    | extract_lets
    | split
    | intro _
    | with_reducible refine Keeps.lit ?_
    | dsimp -zeta only

theorem execVgetvl_keeps {s : State} {a0} {a1} {a2} : NextKeeps s (execVgetvl a0 a1 a2 s) := by
  have h := Keeps.refl s
  unfold execVgetvl
  iterate 60 all_goals try first
    | with_reducible refine NextKeeps.mk ?_
    | with_reducible assumption
    | with_reducible refine State.sisV_keeps ?_
    | extract_lets
    | split
    | intro _
    | with_reducible refine Keeps.lit ?_
    | dsimp -zeta only

theorem execVld_keeps {s : State} {a0} {a1} {a2} : NextKeeps s (execVld a0 a1 a2 s) := by
  have h := Keeps.refl s
  unfold execVld
  iterate 60 all_goals try first
    | with_reducible refine NextKeeps.mk ?_
    | with_reducible assumption
    | with_reducible refine State.sisV_keeps ?_
    | extract_lets
    | split
    | intro _
    | with_reducible refine Keeps.lit ?_
    | dsimp -zeta only

theorem execVldu_keeps {s : State} {a0} {a1} {a2} : NextKeeps s (execVldu a0 a1 a2 s) := by
  have h := Keeps.refl s
  unfold execVldu
  iterate 60 all_goals try first
    | with_reducible refine NextKeeps.mk ?_
    | with_reducible assumption
    | with_reducible refine State.sisV_keeps ?_
    | extract_lets
    | split
    | intro _
    | with_reducible refine Keeps.lit ?_
    | dsimp -zeta only

theorem execVldFf_keeps {s : State} {a0} {a1} {a2} : NextKeeps s (execVldFf a0 a1 a2 s) := by
  have h := Keeps.refl s
  unfold execVldFf
  iterate 60 all_goals try first
    | with_reducible refine NextKeeps.mk ?_
    | with_reducible assumption
    | with_reducible refine State.sisV_keeps ?_
    | extract_lets
    | split
    | intro _
    | with_reducible refine Keeps.lit ?_
    | dsimp -zeta only

theorem execVlx_keeps {s : State} {a0} {a1} {a2} : NextKeeps s (execVlx a0 a1 a2 s) := by
  have h := Keeps.refl s
  unfold execVlx
  iterate 60 all_goals try first
    | with_reducible refine NextKeeps.mk ?_
    | with_reducible assumption
    | with_reducible refine State.sisV_keeps ?_
    | extract_lets
    | split
    | intro _
    | with_reducible refine Keeps.lit ?_
    | dsimp -zeta only

theorem execVst_keeps {s : State} {a0} {a1} {a2} : NextKeeps s (execVst a0 a1 a2 s) := by
  have h := Keeps.refl s
  unfold execVst
  iterate 60 all_goals try first
    | with_reducible refine NextKeeps.mk ?_
    | with_reducible assumption
    | with_reducible refine State.sisV_keeps ?_
    | extract_lets
    | split
    | intro _
    | with_reducible refine Keeps.lit ?_
    | dsimp -zeta only

theorem execVstu_keeps {s : State} {a0} {a1} {a2} : NextKeeps s (execVstu a0 a1 a2 s) := by
  have h := Keeps.refl s
  unfold execVstu
  iterate 60 all_goals try first
    | with_reducible refine NextKeeps.mk ?_
    | with_reducible assumption
    | with_reducible refine State.sisV_keeps ?_
    | extract_lets
    | split
    | intro _
    | with_reducible refine Keeps.lit ?_
    | dsimp -zeta only

theorem execVsx_keeps {s : State} {a0} {a1} {a2} : NextKeeps s (execVsx a0 a1 a2 s) := by
  have h := Keeps.refl s
  unfold execVsx
  iterate 60 all_goals try first
    | with_reducible refine NextKeeps.mk ?_
    | with_reducible assumption
    | with_reducible refine State.sisV_keeps ?_
    | extract_lets
    | split
    | intro _
    | with_reducible refine Keeps.lit ?_
    | dsimp -zeta only

theorem execVectorInteger_keeps {s : State} {a0} {a1} {a2} : NextKeeps s (execVectorInteger a0 a1 a2 s) := by
  have h := Keeps.refl s
  unfold execVectorInteger
  iterate 60 all_goals try first
    | with_reducible refine NextKeeps.mk ?_
    | with_reducible assumption
    | with_reducible refine State.sisV_keeps ?_
    | extract_lets
    | split
    | intro _
    | with_reducible refine Keeps.lit ?_
    | dsimp -zeta only

theorem execVmerge_keeps {s : State} {a0} {a1} {a2} : NextKeeps s (execVmerge a0 a1 a2 s) := by
  have h := Keeps.refl s
  unfold execVmerge
  iterate 60 all_goals try first
    | with_reducible refine NextKeeps.mk ?_
    | with_reducible assumption
    | with_reducible refine State.sisV_keeps ?_
    | extract_lets
    | split
    | intro _
    | with_reducible refine Keeps.lit ?_
    | dsimp -zeta only

theorem execVectorCompare_keeps {s : State} {a0} {a1} {a2} : NextKeeps s (execVectorCompare a0 a1 a2 s) := by
  have h := Keeps.refl s
  unfold execVectorCompare
  iterate 60 all_goals try first
    | with_reducible refine NextKeeps.mk ?_
    | with_reducible assumption
    | with_reducible refine State.sisV_keeps ?_
    | extract_lets
    | split
    | intro _
    | with_reducible refine Keeps.lit ?_
    | dsimp -zeta only

theorem execVectorFloat_keeps {s : State} {a0} {a1} {a2} : NextKeeps s (execVectorFloat a0 a1 a2 s) := by
  have h := Keeps.refl s
  unfold execVectorFloat
  iterate 60 all_goals try first
    | with_reducible refine NextKeeps.mk ?_
    | with_reducible assumption
    | with_reducible refine State.sisV_keeps ?_
    | extract_lets
    | split
    | intro _
    | with_reducible refine Keeps.lit ?_
    | dsimp -zeta only

theorem execVfcvtFrom_keeps {s : State} {a0} {a1} {a2} : NextKeeps s (execVfcvtFrom a0 a1 a2 s) := by
  have h := Keeps.refl s
  unfold execVfcvtFrom
  iterate 60 all_goals try first
    | with_reducible refine NextKeeps.mk ?_
    | with_reducible assumption
    | with_reducible refine State.sisV_keeps ?_
    | extract_lets
    | split
    | intro _
    | with_reducible refine Keeps.lit ?_
    | dsimp -zeta only

theorem execVfcvtTo_keeps {s : State} {a0} {a1} {a2} : NextKeeps s (execVfcvtTo a0 a1 a2 s) := by
  have h := Keeps.refl s
  unfold execVfcvtTo
  iterate 60 all_goals try first
    | with_reducible refine NextKeeps.mk ?_
    | with_reducible assumption
    | with_reducible refine State.sisV_keeps ?_
    | extract_lets
    | split
    | intro _
    | with_reducible refine Keeps.lit ?_
    | dsimp -zeta only

theorem execVfcvtInteger_keeps {s : State} {a0} {a1} {a2} : NextKeeps s (execVfcvtInteger a0 a1 a2 s) := by
  have h := Keeps.refl s
  unfold execVfcvtInteger
  iterate 60 all_goals try first
    | with_reducible refine NextKeeps.mk ?_
    | with_reducible assumption
    | with_reducible refine State.sisV_keeps ?_
    | extract_lets
    | split
    | intro _
    | with_reducible refine Keeps.lit ?_
    | dsimp -zeta only

theorem execMaskLogic_keeps {s : State} {a0} {a1} {a2} : NextKeeps s (execMaskLogic a0 a1 a2 s) := by
  have h := Keeps.refl s
  unfold execMaskLogic
  iterate 60 all_goals try first
    | with_reducible refine NextKeeps.mk ?_
    | with_reducible assumption
    | with_reducible refine State.sisV_keeps ?_
    | extract_lets
    | split
    | intro _
    | with_reducible refine Keeps.lit ?_
    | dsimp -zeta only

theorem execKpopcKfirst_keeps {s : State} {a0} {a1} {a2} : NextKeeps s (execKpopcKfirst a0 a1 a2 s) := by
  have h := Keeps.refl s
  unfold execKpopcKfirst
  iterate 60 all_goals try first
    | with_reducible refine NextKeeps.mk ?_
    | with_reducible assumption
    | with_reducible refine State.sisV_keeps ?_
    | extract_lets
    | split
    | intro _
    | with_reducible refine Keeps.lit ?_
    | dsimp -zeta only

theorem execVlmVsm_keeps {s : State} {a0} {a1} {a2} : NextKeeps s (execVlmVsm a0 a1 a2 s) := by
  have h := Keeps.refl s
  unfold execVlmVsm
  iterate 60 all_goals try first
    | with_reducible refine NextKeeps.mk ?_
    | with_reducible assumption
    | with_reducible refine State.sisV_keeps ?_
    | extract_lets
    | split
    | intro _
    | with_reducible refine Keeps.lit ?_
    | dsimp -zeta only

theorem execVectorReduction_keeps {s : State} {a0} {a1} {a2} : NextKeeps s (execVectorReduction a0 a1 a2 s) := by
  have h := Keeps.refl s
  unfold execVectorReduction
  iterate 60 all_goals try first
    | with_reducible refine NextKeeps.mk ?_
    | with_reducible assumption
    | with_reducible refine State.sisV_keeps ?_
    | extract_lets
    | split
    | intro _
    | with_reducible refine Keeps.lit ?_
    | dsimp -zeta only

theorem execVectorScalarMove_keeps {s : State} {a0} {a1} {a2} : NextKeeps s (execVectorScalarMove a0 a1 a2 s) := by
  have h := Keeps.refl s
  unfold execVectorScalarMove
  iterate 60 all_goals try first
    | with_reducible refine NextKeeps.mk ?_
    | with_reducible assumption
    | with_reducible refine State.sisV_keeps ?_
    | extract_lets
    | split
    | intro _
    | with_reducible refine Keeps.lit ?_
    | dsimp -zeta only

theorem execVectorPermutation_keeps {s : State} {a0} {a1} {a2} : NextKeeps s (execVectorPermutation a0 a1 a2 s) := by
  have h := Keeps.refl s
  unfold execVectorPermutation
  iterate 60 all_goals try first
    | with_reducible refine NextKeeps.mk ?_
    | with_reducible assumption
    | with_reducible refine State.sisV_keeps ?_
    | extract_lets
    | split
    | intro _
    | with_reducible refine Keeps.lit ?_
    | dsimp -zeta only

theorem execVxDeal_keeps {s : State} {a0} {a1} {a2} : NextKeeps s (execVxDeal a0 a1 a2 s) := by
  have h := Keeps.refl s
  unfold execVxDeal
  iterate 60 all_goals try first
    | with_reducible refine NextKeeps.mk ?_
    | with_reducible assumption
    | with_reducible refine State.sisV_keeps ?_
    | extract_lets
    | split
    | intro _
    | with_reducible refine Keeps.lit ?_
    | dsimp -zeta only

theorem execVxCombinePut_keeps {s : State} {a0} {a1} {a2} : NextKeeps s (execVxCombinePut a0 a1 a2 s) := by
  have h := Keeps.refl s
  unfold execVxCombinePut
  iterate 60 all_goals try first
    | with_reducible refine NextKeeps.mk ?_
    | with_reducible assumption
    | with_reducible refine State.sisV_keeps ?_
    | extract_lets
    | split
    | intro _
    | with_reducible refine Keeps.lit ?_
    | dsimp -zeta only

theorem execVxCombineSum_keeps {s : State} {a0} {a1} {a2} : NextKeeps s (execVxCombineSum a0 a1 a2 s) := by
  have h := Keeps.refl s
  unfold execVxCombineSum
  iterate 60 all_goals try first
    | with_reducible refine NextKeeps.mk ?_
    | with_reducible assumption
    | with_reducible refine State.sisV_keeps ?_
    | extract_lets
    | split
    | intro _
    | with_reducible refine Keeps.lit ?_
    | dsimp -zeta only

theorem execMxLdw_keeps {s : State} {a0} {a1} {a2} {a3} : NextKeeps s (execMxLdw a0 a1 a2 a3 s) := by
  have h := Keeps.refl s
  unfold execMxLdw
  iterate 60 all_goals try first
    | with_reducible refine NextKeeps.mk ?_
    | with_reducible assumption
    | with_reducible refine State.sisM_keeps ?_
    | extract_lets
    | split
    | intro _
    | with_reducible refine Keeps.lit ?_
    | dsimp -zeta only

theorem execMxRun_keeps {s : State} {a0} {a1} {a2} {a3} : NextKeeps s (execMxRun a0 a1 a2 a3 s) := by
  have h := Keeps.refl s
  unfold execMxRun
  iterate 60 all_goals try first
    | with_reducible refine NextKeeps.mk ?_
    | with_reducible assumption
    | with_reducible refine State.sisM_keeps ?_
    | extract_lets
    | split
    | intro _
    | with_reducible refine Keeps.lit ?_
    | dsimp -zeta only

theorem execMxDrain_keeps {s : State} {a0} {a1} {a2} {a3} : NextKeeps s (execMxDrain a0 a1 a2 a3 s) := by
  have h := Keeps.refl s
  unfold execMxDrain
  iterate 60 all_goals try first
    | with_reducible refine NextKeeps.mk ?_
    | with_reducible assumption
    | with_reducible refine State.sisM_keeps ?_
    | extract_lets
    | split
    | intro _
    | with_reducible refine Keeps.lit ?_
    | dsimp -zeta only

theorem execMxZero_keeps {s : State} {a0} {a1} {a2} {a3} : NextKeeps s (execMxZero a0 a1 a2 a3 s) := by
  have h := Keeps.refl s
  unfold execMxZero
  iterate 60 all_goals try first
    | with_reducible refine NextKeeps.mk ?_
    | with_reducible assumption
    | with_reducible refine State.sisM_keeps ?_
    | extract_lets
    | split
    | intro _
    | with_reducible refine Keeps.lit ?_
    | dsimp -zeta only

theorem execMxSwap_keeps {s : State} {a0} {a1} {a2} {a3} : NextKeeps s (execMxSwap a0 a1 a2 a3 s) := by
  have h := Keeps.refl s
  unfold execMxSwap
  iterate 60 all_goals try first
    | with_reducible refine NextKeeps.mk ?_
    | with_reducible assumption
    | with_reducible refine State.sisM_keeps ?_
    | extract_lets
    | split
    | intro _
    | with_reducible refine Keeps.lit ?_
    | dsimp -zeta only

theorem execDevInfo_keeps {s : State} {a0} {a1} : NextKeeps s (execDevInfo a0 a1 s) := by
  have h := Keeps.refl s
  unfold execDevInfo
  iterate 60 all_goals try first
    | with_reducible refine NextKeeps.mk ?_
    | with_reducible assumption
    | with_reducible refine State.answer_keeps ?_
    | with_reducible refine State.serve_keeps ?_ ?_
    | extract_lets
    | split
    | intro _
    | with_reducible refine Keeps.lit ?_
    | dsimp -zeta only

theorem execDevStatus_keeps {s : State} {a0} {a1} : NextKeeps s (execDevStatus a0 a1 s) := by
  have h := Keeps.refl s
  unfold execDevStatus
  iterate 60 all_goals try first
    | with_reducible refine NextKeeps.mk ?_
    | with_reducible assumption
    | with_reducible refine State.answer_keeps ?_
    | with_reducible refine State.serve_keeps ?_ ?_
    | extract_lets
    | split
    | intro _
    | with_reducible refine Keeps.lit ?_
    | dsimp -zeta only

theorem execPaceReport_keeps {s : State} {a0} {a1} : NextKeeps s (execPaceReport a0 a1 s) := by
  have h := Keeps.refl s
  unfold execPaceReport
  iterate 60 all_goals try first
    | with_reducible refine NextKeeps.mk ?_
    | with_reducible assumption
    | with_reducible refine State.answer_keeps ?_
    | with_reducible refine State.serve_keeps ?_ ?_
    | with_reducible refine Keeps.foldl ?_ ?_
    | with_reducible refine Keeps.foldlSnd ?_ ?_
    | with_reducible refine Keeps.foldlFst ?_ ?_
    | extract_lets
    | split
    | intro _
    | with_reducible refine Keeps.litFatal ?_
    | with_reducible refine Keeps.lit ?_
    | dsimp -zeta only

theorem execConfigRead_keeps {s : State} {a0} {a1} : NextKeeps s (execConfigRead a0 a1 s) := by
  have h := Keeps.refl s
  unfold execConfigRead
  iterate 60 all_goals try first
    | with_reducible refine NextKeeps.mk ?_
    | with_reducible assumption
    | with_reducible refine State.answer_keeps ?_
    | with_reducible refine State.configValue_keeps ?_
    | with_reducible refine State.serve_keeps ?_ ?_
    | with_reducible refine Keeps.ofEq ?_ (by with_reducible assumption)
    | extract_lets
    | split
    | intro _
    | with_reducible refine Keeps.lit ?_
    | dsimp -zeta only

theorem execQueueCreate_keeps {s : State} {a0} {a1} : NextKeeps s (execQueueCreate a0 a1 s) := by
  have h := Keeps.refl s
  unfold execQueueCreate
  iterate 60 all_goals try first
    | with_reducible refine NextKeeps.mk ?_
    | with_reducible assumption
    | with_reducible refine State.answer_keeps ?_
    | with_reducible refine State.range_keeps ?_
    | with_reducible refine State.serve_keeps ?_ ?_
    | with_reducible refine State.updPart_keeps ?_
    | with_reducible refine Keeps.ofEq ?_ (by with_reducible assumption)
    | extract_lets
    | split
    | intro _
    | with_reducible refine Keeps.lit ?_
    | dsimp -zeta only

theorem execQueueDestroy_keeps {s : State} {a0} {a1} : NextKeeps s (execQueueDestroy a0 a1 s) := by
  have h := Keeps.refl s
  unfold execQueueDestroy
  iterate 60 all_goals try first
    | with_reducible refine NextKeeps.mk ?_
    | with_reducible assumption
    | with_reducible refine State.answer_keeps ?_
    | with_reducible refine State.serve_keeps ?_ ?_
    | with_reducible refine State.updPart_keeps ?_
    | extract_lets
    | split
    | intro _
    | with_reducible refine Keeps.lit ?_
    | dsimp -zeta only

theorem execAnteSet_keeps {s : State} {a0} {a1} : NextKeeps s (execAnteSet a0 a1 s) := by
  have h := Keeps.refl s
  unfold execAnteSet
  iterate 60 all_goals try first
    | with_reducible refine NextKeeps.mk ?_
    | with_reducible assumption
    | with_reducible refine State.answer_keeps ?_
    | with_reducible refine State.serve_keeps ?_ ?_
    | with_reducible refine State.updPart_keeps ?_
    | extract_lets
    | split
    | intro _
    | with_reducible refine Keeps.lit ?_
    | dsimp -zeta only

theorem execLedgerQuery_keeps {s : State} {a0} {a1} : NextKeeps s (execLedgerQuery a0 a1 s) := by
  have h := Keeps.refl s
  unfold execLedgerQuery
  iterate 60 all_goals try first
    | with_reducible refine NextKeeps.mk ?_
    | with_reducible assumption
    | with_reducible refine State.answer_keeps ?_
    | with_reducible refine State.ledgerBytes_keeps ?_
    | with_reducible refine State.serve_keeps ?_ ?_
    | with_reducible refine Keeps.ofEq ?_ (by with_reducible assumption)
    | extract_lets
    | split
    | intro _
    | with_reducible refine Keeps.lit ?_
    | dsimp -zeta only

theorem execChainDefine_keeps {s : State} {a0} {a1} : NextKeeps s (execChainDefine a0 a1 s) := by
  have h := Keeps.refl s
  unfold execChainDefine
  iterate 60 all_goals try first
    | with_reducible refine NextKeeps.mk ?_
    | with_reducible assumption
    | with_reducible refine State.answer_keeps ?_
    | with_reducible refine State.serve_keeps ?_ ?_
    | with_reducible refine State.updPart_keeps ?_
    | extract_lets
    | split
    | intro _
    | with_reducible refine Keeps.lit ?_
    | dsimp -zeta only

theorem execChainRelease_keeps {s : State} {a0} {a1} : NextKeeps s (execChainRelease a0 a1 s) := by
  have h := Keeps.refl s
  unfold execChainRelease
  iterate 60 all_goals try first
    | with_reducible refine NextKeeps.mk ?_
    | with_reducible assumption
    | with_reducible refine State.answer_keeps ?_
    | with_reducible refine State.serve_keeps ?_ ?_
    | with_reducible refine State.updPart_keeps ?_
    | extract_lets
    | split
    | intro _
    | with_reducible refine Keeps.lit ?_
    | dsimp -zeta only

theorem execErrorLogRead_keeps {s : State} {a0} {a1} : NextKeeps s (execErrorLogRead a0 a1 s) := by
  have h := Keeps.refl s
  unfold execErrorLogRead
  iterate 60 all_goals try first
    | with_reducible refine NextKeeps.mk ?_
    | with_reducible assumption
    | with_reducible refine State.answer_keeps ?_
    | with_reducible refine State.serve_keeps ?_ ?_
    | extract_lets
    | split
    | intro _
    | with_reducible refine Keeps.lit ?_
    | dsimp -zeta only

theorem execRecallAck_keeps {s : State} {a0} {a1} : NextKeeps s (execRecallAck a0 a1 s) := by
  have h := Keeps.refl s
  unfold execRecallAck
  iterate 60 all_goals try first
    | with_reducible refine NextKeeps.mk ?_
    | with_reducible assumption
    | with_reducible refine State.answer_keeps ?_
    | with_reducible refine State.serve_keeps ?_ ?_
    | with_reducible refine State.updPart_keeps ?_
    | extract_lets
    | split
    | intro _
    | with_reducible refine Keeps.lit ?_
    | dsimp -zeta only

theorem execCheckSplitEnable_keeps {s : State} {a0} {a1} : NextKeeps s (execCheckSplitEnable a0 a1 s) := by
  have h := Keeps.refl s
  unfold execCheckSplitEnable
  iterate 60 all_goals try first
    | with_reducible refine NextKeeps.mk ?_
    | with_reducible assumption
    | with_reducible refine State.answer_keeps ?_
    | with_reducible refine State.serve_keeps ?_ ?_
    | extract_lets
    | split
    | intro _
    | with_reducible refine Keeps.litFatal ?_
    | with_reducible refine Keeps.lit ?_
    | dsimp -zeta only

theorem execPowerEnvelope_keeps {s : State} {a0} {a1} : NextKeeps s (execPowerEnvelope a0 a1 s) := by
  have h := Keeps.refl s
  unfold execPowerEnvelope
  iterate 60 all_goals try first
    | with_reducible refine NextKeeps.mk ?_
    | with_reducible assumption
    | with_reducible refine State.answer_keeps ?_
    | with_reducible refine State.serve_keeps ?_ ?_
    | extract_lets
    | split
    | intro _
    | with_reducible refine Keeps.litFatal ?_
    | with_reducible refine Keeps.lit ?_
    | dsimp -zeta only

end Sys2Proof.Machine
end

