-- ==== Sys2Proof/Laws/Maps.lean ====
section
/-!
SUPPORT. What work on page tables needs of its area (R228, R231): a mapping change that finds enough free blocks never runs short of them.
-/

namespace Sys2Proof.Machine

/-- The work has not run short and has `k` blocks left. -/
def Build.Spare (k : Nat) (b : Build) : Prop := b.short = false ∧ k ≤ b.free.length

theorem Build.Spare.mono {j k : Nat} {b : Build} (h : b.Spare k) (le : j ≤ k) : b.Spare j := ⟨h.1, Nat.le_trans le h.2⟩

/-- Keeping a table writes some state: in place, in a free block, or nowhere where there is none. -/
theorem Build.store_cases (b : Build) (old : Option Nat) (t : SMap Word) :
    (∃ w s, b.store old t = (w, { b with s := s })) ∨
    (∃ w s a free own, b.free = a :: free ∧ b.store old t = (w, ⟨s, free, own, b.short⟩)) ∨
    b.free = [] ∧ b.store old t = (0, { b with short := true }) := by
  unfold Build.store
  split
  · split
    · exact .inl ⟨_, _, rfl⟩
    · split
      · exact .inr (.inl ⟨_, _, _, _, _, ‹_›, rfl⟩)
      · exact .inr (.inr ⟨‹_›, rfl⟩)
  · split
    · exact .inr (.inl ⟨_, _, _, _, _, ‹_›, rfl⟩)
    · exact .inr (.inr ⟨‹_›, rfl⟩)

/-- Keeping a table takes at most one block. -/
theorem Build.store_spare {k : Nat} {b : Build} (h : b.Spare (k + 1)) (old : Option Nat) (t : SMap Word) : (b.store old t).2.Spare k := by
  obtain ⟨h1, h2⟩ := h
  obtain ⟨w, s, e⟩ | ⟨w, s, a, free, own, f, e⟩ | ⟨f, e⟩ := b.store_cases old t
  · exact e ▸ ⟨h1, Nat.le_of_succ_le h2⟩
  · rw [f, List.length_cons] at h2
    exact e ▸ ⟨h1, Nat.le_of_succ_le_succ h2⟩
  · rw [f] at h2
    exact absurd h2 (Nat.not_succ_le_zero k)

/-- Editing entries takes what their edits take, and at most one block. -/
theorem Build.edit_spare {k m : Nat} {b : Build} {e : Word} {lo hi : Nat} {f : Nat → Word → Build → Word × Build}
    (h : b.Spare (m * (hi - lo) + (k + 1))) (hf : ∀ i w (b : Build) j, b.Spare (j + m) → (f i w b).2.Spare j) : (b.edit e lo hi f).2.Spare k := by
  have fold : ∀ (l : List Nat) (r : SMap Word × Build) (j : Nat), r.2.Spare (m * l.length + j) → (l.foldl (fun (r : SMap Word × Build) i =>
      (SMap.put 0 r.1 (lo + i) (f (lo + i) (SMap.get 0 (b.table e) (lo + i)) r.2).1,
        (f (lo + i) (SMap.get 0 (b.table e) (lo + i)) r.2).2)) r).2.Spare j := by
    intro l
    induction l with
    | nil => intro r j h; simpa using h
    | cons i l ih => exact fun r j h => ih _ j (hf _ _ _ _ (h.mono (by rw [List.length_cons, Nat.mul_succ]; omega)))
  have all := fold (List.range (hi - lo)) (b.table e, b) (k + 1) (by simpa using h)
  simp only [Build.edit]
  split
  · exact all.mono (Nat.le_succ k)
  split
  · exact all.mono (Nat.le_succ k)
  · exact Build.store_spare all _ _

/-- Editing the pages of one table takes at most one block. -/
theorem Build.pages_spare {k : Nat} {b : Build} (h : b.Spare (k + 1)) (e : Word) (lo hi : Nat) (g : Nat → Word) : (b.pages e lo hi g).2.Spare k := by
  simp only [Build.pages]
  split
  · split
    · exact h.mono (Nat.le_succ k)
    · exact Build.store_spare h _ _
  · exact Build.edit_spare (m := 0) (by simpa using h) (fun _ _ _ _ h => h)

/-- Blocks that are enough for a change of so many pages. -/
def blocksFor (pages : Nat) : Nat := (pages + 1) * (pages + 2) + 1

theorem slots_le (a n d : Nat) (h : 0 < d) : (a + n - 1) / d + 1 - a / d ≤ n + 1 := by
  have : (a + n - 1) / d ≤ a / d + n := by
    calc (a + n - 1) / d ≤ (a + d * n) / d := Nat.div_le_div_right (by have := Nat.le_mul_of_pos_left n h; omega)
      _ = a / d + n := Nat.add_mul_div_left a n h
  omega

/-- One change takes at most `blocksFor` its pages. -/
theorem Build.change_spare {k : Nat} {b : Build} {c : Change} (h : b.Spare (blocksFor c.pages + k)) (root : Word) :
    (b.change root c).2.Spare k := by
  unfold Build.change
  refine Build.edit_spare (m := c.pages + 2) (h.mono ?_) (fun i e b j h => ?_)
  · have := slots_le (c.va / c.page) c.pages (if c.large then 8192 else 8192 * 8192) (by split <;> decide)
    have := Nat.mul_le_mul_left (c.pages + 2) this
    rw [blocksFor, Nat.mul_comm (c.pages + 1)]
    omega
  · dsimp only
    split
    · exact Build.edit_spare (m := 0) (h.mono (by omega)) (fun _ _ _ _ h => h)
    · refine Build.edit_spare (m := 1) (h.mono ?_) (fun _ _ _ _ h => Build.pages_spare h _ _ _ _)
      have slots : ∀ lo hi : Nat, hi ≤ lo + c.pages → (hi - 1) / 8192 + 1 - lo / 8192 ≤ c.pages + 1 := fun lo hi h =>
        Nat.le_trans (Nat.sub_le_sub_right (Nat.succ_le_succ (Nat.div_le_div_right (Nat.sub_le_sub_right h 1))) _) (slots_le lo c.pages 8192 (by decide))
      have := slots (max (c.va / c.page) (i * (if c.large then 8192 else 8192 * 8192)) - i * (if c.large then 8192 else 8192 * 8192))
        (min (c.va / c.page + c.pages) (i * (if c.large then 8192 else 8192 * 8192) + (if c.large then 8192 else 8192 * 8192)) -
          i * (if c.large then 8192 else 8192 * 8192)) (by omega)
      omega

/-- Changes of few pages in an area with room give a root. -/
theorem State.changed_isSome {s : State} {n : Nat} {cs : List Change} (h : (cs.map (fun c => blocksFor c.pages)).sum ≤
    ((s.ptBlocks n).filter (fun a => !(s.tablesOf (s.part n).root).contains a)).length) : (s.changed n cs).isSome = true := by
  have fold : ∀ (cs : List Change) (r : Word × Build), r.2.Spare ((cs.map (fun c => blocksFor c.pages)).sum) →
      (cs.foldl (fun (r : Word × Build) c => r.2.change r.1 c) r).2.short = false := by
    intro cs
    induction cs with
    | nil => exact fun r h => h.1
    | cons c cs ih => exact fun r h => ih _ (Build.change_spare (by simpa using h) _)
  have spare := fold cs ((s.part n).root,
    { s := s, free := (s.ptBlocks n).filter (fun a => !(s.tablesOf (s.part n).root).contains a) }) ⟨rfl, h⟩
  simp only [State.changed, Build.changes, spare]
  rfl

end Sys2Proof.Machine
end

