-- ==== Sys2Proof/Laws/State.lean ====
section
/-!
SUPPORT. What each update of the state does to each of its fields and parts: an update of one part reads back there and leaves every
other part as it was.
-/

namespace Sys2Proof.Machine

variable (s : State) (n k : Nat)

/-! setTile -/

@[simp] theorem State.setTile_pending (x : Tile) : (s.setTile n x).pending = s.pending := rfl
@[simp] theorem State.setTile_now (x : Tile) : (s.setTile n x).now = s.now := rfl
@[simp] theorem State.setTile_boot (x : Tile) : (s.setTile n x).boot = s.boot := rfl
@[simp] theorem State.setTile_plant (x : Tile) : (s.setTile n x).plant = s.plant := rfl
@[simp] theorem State.setTile_parts (x : Tile) : (s.setTile n x).parts = s.parts := rfl
@[simp] theorem State.setTile_mem (x : Tile) : (s.setTile n x).mem = s.mem := rfl
@[simp] theorem State.setTile_hbm (x : Tile) : (s.setTile n x).hbm = s.hbm := rfl
@[simp] theorem State.setTile_arbs (x : Tile) : (s.setTile n x).arbs = s.arbs := rfl
@[simp] theorem State.setTile_links (x : Tile) : (s.setTile n x).links = s.links := rfl
@[simp] theorem State.setTile_fabric (x : Tile) : (s.setTile n x).fabric = s.fabric := rfl
@[simp] theorem State.setTile_ledger (x : Tile) : (s.setTile n x).ledger = s.ledger := rfl
@[simp] theorem State.setTile_regions (x : Tile) : (s.setTile n x).regions = s.regions := rfl
@[simp] theorem State.setTile_mbx (x : Tile) : (s.setTile n x).mbx = s.mbx := rfl
@[simp] theorem State.setTile_cfg (x : Tile) : (s.setTile n x).cfg = s.cfg := rfl
@[simp] theorem State.setTile_eng (x : Tile) : (s.setTile n x).eng = s.eng := rfl
@[simp] theorem State.setTile_sec (x : Tile) : (s.setTile n x).sec = s.sec := rfl
@[simp] theorem State.setTile_hostl (x : Tile) : (s.setTile n x).hostl = s.hostl := rfl
@[simp] theorem State.setTile_board (x : Tile) : (s.setTile n x).board = s.board := rfl
@[simp] theorem State.setTile_ring (x : Tile) : (s.setTile n x).ring = s.ring := rfl
@[simp] theorem State.setTile_fatals (x : Tile) : (s.setTile n x).fatals = s.fatals := rfl
@[simp] theorem State.setTile_recSeq (x : Tile) : (s.setTile n x).recSeq = s.recSeq := rfl
@[simp] theorem State.setTile_chainLog (x : Tile) : (s.setTile n x).chainLog = s.chainLog := rfl
@[simp] theorem State.setTile_net (x : Tile) : (s.setTile n x).net = s.net := rfl
@[simp] theorem State.setTile_lastWindow (x : Tile) : (s.setTile n x).lastWindow = s.lastWindow := rfl
@[simp] theorem State.setTile_lastMover (x : Tile) : (s.setTile n x).lastMover = s.lastMover := rfl
@[simp] theorem State.setTile_out (x : Tile) : (s.setTile n x).out = s.out := rfl
@[simp] theorem State.setTile_free (x : Tile) : (s.setTile n x).free = s.free := rfl
@[simp] theorem State.setTile_part (x : Tile) : (s.setTile n x).part k = s.part k := rfl
@[simp] theorem State.setTile_led (x : Tile) : (s.setTile n x).led k = s.led k := rfl
@[simp] theorem State.setTile_region (x : Tile) : (s.setTile n x).region k = s.region k := rfl
@[simp] theorem State.setTile_box (x : Tile) : (s.setTile n x).box k = s.box k := rfl
@[simp] theorem State.setTile_hbmc (x : Tile) : (s.setTile n x).hbmc k = s.hbmc k := rfl
@[simp] theorem State.setTile_arb (x : Tile) : (s.setTile n x).arb k = s.arb k := rfl
@[simp] theorem State.setTile_link (x : Tile) : (s.setTile n x).link k = s.link k := rfl
theorem State.tile_setTile (x : Tile) : (s.setTile n x).tile k = if k = n then x else s.tile k := SMap.get_put _ _ _ _ _
@[simp] theorem State.tile_setTile_self (x : Tile) : (s.setTile n x).tile n = x := SMap.get_put_self _ _ _ _
@[simp] theorem State.updTile_pending (h : Tile → Tile) : (s.updTile n h).pending = s.pending := rfl
@[simp] theorem State.updTile_now (h : Tile → Tile) : (s.updTile n h).now = s.now := rfl
@[simp] theorem State.updTile_boot (h : Tile → Tile) : (s.updTile n h).boot = s.boot := rfl
@[simp] theorem State.updTile_plant (h : Tile → Tile) : (s.updTile n h).plant = s.plant := rfl
@[simp] theorem State.updTile_parts (h : Tile → Tile) : (s.updTile n h).parts = s.parts := rfl
@[simp] theorem State.updTile_mem (h : Tile → Tile) : (s.updTile n h).mem = s.mem := rfl
@[simp] theorem State.updTile_hbm (h : Tile → Tile) : (s.updTile n h).hbm = s.hbm := rfl
@[simp] theorem State.updTile_arbs (h : Tile → Tile) : (s.updTile n h).arbs = s.arbs := rfl
@[simp] theorem State.updTile_links (h : Tile → Tile) : (s.updTile n h).links = s.links := rfl
@[simp] theorem State.updTile_fabric (h : Tile → Tile) : (s.updTile n h).fabric = s.fabric := rfl
@[simp] theorem State.updTile_ledger (h : Tile → Tile) : (s.updTile n h).ledger = s.ledger := rfl
@[simp] theorem State.updTile_regions (h : Tile → Tile) : (s.updTile n h).regions = s.regions := rfl
@[simp] theorem State.updTile_mbx (h : Tile → Tile) : (s.updTile n h).mbx = s.mbx := rfl
@[simp] theorem State.updTile_cfg (h : Tile → Tile) : (s.updTile n h).cfg = s.cfg := rfl
@[simp] theorem State.updTile_eng (h : Tile → Tile) : (s.updTile n h).eng = s.eng := rfl
@[simp] theorem State.updTile_sec (h : Tile → Tile) : (s.updTile n h).sec = s.sec := rfl
@[simp] theorem State.updTile_hostl (h : Tile → Tile) : (s.updTile n h).hostl = s.hostl := rfl
@[simp] theorem State.updTile_board (h : Tile → Tile) : (s.updTile n h).board = s.board := rfl
@[simp] theorem State.updTile_ring (h : Tile → Tile) : (s.updTile n h).ring = s.ring := rfl
@[simp] theorem State.updTile_fatals (h : Tile → Tile) : (s.updTile n h).fatals = s.fatals := rfl
@[simp] theorem State.updTile_recSeq (h : Tile → Tile) : (s.updTile n h).recSeq = s.recSeq := rfl
@[simp] theorem State.updTile_chainLog (h : Tile → Tile) : (s.updTile n h).chainLog = s.chainLog := rfl
@[simp] theorem State.updTile_net (h : Tile → Tile) : (s.updTile n h).net = s.net := rfl
@[simp] theorem State.updTile_lastWindow (h : Tile → Tile) : (s.updTile n h).lastWindow = s.lastWindow := rfl
@[simp] theorem State.updTile_lastMover (h : Tile → Tile) : (s.updTile n h).lastMover = s.lastMover := rfl
@[simp] theorem State.updTile_out (h : Tile → Tile) : (s.updTile n h).out = s.out := rfl
@[simp] theorem State.updTile_free (h : Tile → Tile) : (s.updTile n h).free = s.free := rfl
@[simp] theorem State.updTile_part (h : Tile → Tile) : (s.updTile n h).part k = s.part k := rfl
@[simp] theorem State.updTile_led (h : Tile → Tile) : (s.updTile n h).led k = s.led k := rfl
@[simp] theorem State.updTile_region (h : Tile → Tile) : (s.updTile n h).region k = s.region k := rfl
@[simp] theorem State.updTile_box (h : Tile → Tile) : (s.updTile n h).box k = s.box k := rfl
@[simp] theorem State.updTile_hbmc (h : Tile → Tile) : (s.updTile n h).hbmc k = s.hbmc k := rfl
@[simp] theorem State.updTile_arb (h : Tile → Tile) : (s.updTile n h).arb k = s.arb k := rfl
@[simp] theorem State.updTile_link (h : Tile → Tile) : (s.updTile n h).link k = s.link k := rfl
theorem State.tile_updTile (h : Tile → Tile) : (s.updTile n h).tile k = if k = n then h (s.tile n) else s.tile k := SMap.get_put _ _ _ _ _
@[simp] theorem State.tile_updTile_self (h : Tile → Tile) : (s.updTile n h).tile n = h (s.tile n) := SMap.get_put_self _ _ _ _

/-! setPart -/

@[simp] theorem State.setPart_pending (x : Part) : (s.setPart n x).pending = s.pending := rfl
@[simp] theorem State.setPart_now (x : Part) : (s.setPart n x).now = s.now := rfl
@[simp] theorem State.setPart_boot (x : Part) : (s.setPart n x).boot = s.boot := rfl
@[simp] theorem State.setPart_plant (x : Part) : (s.setPart n x).plant = s.plant := rfl
@[simp] theorem State.setPart_tiles (x : Part) : (s.setPart n x).tiles = s.tiles := rfl
@[simp] theorem State.setPart_mem (x : Part) : (s.setPart n x).mem = s.mem := rfl
@[simp] theorem State.setPart_hbm (x : Part) : (s.setPart n x).hbm = s.hbm := rfl
@[simp] theorem State.setPart_arbs (x : Part) : (s.setPart n x).arbs = s.arbs := rfl
@[simp] theorem State.setPart_links (x : Part) : (s.setPart n x).links = s.links := rfl
@[simp] theorem State.setPart_fabric (x : Part) : (s.setPart n x).fabric = s.fabric := rfl
@[simp] theorem State.setPart_ledger (x : Part) : (s.setPart n x).ledger = s.ledger := rfl
@[simp] theorem State.setPart_regions (x : Part) : (s.setPart n x).regions = s.regions := rfl
@[simp] theorem State.setPart_mbx (x : Part) : (s.setPart n x).mbx = s.mbx := rfl
@[simp] theorem State.setPart_cfg (x : Part) : (s.setPart n x).cfg = s.cfg := rfl
@[simp] theorem State.setPart_eng (x : Part) : (s.setPart n x).eng = s.eng := rfl
@[simp] theorem State.setPart_sec (x : Part) : (s.setPart n x).sec = s.sec := rfl
@[simp] theorem State.setPart_hostl (x : Part) : (s.setPart n x).hostl = s.hostl := rfl
@[simp] theorem State.setPart_board (x : Part) : (s.setPart n x).board = s.board := rfl
@[simp] theorem State.setPart_ring (x : Part) : (s.setPart n x).ring = s.ring := rfl
@[simp] theorem State.setPart_fatals (x : Part) : (s.setPart n x).fatals = s.fatals := rfl
@[simp] theorem State.setPart_recSeq (x : Part) : (s.setPart n x).recSeq = s.recSeq := rfl
@[simp] theorem State.setPart_chainLog (x : Part) : (s.setPart n x).chainLog = s.chainLog := rfl
@[simp] theorem State.setPart_net (x : Part) : (s.setPart n x).net = s.net := rfl
@[simp] theorem State.setPart_lastWindow (x : Part) : (s.setPart n x).lastWindow = s.lastWindow := rfl
@[simp] theorem State.setPart_lastMover (x : Part) : (s.setPart n x).lastMover = s.lastMover := rfl
@[simp] theorem State.setPart_out (x : Part) : (s.setPart n x).out = s.out := rfl
@[simp] theorem State.setPart_free (x : Part) : (s.setPart n x).free = s.free := rfl
@[simp] theorem State.setPart_tile (x : Part) : (s.setPart n x).tile k = s.tile k := rfl
@[simp] theorem State.setPart_led (x : Part) : (s.setPart n x).led k = s.led k := rfl
@[simp] theorem State.setPart_region (x : Part) : (s.setPart n x).region k = s.region k := rfl
@[simp] theorem State.setPart_box (x : Part) : (s.setPart n x).box k = s.box k := rfl
@[simp] theorem State.setPart_hbmc (x : Part) : (s.setPart n x).hbmc k = s.hbmc k := rfl
@[simp] theorem State.setPart_arb (x : Part) : (s.setPart n x).arb k = s.arb k := rfl
@[simp] theorem State.setPart_link (x : Part) : (s.setPart n x).link k = s.link k := rfl
theorem State.part_setPart (x : Part) : (s.setPart n x).part k = if k = n then x else s.part k := SMap.get_put _ _ _ _ _
@[simp] theorem State.part_setPart_self (x : Part) : (s.setPart n x).part n = x := SMap.get_put_self _ _ _ _
@[simp] theorem State.updPart_pending (h : Part → Part) : (s.updPart n h).pending = s.pending := rfl
@[simp] theorem State.updPart_now (h : Part → Part) : (s.updPart n h).now = s.now := rfl
@[simp] theorem State.updPart_boot (h : Part → Part) : (s.updPart n h).boot = s.boot := rfl
@[simp] theorem State.updPart_plant (h : Part → Part) : (s.updPart n h).plant = s.plant := rfl
@[simp] theorem State.updPart_tiles (h : Part → Part) : (s.updPart n h).tiles = s.tiles := rfl
@[simp] theorem State.updPart_mem (h : Part → Part) : (s.updPart n h).mem = s.mem := rfl
@[simp] theorem State.updPart_hbm (h : Part → Part) : (s.updPart n h).hbm = s.hbm := rfl
@[simp] theorem State.updPart_arbs (h : Part → Part) : (s.updPart n h).arbs = s.arbs := rfl
@[simp] theorem State.updPart_links (h : Part → Part) : (s.updPart n h).links = s.links := rfl
@[simp] theorem State.updPart_fabric (h : Part → Part) : (s.updPart n h).fabric = s.fabric := rfl
@[simp] theorem State.updPart_ledger (h : Part → Part) : (s.updPart n h).ledger = s.ledger := rfl
@[simp] theorem State.updPart_regions (h : Part → Part) : (s.updPart n h).regions = s.regions := rfl
@[simp] theorem State.updPart_mbx (h : Part → Part) : (s.updPart n h).mbx = s.mbx := rfl
@[simp] theorem State.updPart_cfg (h : Part → Part) : (s.updPart n h).cfg = s.cfg := rfl
@[simp] theorem State.updPart_eng (h : Part → Part) : (s.updPart n h).eng = s.eng := rfl
@[simp] theorem State.updPart_sec (h : Part → Part) : (s.updPart n h).sec = s.sec := rfl
@[simp] theorem State.updPart_hostl (h : Part → Part) : (s.updPart n h).hostl = s.hostl := rfl
@[simp] theorem State.updPart_board (h : Part → Part) : (s.updPart n h).board = s.board := rfl
@[simp] theorem State.updPart_ring (h : Part → Part) : (s.updPart n h).ring = s.ring := rfl
@[simp] theorem State.updPart_fatals (h : Part → Part) : (s.updPart n h).fatals = s.fatals := rfl
@[simp] theorem State.updPart_recSeq (h : Part → Part) : (s.updPart n h).recSeq = s.recSeq := rfl
@[simp] theorem State.updPart_chainLog (h : Part → Part) : (s.updPart n h).chainLog = s.chainLog := rfl
@[simp] theorem State.updPart_net (h : Part → Part) : (s.updPart n h).net = s.net := rfl
@[simp] theorem State.updPart_lastWindow (h : Part → Part) : (s.updPart n h).lastWindow = s.lastWindow := rfl
@[simp] theorem State.updPart_lastMover (h : Part → Part) : (s.updPart n h).lastMover = s.lastMover := rfl
@[simp] theorem State.updPart_out (h : Part → Part) : (s.updPart n h).out = s.out := rfl
@[simp] theorem State.updPart_free (h : Part → Part) : (s.updPart n h).free = s.free := rfl
@[simp] theorem State.updPart_tile (h : Part → Part) : (s.updPart n h).tile k = s.tile k := rfl
@[simp] theorem State.updPart_led (h : Part → Part) : (s.updPart n h).led k = s.led k := rfl
@[simp] theorem State.updPart_region (h : Part → Part) : (s.updPart n h).region k = s.region k := rfl
@[simp] theorem State.updPart_box (h : Part → Part) : (s.updPart n h).box k = s.box k := rfl
@[simp] theorem State.updPart_hbmc (h : Part → Part) : (s.updPart n h).hbmc k = s.hbmc k := rfl
@[simp] theorem State.updPart_arb (h : Part → Part) : (s.updPart n h).arb k = s.arb k := rfl
@[simp] theorem State.updPart_link (h : Part → Part) : (s.updPart n h).link k = s.link k := rfl
theorem State.part_updPart (h : Part → Part) : (s.updPart n h).part k = if k = n then h (s.part n) else s.part k := SMap.get_put _ _ _ _ _
@[simp] theorem State.part_updPart_self (h : Part → Part) : (s.updPart n h).part n = h (s.part n) := SMap.get_put_self _ _ _ _

/-! setLed -/

@[simp] theorem State.setLed_pending (x : Ledger) : (s.setLed n x).pending = s.pending := rfl
@[simp] theorem State.setLed_now (x : Ledger) : (s.setLed n x).now = s.now := rfl
@[simp] theorem State.setLed_boot (x : Ledger) : (s.setLed n x).boot = s.boot := rfl
@[simp] theorem State.setLed_plant (x : Ledger) : (s.setLed n x).plant = s.plant := rfl
@[simp] theorem State.setLed_tiles (x : Ledger) : (s.setLed n x).tiles = s.tiles := rfl
@[simp] theorem State.setLed_parts (x : Ledger) : (s.setLed n x).parts = s.parts := rfl
@[simp] theorem State.setLed_mem (x : Ledger) : (s.setLed n x).mem = s.mem := rfl
@[simp] theorem State.setLed_hbm (x : Ledger) : (s.setLed n x).hbm = s.hbm := rfl
@[simp] theorem State.setLed_arbs (x : Ledger) : (s.setLed n x).arbs = s.arbs := rfl
@[simp] theorem State.setLed_links (x : Ledger) : (s.setLed n x).links = s.links := rfl
@[simp] theorem State.setLed_fabric (x : Ledger) : (s.setLed n x).fabric = s.fabric := rfl
@[simp] theorem State.setLed_regions (x : Ledger) : (s.setLed n x).regions = s.regions := rfl
@[simp] theorem State.setLed_mbx (x : Ledger) : (s.setLed n x).mbx = s.mbx := rfl
@[simp] theorem State.setLed_cfg (x : Ledger) : (s.setLed n x).cfg = s.cfg := rfl
@[simp] theorem State.setLed_eng (x : Ledger) : (s.setLed n x).eng = s.eng := rfl
@[simp] theorem State.setLed_sec (x : Ledger) : (s.setLed n x).sec = s.sec := rfl
@[simp] theorem State.setLed_hostl (x : Ledger) : (s.setLed n x).hostl = s.hostl := rfl
@[simp] theorem State.setLed_board (x : Ledger) : (s.setLed n x).board = s.board := rfl
@[simp] theorem State.setLed_ring (x : Ledger) : (s.setLed n x).ring = s.ring := rfl
@[simp] theorem State.setLed_fatals (x : Ledger) : (s.setLed n x).fatals = s.fatals := rfl
@[simp] theorem State.setLed_recSeq (x : Ledger) : (s.setLed n x).recSeq = s.recSeq := rfl
@[simp] theorem State.setLed_chainLog (x : Ledger) : (s.setLed n x).chainLog = s.chainLog := rfl
@[simp] theorem State.setLed_net (x : Ledger) : (s.setLed n x).net = s.net := rfl
@[simp] theorem State.setLed_lastWindow (x : Ledger) : (s.setLed n x).lastWindow = s.lastWindow := rfl
@[simp] theorem State.setLed_lastMover (x : Ledger) : (s.setLed n x).lastMover = s.lastMover := rfl
@[simp] theorem State.setLed_out (x : Ledger) : (s.setLed n x).out = s.out := rfl
@[simp] theorem State.setLed_free (x : Ledger) : (s.setLed n x).free = s.free := rfl
@[simp] theorem State.setLed_tile (x : Ledger) : (s.setLed n x).tile k = s.tile k := rfl
@[simp] theorem State.setLed_part (x : Ledger) : (s.setLed n x).part k = s.part k := rfl
@[simp] theorem State.setLed_region (x : Ledger) : (s.setLed n x).region k = s.region k := rfl
@[simp] theorem State.setLed_box (x : Ledger) : (s.setLed n x).box k = s.box k := rfl
@[simp] theorem State.setLed_hbmc (x : Ledger) : (s.setLed n x).hbmc k = s.hbmc k := rfl
@[simp] theorem State.setLed_arb (x : Ledger) : (s.setLed n x).arb k = s.arb k := rfl
@[simp] theorem State.setLed_link (x : Ledger) : (s.setLed n x).link k = s.link k := rfl
theorem State.led_setLed (x : Ledger) : (s.setLed n x).led k = if k = n then x else s.led k := SMap.get_put _ _ _ _ _
@[simp] theorem State.led_setLed_self (x : Ledger) : (s.setLed n x).led n = x := SMap.get_put_self _ _ _ _
@[simp] theorem State.updLed_pending (h : Ledger → Ledger) : (s.updLed n h).pending = s.pending := rfl
@[simp] theorem State.updLed_now (h : Ledger → Ledger) : (s.updLed n h).now = s.now := rfl
@[simp] theorem State.updLed_boot (h : Ledger → Ledger) : (s.updLed n h).boot = s.boot := rfl
@[simp] theorem State.updLed_plant (h : Ledger → Ledger) : (s.updLed n h).plant = s.plant := rfl
@[simp] theorem State.updLed_tiles (h : Ledger → Ledger) : (s.updLed n h).tiles = s.tiles := rfl
@[simp] theorem State.updLed_parts (h : Ledger → Ledger) : (s.updLed n h).parts = s.parts := rfl
@[simp] theorem State.updLed_mem (h : Ledger → Ledger) : (s.updLed n h).mem = s.mem := rfl
@[simp] theorem State.updLed_hbm (h : Ledger → Ledger) : (s.updLed n h).hbm = s.hbm := rfl
@[simp] theorem State.updLed_arbs (h : Ledger → Ledger) : (s.updLed n h).arbs = s.arbs := rfl
@[simp] theorem State.updLed_links (h : Ledger → Ledger) : (s.updLed n h).links = s.links := rfl
@[simp] theorem State.updLed_fabric (h : Ledger → Ledger) : (s.updLed n h).fabric = s.fabric := rfl
@[simp] theorem State.updLed_regions (h : Ledger → Ledger) : (s.updLed n h).regions = s.regions := rfl
@[simp] theorem State.updLed_mbx (h : Ledger → Ledger) : (s.updLed n h).mbx = s.mbx := rfl
@[simp] theorem State.updLed_cfg (h : Ledger → Ledger) : (s.updLed n h).cfg = s.cfg := rfl
@[simp] theorem State.updLed_eng (h : Ledger → Ledger) : (s.updLed n h).eng = s.eng := rfl
@[simp] theorem State.updLed_sec (h : Ledger → Ledger) : (s.updLed n h).sec = s.sec := rfl
@[simp] theorem State.updLed_hostl (h : Ledger → Ledger) : (s.updLed n h).hostl = s.hostl := rfl
@[simp] theorem State.updLed_board (h : Ledger → Ledger) : (s.updLed n h).board = s.board := rfl
@[simp] theorem State.updLed_ring (h : Ledger → Ledger) : (s.updLed n h).ring = s.ring := rfl
@[simp] theorem State.updLed_fatals (h : Ledger → Ledger) : (s.updLed n h).fatals = s.fatals := rfl
@[simp] theorem State.updLed_recSeq (h : Ledger → Ledger) : (s.updLed n h).recSeq = s.recSeq := rfl
@[simp] theorem State.updLed_chainLog (h : Ledger → Ledger) : (s.updLed n h).chainLog = s.chainLog := rfl
@[simp] theorem State.updLed_net (h : Ledger → Ledger) : (s.updLed n h).net = s.net := rfl
@[simp] theorem State.updLed_lastWindow (h : Ledger → Ledger) : (s.updLed n h).lastWindow = s.lastWindow := rfl
@[simp] theorem State.updLed_lastMover (h : Ledger → Ledger) : (s.updLed n h).lastMover = s.lastMover := rfl
@[simp] theorem State.updLed_out (h : Ledger → Ledger) : (s.updLed n h).out = s.out := rfl
@[simp] theorem State.updLed_free (h : Ledger → Ledger) : (s.updLed n h).free = s.free := rfl
@[simp] theorem State.updLed_tile (h : Ledger → Ledger) : (s.updLed n h).tile k = s.tile k := rfl
@[simp] theorem State.updLed_part (h : Ledger → Ledger) : (s.updLed n h).part k = s.part k := rfl
@[simp] theorem State.updLed_region (h : Ledger → Ledger) : (s.updLed n h).region k = s.region k := rfl
@[simp] theorem State.updLed_box (h : Ledger → Ledger) : (s.updLed n h).box k = s.box k := rfl
@[simp] theorem State.updLed_hbmc (h : Ledger → Ledger) : (s.updLed n h).hbmc k = s.hbmc k := rfl
@[simp] theorem State.updLed_arb (h : Ledger → Ledger) : (s.updLed n h).arb k = s.arb k := rfl
@[simp] theorem State.updLed_link (h : Ledger → Ledger) : (s.updLed n h).link k = s.link k := rfl
theorem State.led_updLed (h : Ledger → Ledger) : (s.updLed n h).led k = if k = n then h (s.led n) else s.led k := SMap.get_put _ _ _ _ _
@[simp] theorem State.led_updLed_self (h : Ledger → Ledger) : (s.updLed n h).led n = h (s.led n) := SMap.get_put_self _ _ _ _

/-! setRegion -/

@[simp] theorem State.setRegion_pending (x : Region) : (s.setRegion n x).pending = s.pending := rfl
@[simp] theorem State.setRegion_now (x : Region) : (s.setRegion n x).now = s.now := rfl
@[simp] theorem State.setRegion_boot (x : Region) : (s.setRegion n x).boot = s.boot := rfl
@[simp] theorem State.setRegion_plant (x : Region) : (s.setRegion n x).plant = s.plant := rfl
@[simp] theorem State.setRegion_tiles (x : Region) : (s.setRegion n x).tiles = s.tiles := rfl
@[simp] theorem State.setRegion_parts (x : Region) : (s.setRegion n x).parts = s.parts := rfl
@[simp] theorem State.setRegion_mem (x : Region) : (s.setRegion n x).mem = s.mem := rfl
@[simp] theorem State.setRegion_hbm (x : Region) : (s.setRegion n x).hbm = s.hbm := rfl
@[simp] theorem State.setRegion_arbs (x : Region) : (s.setRegion n x).arbs = s.arbs := rfl
@[simp] theorem State.setRegion_links (x : Region) : (s.setRegion n x).links = s.links := rfl
@[simp] theorem State.setRegion_fabric (x : Region) : (s.setRegion n x).fabric = s.fabric := rfl
@[simp] theorem State.setRegion_ledger (x : Region) : (s.setRegion n x).ledger = s.ledger := rfl
@[simp] theorem State.setRegion_mbx (x : Region) : (s.setRegion n x).mbx = s.mbx := rfl
@[simp] theorem State.setRegion_cfg (x : Region) : (s.setRegion n x).cfg = s.cfg := rfl
@[simp] theorem State.setRegion_eng (x : Region) : (s.setRegion n x).eng = s.eng := rfl
@[simp] theorem State.setRegion_sec (x : Region) : (s.setRegion n x).sec = s.sec := rfl
@[simp] theorem State.setRegion_hostl (x : Region) : (s.setRegion n x).hostl = s.hostl := rfl
@[simp] theorem State.setRegion_board (x : Region) : (s.setRegion n x).board = s.board := rfl
@[simp] theorem State.setRegion_ring (x : Region) : (s.setRegion n x).ring = s.ring := rfl
@[simp] theorem State.setRegion_fatals (x : Region) : (s.setRegion n x).fatals = s.fatals := rfl
@[simp] theorem State.setRegion_recSeq (x : Region) : (s.setRegion n x).recSeq = s.recSeq := rfl
@[simp] theorem State.setRegion_chainLog (x : Region) : (s.setRegion n x).chainLog = s.chainLog := rfl
@[simp] theorem State.setRegion_net (x : Region) : (s.setRegion n x).net = s.net := rfl
@[simp] theorem State.setRegion_lastWindow (x : Region) : (s.setRegion n x).lastWindow = s.lastWindow := rfl
@[simp] theorem State.setRegion_lastMover (x : Region) : (s.setRegion n x).lastMover = s.lastMover := rfl
@[simp] theorem State.setRegion_out (x : Region) : (s.setRegion n x).out = s.out := rfl
@[simp] theorem State.setRegion_free (x : Region) : (s.setRegion n x).free = s.free := rfl
@[simp] theorem State.setRegion_tile (x : Region) : (s.setRegion n x).tile k = s.tile k := rfl
@[simp] theorem State.setRegion_part (x : Region) : (s.setRegion n x).part k = s.part k := rfl
@[simp] theorem State.setRegion_led (x : Region) : (s.setRegion n x).led k = s.led k := rfl
@[simp] theorem State.setRegion_box (x : Region) : (s.setRegion n x).box k = s.box k := rfl
@[simp] theorem State.setRegion_hbmc (x : Region) : (s.setRegion n x).hbmc k = s.hbmc k := rfl
@[simp] theorem State.setRegion_arb (x : Region) : (s.setRegion n x).arb k = s.arb k := rfl
@[simp] theorem State.setRegion_link (x : Region) : (s.setRegion n x).link k = s.link k := rfl
theorem State.region_setRegion (x : Region) : (s.setRegion n x).region k = if k = n then x else s.region k := SMap.get_put _ _ _ _ _
@[simp] theorem State.region_setRegion_self (x : Region) : (s.setRegion n x).region n = x := SMap.get_put_self _ _ _ _
@[simp] theorem State.updRegion_pending (h : Region → Region) : (s.updRegion n h).pending = s.pending := rfl
@[simp] theorem State.updRegion_now (h : Region → Region) : (s.updRegion n h).now = s.now := rfl
@[simp] theorem State.updRegion_boot (h : Region → Region) : (s.updRegion n h).boot = s.boot := rfl
@[simp] theorem State.updRegion_plant (h : Region → Region) : (s.updRegion n h).plant = s.plant := rfl
@[simp] theorem State.updRegion_tiles (h : Region → Region) : (s.updRegion n h).tiles = s.tiles := rfl
@[simp] theorem State.updRegion_parts (h : Region → Region) : (s.updRegion n h).parts = s.parts := rfl
@[simp] theorem State.updRegion_mem (h : Region → Region) : (s.updRegion n h).mem = s.mem := rfl
@[simp] theorem State.updRegion_hbm (h : Region → Region) : (s.updRegion n h).hbm = s.hbm := rfl
@[simp] theorem State.updRegion_arbs (h : Region → Region) : (s.updRegion n h).arbs = s.arbs := rfl
@[simp] theorem State.updRegion_links (h : Region → Region) : (s.updRegion n h).links = s.links := rfl
@[simp] theorem State.updRegion_fabric (h : Region → Region) : (s.updRegion n h).fabric = s.fabric := rfl
@[simp] theorem State.updRegion_ledger (h : Region → Region) : (s.updRegion n h).ledger = s.ledger := rfl
@[simp] theorem State.updRegion_mbx (h : Region → Region) : (s.updRegion n h).mbx = s.mbx := rfl
@[simp] theorem State.updRegion_cfg (h : Region → Region) : (s.updRegion n h).cfg = s.cfg := rfl
@[simp] theorem State.updRegion_eng (h : Region → Region) : (s.updRegion n h).eng = s.eng := rfl
@[simp] theorem State.updRegion_sec (h : Region → Region) : (s.updRegion n h).sec = s.sec := rfl
@[simp] theorem State.updRegion_hostl (h : Region → Region) : (s.updRegion n h).hostl = s.hostl := rfl
@[simp] theorem State.updRegion_board (h : Region → Region) : (s.updRegion n h).board = s.board := rfl
@[simp] theorem State.updRegion_ring (h : Region → Region) : (s.updRegion n h).ring = s.ring := rfl
@[simp] theorem State.updRegion_fatals (h : Region → Region) : (s.updRegion n h).fatals = s.fatals := rfl
@[simp] theorem State.updRegion_recSeq (h : Region → Region) : (s.updRegion n h).recSeq = s.recSeq := rfl
@[simp] theorem State.updRegion_chainLog (h : Region → Region) : (s.updRegion n h).chainLog = s.chainLog := rfl
@[simp] theorem State.updRegion_net (h : Region → Region) : (s.updRegion n h).net = s.net := rfl
@[simp] theorem State.updRegion_lastWindow (h : Region → Region) : (s.updRegion n h).lastWindow = s.lastWindow := rfl
@[simp] theorem State.updRegion_lastMover (h : Region → Region) : (s.updRegion n h).lastMover = s.lastMover := rfl
@[simp] theorem State.updRegion_out (h : Region → Region) : (s.updRegion n h).out = s.out := rfl
@[simp] theorem State.updRegion_free (h : Region → Region) : (s.updRegion n h).free = s.free := rfl
@[simp] theorem State.updRegion_tile (h : Region → Region) : (s.updRegion n h).tile k = s.tile k := rfl
@[simp] theorem State.updRegion_part (h : Region → Region) : (s.updRegion n h).part k = s.part k := rfl
@[simp] theorem State.updRegion_led (h : Region → Region) : (s.updRegion n h).led k = s.led k := rfl
@[simp] theorem State.updRegion_box (h : Region → Region) : (s.updRegion n h).box k = s.box k := rfl
@[simp] theorem State.updRegion_hbmc (h : Region → Region) : (s.updRegion n h).hbmc k = s.hbmc k := rfl
@[simp] theorem State.updRegion_arb (h : Region → Region) : (s.updRegion n h).arb k = s.arb k := rfl
@[simp] theorem State.updRegion_link (h : Region → Region) : (s.updRegion n h).link k = s.link k := rfl
theorem State.region_updRegion (h : Region → Region) : (s.updRegion n h).region k = if k = n then h (s.region n) else s.region k := SMap.get_put _ _ _ _ _
@[simp] theorem State.region_updRegion_self (h : Region → Region) : (s.updRegion n h).region n = h (s.region n) := SMap.get_put_self _ _ _ _

/-! setBox -/

@[simp] theorem State.setBox_pending (x : Mailbox) : (s.setBox n x).pending = s.pending := rfl
@[simp] theorem State.setBox_now (x : Mailbox) : (s.setBox n x).now = s.now := rfl
@[simp] theorem State.setBox_boot (x : Mailbox) : (s.setBox n x).boot = s.boot := rfl
@[simp] theorem State.setBox_plant (x : Mailbox) : (s.setBox n x).plant = s.plant := rfl
@[simp] theorem State.setBox_tiles (x : Mailbox) : (s.setBox n x).tiles = s.tiles := rfl
@[simp] theorem State.setBox_parts (x : Mailbox) : (s.setBox n x).parts = s.parts := rfl
@[simp] theorem State.setBox_mem (x : Mailbox) : (s.setBox n x).mem = s.mem := rfl
@[simp] theorem State.setBox_hbm (x : Mailbox) : (s.setBox n x).hbm = s.hbm := rfl
@[simp] theorem State.setBox_arbs (x : Mailbox) : (s.setBox n x).arbs = s.arbs := rfl
@[simp] theorem State.setBox_links (x : Mailbox) : (s.setBox n x).links = s.links := rfl
@[simp] theorem State.setBox_fabric (x : Mailbox) : (s.setBox n x).fabric = s.fabric := rfl
@[simp] theorem State.setBox_ledger (x : Mailbox) : (s.setBox n x).ledger = s.ledger := rfl
@[simp] theorem State.setBox_regions (x : Mailbox) : (s.setBox n x).regions = s.regions := rfl
@[simp] theorem State.setBox_cfg (x : Mailbox) : (s.setBox n x).cfg = s.cfg := rfl
@[simp] theorem State.setBox_eng (x : Mailbox) : (s.setBox n x).eng = s.eng := rfl
@[simp] theorem State.setBox_sec (x : Mailbox) : (s.setBox n x).sec = s.sec := rfl
@[simp] theorem State.setBox_hostl (x : Mailbox) : (s.setBox n x).hostl = s.hostl := rfl
@[simp] theorem State.setBox_board (x : Mailbox) : (s.setBox n x).board = s.board := rfl
@[simp] theorem State.setBox_ring (x : Mailbox) : (s.setBox n x).ring = s.ring := rfl
@[simp] theorem State.setBox_fatals (x : Mailbox) : (s.setBox n x).fatals = s.fatals := rfl
@[simp] theorem State.setBox_recSeq (x : Mailbox) : (s.setBox n x).recSeq = s.recSeq := rfl
@[simp] theorem State.setBox_chainLog (x : Mailbox) : (s.setBox n x).chainLog = s.chainLog := rfl
@[simp] theorem State.setBox_net (x : Mailbox) : (s.setBox n x).net = s.net := rfl
@[simp] theorem State.setBox_lastWindow (x : Mailbox) : (s.setBox n x).lastWindow = s.lastWindow := rfl
@[simp] theorem State.setBox_lastMover (x : Mailbox) : (s.setBox n x).lastMover = s.lastMover := rfl
@[simp] theorem State.setBox_out (x : Mailbox) : (s.setBox n x).out = s.out := rfl
@[simp] theorem State.setBox_free (x : Mailbox) : (s.setBox n x).free = s.free := rfl
@[simp] theorem State.setBox_tile (x : Mailbox) : (s.setBox n x).tile k = s.tile k := rfl
@[simp] theorem State.setBox_part (x : Mailbox) : (s.setBox n x).part k = s.part k := rfl
@[simp] theorem State.setBox_led (x : Mailbox) : (s.setBox n x).led k = s.led k := rfl
@[simp] theorem State.setBox_region (x : Mailbox) : (s.setBox n x).region k = s.region k := rfl
@[simp] theorem State.setBox_hbmc (x : Mailbox) : (s.setBox n x).hbmc k = s.hbmc k := rfl
@[simp] theorem State.setBox_arb (x : Mailbox) : (s.setBox n x).arb k = s.arb k := rfl
@[simp] theorem State.setBox_link (x : Mailbox) : (s.setBox n x).link k = s.link k := rfl
theorem State.box_setBox (x : Mailbox) : (s.setBox n x).box k = if k = n then x else s.box k := SMap.get_put _ _ _ _ _
@[simp] theorem State.box_setBox_self (x : Mailbox) : (s.setBox n x).box n = x := SMap.get_put_self _ _ _ _
@[simp] theorem State.updBox_pending (h : Mailbox → Mailbox) : (s.updBox n h).pending = s.pending := rfl
@[simp] theorem State.updBox_now (h : Mailbox → Mailbox) : (s.updBox n h).now = s.now := rfl
@[simp] theorem State.updBox_boot (h : Mailbox → Mailbox) : (s.updBox n h).boot = s.boot := rfl
@[simp] theorem State.updBox_plant (h : Mailbox → Mailbox) : (s.updBox n h).plant = s.plant := rfl
@[simp] theorem State.updBox_tiles (h : Mailbox → Mailbox) : (s.updBox n h).tiles = s.tiles := rfl
@[simp] theorem State.updBox_parts (h : Mailbox → Mailbox) : (s.updBox n h).parts = s.parts := rfl
@[simp] theorem State.updBox_mem (h : Mailbox → Mailbox) : (s.updBox n h).mem = s.mem := rfl
@[simp] theorem State.updBox_hbm (h : Mailbox → Mailbox) : (s.updBox n h).hbm = s.hbm := rfl
@[simp] theorem State.updBox_arbs (h : Mailbox → Mailbox) : (s.updBox n h).arbs = s.arbs := rfl
@[simp] theorem State.updBox_links (h : Mailbox → Mailbox) : (s.updBox n h).links = s.links := rfl
@[simp] theorem State.updBox_fabric (h : Mailbox → Mailbox) : (s.updBox n h).fabric = s.fabric := rfl
@[simp] theorem State.updBox_ledger (h : Mailbox → Mailbox) : (s.updBox n h).ledger = s.ledger := rfl
@[simp] theorem State.updBox_regions (h : Mailbox → Mailbox) : (s.updBox n h).regions = s.regions := rfl
@[simp] theorem State.updBox_cfg (h : Mailbox → Mailbox) : (s.updBox n h).cfg = s.cfg := rfl
@[simp] theorem State.updBox_eng (h : Mailbox → Mailbox) : (s.updBox n h).eng = s.eng := rfl
@[simp] theorem State.updBox_sec (h : Mailbox → Mailbox) : (s.updBox n h).sec = s.sec := rfl
@[simp] theorem State.updBox_hostl (h : Mailbox → Mailbox) : (s.updBox n h).hostl = s.hostl := rfl
@[simp] theorem State.updBox_board (h : Mailbox → Mailbox) : (s.updBox n h).board = s.board := rfl
@[simp] theorem State.updBox_ring (h : Mailbox → Mailbox) : (s.updBox n h).ring = s.ring := rfl
@[simp] theorem State.updBox_fatals (h : Mailbox → Mailbox) : (s.updBox n h).fatals = s.fatals := rfl
@[simp] theorem State.updBox_recSeq (h : Mailbox → Mailbox) : (s.updBox n h).recSeq = s.recSeq := rfl
@[simp] theorem State.updBox_chainLog (h : Mailbox → Mailbox) : (s.updBox n h).chainLog = s.chainLog := rfl
@[simp] theorem State.updBox_net (h : Mailbox → Mailbox) : (s.updBox n h).net = s.net := rfl
@[simp] theorem State.updBox_lastWindow (h : Mailbox → Mailbox) : (s.updBox n h).lastWindow = s.lastWindow := rfl
@[simp] theorem State.updBox_lastMover (h : Mailbox → Mailbox) : (s.updBox n h).lastMover = s.lastMover := rfl
@[simp] theorem State.updBox_out (h : Mailbox → Mailbox) : (s.updBox n h).out = s.out := rfl
@[simp] theorem State.updBox_free (h : Mailbox → Mailbox) : (s.updBox n h).free = s.free := rfl
@[simp] theorem State.updBox_tile (h : Mailbox → Mailbox) : (s.updBox n h).tile k = s.tile k := rfl
@[simp] theorem State.updBox_part (h : Mailbox → Mailbox) : (s.updBox n h).part k = s.part k := rfl
@[simp] theorem State.updBox_led (h : Mailbox → Mailbox) : (s.updBox n h).led k = s.led k := rfl
@[simp] theorem State.updBox_region (h : Mailbox → Mailbox) : (s.updBox n h).region k = s.region k := rfl
@[simp] theorem State.updBox_hbmc (h : Mailbox → Mailbox) : (s.updBox n h).hbmc k = s.hbmc k := rfl
@[simp] theorem State.updBox_arb (h : Mailbox → Mailbox) : (s.updBox n h).arb k = s.arb k := rfl
@[simp] theorem State.updBox_link (h : Mailbox → Mailbox) : (s.updBox n h).link k = s.link k := rfl
theorem State.box_updBox (h : Mailbox → Mailbox) : (s.updBox n h).box k = if k = n then h (s.box n) else s.box k := SMap.get_put _ _ _ _ _
@[simp] theorem State.box_updBox_self (h : Mailbox → Mailbox) : (s.updBox n h).box n = h (s.box n) := SMap.get_put_self _ _ _ _

/-! setHbm -/

@[simp] theorem State.setHbm_pending (x : Hbm) : (s.setHbm n x).pending = s.pending := rfl
@[simp] theorem State.setHbm_now (x : Hbm) : (s.setHbm n x).now = s.now := rfl
@[simp] theorem State.setHbm_boot (x : Hbm) : (s.setHbm n x).boot = s.boot := rfl
@[simp] theorem State.setHbm_plant (x : Hbm) : (s.setHbm n x).plant = s.plant := rfl
@[simp] theorem State.setHbm_tiles (x : Hbm) : (s.setHbm n x).tiles = s.tiles := rfl
@[simp] theorem State.setHbm_parts (x : Hbm) : (s.setHbm n x).parts = s.parts := rfl
@[simp] theorem State.setHbm_mem (x : Hbm) : (s.setHbm n x).mem = s.mem := rfl
@[simp] theorem State.setHbm_arbs (x : Hbm) : (s.setHbm n x).arbs = s.arbs := rfl
@[simp] theorem State.setHbm_links (x : Hbm) : (s.setHbm n x).links = s.links := rfl
@[simp] theorem State.setHbm_fabric (x : Hbm) : (s.setHbm n x).fabric = s.fabric := rfl
@[simp] theorem State.setHbm_ledger (x : Hbm) : (s.setHbm n x).ledger = s.ledger := rfl
@[simp] theorem State.setHbm_regions (x : Hbm) : (s.setHbm n x).regions = s.regions := rfl
@[simp] theorem State.setHbm_mbx (x : Hbm) : (s.setHbm n x).mbx = s.mbx := rfl
@[simp] theorem State.setHbm_cfg (x : Hbm) : (s.setHbm n x).cfg = s.cfg := rfl
@[simp] theorem State.setHbm_eng (x : Hbm) : (s.setHbm n x).eng = s.eng := rfl
@[simp] theorem State.setHbm_sec (x : Hbm) : (s.setHbm n x).sec = s.sec := rfl
@[simp] theorem State.setHbm_hostl (x : Hbm) : (s.setHbm n x).hostl = s.hostl := rfl
@[simp] theorem State.setHbm_board (x : Hbm) : (s.setHbm n x).board = s.board := rfl
@[simp] theorem State.setHbm_ring (x : Hbm) : (s.setHbm n x).ring = s.ring := rfl
@[simp] theorem State.setHbm_fatals (x : Hbm) : (s.setHbm n x).fatals = s.fatals := rfl
@[simp] theorem State.setHbm_recSeq (x : Hbm) : (s.setHbm n x).recSeq = s.recSeq := rfl
@[simp] theorem State.setHbm_chainLog (x : Hbm) : (s.setHbm n x).chainLog = s.chainLog := rfl
@[simp] theorem State.setHbm_net (x : Hbm) : (s.setHbm n x).net = s.net := rfl
@[simp] theorem State.setHbm_lastWindow (x : Hbm) : (s.setHbm n x).lastWindow = s.lastWindow := rfl
@[simp] theorem State.setHbm_lastMover (x : Hbm) : (s.setHbm n x).lastMover = s.lastMover := rfl
@[simp] theorem State.setHbm_out (x : Hbm) : (s.setHbm n x).out = s.out := rfl
@[simp] theorem State.setHbm_free (x : Hbm) : (s.setHbm n x).free = s.free := rfl
@[simp] theorem State.setHbm_tile (x : Hbm) : (s.setHbm n x).tile k = s.tile k := rfl
@[simp] theorem State.setHbm_part (x : Hbm) : (s.setHbm n x).part k = s.part k := rfl
@[simp] theorem State.setHbm_led (x : Hbm) : (s.setHbm n x).led k = s.led k := rfl
@[simp] theorem State.setHbm_region (x : Hbm) : (s.setHbm n x).region k = s.region k := rfl
@[simp] theorem State.setHbm_box (x : Hbm) : (s.setHbm n x).box k = s.box k := rfl
@[simp] theorem State.setHbm_arb (x : Hbm) : (s.setHbm n x).arb k = s.arb k := rfl
@[simp] theorem State.setHbm_link (x : Hbm) : (s.setHbm n x).link k = s.link k := rfl
theorem State.hbmc_setHbm (x : Hbm) : (s.setHbm n x).hbmc k = if k = n then x else s.hbmc k := SMap.get_put _ _ _ _ _
@[simp] theorem State.hbmc_setHbm_self (x : Hbm) : (s.setHbm n x).hbmc n = x := SMap.get_put_self _ _ _ _
@[simp] theorem State.updHbm_pending (h : Hbm → Hbm) : (s.updHbm n h).pending = s.pending := rfl
@[simp] theorem State.updHbm_now (h : Hbm → Hbm) : (s.updHbm n h).now = s.now := rfl
@[simp] theorem State.updHbm_boot (h : Hbm → Hbm) : (s.updHbm n h).boot = s.boot := rfl
@[simp] theorem State.updHbm_plant (h : Hbm → Hbm) : (s.updHbm n h).plant = s.plant := rfl
@[simp] theorem State.updHbm_tiles (h : Hbm → Hbm) : (s.updHbm n h).tiles = s.tiles := rfl
@[simp] theorem State.updHbm_parts (h : Hbm → Hbm) : (s.updHbm n h).parts = s.parts := rfl
@[simp] theorem State.updHbm_mem (h : Hbm → Hbm) : (s.updHbm n h).mem = s.mem := rfl
@[simp] theorem State.updHbm_arbs (h : Hbm → Hbm) : (s.updHbm n h).arbs = s.arbs := rfl
@[simp] theorem State.updHbm_links (h : Hbm → Hbm) : (s.updHbm n h).links = s.links := rfl
@[simp] theorem State.updHbm_fabric (h : Hbm → Hbm) : (s.updHbm n h).fabric = s.fabric := rfl
@[simp] theorem State.updHbm_ledger (h : Hbm → Hbm) : (s.updHbm n h).ledger = s.ledger := rfl
@[simp] theorem State.updHbm_regions (h : Hbm → Hbm) : (s.updHbm n h).regions = s.regions := rfl
@[simp] theorem State.updHbm_mbx (h : Hbm → Hbm) : (s.updHbm n h).mbx = s.mbx := rfl
@[simp] theorem State.updHbm_cfg (h : Hbm → Hbm) : (s.updHbm n h).cfg = s.cfg := rfl
@[simp] theorem State.updHbm_eng (h : Hbm → Hbm) : (s.updHbm n h).eng = s.eng := rfl
@[simp] theorem State.updHbm_sec (h : Hbm → Hbm) : (s.updHbm n h).sec = s.sec := rfl
@[simp] theorem State.updHbm_hostl (h : Hbm → Hbm) : (s.updHbm n h).hostl = s.hostl := rfl
@[simp] theorem State.updHbm_board (h : Hbm → Hbm) : (s.updHbm n h).board = s.board := rfl
@[simp] theorem State.updHbm_ring (h : Hbm → Hbm) : (s.updHbm n h).ring = s.ring := rfl
@[simp] theorem State.updHbm_fatals (h : Hbm → Hbm) : (s.updHbm n h).fatals = s.fatals := rfl
@[simp] theorem State.updHbm_recSeq (h : Hbm → Hbm) : (s.updHbm n h).recSeq = s.recSeq := rfl
@[simp] theorem State.updHbm_chainLog (h : Hbm → Hbm) : (s.updHbm n h).chainLog = s.chainLog := rfl
@[simp] theorem State.updHbm_net (h : Hbm → Hbm) : (s.updHbm n h).net = s.net := rfl
@[simp] theorem State.updHbm_lastWindow (h : Hbm → Hbm) : (s.updHbm n h).lastWindow = s.lastWindow := rfl
@[simp] theorem State.updHbm_lastMover (h : Hbm → Hbm) : (s.updHbm n h).lastMover = s.lastMover := rfl
@[simp] theorem State.updHbm_out (h : Hbm → Hbm) : (s.updHbm n h).out = s.out := rfl
@[simp] theorem State.updHbm_free (h : Hbm → Hbm) : (s.updHbm n h).free = s.free := rfl
@[simp] theorem State.updHbm_tile (h : Hbm → Hbm) : (s.updHbm n h).tile k = s.tile k := rfl
@[simp] theorem State.updHbm_part (h : Hbm → Hbm) : (s.updHbm n h).part k = s.part k := rfl
@[simp] theorem State.updHbm_led (h : Hbm → Hbm) : (s.updHbm n h).led k = s.led k := rfl
@[simp] theorem State.updHbm_region (h : Hbm → Hbm) : (s.updHbm n h).region k = s.region k := rfl
@[simp] theorem State.updHbm_box (h : Hbm → Hbm) : (s.updHbm n h).box k = s.box k := rfl
@[simp] theorem State.updHbm_arb (h : Hbm → Hbm) : (s.updHbm n h).arb k = s.arb k := rfl
@[simp] theorem State.updHbm_link (h : Hbm → Hbm) : (s.updHbm n h).link k = s.link k := rfl
theorem State.hbmc_updHbm (h : Hbm → Hbm) : (s.updHbm n h).hbmc k = if k = n then h (s.hbmc n) else s.hbmc k := SMap.get_put _ _ _ _ _
@[simp] theorem State.hbmc_updHbm_self (h : Hbm → Hbm) : (s.updHbm n h).hbmc n = h (s.hbmc n) := SMap.get_put_self _ _ _ _

/-! setArb -/

@[simp] theorem State.setArb_pending (x : Arb) : (s.setArb n x).pending = s.pending := rfl
@[simp] theorem State.setArb_now (x : Arb) : (s.setArb n x).now = s.now := rfl
@[simp] theorem State.setArb_boot (x : Arb) : (s.setArb n x).boot = s.boot := rfl
@[simp] theorem State.setArb_plant (x : Arb) : (s.setArb n x).plant = s.plant := rfl
@[simp] theorem State.setArb_tiles (x : Arb) : (s.setArb n x).tiles = s.tiles := rfl
@[simp] theorem State.setArb_parts (x : Arb) : (s.setArb n x).parts = s.parts := rfl
@[simp] theorem State.setArb_mem (x : Arb) : (s.setArb n x).mem = s.mem := rfl
@[simp] theorem State.setArb_hbm (x : Arb) : (s.setArb n x).hbm = s.hbm := rfl
@[simp] theorem State.setArb_links (x : Arb) : (s.setArb n x).links = s.links := rfl
@[simp] theorem State.setArb_fabric (x : Arb) : (s.setArb n x).fabric = s.fabric := rfl
@[simp] theorem State.setArb_ledger (x : Arb) : (s.setArb n x).ledger = s.ledger := rfl
@[simp] theorem State.setArb_regions (x : Arb) : (s.setArb n x).regions = s.regions := rfl
@[simp] theorem State.setArb_mbx (x : Arb) : (s.setArb n x).mbx = s.mbx := rfl
@[simp] theorem State.setArb_cfg (x : Arb) : (s.setArb n x).cfg = s.cfg := rfl
@[simp] theorem State.setArb_eng (x : Arb) : (s.setArb n x).eng = s.eng := rfl
@[simp] theorem State.setArb_sec (x : Arb) : (s.setArb n x).sec = s.sec := rfl
@[simp] theorem State.setArb_hostl (x : Arb) : (s.setArb n x).hostl = s.hostl := rfl
@[simp] theorem State.setArb_board (x : Arb) : (s.setArb n x).board = s.board := rfl
@[simp] theorem State.setArb_ring (x : Arb) : (s.setArb n x).ring = s.ring := rfl
@[simp] theorem State.setArb_fatals (x : Arb) : (s.setArb n x).fatals = s.fatals := rfl
@[simp] theorem State.setArb_recSeq (x : Arb) : (s.setArb n x).recSeq = s.recSeq := rfl
@[simp] theorem State.setArb_chainLog (x : Arb) : (s.setArb n x).chainLog = s.chainLog := rfl
@[simp] theorem State.setArb_net (x : Arb) : (s.setArb n x).net = s.net := rfl
@[simp] theorem State.setArb_lastWindow (x : Arb) : (s.setArb n x).lastWindow = s.lastWindow := rfl
@[simp] theorem State.setArb_lastMover (x : Arb) : (s.setArb n x).lastMover = s.lastMover := rfl
@[simp] theorem State.setArb_out (x : Arb) : (s.setArb n x).out = s.out := rfl
@[simp] theorem State.setArb_free (x : Arb) : (s.setArb n x).free = s.free := rfl
@[simp] theorem State.setArb_tile (x : Arb) : (s.setArb n x).tile k = s.tile k := rfl
@[simp] theorem State.setArb_part (x : Arb) : (s.setArb n x).part k = s.part k := rfl
@[simp] theorem State.setArb_led (x : Arb) : (s.setArb n x).led k = s.led k := rfl
@[simp] theorem State.setArb_region (x : Arb) : (s.setArb n x).region k = s.region k := rfl
@[simp] theorem State.setArb_box (x : Arb) : (s.setArb n x).box k = s.box k := rfl
@[simp] theorem State.setArb_hbmc (x : Arb) : (s.setArb n x).hbmc k = s.hbmc k := rfl
@[simp] theorem State.setArb_link (x : Arb) : (s.setArb n x).link k = s.link k := rfl
theorem State.arb_setArb (x : Arb) : (s.setArb n x).arb k = if k = n then x else s.arb k := SMap.get_put _ _ _ _ _
@[simp] theorem State.arb_setArb_self (x : Arb) : (s.setArb n x).arb n = x := SMap.get_put_self _ _ _ _

/-! setLink -/

@[simp] theorem State.setLink_pending (x : Link) : (s.setLink n x).pending = s.pending := rfl
@[simp] theorem State.setLink_now (x : Link) : (s.setLink n x).now = s.now := rfl
@[simp] theorem State.setLink_boot (x : Link) : (s.setLink n x).boot = s.boot := rfl
@[simp] theorem State.setLink_plant (x : Link) : (s.setLink n x).plant = s.plant := rfl
@[simp] theorem State.setLink_tiles (x : Link) : (s.setLink n x).tiles = s.tiles := rfl
@[simp] theorem State.setLink_parts (x : Link) : (s.setLink n x).parts = s.parts := rfl
@[simp] theorem State.setLink_mem (x : Link) : (s.setLink n x).mem = s.mem := rfl
@[simp] theorem State.setLink_hbm (x : Link) : (s.setLink n x).hbm = s.hbm := rfl
@[simp] theorem State.setLink_arbs (x : Link) : (s.setLink n x).arbs = s.arbs := rfl
@[simp] theorem State.setLink_fabric (x : Link) : (s.setLink n x).fabric = s.fabric := rfl
@[simp] theorem State.setLink_ledger (x : Link) : (s.setLink n x).ledger = s.ledger := rfl
@[simp] theorem State.setLink_regions (x : Link) : (s.setLink n x).regions = s.regions := rfl
@[simp] theorem State.setLink_mbx (x : Link) : (s.setLink n x).mbx = s.mbx := rfl
@[simp] theorem State.setLink_cfg (x : Link) : (s.setLink n x).cfg = s.cfg := rfl
@[simp] theorem State.setLink_eng (x : Link) : (s.setLink n x).eng = s.eng := rfl
@[simp] theorem State.setLink_sec (x : Link) : (s.setLink n x).sec = s.sec := rfl
@[simp] theorem State.setLink_hostl (x : Link) : (s.setLink n x).hostl = s.hostl := rfl
@[simp] theorem State.setLink_board (x : Link) : (s.setLink n x).board = s.board := rfl
@[simp] theorem State.setLink_ring (x : Link) : (s.setLink n x).ring = s.ring := rfl
@[simp] theorem State.setLink_fatals (x : Link) : (s.setLink n x).fatals = s.fatals := rfl
@[simp] theorem State.setLink_recSeq (x : Link) : (s.setLink n x).recSeq = s.recSeq := rfl
@[simp] theorem State.setLink_chainLog (x : Link) : (s.setLink n x).chainLog = s.chainLog := rfl
@[simp] theorem State.setLink_net (x : Link) : (s.setLink n x).net = s.net := rfl
@[simp] theorem State.setLink_lastWindow (x : Link) : (s.setLink n x).lastWindow = s.lastWindow := rfl
@[simp] theorem State.setLink_lastMover (x : Link) : (s.setLink n x).lastMover = s.lastMover := rfl
@[simp] theorem State.setLink_out (x : Link) : (s.setLink n x).out = s.out := rfl
@[simp] theorem State.setLink_free (x : Link) : (s.setLink n x).free = s.free := rfl
@[simp] theorem State.setLink_tile (x : Link) : (s.setLink n x).tile k = s.tile k := rfl
@[simp] theorem State.setLink_part (x : Link) : (s.setLink n x).part k = s.part k := rfl
@[simp] theorem State.setLink_led (x : Link) : (s.setLink n x).led k = s.led k := rfl
@[simp] theorem State.setLink_region (x : Link) : (s.setLink n x).region k = s.region k := rfl
@[simp] theorem State.setLink_box (x : Link) : (s.setLink n x).box k = s.box k := rfl
@[simp] theorem State.setLink_hbmc (x : Link) : (s.setLink n x).hbmc k = s.hbmc k := rfl
@[simp] theorem State.setLink_arb (x : Link) : (s.setLink n x).arb k = s.arb k := rfl
theorem State.link_setLink (x : Link) : (s.setLink n x).link k = if k = n then x else s.link k := SMap.get_put _ _ _ _ _
@[simp] theorem State.link_setLink_self (x : Link) : (s.setLink n x).link n = x := SMap.get_put_self _ _ _ _
@[simp] theorem State.updLink_pending (h : Link → Link) : (s.updLink n h).pending = s.pending := rfl
@[simp] theorem State.updLink_now (h : Link → Link) : (s.updLink n h).now = s.now := rfl
@[simp] theorem State.updLink_boot (h : Link → Link) : (s.updLink n h).boot = s.boot := rfl
@[simp] theorem State.updLink_plant (h : Link → Link) : (s.updLink n h).plant = s.plant := rfl
@[simp] theorem State.updLink_tiles (h : Link → Link) : (s.updLink n h).tiles = s.tiles := rfl
@[simp] theorem State.updLink_parts (h : Link → Link) : (s.updLink n h).parts = s.parts := rfl
@[simp] theorem State.updLink_mem (h : Link → Link) : (s.updLink n h).mem = s.mem := rfl
@[simp] theorem State.updLink_hbm (h : Link → Link) : (s.updLink n h).hbm = s.hbm := rfl
@[simp] theorem State.updLink_arbs (h : Link → Link) : (s.updLink n h).arbs = s.arbs := rfl
@[simp] theorem State.updLink_fabric (h : Link → Link) : (s.updLink n h).fabric = s.fabric := rfl
@[simp] theorem State.updLink_ledger (h : Link → Link) : (s.updLink n h).ledger = s.ledger := rfl
@[simp] theorem State.updLink_regions (h : Link → Link) : (s.updLink n h).regions = s.regions := rfl
@[simp] theorem State.updLink_mbx (h : Link → Link) : (s.updLink n h).mbx = s.mbx := rfl
@[simp] theorem State.updLink_cfg (h : Link → Link) : (s.updLink n h).cfg = s.cfg := rfl
@[simp] theorem State.updLink_eng (h : Link → Link) : (s.updLink n h).eng = s.eng := rfl
@[simp] theorem State.updLink_sec (h : Link → Link) : (s.updLink n h).sec = s.sec := rfl
@[simp] theorem State.updLink_hostl (h : Link → Link) : (s.updLink n h).hostl = s.hostl := rfl
@[simp] theorem State.updLink_board (h : Link → Link) : (s.updLink n h).board = s.board := rfl
@[simp] theorem State.updLink_ring (h : Link → Link) : (s.updLink n h).ring = s.ring := rfl
@[simp] theorem State.updLink_fatals (h : Link → Link) : (s.updLink n h).fatals = s.fatals := rfl
@[simp] theorem State.updLink_recSeq (h : Link → Link) : (s.updLink n h).recSeq = s.recSeq := rfl
@[simp] theorem State.updLink_chainLog (h : Link → Link) : (s.updLink n h).chainLog = s.chainLog := rfl
@[simp] theorem State.updLink_net (h : Link → Link) : (s.updLink n h).net = s.net := rfl
@[simp] theorem State.updLink_lastWindow (h : Link → Link) : (s.updLink n h).lastWindow = s.lastWindow := rfl
@[simp] theorem State.updLink_lastMover (h : Link → Link) : (s.updLink n h).lastMover = s.lastMover := rfl
@[simp] theorem State.updLink_out (h : Link → Link) : (s.updLink n h).out = s.out := rfl
@[simp] theorem State.updLink_free (h : Link → Link) : (s.updLink n h).free = s.free := rfl
@[simp] theorem State.updLink_tile (h : Link → Link) : (s.updLink n h).tile k = s.tile k := rfl
@[simp] theorem State.updLink_part (h : Link → Link) : (s.updLink n h).part k = s.part k := rfl
@[simp] theorem State.updLink_led (h : Link → Link) : (s.updLink n h).led k = s.led k := rfl
@[simp] theorem State.updLink_region (h : Link → Link) : (s.updLink n h).region k = s.region k := rfl
@[simp] theorem State.updLink_box (h : Link → Link) : (s.updLink n h).box k = s.box k := rfl
@[simp] theorem State.updLink_hbmc (h : Link → Link) : (s.updLink n h).hbmc k = s.hbmc k := rfl
@[simp] theorem State.updLink_arb (h : Link → Link) : (s.updLink n h).arb k = s.arb k := rfl
theorem State.link_updLink (h : Link → Link) : (s.updLink n h).link k = if k = n then h (s.link n) else s.link k := SMap.get_put _ _ _ _ _
@[simp] theorem State.link_updLink_self (h : Link → Link) : (s.updLink n h).link n = h (s.link n) := SMap.get_put_self _ _ _ _

/-! emit, draw, atLeast, setMsix -/

@[simp] theorem State.emit_pending (x : Output) : (s.emit x).pending = s.pending := rfl
@[simp] theorem State.emit_now (x : Output) : (s.emit x).now = s.now := rfl
@[simp] theorem State.emit_boot (x : Output) : (s.emit x).boot = s.boot := rfl
@[simp] theorem State.emit_plant (x : Output) : (s.emit x).plant = s.plant := rfl
@[simp] theorem State.emit_tiles (x : Output) : (s.emit x).tiles = s.tiles := rfl
@[simp] theorem State.emit_parts (x : Output) : (s.emit x).parts = s.parts := rfl
@[simp] theorem State.emit_mem (x : Output) : (s.emit x).mem = s.mem := rfl
@[simp] theorem State.emit_hbm (x : Output) : (s.emit x).hbm = s.hbm := rfl
@[simp] theorem State.emit_arbs (x : Output) : (s.emit x).arbs = s.arbs := rfl
@[simp] theorem State.emit_links (x : Output) : (s.emit x).links = s.links := rfl
@[simp] theorem State.emit_fabric (x : Output) : (s.emit x).fabric = s.fabric := rfl
@[simp] theorem State.emit_ledger (x : Output) : (s.emit x).ledger = s.ledger := rfl
@[simp] theorem State.emit_regions (x : Output) : (s.emit x).regions = s.regions := rfl
@[simp] theorem State.emit_mbx (x : Output) : (s.emit x).mbx = s.mbx := rfl
@[simp] theorem State.emit_cfg (x : Output) : (s.emit x).cfg = s.cfg := rfl
@[simp] theorem State.emit_eng (x : Output) : (s.emit x).eng = s.eng := rfl
@[simp] theorem State.emit_sec (x : Output) : (s.emit x).sec = s.sec := rfl
@[simp] theorem State.emit_hostl (x : Output) : (s.emit x).hostl = s.hostl := rfl
@[simp] theorem State.emit_board (x : Output) : (s.emit x).board = s.board := rfl
@[simp] theorem State.emit_ring (x : Output) : (s.emit x).ring = s.ring := rfl
@[simp] theorem State.emit_fatals (x : Output) : (s.emit x).fatals = s.fatals := rfl
@[simp] theorem State.emit_recSeq (x : Output) : (s.emit x).recSeq = s.recSeq := rfl
@[simp] theorem State.emit_chainLog (x : Output) : (s.emit x).chainLog = s.chainLog := rfl
@[simp] theorem State.emit_net (x : Output) : (s.emit x).net = s.net := rfl
@[simp] theorem State.emit_lastWindow (x : Output) : (s.emit x).lastWindow = s.lastWindow := rfl
@[simp] theorem State.emit_lastMover (x : Output) : (s.emit x).lastMover = s.lastMover := rfl
@[simp] theorem State.emit_free (x : Output) : (s.emit x).free = s.free := rfl
@[simp] theorem State.emit_out (x : Output) : (s.emit x).out = s.out ++ [x] := rfl
@[simp] theorem State.draw_pending : s.draw.2.pending = s.pending := rfl
@[simp] theorem State.draw_now : s.draw.2.now = s.now := rfl
@[simp] theorem State.draw_boot : s.draw.2.boot = s.boot := rfl
@[simp] theorem State.draw_plant : s.draw.2.plant = s.plant := rfl
@[simp] theorem State.draw_tiles : s.draw.2.tiles = s.tiles := rfl
@[simp] theorem State.draw_parts : s.draw.2.parts = s.parts := rfl
@[simp] theorem State.draw_mem : s.draw.2.mem = s.mem := rfl
@[simp] theorem State.draw_hbm : s.draw.2.hbm = s.hbm := rfl
@[simp] theorem State.draw_arbs : s.draw.2.arbs = s.arbs := rfl
@[simp] theorem State.draw_links : s.draw.2.links = s.links := rfl
@[simp] theorem State.draw_fabric : s.draw.2.fabric = s.fabric := rfl
@[simp] theorem State.draw_ledger : s.draw.2.ledger = s.ledger := rfl
@[simp] theorem State.draw_regions : s.draw.2.regions = s.regions := rfl
@[simp] theorem State.draw_mbx : s.draw.2.mbx = s.mbx := rfl
@[simp] theorem State.draw_cfg : s.draw.2.cfg = s.cfg := rfl
@[simp] theorem State.draw_eng : s.draw.2.eng = s.eng := rfl
@[simp] theorem State.draw_sec : s.draw.2.sec = s.sec := rfl
@[simp] theorem State.draw_hostl : s.draw.2.hostl = s.hostl := rfl
@[simp] theorem State.draw_board : s.draw.2.board = s.board := rfl
@[simp] theorem State.draw_ring : s.draw.2.ring = s.ring := rfl
@[simp] theorem State.draw_fatals : s.draw.2.fatals = s.fatals := rfl
@[simp] theorem State.draw_recSeq : s.draw.2.recSeq = s.recSeq := rfl
@[simp] theorem State.draw_chainLog : s.draw.2.chainLog = s.chainLog := rfl
@[simp] theorem State.draw_net : s.draw.2.net = s.net := rfl
@[simp] theorem State.draw_lastWindow : s.draw.2.lastWindow = s.lastWindow := rfl
@[simp] theorem State.draw_lastMover : s.draw.2.lastMover = s.lastMover := rfl
@[simp] theorem State.draw_out : s.draw.2.out = s.out := rfl
@[simp] theorem State.draw_free : s.draw.2.free = s.free + 1 := rfl
@[simp] theorem State.atLeast_pending : (s.atLeast n).pending = s.pending := rfl
@[simp] theorem State.atLeast_boot : (s.atLeast n).boot = s.boot := rfl
@[simp] theorem State.atLeast_plant : (s.atLeast n).plant = s.plant := rfl
@[simp] theorem State.atLeast_tiles : (s.atLeast n).tiles = s.tiles := rfl
@[simp] theorem State.atLeast_parts : (s.atLeast n).parts = s.parts := rfl
@[simp] theorem State.atLeast_mem : (s.atLeast n).mem = s.mem := rfl
@[simp] theorem State.atLeast_hbm : (s.atLeast n).hbm = s.hbm := rfl
@[simp] theorem State.atLeast_arbs : (s.atLeast n).arbs = s.arbs := rfl
@[simp] theorem State.atLeast_links : (s.atLeast n).links = s.links := rfl
@[simp] theorem State.atLeast_fabric : (s.atLeast n).fabric = s.fabric := rfl
@[simp] theorem State.atLeast_ledger : (s.atLeast n).ledger = s.ledger := rfl
@[simp] theorem State.atLeast_regions : (s.atLeast n).regions = s.regions := rfl
@[simp] theorem State.atLeast_mbx : (s.atLeast n).mbx = s.mbx := rfl
@[simp] theorem State.atLeast_cfg : (s.atLeast n).cfg = s.cfg := rfl
@[simp] theorem State.atLeast_eng : (s.atLeast n).eng = s.eng := rfl
@[simp] theorem State.atLeast_sec : (s.atLeast n).sec = s.sec := rfl
@[simp] theorem State.atLeast_hostl : (s.atLeast n).hostl = s.hostl := rfl
@[simp] theorem State.atLeast_board : (s.atLeast n).board = s.board := rfl
@[simp] theorem State.atLeast_ring : (s.atLeast n).ring = s.ring := rfl
@[simp] theorem State.atLeast_fatals : (s.atLeast n).fatals = s.fatals := rfl
@[simp] theorem State.atLeast_recSeq : (s.atLeast n).recSeq = s.recSeq := rfl
@[simp] theorem State.atLeast_chainLog : (s.atLeast n).chainLog = s.chainLog := rfl
@[simp] theorem State.atLeast_net : (s.atLeast n).net = s.net := rfl
@[simp] theorem State.atLeast_lastWindow : (s.atLeast n).lastWindow = s.lastWindow := rfl
@[simp] theorem State.atLeast_lastMover : (s.atLeast n).lastMover = s.lastMover := rfl
@[simp] theorem State.atLeast_out : (s.atLeast n).out = s.out := rfl
@[simp] theorem State.atLeast_free : (s.atLeast n).free = s.free := rfl
@[simp] theorem State.atLeast_now : (s.atLeast n).now = max s.now n := rfl
@[simp] theorem State.setMsix_pending (f : FnId) (e : MsixEntry) : (s.setMsix f n e).pending = s.pending := rfl
@[simp] theorem State.setMsix_now (f : FnId) (e : MsixEntry) : (s.setMsix f n e).now = s.now := rfl
@[simp] theorem State.setMsix_boot (f : FnId) (e : MsixEntry) : (s.setMsix f n e).boot = s.boot := rfl
@[simp] theorem State.setMsix_plant (f : FnId) (e : MsixEntry) : (s.setMsix f n e).plant = s.plant := rfl
@[simp] theorem State.setMsix_tiles (f : FnId) (e : MsixEntry) : (s.setMsix f n e).tiles = s.tiles := rfl
@[simp] theorem State.setMsix_parts (f : FnId) (e : MsixEntry) : (s.setMsix f n e).parts = s.parts := rfl
@[simp] theorem State.setMsix_mem (f : FnId) (e : MsixEntry) : (s.setMsix f n e).mem = s.mem := rfl
@[simp] theorem State.setMsix_hbm (f : FnId) (e : MsixEntry) : (s.setMsix f n e).hbm = s.hbm := rfl
@[simp] theorem State.setMsix_arbs (f : FnId) (e : MsixEntry) : (s.setMsix f n e).arbs = s.arbs := rfl
@[simp] theorem State.setMsix_links (f : FnId) (e : MsixEntry) : (s.setMsix f n e).links = s.links := rfl
@[simp] theorem State.setMsix_fabric (f : FnId) (e : MsixEntry) : (s.setMsix f n e).fabric = s.fabric := rfl
@[simp] theorem State.setMsix_ledger (f : FnId) (e : MsixEntry) : (s.setMsix f n e).ledger = s.ledger := rfl
@[simp] theorem State.setMsix_regions (f : FnId) (e : MsixEntry) : (s.setMsix f n e).regions = s.regions := rfl
@[simp] theorem State.setMsix_mbx (f : FnId) (e : MsixEntry) : (s.setMsix f n e).mbx = s.mbx := rfl
@[simp] theorem State.setMsix_cfg (f : FnId) (e : MsixEntry) : (s.setMsix f n e).cfg = s.cfg := rfl
@[simp] theorem State.setMsix_eng (f : FnId) (e : MsixEntry) : (s.setMsix f n e).eng = s.eng := rfl
@[simp] theorem State.setMsix_sec (f : FnId) (e : MsixEntry) : (s.setMsix f n e).sec = s.sec := rfl
@[simp] theorem State.setMsix_board (f : FnId) (e : MsixEntry) : (s.setMsix f n e).board = s.board := rfl
@[simp] theorem State.setMsix_ring (f : FnId) (e : MsixEntry) : (s.setMsix f n e).ring = s.ring := rfl
@[simp] theorem State.setMsix_fatals (f : FnId) (e : MsixEntry) : (s.setMsix f n e).fatals = s.fatals := rfl
@[simp] theorem State.setMsix_recSeq (f : FnId) (e : MsixEntry) : (s.setMsix f n e).recSeq = s.recSeq := rfl
@[simp] theorem State.setMsix_chainLog (f : FnId) (e : MsixEntry) : (s.setMsix f n e).chainLog = s.chainLog := rfl
@[simp] theorem State.setMsix_net (f : FnId) (e : MsixEntry) : (s.setMsix f n e).net = s.net := rfl
@[simp] theorem State.setMsix_lastWindow (f : FnId) (e : MsixEntry) : (s.setMsix f n e).lastWindow = s.lastWindow := rfl
@[simp] theorem State.setMsix_lastMover (f : FnId) (e : MsixEntry) : (s.setMsix f n e).lastMover = s.lastMover := rfl
@[simp] theorem State.setMsix_out (f : FnId) (e : MsixEntry) : (s.setMsix f n e).out = s.out := rfl
@[simp] theorem State.setMsix_free (f : FnId) (e : MsixEntry) : (s.setMsix f n e).free = s.free := rfl

end Sys2Proof.Machine
end

