-- ==== Sys2Proof/Laws/Post.lean ====
section
/-!
SUPPORT. What posting does: a mailbox's answer or event, an interrupt, a record. Each changes the mailboxes, the MSI-X table, what the device
sends out and the error log at most; every other part of the state is as before.
-/

namespace Sys2Proof.Machine

/-- From `s` to `t` nothing differs but the mailboxes, the MSI-X table, what is sent out and the error log. -/
def State.Posts (s t : State) : Prop :=
  t = { s with
    mbx := t.mbx, hostl := { s.hostl with msix := t.hostl.msix }, out := t.out, ring := t.ring, fatals := t.fatals, recSeq := t.recSeq }

theorem State.Posts.refl (s : State) : s.Posts s := rfl

theorem State.Posts.trans {s t u : State} (h : s.Posts t) (k : t.Posts u) : s.Posts u := by
  unfold State.Posts at *
  rw [h] at k
  exact k

theorem State.Posts.foldl {α : Type} {f : State → α → State} {l : List α} {s t : State} (h : s.Posts t) (hf : ∀ (t : State) (x : α), t.Posts (f t x)) :
    s.Posts (l.foldl f t) := by
  induction l generalizing t with
  | nil => exact h
  | cons x l ih => exact ih (h.trans (hf t x))

theorem State.setBox_posts (s : State) (m : Nat) (b : Mailbox) : s.Posts (s.setBox m b) := rfl
theorem State.updBox_posts (s : State) (m : Nat) (f : Mailbox → Mailbox) : s.Posts (s.updBox m f) := rfl
theorem State.emit_posts (s : State) (o : Output) : s.Posts (s.emit o) := rfl
theorem State.setMsix_posts (s : State) (f : FnId) (v : Nat) (e : MsixEntry) : s.Posts (s.setMsix f v e) := rfl

theorem State.msix_posts (s : State) (f : FnId) (v : Nat) : s.Posts (s.msix f v) := by
  unfold State.msix
  dsimp only
  split
  · exact s.setMsix_posts f v _
  · exact s.emit_posts _

theorem State.loadRsp_posts (s : State) (m : MbxId) : s.Posts (s.loadRsp m) := by
  unfold State.loadRsp
  dsimp only
  split
  · exact (s.setBox_posts m _).trans (State.msix_posts _ _ _)
  · exact .refl s

theorem State.postEvents_posts (k : Nat) (m : MbxId) (s : State) : s.Posts (State.postEvents k m s) := by
  induction k generalizing s with
  | zero => exact .refl s
  | succ k ih =>
    unfold State.postEvents
    dsimp only
    split
    · split
      · exact ((s.setBox_posts m _).trans (State.msix_posts _ _ _)).trans (ih _)
      · exact .refl s
    · exact .refl s

theorem State.pump_posts (s : State) (m : MbxId) : s.Posts (s.pump m) := by
  unfold State.pump
  split
  · exact .refl s
  · exact (s.loadRsp_posts m).trans (State.postEvents_posts _ _ _)

theorem State.event_posts (s : State) (m : MbxId) (e : Event) : s.Posts (s.event m e) := by
  unfold State.event
  exact (s.setBox_posts m _).trans (State.pump_posts _ _)

theorem State.eventAll_posts (s : State) (ms : List MbxId) (e : Event) : s.Posts (s.eventAll ms e) := by
  unfold State.eventAll
  exact State.Posts.foldl (.refl s) (fun t m => t.event_posts m e)

theorem State.finishLong_posts (s : State) (m : MbxId) : s.Posts (s.finishLong m) := by
  unfold State.finishLong
  dsimp only
  split
  · exact (s.setBox_posts m _).trans (State.event_posts _ _ _)
  · exact .refl s

theorem State.commandDone_posts (s : State) (m : MbxId) (tag : BitVec 16) (st : Status) (b : List Byte) : s.Posts (s.commandDone m tag st b) := by
  unfold State.commandDone
  exact (s.updBox_posts m _).trans (State.finishLong_posts _ _)

theorem State.respond_posts (s : State) (m : MbxId) (h : List Byte) (tag rt : BitVec 16) (bell : Nat) (st : Status) (fin : Bool) (p : List Byte) :
    s.Posts (s.respond m h tag rt bell st fin p) := by
  unfold State.respond
  exact (s.updBox_posts m _).trans (State.pump_posts _ _)

theorem State.answer_posts (s : State) (m : MbxId) (h : Held) (st : Status) (p : List Byte) : s.Posts (s.answer m h st p) := by
  unfold State.answer
  exact (s.updBox_posts m _).trans (State.respond_posts _ _ _ _ _ _ _ _ _)

theorem State.accept_posts (s : State) (m : MbxId) (h : Held) (p : List Byte) : s.Posts (s.accept m h p) := by
  unfold State.accept
  exact (s.updBox_posts m _).trans (State.respond_posts _ _ _ _ _ _ _ _ _)

theorem State.deliver_posts (s : State) (r : ErrRec) : s.Posts (s.deliver r) := by
  unfold State.deliver
  exact s.eventAll_posts _ _

theorem State.markFollow_posts (s : State) (k : Nat) : s.Posts (s.markFollow k) := rfl

theorem State.fatalSlot_posts (s : State) (r : ErrRec) (k : Nat) : s.Posts (s.fatalSlot r k) := by
  unfold State.fatalSlot
  split <;> rfl

theorem State.keepFatal_posts (s : State) (r : ErrRec) : s.Posts (s.keepFatal r) := by
  unfold State.keepFatal
  repeat' split
  · exact .refl s
  · exact State.Posts.foldl (.refl s) (fun t n => t.fatalSlot_posts r n)
  · rfl
  · exact .refl s
  · exact .refl s

theorem State.record_posts (s : State) (r : ErrRec) : s.Posts (s.record r) := by
  unfold State.record
  dsimp only
  split
  · rfl
  · refine State.Posts.trans ?_ (State.deliver_posts _ _)
    refine State.Posts.trans ?_ (State.keepFatal_posts _ _)
    rfl

/-- What does not read the posted parts is as before. -/
theorem State.Posts.of {β : Type} {s t : State} (h : s.Posts t) (f : State → β)
    (hf : ∀ mbx msix out ring fatals recSeq, f { s with
          mbx := mbx, hostl := { s.hostl with msix := msix }, out := out, ring := ring, fatals := fatals, recSeq := recSeq } = f s) : f t
    = f s :=
  (congrArg f h).trans (hf _ _ _ _ _ _)

/-- What posting leaves as it was. -/
theorem State.Posts.same {s t : State} (h : s.Posts t) :
        t.pending = s.pending ∧ t.now = s.now ∧ t.boot = s.boot ∧ t.plant = s.plant ∧ t.tiles = s.tiles ∧ t.parts = s.parts ∧ t.mem =
    s.mem ∧ t.hbm = s.hbm ∧ t.arbs = s.arbs ∧ t.links = s.links ∧ t.fabric = s.fabric ∧ t.ledger = s.ledger ∧ t.regions = s.regions ∧
    t.cfg = s.cfg ∧ t.eng = s.eng ∧ t.sec = s.sec ∧ t.board = s.board ∧ t.chainLog = s.chainLog ∧ t.net = s.net ∧ t.lastWindow = s.lastWindow ∧ t.lastMover =
    s.lastMover ∧ t.free = s.free :=
    ⟨h.of State.pending (fun _ _ _ _ _ _ => rfl), h.of State.now (fun _ _ _ _ _ _ => rfl), h.of State.boot (fun _ _ _ _ _ _ => rfl), h.of
    State.plant (fun _ _ _ _ _ _ => rfl), h.of State.tiles (fun _ _ _ _ _ _ => rfl), h.of State.parts (fun _ _ _ _ _ _ => rfl), h.of
    State.mem (fun _ _ _ _ _ _ => rfl), h.of State.hbm (fun _ _ _ _ _ _ => rfl), h.of State.arbs (fun _ _ _ _ _ _ => rfl), h.of
    State.links (fun _ _ _ _ _ _ => rfl), h.of State.fabric (fun _ _ _ _ _ _ => rfl), h.of State.ledger (fun _ _ _ _ _ _ => rfl), h.of
    State.regions (fun _ _ _ _ _ _ => rfl), h.of State.cfg (fun _ _ _ _ _ _ => rfl), h.of State.eng (fun _ _ _ _ _ _ => rfl), h.of
    State.sec (fun _ _ _ _ _ _ => rfl), h.of State.board (fun _ _ _ _ _ _ => rfl), h.of State.chainLog (fun _ _ _ _ _ _ => rfl), h.of
    State.net (fun _ _ _ _ _ _ => rfl), h.of State.lastWindow (fun _ _ _ _ _ _ => rfl), h.of State.lastMover (fun _ _ _ _ _ _ => rfl), h.of State.free (fun _ _ _ _ _ _ => rfl)⟩

theorem State.Posts.reads {s t : State} (h : s.Posts t) :
        (∀ n, t.part n = s.part n) ∧ (∀ n, t.tile n = s.tile n) ∧ (∀ n, t.led n = s.led n) ∧ (∀ n, t.region n = s.region n) ∧ (∀ n, t.hbmc
    n = s.hbmc n) ∧ (∀ n, t.arb n = s.arb n) ∧ (∀ n, t.link n = s.link n) ∧ (∀ n, t.valid n = s.valid n) ∧ (∀ n, t.isStrict n = s.isStrict
    n) ∧ (∀ n, t.tilesOf n = s.tilesOf n) :=
    ⟨fun n => h.of (fun x => State.part x n) (fun _ _ _ _ _ _ => rfl), fun n => h.of (fun x => State.tile x n) (fun _ _ _ _ _ _ => rfl),
    fun n => h.of (fun x => State.led x n) (fun _ _ _ _ _ _ => rfl), fun n => h.of (fun x => State.region x n) (fun _ _ _ _ _ _ => rfl),
    fun n => h.of (fun x => State.hbmc x n) (fun _ _ _ _ _ _ => rfl), fun n => h.of (fun x => State.arb x n) (fun _ _ _ _ _ _ => rfl), fun
    n => h.of (fun x => State.link x n) (fun _ _ _ _ _ _ => rfl), fun n => h.of (fun x => State.valid x n) (fun _ _ _ _ _ _ => rfl), fun n
    => h.of (fun x => State.isStrict x n) (fun _ _ _ _ _ _ => rfl), fun n => h.of (fun x => State.tilesOf x n) (fun _ _ _ _ _ _ => rfl)⟩

theorem State.Posts.hostl_same {s t : State} (h : s.Posts t) :
    t.hostl = { s.hostl with msix := t.hostl.msix } :=
  (congrArg State.hostl h)

@[simp] theorem State.emit_same (s : State) (o : Output) : let t := s.emit o
        t.pending = s.pending ∧ t.now = s.now ∧ t.boot = s.boot ∧ t.plant = s.plant ∧ t.tiles = s.tiles ∧ t.parts = s.parts ∧ t.mem =
    s.mem ∧ t.hbm = s.hbm ∧ t.arbs = s.arbs ∧ t.links = s.links ∧ t.fabric = s.fabric ∧ t.ledger = s.ledger ∧ t.regions = s.regions ∧
    t.cfg = s.cfg ∧ t.eng = s.eng ∧ t.sec = s.sec ∧ t.board = s.board ∧ t.chainLog = s.chainLog ∧ t.net = s.net ∧ t.lastWindow = s.lastWindow ∧ t.lastMover =
    s.lastMover ∧ t.free = s.free :=
  (s.emit_posts o).same

@[simp] theorem State.emit_reads (s : State) (o : Output) : let t := s.emit o
        (∀ n, t.part n = s.part n) ∧ (∀ n, t.tile n = s.tile n) ∧ (∀ n, t.led n = s.led n) ∧ (∀ n, t.region n = s.region n) ∧ (∀ n, t.hbmc
    n = s.hbmc n) ∧ (∀ n, t.arb n = s.arb n) ∧ (∀ n, t.link n = s.link n) ∧ (∀ n, t.valid n = s.valid n) ∧ (∀ n, t.isStrict n = s.isStrict
    n) ∧ (∀ n, t.tilesOf n = s.tilesOf n) :=
  (s.emit_posts o).reads

@[simp] theorem State.setMsix_same (s : State) (f : FnId) (v : Nat) (e : MsixEntry) : let t := s.setMsix f v e
        t.pending = s.pending ∧ t.now = s.now ∧ t.boot = s.boot ∧ t.plant = s.plant ∧ t.tiles = s.tiles ∧ t.parts = s.parts ∧ t.mem =
    s.mem ∧ t.hbm = s.hbm ∧ t.arbs = s.arbs ∧ t.links = s.links ∧ t.fabric = s.fabric ∧ t.ledger = s.ledger ∧ t.regions = s.regions ∧
    t.cfg = s.cfg ∧ t.eng = s.eng ∧ t.sec = s.sec ∧ t.board = s.board ∧ t.chainLog = s.chainLog ∧ t.net = s.net ∧ t.lastWindow = s.lastWindow ∧ t.lastMover =
    s.lastMover ∧ t.free = s.free :=
  (s.setMsix_posts f v e).same

@[simp] theorem State.setMsix_reads (s : State) (f : FnId) (v : Nat) (e : MsixEntry) : let t := s.setMsix f v e
        (∀ n, t.part n = s.part n) ∧ (∀ n, t.tile n = s.tile n) ∧ (∀ n, t.led n = s.led n) ∧ (∀ n, t.region n = s.region n) ∧ (∀ n, t.hbmc
    n = s.hbmc n) ∧ (∀ n, t.arb n = s.arb n) ∧ (∀ n, t.link n = s.link n) ∧ (∀ n, t.valid n = s.valid n) ∧ (∀ n, t.isStrict n = s.isStrict
    n) ∧ (∀ n, t.tilesOf n = s.tilesOf n) :=
  (s.setMsix_posts f v e).reads

@[simp] theorem State.msix_same (s : State) (f : FnId) (v : Nat) : let t := s.msix f v
        t.pending = s.pending ∧ t.now = s.now ∧ t.boot = s.boot ∧ t.plant = s.plant ∧ t.tiles = s.tiles ∧ t.parts = s.parts ∧ t.mem =
    s.mem ∧ t.hbm = s.hbm ∧ t.arbs = s.arbs ∧ t.links = s.links ∧ t.fabric = s.fabric ∧ t.ledger = s.ledger ∧ t.regions = s.regions ∧
    t.cfg = s.cfg ∧ t.eng = s.eng ∧ t.sec = s.sec ∧ t.board = s.board ∧ t.chainLog = s.chainLog ∧ t.net = s.net ∧ t.lastWindow = s.lastWindow ∧ t.lastMover =
    s.lastMover ∧ t.free = s.free :=
  (s.msix_posts f v).same

@[simp] theorem State.msix_reads (s : State) (f : FnId) (v : Nat) : let t := s.msix f v
        (∀ n, t.part n = s.part n) ∧ (∀ n, t.tile n = s.tile n) ∧ (∀ n, t.led n = s.led n) ∧ (∀ n, t.region n = s.region n) ∧ (∀ n, t.hbmc
    n = s.hbmc n) ∧ (∀ n, t.arb n = s.arb n) ∧ (∀ n, t.link n = s.link n) ∧ (∀ n, t.valid n = s.valid n) ∧ (∀ n, t.isStrict n = s.isStrict
    n) ∧ (∀ n, t.tilesOf n = s.tilesOf n) :=
  (s.msix_posts f v).reads

@[simp] theorem State.loadRsp_same (s : State) (m : MbxId) : let t := s.loadRsp m
        t.pending = s.pending ∧ t.now = s.now ∧ t.boot = s.boot ∧ t.plant = s.plant ∧ t.tiles = s.tiles ∧ t.parts = s.parts ∧ t.mem =
    s.mem ∧ t.hbm = s.hbm ∧ t.arbs = s.arbs ∧ t.links = s.links ∧ t.fabric = s.fabric ∧ t.ledger = s.ledger ∧ t.regions = s.regions ∧
    t.cfg = s.cfg ∧ t.eng = s.eng ∧ t.sec = s.sec ∧ t.board = s.board ∧ t.chainLog = s.chainLog ∧ t.net = s.net ∧ t.lastWindow = s.lastWindow ∧ t.lastMover =
    s.lastMover ∧ t.free = s.free :=
  (s.loadRsp_posts m).same

@[simp] theorem State.loadRsp_reads (s : State) (m : MbxId) : let t := s.loadRsp m
        (∀ n, t.part n = s.part n) ∧ (∀ n, t.tile n = s.tile n) ∧ (∀ n, t.led n = s.led n) ∧ (∀ n, t.region n = s.region n) ∧ (∀ n, t.hbmc
    n = s.hbmc n) ∧ (∀ n, t.arb n = s.arb n) ∧ (∀ n, t.link n = s.link n) ∧ (∀ n, t.valid n = s.valid n) ∧ (∀ n, t.isStrict n = s.isStrict
    n) ∧ (∀ n, t.tilesOf n = s.tilesOf n) :=
  (s.loadRsp_posts m).reads

@[simp] theorem State.pump_same (s : State) (m : MbxId) : let t := s.pump m
        t.pending = s.pending ∧ t.now = s.now ∧ t.boot = s.boot ∧ t.plant = s.plant ∧ t.tiles = s.tiles ∧ t.parts = s.parts ∧ t.mem =
    s.mem ∧ t.hbm = s.hbm ∧ t.arbs = s.arbs ∧ t.links = s.links ∧ t.fabric = s.fabric ∧ t.ledger = s.ledger ∧ t.regions = s.regions ∧
    t.cfg = s.cfg ∧ t.eng = s.eng ∧ t.sec = s.sec ∧ t.board = s.board ∧ t.chainLog = s.chainLog ∧ t.net = s.net ∧ t.lastWindow = s.lastWindow ∧ t.lastMover =
    s.lastMover ∧ t.free = s.free :=
  (s.pump_posts m).same

@[simp] theorem State.pump_reads (s : State) (m : MbxId) : let t := s.pump m
        (∀ n, t.part n = s.part n) ∧ (∀ n, t.tile n = s.tile n) ∧ (∀ n, t.led n = s.led n) ∧ (∀ n, t.region n = s.region n) ∧ (∀ n, t.hbmc
    n = s.hbmc n) ∧ (∀ n, t.arb n = s.arb n) ∧ (∀ n, t.link n = s.link n) ∧ (∀ n, t.valid n = s.valid n) ∧ (∀ n, t.isStrict n = s.isStrict
    n) ∧ (∀ n, t.tilesOf n = s.tilesOf n) :=
  (s.pump_posts m).reads

@[simp] theorem State.event_same (s : State) (m : MbxId) (e : Event) : let t := s.event m e
        t.pending = s.pending ∧ t.now = s.now ∧ t.boot = s.boot ∧ t.plant = s.plant ∧ t.tiles = s.tiles ∧ t.parts = s.parts ∧ t.mem =
    s.mem ∧ t.hbm = s.hbm ∧ t.arbs = s.arbs ∧ t.links = s.links ∧ t.fabric = s.fabric ∧ t.ledger = s.ledger ∧ t.regions = s.regions ∧
    t.cfg = s.cfg ∧ t.eng = s.eng ∧ t.sec = s.sec ∧ t.board = s.board ∧ t.chainLog = s.chainLog ∧ t.net = s.net ∧ t.lastWindow = s.lastWindow ∧ t.lastMover =
    s.lastMover ∧ t.free = s.free :=
  (s.event_posts m e).same

@[simp] theorem State.event_reads (s : State) (m : MbxId) (e : Event) : let t := s.event m e
        (∀ n, t.part n = s.part n) ∧ (∀ n, t.tile n = s.tile n) ∧ (∀ n, t.led n = s.led n) ∧ (∀ n, t.region n = s.region n) ∧ (∀ n, t.hbmc
    n = s.hbmc n) ∧ (∀ n, t.arb n = s.arb n) ∧ (∀ n, t.link n = s.link n) ∧ (∀ n, t.valid n = s.valid n) ∧ (∀ n, t.isStrict n = s.isStrict
    n) ∧ (∀ n, t.tilesOf n = s.tilesOf n) :=
  (s.event_posts m e).reads

@[simp] theorem State.eventAll_same (s : State) (ms : List MbxId) (e : Event) : let t := s.eventAll ms e
        t.pending = s.pending ∧ t.now = s.now ∧ t.boot = s.boot ∧ t.plant = s.plant ∧ t.tiles = s.tiles ∧ t.parts = s.parts ∧ t.mem =
    s.mem ∧ t.hbm = s.hbm ∧ t.arbs = s.arbs ∧ t.links = s.links ∧ t.fabric = s.fabric ∧ t.ledger = s.ledger ∧ t.regions = s.regions ∧
    t.cfg = s.cfg ∧ t.eng = s.eng ∧ t.sec = s.sec ∧ t.board = s.board ∧ t.chainLog = s.chainLog ∧ t.net = s.net ∧ t.lastWindow = s.lastWindow ∧ t.lastMover =
    s.lastMover ∧ t.free = s.free :=
  (s.eventAll_posts ms e).same

@[simp] theorem State.eventAll_reads (s : State) (ms : List MbxId) (e : Event) : let t := s.eventAll ms e
        (∀ n, t.part n = s.part n) ∧ (∀ n, t.tile n = s.tile n) ∧ (∀ n, t.led n = s.led n) ∧ (∀ n, t.region n = s.region n) ∧ (∀ n, t.hbmc
    n = s.hbmc n) ∧ (∀ n, t.arb n = s.arb n) ∧ (∀ n, t.link n = s.link n) ∧ (∀ n, t.valid n = s.valid n) ∧ (∀ n, t.isStrict n = s.isStrict
    n) ∧ (∀ n, t.tilesOf n = s.tilesOf n) :=
  (s.eventAll_posts ms e).reads

@[simp] theorem State.finishLong_same (s : State) (m : MbxId) : let t := s.finishLong m
        t.pending = s.pending ∧ t.now = s.now ∧ t.boot = s.boot ∧ t.plant = s.plant ∧ t.tiles = s.tiles ∧ t.parts = s.parts ∧ t.mem =
    s.mem ∧ t.hbm = s.hbm ∧ t.arbs = s.arbs ∧ t.links = s.links ∧ t.fabric = s.fabric ∧ t.ledger = s.ledger ∧ t.regions = s.regions ∧
    t.cfg = s.cfg ∧ t.eng = s.eng ∧ t.sec = s.sec ∧ t.board = s.board ∧ t.chainLog = s.chainLog ∧ t.net = s.net ∧ t.lastWindow = s.lastWindow ∧ t.lastMover =
    s.lastMover ∧ t.free = s.free :=
  (s.finishLong_posts m).same

@[simp] theorem State.finishLong_reads (s : State) (m : MbxId) : let t := s.finishLong m
        (∀ n, t.part n = s.part n) ∧ (∀ n, t.tile n = s.tile n) ∧ (∀ n, t.led n = s.led n) ∧ (∀ n, t.region n = s.region n) ∧ (∀ n, t.hbmc
    n = s.hbmc n) ∧ (∀ n, t.arb n = s.arb n) ∧ (∀ n, t.link n = s.link n) ∧ (∀ n, t.valid n = s.valid n) ∧ (∀ n, t.isStrict n = s.isStrict
    n) ∧ (∀ n, t.tilesOf n = s.tilesOf n) :=
  (s.finishLong_posts m).reads

@[simp] theorem State.commandDone_same (s : State) (m : MbxId) (tag : BitVec 16) (st : Status) (b : List Byte) : let t := s.commandDone m tag st b
        t.pending = s.pending ∧ t.now = s.now ∧ t.boot = s.boot ∧ t.plant = s.plant ∧ t.tiles = s.tiles ∧ t.parts = s.parts ∧ t.mem =
    s.mem ∧ t.hbm = s.hbm ∧ t.arbs = s.arbs ∧ t.links = s.links ∧ t.fabric = s.fabric ∧ t.ledger = s.ledger ∧ t.regions = s.regions ∧
    t.cfg = s.cfg ∧ t.eng = s.eng ∧ t.sec = s.sec ∧ t.board = s.board ∧ t.chainLog = s.chainLog ∧ t.net = s.net ∧ t.lastWindow = s.lastWindow ∧ t.lastMover =
    s.lastMover ∧ t.free = s.free :=
  (s.commandDone_posts m tag st b).same

@[simp] theorem State.commandDone_reads (s : State) (m : MbxId) (tag : BitVec 16) (st : Status) (b : List Byte) : let t := s.commandDone m tag st b
        (∀ n, t.part n = s.part n) ∧ (∀ n, t.tile n = s.tile n) ∧ (∀ n, t.led n = s.led n) ∧ (∀ n, t.region n = s.region n) ∧ (∀ n, t.hbmc
    n = s.hbmc n) ∧ (∀ n, t.arb n = s.arb n) ∧ (∀ n, t.link n = s.link n) ∧ (∀ n, t.valid n = s.valid n) ∧ (∀ n, t.isStrict n = s.isStrict
    n) ∧ (∀ n, t.tilesOf n = s.tilesOf n) :=
  (s.commandDone_posts m tag st b).reads

@[simp] theorem State.respond_same (s : State) (m : MbxId) (h : List Byte) (tag rt : BitVec 16) (bell : Nat) (st : Status) (fin : Bool) (p : List Byte) : let t := s.respond m h tag rt bell st fin p
        t.pending = s.pending ∧ t.now = s.now ∧ t.boot = s.boot ∧ t.plant = s.plant ∧ t.tiles = s.tiles ∧ t.parts = s.parts ∧ t.mem =
    s.mem ∧ t.hbm = s.hbm ∧ t.arbs = s.arbs ∧ t.links = s.links ∧ t.fabric = s.fabric ∧ t.ledger = s.ledger ∧ t.regions = s.regions ∧
    t.cfg = s.cfg ∧ t.eng = s.eng ∧ t.sec = s.sec ∧ t.board = s.board ∧ t.chainLog = s.chainLog ∧ t.net = s.net ∧ t.lastWindow = s.lastWindow ∧ t.lastMover =
    s.lastMover ∧ t.free = s.free :=
  (s.respond_posts m h tag rt bell st fin p).same

@[simp] theorem State.respond_reads (s : State) (m : MbxId) (h : List Byte) (tag rt : BitVec 16) (bell : Nat) (st : Status) (fin : Bool) (p : List Byte) : let t := s.respond m h tag rt bell st fin p
        (∀ n, t.part n = s.part n) ∧ (∀ n, t.tile n = s.tile n) ∧ (∀ n, t.led n = s.led n) ∧ (∀ n, t.region n = s.region n) ∧ (∀ n, t.hbmc
    n = s.hbmc n) ∧ (∀ n, t.arb n = s.arb n) ∧ (∀ n, t.link n = s.link n) ∧ (∀ n, t.valid n = s.valid n) ∧ (∀ n, t.isStrict n = s.isStrict
    n) ∧ (∀ n, t.tilesOf n = s.tilesOf n) :=
  (s.respond_posts m h tag rt bell st fin p).reads

@[simp] theorem State.answer_same (s : State) (m : MbxId) (h : Held) (st : Status) (p : List Byte) : let t := s.answer m h st p
        t.pending = s.pending ∧ t.now = s.now ∧ t.boot = s.boot ∧ t.plant = s.plant ∧ t.tiles = s.tiles ∧ t.parts = s.parts ∧ t.mem =
    s.mem ∧ t.hbm = s.hbm ∧ t.arbs = s.arbs ∧ t.links = s.links ∧ t.fabric = s.fabric ∧ t.ledger = s.ledger ∧ t.regions = s.regions ∧
    t.cfg = s.cfg ∧ t.eng = s.eng ∧ t.sec = s.sec ∧ t.board = s.board ∧ t.chainLog = s.chainLog ∧ t.net = s.net ∧ t.lastWindow = s.lastWindow ∧ t.lastMover =
    s.lastMover ∧ t.free = s.free :=
  (s.answer_posts m h st p).same

@[simp] theorem State.answer_reads (s : State) (m : MbxId) (h : Held) (st : Status) (p : List Byte) : let t := s.answer m h st p
        (∀ n, t.part n = s.part n) ∧ (∀ n, t.tile n = s.tile n) ∧ (∀ n, t.led n = s.led n) ∧ (∀ n, t.region n = s.region n) ∧ (∀ n, t.hbmc
    n = s.hbmc n) ∧ (∀ n, t.arb n = s.arb n) ∧ (∀ n, t.link n = s.link n) ∧ (∀ n, t.valid n = s.valid n) ∧ (∀ n, t.isStrict n = s.isStrict
    n) ∧ (∀ n, t.tilesOf n = s.tilesOf n) :=
  (s.answer_posts m h st p).reads

@[simp] theorem State.accept_same (s : State) (m : MbxId) (h : Held) (p : List Byte) : let t := s.accept m h p
        t.pending = s.pending ∧ t.now = s.now ∧ t.boot = s.boot ∧ t.plant = s.plant ∧ t.tiles = s.tiles ∧ t.parts = s.parts ∧ t.mem =
    s.mem ∧ t.hbm = s.hbm ∧ t.arbs = s.arbs ∧ t.links = s.links ∧ t.fabric = s.fabric ∧ t.ledger = s.ledger ∧ t.regions = s.regions ∧
    t.cfg = s.cfg ∧ t.eng = s.eng ∧ t.sec = s.sec ∧ t.board = s.board ∧ t.chainLog = s.chainLog ∧ t.net = s.net ∧ t.lastWindow = s.lastWindow ∧ t.lastMover =
    s.lastMover ∧ t.free = s.free :=
  (s.accept_posts m h p).same

@[simp] theorem State.accept_reads (s : State) (m : MbxId) (h : Held) (p : List Byte) : let t := s.accept m h p
        (∀ n, t.part n = s.part n) ∧ (∀ n, t.tile n = s.tile n) ∧ (∀ n, t.led n = s.led n) ∧ (∀ n, t.region n = s.region n) ∧ (∀ n, t.hbmc
    n = s.hbmc n) ∧ (∀ n, t.arb n = s.arb n) ∧ (∀ n, t.link n = s.link n) ∧ (∀ n, t.valid n = s.valid n) ∧ (∀ n, t.isStrict n = s.isStrict
    n) ∧ (∀ n, t.tilesOf n = s.tilesOf n) :=
  (s.accept_posts m h p).reads

@[simp] theorem State.deliver_same (s : State) (r : ErrRec) : let t := s.deliver r
        t.pending = s.pending ∧ t.now = s.now ∧ t.boot = s.boot ∧ t.plant = s.plant ∧ t.tiles = s.tiles ∧ t.parts = s.parts ∧ t.mem =
    s.mem ∧ t.hbm = s.hbm ∧ t.arbs = s.arbs ∧ t.links = s.links ∧ t.fabric = s.fabric ∧ t.ledger = s.ledger ∧ t.regions = s.regions ∧
    t.cfg = s.cfg ∧ t.eng = s.eng ∧ t.sec = s.sec ∧ t.board = s.board ∧ t.chainLog = s.chainLog ∧ t.net = s.net ∧ t.lastWindow = s.lastWindow ∧ t.lastMover =
    s.lastMover ∧ t.free = s.free :=
  (s.deliver_posts r).same

@[simp] theorem State.deliver_reads (s : State) (r : ErrRec) : let t := s.deliver r
        (∀ n, t.part n = s.part n) ∧ (∀ n, t.tile n = s.tile n) ∧ (∀ n, t.led n = s.led n) ∧ (∀ n, t.region n = s.region n) ∧ (∀ n, t.hbmc
    n = s.hbmc n) ∧ (∀ n, t.arb n = s.arb n) ∧ (∀ n, t.link n = s.link n) ∧ (∀ n, t.valid n = s.valid n) ∧ (∀ n, t.isStrict n = s.isStrict
    n) ∧ (∀ n, t.tilesOf n = s.tilesOf n) :=
  (s.deliver_posts r).reads

@[simp] theorem State.markFollow_same (s : State) (k : Nat) : let t := s.markFollow k
        t.pending = s.pending ∧ t.now = s.now ∧ t.boot = s.boot ∧ t.plant = s.plant ∧ t.tiles = s.tiles ∧ t.parts = s.parts ∧ t.mem =
    s.mem ∧ t.hbm = s.hbm ∧ t.arbs = s.arbs ∧ t.links = s.links ∧ t.fabric = s.fabric ∧ t.ledger = s.ledger ∧ t.regions = s.regions ∧
    t.cfg = s.cfg ∧ t.eng = s.eng ∧ t.sec = s.sec ∧ t.board = s.board ∧ t.chainLog = s.chainLog ∧ t.net = s.net ∧ t.lastWindow = s.lastWindow ∧ t.lastMover =
    s.lastMover ∧ t.free = s.free :=
  (s.markFollow_posts k).same

@[simp] theorem State.markFollow_reads (s : State) (k : Nat) : let t := s.markFollow k
        (∀ n, t.part n = s.part n) ∧ (∀ n, t.tile n = s.tile n) ∧ (∀ n, t.led n = s.led n) ∧ (∀ n, t.region n = s.region n) ∧ (∀ n, t.hbmc
    n = s.hbmc n) ∧ (∀ n, t.arb n = s.arb n) ∧ (∀ n, t.link n = s.link n) ∧ (∀ n, t.valid n = s.valid n) ∧ (∀ n, t.isStrict n = s.isStrict
    n) ∧ (∀ n, t.tilesOf n = s.tilesOf n) :=
  (s.markFollow_posts k).reads

@[simp] theorem State.fatalSlot_same (s : State) (r : ErrRec) (k : Nat) : let t := s.fatalSlot r k
        t.pending = s.pending ∧ t.now = s.now ∧ t.boot = s.boot ∧ t.plant = s.plant ∧ t.tiles = s.tiles ∧ t.parts = s.parts ∧ t.mem =
    s.mem ∧ t.hbm = s.hbm ∧ t.arbs = s.arbs ∧ t.links = s.links ∧ t.fabric = s.fabric ∧ t.ledger = s.ledger ∧ t.regions = s.regions ∧
    t.cfg = s.cfg ∧ t.eng = s.eng ∧ t.sec = s.sec ∧ t.board = s.board ∧ t.chainLog = s.chainLog ∧ t.net = s.net ∧ t.lastWindow = s.lastWindow ∧ t.lastMover =
    s.lastMover ∧ t.free = s.free :=
  (s.fatalSlot_posts r k).same

@[simp] theorem State.fatalSlot_reads (s : State) (r : ErrRec) (k : Nat) : let t := s.fatalSlot r k
        (∀ n, t.part n = s.part n) ∧ (∀ n, t.tile n = s.tile n) ∧ (∀ n, t.led n = s.led n) ∧ (∀ n, t.region n = s.region n) ∧ (∀ n, t.hbmc
    n = s.hbmc n) ∧ (∀ n, t.arb n = s.arb n) ∧ (∀ n, t.link n = s.link n) ∧ (∀ n, t.valid n = s.valid n) ∧ (∀ n, t.isStrict n = s.isStrict
    n) ∧ (∀ n, t.tilesOf n = s.tilesOf n) :=
  (s.fatalSlot_posts r k).reads

@[simp] theorem State.keepFatal_same (s : State) (r : ErrRec) : let t := s.keepFatal r
        t.pending = s.pending ∧ t.now = s.now ∧ t.boot = s.boot ∧ t.plant = s.plant ∧ t.tiles = s.tiles ∧ t.parts = s.parts ∧ t.mem =
    s.mem ∧ t.hbm = s.hbm ∧ t.arbs = s.arbs ∧ t.links = s.links ∧ t.fabric = s.fabric ∧ t.ledger = s.ledger ∧ t.regions = s.regions ∧
    t.cfg = s.cfg ∧ t.eng = s.eng ∧ t.sec = s.sec ∧ t.board = s.board ∧ t.chainLog = s.chainLog ∧ t.net = s.net ∧ t.lastWindow = s.lastWindow ∧ t.lastMover =
    s.lastMover ∧ t.free = s.free :=
  (s.keepFatal_posts r).same

@[simp] theorem State.keepFatal_reads (s : State) (r : ErrRec) : let t := s.keepFatal r
        (∀ n, t.part n = s.part n) ∧ (∀ n, t.tile n = s.tile n) ∧ (∀ n, t.led n = s.led n) ∧ (∀ n, t.region n = s.region n) ∧ (∀ n, t.hbmc
    n = s.hbmc n) ∧ (∀ n, t.arb n = s.arb n) ∧ (∀ n, t.link n = s.link n) ∧ (∀ n, t.valid n = s.valid n) ∧ (∀ n, t.isStrict n = s.isStrict
    n) ∧ (∀ n, t.tilesOf n = s.tilesOf n) :=
  (s.keepFatal_posts r).reads

@[simp] theorem State.record_same (s : State) (r : ErrRec) : let t := s.record r
        t.pending = s.pending ∧ t.now = s.now ∧ t.boot = s.boot ∧ t.plant = s.plant ∧ t.tiles = s.tiles ∧ t.parts = s.parts ∧ t.mem =
    s.mem ∧ t.hbm = s.hbm ∧ t.arbs = s.arbs ∧ t.links = s.links ∧ t.fabric = s.fabric ∧ t.ledger = s.ledger ∧ t.regions = s.regions ∧
    t.cfg = s.cfg ∧ t.eng = s.eng ∧ t.sec = s.sec ∧ t.board = s.board ∧ t.chainLog = s.chainLog ∧ t.net = s.net ∧ t.lastWindow = s.lastWindow ∧ t.lastMover =
    s.lastMover ∧ t.free = s.free :=
  (s.record_posts r).same

@[simp] theorem State.record_reads (s : State) (r : ErrRec) : let t := s.record r
        (∀ n, t.part n = s.part n) ∧ (∀ n, t.tile n = s.tile n) ∧ (∀ n, t.led n = s.led n) ∧ (∀ n, t.region n = s.region n) ∧ (∀ n, t.hbmc
    n = s.hbmc n) ∧ (∀ n, t.arb n = s.arb n) ∧ (∀ n, t.link n = s.link n) ∧ (∀ n, t.valid n = s.valid n) ∧ (∀ n, t.isStrict n = s.isStrict
    n) ∧ (∀ n, t.tilesOf n = s.tilesOf n) :=
  (s.record_posts r).reads

end Sys2Proof.Machine
end

