-- ==== Sys2Proof/Laws/Sis.lean ====
section
/-!
SUPPORT. What an instruction of a tile does where it is ready (Safety.Ready): the shared frame of every scalar, vector and matrix instruction
answers its own effect, and what retiring and writing a register leave alone.
-/

namespace Sys2Proof.Machine

/-- A word that decodes without its extension word is none of the matrix group's (R85, R86). -/
theorem major_of_wordRow {w : BitVec 32} {row : SisRow} (h : wordRow w = some row) : wMajor w ≠ 0x38 := by
  intro e
  simp [wordRow, sisRow, e] at h

theorem State.tile_updTile_ne (s : State) {t k : Nat} (f : Tile → Tile) (h : k ≠ t) : (s.updTile t f).tile k = s.tile k := by
  simp [State.tile_updTile, h]

theorem onlyTile_updTile (s : State) (t : Nat) (f : Tile → Tile) : OnlyTile s (s.updTile t f) t :=
  ⟨rfl, fun _ hk => s.tile_updTile_ne f hk⟩

theorem OnlyTile.refl (s : State) (t : Nat) : OnlyTile s s t := ⟨rfl, fun _ _ => rfl⟩

theorem OnlyTile.trans {s a b : State} {t : Nat} (h : OnlyTile s a t) (k : OnlyTile a b t) : OnlyTile s b t :=
  ⟨by rw [k.1, h.1], fun i hi => (k.2 i hi).trans (h.2 i hi)⟩

theorem State.running_updTsu (s : State) (t : Nat) (f : Tsu → Tsu) : (s.updTsu t f).running t = s.running t := by
  simp [State.running, State.updTsu]

theorem State.running_setX (s : State) (t d : Nat) (v : Word) : (s.setX t d v).running t = s.running t := s.running_updTsu t _

theorem State.running_updLvu (s : State) (t : Nat) (f : Lvu → Lvu) : (s.updLvu t f).running t = s.running t := by
  simp [State.running, State.updLvu]

theorem State.running_updMxu (s : State) (t : Nat) (f : Mxu → Mxu) : (s.updMxu t f).running t = s.running t := by
  simp [State.running, State.updMxu]

theorem State.running_spend (s : State) (t : Nat) (us : List TileUnit) : (s.spend t us).running t = s.running t := by
  simp [State.running, State.spend]

theorem State.running_stepped (s : State) (t : Nat) (row : SisRow) (n b : Nat) : (s.stepped t row n b).running t = s.running t := by
  unfold State.stepped State.running
  cases row.matrix <;> simp

theorem State.tile_retire (s : State) (t : Nat) (p : Word) : (s.retire t p).tile t =
    { s.tile t with tsu := { (s.tile t).tsu with pc := p, retired := (s.tile t).tsu.retired + 1 } } :=
  s.tile_updTile_self t _

theorem onlyTile_retire (s : State) (t : Nat) (p : Word) : OnlyTile s (s.retire t p) t := onlyTile_updTile s t _

theorem State.tile_spend (s : State) (t : Nat) (us : List TileUnit) :
    (s.spend t us).tile t = { s.tile t with tokens := spendTokens (s.tile t).tokens us } := s.tile_updTile_self t _

theorem onlyTile_spend (s : State) (t : Nat) (us : List TileUnit) : OnlyTile s (s.spend t us) t := onlyTile_updTile s t _

theorem spendTokens_append (k : SMap Nat) (us vs : List TileUnit) : spendTokens (spendTokens k us) vs = spendTokens k (us ++ vs) := by
  simp [spendTokens, SMap.updAll, List.foldl_append]

/-- Paying changes the tokens of the tile's units and nothing else. -/
theorem State.tile_paid (s : State) (t : Nat) (row : SisRow) :
    (s.paid t row).tile t = { s.tile t with tokens := spendTokens (s.tile t).tokens row.steps } := by
  unfold State.paid SisRow.steps
  split <;> simp [State.tile_spend, spendTokens_append]

theorem onlyTile_paid (s : State) (t : Nat) (row : SisRow) : OnlyTile s (s.paid t row) t := by
  unfold State.paid
  split
  · exact (onlyTile_spend _ _ _).trans (onlyTile_spend _ _ _)
  · exact onlyTile_spend _ _ _

theorem State.running_paid (s : State) (t : Nat) (row : SisRow) : (s.paid t row).running t = s.running t := by
  simp [State.running, State.tile_paid]

theorem Tsu.xr_setX (r : Tsu) (d : Nat) (v : Word) (k : Nat) : (r.setX d v).xr k = if k = d ∧ k ≠ 0 then v else r.xr k := by
  unfold Tsu.setX Tsu.xr
  by_cases hd : d = 0
  · subst hd
    simp
  · by_cases hk : k = 0
    · simp [hk]
    · simp [hk, hd, SMap.get_put]

/-- With nothing queued the units have nothing to do first. -/
theorem State.unitsFirst_idle {s : State} {t : Nat} (u : Upset) (row : SisRow) (h : (s.tile t).queue = []) : s.unitsFirst t u row = s := by
  unfold State.unitsFirst
  split
  · rfl
  · rw [State.drainQueue, h]

theorem SisRow.calm_strike {row : SisRow} {u : Upset} (h : row.calm u = true) (s : State) (t : Nat) : s.strike t u = s := by
  cases u <;> first | rfl | cases h

theorem SisRow.calm_mismatch {row : SisRow} {u : Upset} (h : row.calm u = true) : u ≠ .mismatch := by
  rintro rfl
  cases h

theorem State.maySpend_left {s : State} {t : Nat} {us vs : List TileUnit} (h : s.maySpend t (us ++ vs) = true) : s.maySpend t us = true := by
  simp only [State.maySpend, Bool.or_eq_true, List.all_append, Bool.and_eq_true] at *
  tauto

/-- Where the instruction is ready, its step is its own effect on the state in which the TSU has paid. -/
theorem State.sisStep_ready {s : State} {t : Nat} {d : Option SisRow} {u : Upset} {row : SisRow} {w : BitVec 32} {f : State → Flow × State}
    (h : Ready s t d row u) : s.sisStep t w d u row f = State.finish t w (s.tile t).tsu.pc (f (s.spend t row.units)) := by
  have e1 := State.maySpend_left h.tokens
  have e2 := SisRow.calm_mismatch h.calm
  unfold State.sisStep
  simp only [SisRow.calm_strike h.calm, State.unitsFirst_idle u row h.idle, h.runs, Tile.open', h.idle, e1]
  simp only [List.isEmpty_nil, Bool.true_or, Bool.not_true, Bool.or_self, if_false, Bool.false_eq_true]
  unfold State.begin
  rw [if_neg e2]
  simp [State.tile_spend, h.aligned, h.word]

theorem Ready.acting {s : State} {t : Nat} {d : Option SisRow} {u : Upset} {row : SisRow} (h : Ready s t d row u) (k : Nat) :
    Ready (s.acting k) t d row u := ⟨h.runs, h.aligned, h.word, h.idle, h.tokens, h.calm⟩

/-- Where the instruction is ready and reaches nothing beyond the tile, the shared frame is its own effect. -/
theorem State.sis_ready {s : State} {t : Nat} {d : Option SisRow} {u : Upset} {row : SisRow} {w : BitVec 32} {f : State → Flow × State}
    (h : Ready s t d row u) (k : row.reaches = false) : s.sis t w d u row f = State.finish t w (s.tile t).tsu.pc (f (s.spend t row.units)) := by
  unfold State.sis
  rw [if_neg (by simp [h.runs, h.word]), if_neg (by simp [k, h.idle])]
  exact State.sisStep_ready h

theorem State.retry_done {s : State} {u : Nat} {f : State → State} (n : (f (s.acting u)).net.waits = false) :
    s.retry u f = s.acted (f (s.acting u)) := by
  simp [State.retry, n]

/-- One that reaches memory has its effect where it waits for no other device's response. -/
theorem State.sis_reach {s : State} {t : Nat} {d : Option SisRow} {u : Upset} {row : SisRow} {w : BitVec 32} {f : State → Flow × State}
    (h : Ready s t d row u) (k : row.reaches = true) {x : State}
    (e : State.finish t w (s.tile t).tsu.pc (f ((s.acting t).spend t row.units)) = x) (n : x.net.waits = false) :
    s.sis t w d u row f = s.acted x := by
  unfold State.sis
  rw [if_neg (by simp [h.runs, h.word]), if_pos (by simp [k])]
  have z : (s.acting t).sisStep t w d u row f = x := (State.sisStep_ready (h.acting t)).trans e
  rw [State.retry_done (by rw [z]; exact n), z]

theorem State.finish_next {s : State} {t : Nat} {w : BitVec 32} {pc : Word} (r : s.running t = true) :
    State.finish t w pc (.next, s) = s.retire t (pc + (if wMajor w = 0x38 then 8 else 4)) := by simp [State.finish, r]

theorem State.finish_jump {s : State} {t : Nat} {w : BitVec 32} {pc p : Word} (r : s.running t = true) :
    State.finish t w pc (.jump p, s) = s.retire t p := by simp [State.finish, r]

theorem State.finish_trap {s : State} {t : Nat} {w : BitVec 32} {pc : Word} {c : Nat} {v : Word} (r : s.running t = true) :
    State.finish t w pc (.trap c v, s) = s.trapT t c v := by simp [State.finish, r]

/-- An effect that ends the pass or stops the tile leaves its state as it is. -/
theorem State.finish_done {s : State} {t : Nat} {w : BitVec 32} {pc : Word} {c : Flow} (r : c = .done ∨ s.running t = false) :
    State.finish t w pc (c, s) = s := by
  rcases r with rfl | r
  · simp [State.finish]
  · simp [State.finish, r]

/-- An instruction that only changes the scalar unit falls through. -/
theorem State.sisReg_ready {s : State} {t : Nat} {w : BitVec 32} {u : Upset} {row : SisRow} {f : Tsu → Tsu}
    (h : Ready s t (wordRow w) row u) (k : row.reaches = false) :
    s.sisReg t w u row f = ((s.spend t row.units).updTsu t f).retire t ((s.tile t).tsu.pc + 4) := by
  unfold State.sisReg State.sis1
  rw [show sisRow w (fun _ => none) = wordRow w from rfl, State.sis_ready h k, State.finish_next]
  · simp [major_of_wordRow h.word]
  · rw [State.running_updTsu, State.running_spend, h.runs]

/-- Retiring alone changes no register. -/
theorem stepsTo_retire (s : State) (t : Nat) (row : SisRow) (p : Word) (q : row.queued = false) :
    StepsTo s ((s.spend t row.units).retire t p) t row p ∧
    (((s.spend t row.units).retire t p).tile t).tsu.x = (s.tile t).tsu.x ∧
    (((s.spend t row.units).retire t p).tile t).tsu.tip = (s.tile t).tsu.tip := by
  have e := State.tile_retire (s.spend t row.units) t p
  rw [State.tile_spend] at e
  refine ⟨⟨(onlyTile_spend _ _ _).trans (onlyTile_retire _ _ _), ?_⟩, by rw [e], by rw [e]⟩
  rw [State.lvu, State.lvu, e]
  simp [SisRow.steps, q]

/-- Writing one register and retiring. -/
theorem stepsTo_setX (s : State) (t d : Nat) (v p : Word) (row : SisRow) (q : row.queued = false) :
    let s' := ((s.spend t row.units).setX t d v).retire t p
    StepsTo s s' t row p ∧ XWrite s s' t d v ∧ (s'.tile t).tsu.tip = (s.tile t).tsu.tip := by
  intro s'
  have e : s'.tile t = { s.tile t with
      tokens := spendTokens (s.tile t).tokens row.units,
      tsu := { (s.tile t).tsu.setX d v with pc := p, retired := (s.tile t).tsu.retired + 1 } } := by
    simp only [s', State.retire, State.updTsu, State.setX, State.spend, State.tile_updTile_self]
    unfold Tsu.setX
    split <;> rfl
  refine ⟨⟨((onlyTile_spend _ _ _).trans (onlyTile_updTile _ _ _)).trans (onlyTile_updTile _ _ _), ?_⟩, ?_, ?_⟩
  · rw [State.lvu, State.lvu, e]
    unfold Tsu.setX
    simp only [SisRow.steps, q]
    split <;> simp
  · intro k
    simp only [State.xr, e]
    exact Tsu.xr_setX _ _ _ _
  · rw [e]
    unfold Tsu.setX
    split <;> rfl

/-- A trap with a handler in place enters it (R105, R106). -/
theorem State.trapT_handler {s : State} {t c : Nat} {v : Word} (h : (s.tile t).tsu.tvec ≠ 0) (k : (s.tile t).tsu.tip = false) :
    s.trapT t c v = s.updTsu t (fun u => { u with epc := u.pc, cause := BitVec.ofNat 8 c, tval := v, tip := true, pc := u.tvec }) := by
  unfold State.trapT
  exact if_neg (by rw [k]; simpa using h)

/-- A trap without a handler ends the pass (R107). -/
theorem State.trapT_ends {s : State} {t c : Nat} {v : Word} (h : (s.tile t).tsu.tvec = 0 ∨ (s.tile t).tsu.tip = true) :
    s.trapT t c v = s.endPassTrap t (causeStatus c false) c 0 := by
  unfold State.trapT
  exact if_pos h

theorem SisRow.calm_audit {row : SisRow} {u : Upset} (h : row.calm u = true) (q : row.queued = true) (k : Nat) : u ≠ .audit k := by
  rintro rfl
  simp [SisRow.calm, q] at h

theorem SisRow.calm_busy {row : SisRow} {u : Upset} (h : row.calm u = true) (q : row.queued = true) : u ≠ .busy := by
  rintro rfl
  simp [SisRow.calm, q] at h

/-- A unit that no audit catches does what the instruction asks and counts its steps. -/
theorem State.unitStep_calm {s : State} {t : Nat} {w ext : BitVec 32} {u : Upset} {row : SisRow} (h : ∀ k, u ≠ .audit k) :
    s.unitStep t w ext u row = (s.unitOp t w ext u row).stepped t row (s.lvuSteps t w row) (s.mxBeats t w ext row) := by
  unfold State.unitStep
  cases u <;> first | rfl | exact absurd rfl (h _)

theorem SisRow.units_queued {row : SisRow} : row.queued = true → row.units = [.tsu] := by
  cases row <;> first | exact fun _ => rfl | exact fun q => absurd q (by decide)

/-- Spending the TSU's token leaves the other units' tokens. -/
theorem State.maySpend_queue {s : State} {t : Nat} {row : SisRow} (q : row.queued = true) (h : s.maySpend t row.steps = true) :
    (s.spend t row.units).maySpend t (unitTokens row) = true := by
  rw [SisRow.steps, SisRow.units_queued q, if_pos q] at h
  rw [SisRow.units_queued q]
  simp only [State.maySpend, Bool.or_eq_true, List.all_append, Bool.and_eq_true, State.tile_spend] at *
  rcases h with h | ⟨-, h⟩
  · exact .inl h
  · right
    unfold unitTokens at *
    cases e : row.matrix <;> simp [e, spendTokens, SMap.updAll, SMap.upd, SMap.get_put, TileUnit.num] at h ⊢ <;> first | exact of_decide_eq_true h | exact ⟨of_decide_eq_true h.1, of_decide_eq_true h.2⟩

/-- An instruction that issues at once: its unit takes it, and `setvl` writes its scalar result (R91, R92). -/
theorem State.issue_ready {s : State} {t : Nat} {d : Option SisRow} {w ext : BitVec 32} {u : Upset} {row : SisRow}
    (h : Ready s t d row u) (q : row.queued = true) : (s.spend t row.units).issue t w ext u row =
    (let z := ((s.paid t row).unitOp t w ext u row).stepped t row ((s.paid t row).lvuSteps t w row) ((s.paid t row).mxBeats t w ext row)
     if row = .setvl then z.setX t (wRd w) (BitVec.ofNat 64 (setvlLen w (s.xr t (wRa w)))) else z) := by
  have nb : (u != .busy) = true := by simpa using SisRow.calm_busy h.calm q
  unfold State.issue State.paid
  simp only [State.tile_spend, h.idle, nb, State.maySpend_queue q h.tokens, q, List.isEmpty_nil, Bool.and_self, if_true]
  rw [State.unitStep_calm (SisRow.calm_audit h.calm q)]
  simp [State.xr, State.tile_spend]

/-- A vector instruction whose checks at issue pass has its unit's effect at once. -/
theorem State.sisV_ready {s : State} {t : Nat} {w : BitVec 32} {u : Upset} {row : SisRow} (h : Ready s t (wordRow w) row u)
    (k : row.reaches = false) (i : (s.spend t row.units).issueTrap t w 0 row = none)
    (r : ((s.spend t row.units).issue t w 0 u row).running t = true) :
    s.sisV t w u row = ((s.spend t row.units).issue t w 0 u row).retire t ((s.tile t).tsu.pc + 4) := by
  unfold State.sisV State.sisQ
  rw [show sisRow w (fun _ => none) = wordRow w from rfl, State.sis_ready h k, i, State.finish_next r]
  simp [major_of_wordRow h.word]

/-- The rows of the matrix group come only from its own major opcode (R85, R140). -/
def matrixRows : List SisRow := [.mxLdw, .mxRun, .mxDrain, .mxZero, .mxSwap]

theorem ite_ne {α : Type} {c : Prop} [Decidable c] {a b x : α} (h : a ≠ x) (k : b ≠ x) : (if c then a else b) ≠ x := by
  split <;> assumption

theorem rowIf_ne {b : Bool} {r x : SisRow} (h : r ≠ x) : rowIf b r ≠ some x := by
  unfold rowIf
  split <;> simp [h]

theorem scalarRow_matrix {w : BitVec 32} {row : SisRow} (hm : row ∈ matrixRows) : scalarRow w ≠ some row := by
  have ne : ∀ r : SisRow, r ∉ matrixRows → r ≠ row := fun r h e => h (e ▸ hm)
  have so : ∀ r : SisRow, r ∉ matrixRows → some r ≠ some row := fun r h e => ne r h (Option.some.inj e)
  unfold scalarRow
  dsimp only
  repeat' first
    | apply ite_ne
    | exact rowIf_ne (ne _ (by decide))
    | exact so _ (by decide)
    | exact (Option.some_ne_none _).symm
    | split

theorem vectorRow_matrix {w : BitVec 32} {row : SisRow} (hm : row ∈ matrixRows) : vectorRow w ≠ some row := by
  have ne : ∀ r : SisRow, r ∉ matrixRows → r ≠ row := fun r h e => h (e ▸ hm)
  have so : ∀ r : SisRow, r ∉ matrixRows → some r ≠ some row := fun r h e => ne r h (Option.some.inj e)
  unfold vectorRow vecMemRow
  dsimp only
  repeat' first
    | apply ite_ne
    | exact rowIf_ne (ne _ (by decide))
    | exact so _ (by decide)
    | exact (Option.some_ne_none _).symm
    | split

theorem major_of_pairRow {w ext : BitVec 32} {row : SisRow} (h : pairRow w ext = some row) (hm : row ∈ matrixRows) : wMajor w = 0x38 := by
  unfold pairRow sisRow at h
  split at h
  · exact absurd h (vectorRow_matrix hm)
  · split at h
    · assumption
    · exact absurd h (scalarRow_matrix hm)

/-- A matrix instruction whose checks at issue pass and whose tile goes on retires both its words. -/
theorem State.sisM_ready {s : State} {t : Nat} {w ext : BitVec 32} {u : Upset} {row : SisRow} (h : Ready s t (pairRow w ext) row u)
    (hm : row ∈ matrixRows) (i : (s.spend t row.units).issueTrap t w ext row = none)
    (r : ((s.spend t row.units).issue t w ext u row).running t = true) :
    s.sisM t w ext u row = ((s.spend t row.units).issue t w ext u row).retire t ((s.tile t).tsu.pc + 8) := by
  have k : row.reaches = false := by
    fin_cases hm <;> rfl
  unfold State.sisM State.sisQ
  rw [show sisRow w (fun w => matrixRow w ext) = pairRow w ext from rfl, State.sis_ready h k, i, State.finish_next r]
  simp [major_of_pairRow h.word hm]

/-- One whose pass ends or whose tile stops leaves its state as it is. -/
theorem State.sisM_done {s : State} {t : Nat} {w ext : BitVec 32} {u : Upset} {row : SisRow} (h : Ready s t (pairRow w ext) row u)
    (hm : row ∈ matrixRows) (i : (s.spend t row.units).issueTrap t w ext row = none)
    (r : ((s.spend t row.units).issue t w ext u row).running t = false) :
    s.sisM t w ext u row = (s.spend t row.units).issue t w ext u row := by
  have k : row.reaches = false := by
    fin_cases hm <;> rfl
  unfold State.sisM State.sisQ
  rw [show sisRow w (fun w => matrixRow w ext) = pairRow w ext from rfl, State.sis_ready h k, i, State.finish_done (.inr r)]

/-- Every instruction of the table runs in the one frame that checks the pass, the PC, the word and the checkers first. -/
theorem exec_sisInstrs (s : State) {t : TileId} {w ext : BitVec 32} {u : Upset} {e : Instr × SisRow × Option SisRow}
    (he : e ∈ sisInstrs t w ext u) : ∃ f, exec e.1 s = .next (s.sis t w e.2.2 u e.2.1 f) := by
  revert e he
  suffices h : ∀ e ∈ sisInstrs t w ext u, ∃ f, exec e.1 s = .next (s.sis t w e.2.2 u e.2.1 f) from fun {e} => h e
  simp only [sisInstrs, List.map_cons, List.map_nil, List.cons_append, List.nil_append, List.forall_mem_cons]
  repeat' apply And.intro
  all_goals first | exact ⟨_, rfl⟩ | exact fun _ h => nomatch h

end Sys2Proof.Machine
end

