-- ==== Sys2Proof/Laws/Vector.lean ====
section
/-!
SUPPORT. What writing a vector register leaves in its elements, and a mask register in its bits (R116).
-/

namespace Sys2Proof.Machine

/-- Digit i of joined digits. -/
theorem joinW_digit (w : Nat) (l : List Nat) (i : Nat) : joinW w l / 2 ^ (i * w) % 2 ^ w = l.getD i 0 % 2 ^ w := by
  induction l generalizing i with
  | nil => simp [joinW]
  | cons x t ih =>
    cases i with
    | zero => simp [joinW]
    | succ i =>
      have e : 2 ^ ((i + 1) * w) = 2 ^ w * 2 ^ (i * w) := by rw [Nat.succ_mul, Nat.add_comm, Nat.pow_add]
      rw [joinW, e, ← Nat.div_div_eq_div_mul, Nat.add_mul_div_left _ _ (Nat.two_pow_pos w),
        Nat.div_eq_of_lt (Nat.mod_lt _ (Nat.two_pow_pos w)), Nat.zero_add, ih]
      simp

theorem joinW_lt (w : Nat) (l : List Nat) : joinW w l < 2 ^ (l.length * w) := by
  induction l with
  | nil => simp [joinW]
  | cons x t ih =>
    have e : 2 ^ ((t.length + 1) * w) = 2 ^ w * 2 ^ (t.length * w) := by rw [Nat.succ_mul, Nat.add_comm, Nat.pow_add]
    have h := Nat.mod_lt x (Nat.two_pow_pos w)
    rw [joinW, List.length_cons, e]
    calc x % 2 ^ w + 2 ^ w * joinW w t < 2 ^ w + 2 ^ w * joinW w t := by omega
      _ = 2 ^ w * (joinW w t + 1) := by rw [Nat.mul_add, Nat.mul_one, Nat.add_comm]
      _ ≤ 2 ^ w * 2 ^ (t.length * w) := Nat.mul_le_mul_left _ ih

/-- Digit i of a number whose low digits are replaced by joined ones. -/
theorem digit_replaced (w : Nat) (l : List Nat) (old i : Nat) :
    (joinW w l + old >>> (l.length * w) <<< (l.length * w)) / 2 ^ (i * w) % 2 ^ w =
      if i < l.length then l.getD i 0 % 2 ^ w else old / 2 ^ (i * w) % 2 ^ w := by
  rw [Nat.shiftRight_eq_div_pow, Nat.shiftLeft_eq]
  split
  · rename_i h
    obtain ⟨k, hk⟩ : ∃ k, l.length = i + 1 + k := ⟨l.length - (i + 1), by omega⟩
    have e : 2 ^ (l.length * w) = 2 ^ (i * w) * (2 ^ w * 2 ^ (k * w)) := by
      rw [hk, Nat.add_mul, Nat.succ_mul, Nat.pow_add, Nat.pow_add, Nat.mul_assoc]
    rw [← joinW_digit]
    conv => lhs; rw [e]
    rw [show old / (2 ^ (i * w) * (2 ^ w * 2 ^ (k * w))) * (2 ^ (i * w) * (2 ^ w * 2 ^ (k * w))) =
      2 ^ (i * w) * (2 ^ w * (2 ^ (k * w) * (old / (2 ^ (i * w) * (2 ^ w * 2 ^ (k * w)))))) by ac_rfl,
      Nat.add_mul_div_left _ _ (Nat.two_pow_pos _), Nat.add_mul_mod_self_left]
  · rename_i h
    obtain ⟨k, hk⟩ : ∃ k, i = l.length + k := ⟨i - l.length, by omega⟩
    have e : 2 ^ (i * w) = 2 ^ (l.length * w) * 2 ^ (k * w) := by rw [hk, Nat.add_mul, Nat.pow_add]
    rw [e, ← Nat.div_div_eq_div_mul, Nat.add_mul_div_right _ _ (Nat.two_pow_pos _), Nat.div_eq_of_lt (joinW_lt w l), Nat.zero_add,
      Nat.div_div_eq_div_mul]

theorem getD_of_lt {α : Type} {l : List α} {i : Nat} (d : α) (h : i < l.length) : l.getD i d = l[i] := by
  simp [List.getD, h]

/-- The element width divides the register (R112). -/
theorem Lvu.max_mul (u : Lvu) : u.max * u.w = 16384 := by
  unfold Lvu.max Lvu.w
  generalize u.sew = s
  revert s
  decide

/-- A field of a number cut to a width that holds the field. -/
theorem fld_ofNat {n : Nat} (x lo len : Nat) (h : lo + len ≤ n) : fld (BitVec.ofNat n x) lo len = x / 2 ^ lo % 2 ^ len := by
  unfold fld
  rw [BitVec.toNat_ofNat, ← Nat.shiftRight_eq_div_pow]
  apply Nat.eq_of_testBit_eq
  intro j
  simp only [Nat.testBit_mod_two_pow, Nat.testBit_shiftRight]
  by_cases hj : j < len
  · have : lo + j < n := by omega
    simp [hj, this]
  · simp [hj]

/-- Writing a register changes the elements below VL under the mask, and no other (R116). -/
theorem Lvu.el_write (u : Lvu) (vd : Nat) (mz : Bool) (rs : List (Option Nat)) {i : Nat} (h : i < u.max) : (u.write vd mz rs).el vd i =
    if i < rs.length then (match rs.getD i none with
      | some v => v % 2 ^ u.w
      | none => if mz then 0 else u.el vd i)
    else u.el vd i := by
  have m := u.max_mul
  have b : i * u.w + u.w ≤ 16384 := by
    rw [← m, ← Nat.succ_mul]
    exact Nat.mul_le_mul_right _ h
  have small : u.el vd i < 2 ^ u.w := Nat.mod_lt _ (Nat.two_pow_pos _)
  show fld (SMap.get 0 (SMap.put 0 u.v vd _) vd) (i * u.w) u.w = _
  rw [SMap.get_put_self, fld_ofNat _ _ _ b]
  have e := digit_replaced u.w (rs.mapIdx (fun i r => match r with
    | some v => v
    | none => if mz then 0 else u.el vd i)) (SMap.get 0 u.v vd).toNat i
  rw [List.length_mapIdx] at e
  refine e.trans ?_
  split
  · rename_i k
    rw [getD_of_lt _ (by simpa using k), getD_of_lt _ k, List.getElem_mapIdx]
    cases rs[i] with
    | some v => rfl
    | none => cases mz <;> simp [Nat.mod_eq_of_lt small]
  · unfold Lvu.el fld
    rw [Nat.shiftRight_eq_div_pow]

/-- A register that is not written keeps its elements. -/
theorem Lvu.get_write (u : Lvu) (vd : Nat) (mz : Bool) (rs : List (Option Nat)) {r : Nat} (h : r ≠ vd) :
    SMap.get 0 (u.write vd mz rs).v r = SMap.get 0 u.v r := by
  simp [Lvu.write, SMap.get_put, h]

/-- Writing a mask register changes the bits below VL under the mask, and no other (R116). -/
theorem Lvu.kbit_writeK (u : Lvu) (kd : Nat) (mz : Bool) (rs : List (Option Bool)) {i : Nat} (h : i < 2048) : (u.writeK kd mz rs).kbit kd i =
    if i < rs.length then (match rs.getD i none with
      | some v => v
      | none => if mz then false else u.kbit kd i)
    else u.kbit kd i := by
  have one : ∀ (x : BitVec 2048) (j : Nat), x.getLsbD j = decide (fld x j 1 = 1) := by
    intro x j
    unfold fld
    rw [BitVec.getLsbD, Nat.testBit, Nat.one_and_eq_mod_two]
    rcases Nat.mod_two_eq_zero_or_one (x.toNat >>> j) with h | h <;> simp [h]
  show (SMap.get 0 (SMap.put 0 u.k kd _) kd).getLsbD i = _
  rw [SMap.get_put_self, one, fld_ofNat _ _ _ (by omega)]
  have e := digit_replaced 1 (rs.mapIdx (fun i r => match r with
    | some v => b2n v
    | none => if mz then 0 else b2n (u.kbit kd i))) (SMap.get 0 u.k kd).toNat i
  rw [List.length_mapIdx] at e
  simp only [Nat.mul_one] at e
  refine (congrArg (fun x => decide (x = 1)) e).trans ?_
  split
  · rename_i k
    rw [getD_of_lt _ (by simpa using k), getD_of_lt _ k, List.getElem_mapIdx]
    cases rs[i] with
    | some v => cases v <;> rfl
    | none =>
      cases mz
      · cases hk : u.kbit kd i <;> simp [b2n]
      · rfl
  · unfold Lvu.kbit
    rw [one]
    unfold fld
    rw [Nat.shiftRight_eq_div_pow]

end Sys2Proof.Machine
end

