-- ==== Sys2Proof/Laws/Velna.lean ====
section
/-!
SUPPORT. What serving a held Velna command does: its own effect where every check passes (Safety.Takes), else one answer.
-/

namespace Sys2Proof.Machine

theorem State.serve_takes {s : State} {m : MbxId} {tag : BitVec 16} {op : Nat} {chk : List Byte → Option Status} {h : Held}
    (t : Takes s m tag op chk h) (run : Held → State → State) : s.serve m tag op chk run = run h s := by
  unfold State.serve
  rw [t.held]
  simp [t.checked, t.allowed]

theorem State.serve_checked {s : State} {m : MbxId} {tag : BitVec 16} {op : Nat} {chk : List Byte → Option Status} {h : Held} {st : Status}
    (k : (s.box m).held.find? (fun x => x.tag == tag && x.opcode == op && !x.served) = some h) (c : chk h.payload = some st)
    (run : Held → State → State) : s.serve m tag op chk run = s.answer m h st [] := by
  unfold State.serve
  rw [k]
  simp [c]

theorem State.serve_gated {s : State} {m : MbxId} {tag : BitVec 16} {op : Nat} {chk : List Byte → Option Status} {h : Held} {st : Status}
    (k : (s.box m).held.find? (fun x => x.tag == tag && x.opcode == op && !x.served) = some h) (c : chk h.payload = none)
    (g : s.gate m h = some st) (run : Held → State → State) : s.serve m tag op chk run = s.answer m h st [] := by
  unfold State.serve
  rw [k]
  simp [c, g]

theorem State.serve_absent {s : State} {m : MbxId} {tag : BitVec 16} {op : Nat} {chk : List Byte → Option Status}
    (k : (s.box m).held.find? (fun x => x.tag == tag && x.opcode == op && !x.served) = none) (run : Held → State → State) :
    s.serve m tag op chk run = s := by
  unfold State.serve
  rw [k]

end Sys2Proof.Machine
end

