-- ==== Sys2Proof/Tests/Slice0.lean ====
section
/-!
SUPPORT. Tests of the model: an ill-formed operand for each check of WellFormed.lean; words of the tile's instructions written out from the
encodings of 04, 05 and 06; effects with values worked out by hand from the rules; and, for each statement with hypotheses, a state and
operands that meet them.
-/

namespace Sys2Proof.Tests

open Sys2Proof.Machine

-- The kernel evaluates many of these tests for seconds, so they run one after another: each that waited would hold a thread and its stack.
set_option Elab.async false

/-! Ill-formed operands, one for each check. -/

theorem test_wf_link_width : (Instr.hostLinkUp (some 3) .gt64).wf = false ∧ (Instr.hostLinkUp (some 16) .gt64).wf = true := by decide
theorem test_wf_no_start_test : (Instr.entropyStartup [] []).wf = false := by decide
theorem test_wf_five_start_tests : (Instr.entropyStartup [0, 0, 0, 0, 0] []).wf = false := by decide
theorem test_wf_three_start_windows : (Instr.entropyStartup [0] [0, 0, 0]).wf = false ∧ (Instr.entropyStartup [0] [0, 0]).wf = true := by decide
theorem test_wf_die_twice : (Instr.hbmTraining [(1, 2), (1, 2)]).wf = false ∧ (Instr.hbmTraining [(1, 2), (2, 2)]).wf = true := by decide
theorem test_wf_monitor_twice : (Instr.paceWindowEnd [⟨5, 0, 0, 0⟩, ⟨5, 1, 0, 0⟩]).wf = false := by decide
theorem test_wf_controller_twice : (Instr.hbmTempRead [(3, 40), (3, 41)]).wf = false := by decide
theorem test_wf_partition_twice : (Instr.admissionWindow [(9, 0), (9, 1)]).wf = false := by decide
theorem test_wf_packet_crosses_line : (Instr.fabricPacketArrive ⟨0, 0, 0, true, 120, .read 9⟩).wf = false ∧
    (Instr.fabricPacketArrive ⟨0, 0, 0, true, 120, .read 8⟩).wf = true := by decide
theorem test_wf_packet_atomic_misaligned : (Instr.fabricPacketArrive ⟨0, 0, 0, true, 4, .atomic 1 0 0⟩).wf = false := by decide
theorem test_wf_ats_part_of_page : (Instr.atsInvalidation 0 0 2048).wf = false ∧ (Instr.atsInvalidation 0 0x1000 4096).wf = true := by decide
theorem test_wf_chain_nine_rows : (Instr.chainPacketReceive 0 ⟨0, 0, 64, 0, 0, List.replicate 9 0⟩ true).wf = false := by decide
theorem test_wf_chain_past_end : (Instr.chainDoneReceive 0 ⟨0, 0, 4, 0, 4, [0]⟩).wf = false := by decide
theorem test_wf_tlp_crosses_page : (Instr.pfBar2Access 0xFFF (.read 2)).wf = false := by decide
theorem test_wf_tlp_atomic : (Instr.vfBar2Access 0 0 (.atomic 1 0 0) false).wf = false := by decide
theorem test_wf_register_part : (Instr.registerWrite (.pfBar0 0) [1, 2, 3]).wf = false ∧ (Instr.registerWrite (.pfBar0 0) []).wf = false := by decide
theorem test_wf_spdm_slot : (Instr.getCertificate 0 8 0 0).wf = false ∧ (Instr.challenge 0 8 0).wf = false := by decide
theorem test_wf_measurement_block : (Instr.getMeasurements 0 256 false 0).wf = false := by decide

/-! The table gives no row any bits, so no word spells a command. -/

theorem test_no_table_word : decodeTableWord 32 0 = none ∧ State.reset.withFetchWord 32 5 = State.reset := by decide

/-! Words of the tile's instructions, field by field: `MAJOR` [31:26], `RD` [25:21], `RA` [20:16], `RB` [15:11], `RC` [10:6], `FN` [5:0]. -/

/-- A format A word from its fields (R85). -/
def wordA (major rd ra rb rc fn : Nat) : BitVec 32 :=
  BitVec.ofNat 32 (major * 2 ^ 26 + rd * 2 ^ 21 + ra * 2 ^ 16 + rb * 2 ^ 11 + rc * 2 ^ 6 + fn)

/-- A format I word from its fields (R85). -/
def wordI (major rd ra imm : Nat) : BitVec 32 := BitVec.ofNat 32 (major * 2 ^ 26 + rd * 2 ^ 21 + ra * 2 ^ 16 + imm)

theorem test_words_scalar :
    [wordA 0x01 3 1 2 0 0x00, wordI 0x02 3 1 5, wordI 0x06 3 1 0x47, wordI 0x08 3 0 1, wordI 0x09 3 0 1, wordA 0x0A 3 1 2 0 4,
      wordI 0x16 3 1 8, wordI 0x1B 3 1 8, wordA 0x1F 3 1 2 0 3, wordI 0x20 1 2 0x2001, wordI 0x21 1 0 2, wordI 0x22 1 2 4,
      wordI 0x26 0 0 0].map wordRow =
    [some .integerAlu, some .aluImmediate, some .shiftImmediate, some .movhi, some .pcrel, some .multiplyDivide, some .load, some .store,
      some .atomic, some .branch, some .jl, some .jlr, some .fpArithmetic] := by decide

theorem test_words_system :
    [wordA 0x23 0 0 0 5 1, wordA 0x23 0 0 0 0 2, wordA 0x23 4 0 0 0 3, wordA 0x23 0 4 0 0 4, wordA 0x23 0 0 0 0 5, wordI 0x24 3 0 0x0005,
      wordI 0x24 3 0 0x1005, wordA 0x25 0 1 2 0 1, wordA 0x25 0 1 2 0 2, wordA 0x25 0 0 0 0 3, wordA 0x25 0 0 0 0 4, wordA 0x25 0 1 2 0 8,
      wordA 0x25 0 1 2 0 9, wordA 0x25 0 1 2 0 10, wordA 0x25 0 1 2 0 11, wordA 0x25 0 1 2 0 12, wordA 0x25 0 0 0 0 13].map wordRow =
    [some .trap, some .tret, some .rdtime, some .pdone, some .brk, some .tcrr, some .tcrw, some .fenceRel, some .fenceAcq, some .fenceRelAll,
      some .fenceAcqAll, some .cpf, some .cwb, some .cwbi, some .czero, some .iinv, some .iinvAll] := by decide

theorem test_words_float : [wordA 0x26 3 1 2 0 7, wordA 0x26 3 1 0 0 0x2D, wordA 0x27 3 1 2 4 0, wordA 0x28 3 1 0 0 2].map wordRow =
    [some .fpSign, some .fkind, some .fpFused, some .fpConversion] := by decide

theorem test_words_vector_memory :
    [wordA 0x31 3 1 0 0 0x02, wordA 0x31 3 1 0 0 0x06, wordA 0x31 3 1 0 0 0x0A, wordA 0x31 3 1 2 0 0x0E, wordA 0x32 3 1 0 0 0x02,
      wordA 0x32 3 1 0 0 0x06, wordA 0x32 3 1 2 0 0x0E, wordA 0x35 3 1 0 0 0x10].map wordRow =
    [some .vld, some .vldu, some .vldFf, some .vlx, some .vst, some .vstu, some .vsx, some .vlmVsm] := by decide

theorem test_words_vector :
    [wordA 0x30 3 1 0 0 2, wordA 0x30 3 0 0 0 0x20, wordA 0x33 3 1 2 0 0, wordA 0x33 3 1 2 16 0x0F, wordA 0x33 3 1 2 0 0x10,
      wordA 0x34 3 1 2 0 2, wordA 0x34 3 1 0 0 0x10, wordA 0x34 3 1 0 0 0x38, wordA 0x34 3 1 0 0 0x1E, wordA 0x35 3 1 2 0 0,
      wordA 0x35 3 1 0 0 8, wordA 0x36 3 1 0 0 0, wordA 0x36 3 1 2 0 0x10, wordA 0x36 3 1 2 0 0x16, wordA 0x37 3 1 2 0 1,
      wordA 0x37 3 1 2 0 8, wordA 0x37 3 0 2 0 0x10].map wordRow =
    [some .setvl, some .vgetvl, some .vectorInteger, some .vmerge, some .vectorCompare, some .vectorFloat, some .vfcvtFrom, some .vfcvtTo,
      some .vfcvtInteger, some .maskLogic, some .kpopcKfirst, some .vectorReduction, some .vectorScalarMove, some .vectorPermutation,
      some .vxDeal, some .vxCombinePut, some .vxCombineSum] := by decide

theorem test_words_matrix :
    [(wordA 0x38 1 2 3 0 0, (0x2 : BitVec 32)), (wordA 0x38 1 2 3 1 0, 0x12), (wordA 0x38 1 2 0 2 0, 0x9), (wordA 0x38 0 2 3 3 0, 0),
      (wordA 0x38 0 0 0 4 0, 0), (wordA 0x38 0 0 0 5 0, 0), (wordA 0x38 1 2 3 0 0, 0xB)].map (fun p => pairRow p.1 p.2) =
    [some .mxLdw, some .mxRun, some .mxDrain, some .mxZero, some .mxSwap, none, none] := by decide

/-- The all-zero word, a reserved major opcode and a used field that must be zero are illegal (R86). -/
theorem test_words_illegal : [(0 : BitVec 32), wordI 0x0B 0 0 0, wordA 0x01 3 1 2 1 0, wordI 0x06 3 1 0x100, wordA 0x31 2 1 2 0 0x0E].map wordRow =
    [none, none, none, none, none] := by decide

/-! Small states: tile 0 of partition 0 runs a pass at PC 0x1000. Its root maps three pages of 512 MiB: the tile's own Local Store, space 3, which
does not exist, and HBM that it owns. -/

/-- The tables of that root in HBM (R226, R227): at 0x40000000 a pointer to 0x40010000, and there the leaves of the three pages. -/
def tables0 : List Host.Cell := [(0x40000000, 1), (0x40000002, 1), (0x40000003, 0x40), (0x40010000, 0x1F), (0x40010005, 0x10), (0x40010008, 0x1F),
  (0x4001000D, 0x30), (0x40010010, 0x1F)]

/-- Partition 0 with tile 0 and its root. -/
def part0 : Part := {
  entry := { valid := true, tiles := 1, chainQuota := 4, regionQuota := 4,
             ext := [(0, 0x100000), (0, 0), (0, 0), (0, 0)] }
  root := 0x40000001, ptArea := some 0x40000000 }

/-- The pass. -/
def run0 : PassCtx := { ix := 0, rank := 0, rootId := 0, flush := 0, seed := none, base := 0 }

/-- The tile with given scalar and vector units. -/
def tile0 (r : Tsu) (v : Lvu) : Tile := { tsu := { r with pc := 0x1000 }, lvu := v, run := some run0 }

/-- Tile 0 running in a device whose mailboxes are open. -/
def running (r : Tsu) (v : Lvu) : State := { State.reset with
  mem := tables0, tiles := [(0, tile0 r v)], parts := [(0, part0)], boot := { state := .ready, floor := 2, opened := true } }

/-- X1 = `a` and X2 = `b`. -/
def regs (a b : Word) : Tsu := { x := [(1, a), (2, b)] }

/-- The state an outcome goes on with. -/
def nextOf : Host.Outcome State Fault Refusal → State
  | .next s => s
  | _ => State.reset

theorem test_add_wraps : (nextOf (exec (.integerAlu 0 (wordA 0x01 3 1 2 0 0) .none) (running (regs (BitVec.allOnes 64) 2) {}))).xr 0 3 = 1 := by
  decide

theorem test_add_drops_x0 : (nextOf (exec (.integerAlu 0 (wordA 0x01 0 1 2 0 0) .none) (running (regs 5 2) {}))).xr 0 0 = 0 := by decide

theorem test_sra_keeps_sign : (nextOf (exec (.integerAlu 0 (wordA 0x01 3 1 2 0 7) .none) (running (regs 0x8000000000000000 63) {}))).xr 0 3 =
    BitVec.allOnes 64 := by decide

theorem test_addi_negative : (nextOf (exec (.aluImmediate 0 (wordI 0x02 3 1 0xFFFF) .none) (running (regs 0 0) {}))).xr 0 3 =
    BitVec.allOnes 64 := by decide

theorem test_rori : (nextOf (exec (.shiftImmediate 0 (wordI 0x06 3 1 0xC1) .none) (running (regs 1 0) {}))).xr 0 3 = 0x8000000000000000 := by
  decide

theorem test_movhi : (nextOf (exec (.movhi 0 (wordI 0x08 3 0x1F 0xFFFF) .none) (running (regs 0 0) {}))).xr 0 3 = 0xFFFFFFFFFFFF0000 := by decide

theorem test_pcrel : (nextOf (exec (.pcrel 0 (wordI 0x09 3 0 1) .none) (running (regs 0 0) {}))).xr 0 3 = 0x11000 := by decide

theorem test_mulh : (nextOf (exec (.multiplyDivide 0 (wordA 0x0A 3 1 2 0 1) .none) (running (regs (BitVec.allOnes 64) 2) {}))).xr 0 3 =
    BitVec.allOnes 64 := by decide

theorem test_div_by_zero : (nextOf (exec (.multiplyDivide 0 (wordA 0x0A 3 1 2 0 4) .none) (running (regs 7 0) {}))).xr 0 3 =
    BitVec.allOnes 64 := by decide

/-- `beq X1, X2, −1` word taken: from 0x1000 to 0xFFC. -/
theorem test_branch_back : ((nextOf (exec (.branch 0 (wordI 0x20 1 2 0x1FFF) .none) (running (regs 5 5) {}))).tile 0).tsu.pc = 0xFFC := by decide

theorem test_jlr_clears_low_bits : ((nextOf (exec (.jlr 0 (wordI 0x22 3 1 7) .none) (running (regs 0x2000 0) {}))).tile 0).tsu.pc = 0x2004 := by decide

theorem test_trap_enters_handler : let u := ((nextOf (exec (.trap 0 (wordA 0x23 0 0 0 5 1) .none) (running { (regs 0 0) with tvec := 0x400 } {}))).tile 0).tsu
    u.pc = 0x400 ∧ u.epc = 0x1000 ∧ u.cause = 0x07 ∧ u.tval = 5 ∧ u.tip = true := by decide

theorem test_tret : let u := ((nextOf (exec (.tret 0 (wordA 0x23 0 0 0 0 2) .none) (running { (regs 0 0) with epc := 0x500, tip := true } {}))).tile 0).tsu
    u.pc = 0x500 ∧ u.tip = false := by decide

/-- 1.0 + 2^−53 in binary64 rounds to even and raises `NX` alone. -/
theorem test_fadd_inexact :
    let s := nextOf (exec (.fpArithmetic 0 (wordA 0x26 3 1 2 0 0) .none) (running { f := [(1, 0x3FF0000000000000), (2, 0x3CA0000000000000)] } {}))
    s.fr 0 3 = 0x3FF0000000000000 ∧ (s.tile 0).tsu.fflags = 0x10 := by decide +kernel

/-- 1.0 / 0 is infinite and raises `DZ` alone. -/
theorem test_fdiv_by_zero :
    let s := nextOf (exec (.fpArithmetic 0 (wordA 0x26 3 1 2 0 3) .none) (running { f := [(1, 0x3FF0000000000000)] } {}))
    s.fr 0 3 = 0x7FF0000000000000 ∧ (s.tile 0).tsu.fflags = 0x02 := by decide +kernel

/-- CRC-32 of "123456789" (R295). -/
theorem test_crc32 : crc32 (ascii "123456789") = 0xCBF43926 := by decide +kernel

/-! Witnesses: for each statement, concrete states and operands that meet the hypotheses of its clauses. -/

/-- The tile steps without tokens: its partition is not pace-locked, and nothing throttles it. -/
theorem running_maySpend (r : Tsu) (v : Lvu) (us : List TileUnit) : (running r v).maySpend 0 us = true := by
  have h : (running r v).gated 0 = false := by
    have p : (running r v).part = (running {} {}).part := rfl
    have q : (running r v).plant = (running {} {}).plant := rfl
    simp only [State.gated, State.lockOf, State.tileOwner, p, q]
    decide +kernel
  simp [State.maySpend, h]

/-- An instruction of `row` has its own effect on the running tile. -/
theorem ready_running (r : Tsu) (v : Lvu) (d : Option SisRow) (row : SisRow) (h : d = some row) : Ready (running r v) 0 d row .none :=
  ⟨rfl, by show (0x1000 : Word).toNat % 4 = 0; decide, h, rfl, running_maySpend r v _, rfl⟩

/-- The same for a list of words. -/
theorem ready_words (r : Tsu) (v : Lvu) (l : List (BitVec 32 × SisRow)) (h : ∀ e ∈ l, wordRow e.1 = some e.2) :
    ∀ e ∈ l, Ready (running r v) 0 (wordRow e.1) e.2 .none := fun e he => ready_running r v _ _ (h e he)

theorem witness_StepRunsFront : State.reset.pending = [] := rfl

theorem witness_steps_of_reset : State.reset.Canon ∧ step State.reset = .next { State.reset with now := 1 } ∧
    State.reset.pending.head? ≠ some .coldReset ∧ State.reset.pending.head? ≠ some .lossOfPower :=
  ⟨⟨rfl, rfl, rfl, rfl, rfl, rfl, rfl, rfl, rfl, rfl, by decide⟩, rfl, by decide, by decide⟩

theorem witness_IntegerResult : ∀ e ∈ [(wordA 0x01 3 1 2 0 0, SisRow.integerAlu), (wordI 0x02 3 1 5, .aluImmediate), (wordI 0x06 3 1 4, .shiftImmediate),
    (wordI 0x08 3 0 1, .movhi), (wordI 0x09 3 0 1, .pcrel), (wordA 0x0A 0 1 2 0 4, .multiplyDivide), (wordA 0x26 3 1 0 0 13, .fkind)],
    Ready (running (regs 7 0) {}) 0 (wordRow e.1) e.2 .none := ready_words _ _ _ (by decide)

theorem witness_FloatResult : ∀ e ∈ [(wordA 0x26 3 1 2 0 0, SisRow.fpArithmetic), (wordA 0x26 3 1 2 0 7, .fpSign), (wordA 0x27 3 1 2 4 0, .fpFused),
    (wordA 0x28 3 1 0 0 2, .fpConversion)], Ready (running (regs 7 0) {}) 0 (wordRow e.1) e.2 .none := ready_words _ _ _ (by decide)

theorem witness_ControlTransfer : ∀ e ∈ [(wordI 0x20 1 2 0x1FFF, SisRow.branch), (wordI 0x21 0 0 2, .jl), (wordI 0x22 1 1 4, .jlr),
    (wordA 0x23 0 0 0 0 2, .tret)], Ready (running (regs 7 0) {}) 0 (wordRow e.1) e.2 .none := ready_words _ _ _ (by decide)

/-- With a handler, and without one. -/
theorem witness_SoftwareTrap : (∀ r, Ready (running r {}) 0 (wordRow (wordA 0x23 0 0 0 31 1)) .trap .none) ∧
    (tile0 { tvec := 0x400 } {}).tsu.tvec ≠ 0 ∧ (tile0 { tvec := 0x400 } {}).tsu.tip = false ∧ (tile0 {} {}).tsu.tvec = 0 :=
  ⟨fun r => ready_running r {} _ _ (by decide), by decide⟩

/-- The word 0 does not decode; a PC of 0x1002 is misaligned; a handler stands or not. -/
theorem witness_IllegalWord : (running {} {}).running 0 = true ∧ ((running {} {}).tile 0).queue = [] ∧ (running {} {}).maySpend 0 [.tsu, .l1] = true ∧
    ((running {} {}).tile 0).tsu.pc.toNat % 4 = 0 ∧ wordRow 0 = none ∧ pairRow 0 0 = none ∧ ((running { tvec := 0x400 } {}).tile 0).tsu.tvec ≠ 0 ∧
    ((running {} {}).tile 0).tsu.tvec = 0 ∧
    (let s := (running {} {}).updTsu 0 (fun u => { u with pc := 0x1002 })
     s.running 0 = true ∧ (s.tile 0).queue = [] ∧ s.maySpend 0 [.tsu, .l1] = true ∧ (s.tile 0).tsu.pc.toNat % 4 ≠ 0) := by decide

/-- A twin's mismatch at a load; an audit of step 0 of an addition, one past its last step, one of `mx.run`'s first beat; a flipped bit. -/
theorem witness_CheckerMismatch : (running {} {}).running 0 = true ∧ ((running {} {}).tile 0).queue = [] ∧ (running {} {}).maySpend 0 SisRow.load.units = true ∧
    ((running {} {}).taken 0 .load (fun s => s.tileFatal 0 (mkRec 0x0101 1))).running 0 = false ∧
    (((running {} {}).acting 0).spend 0 SisRow.load.units |>.tileFatal 0 (mkRec 0x0101 1)).net.waits = false ∧
    (let s := running {} { vl := 3, sew := 2 }
     let w := wordA 0x33 3 1 2 0 0
     wordRow w = some .vectorInteger ∧ s.issueTrap 0 w 0 .vectorInteger = none ∧ s.auditAt 0 w 0 .vectorInteger 0 = true ∧
     s.auditAt 0 w 0 .vectorInteger 1 = false ∧
     (s.taken 0 .vectorInteger (fun s => (s.spend 0 [.lvu]).tileFatal 0 (mkRec 0x0102 1))).running 0 = false) ∧
    (let s := running { x := [(2, 1)] } {}
     s.issueTrap 0 (wordA 0x38 1 3 2 1 0) 2 .mxRun = none ∧ s.auditAt 0 (wordA 0x38 1 3 2 1 0) 2 .mxRun 0 = true) ∧
    SisRow.integerAlu.reaches = false ∧ (Upset.flipLs 0 1 0) ≠ .busy := by decide +kernel

/-- `brk` with debug off and on, and `tcrr` of a register that exists. -/
theorem witness_SystemGroup : (∀ e ∈ [(wordA 0x23 4 0 0 0 3, SisRow.rdtime), (wordA 0x23 0 0 0 0 5, .brk), (wordI 0x24 3 0 0x005, .tcrr)],
      Ready (running {} {}) 0 (wordRow e.1) e.2 .none) ∧ (running {} {}).debugOn = false ∧ ((running {} {}).paid 0 .tcrr).tcr 0 5 = some 0 ∧
    ((running {} {}).paid 0 .tcrr).tcr 0 0xFFF = none ∧
    (let s := { running {} {} with cfg := { prot := { debug := 1, authentic := true } } }
     s.running 0 = true ∧ s.debugOn = true) := ⟨ready_words _ _ _ (by decide), by decide⟩

/-- A register that does not exist, a reserved rounding mode, and a good write of each kind. -/
theorem witness_TileControlWrite : (∀ e ∈ [(wordI 0x24 1 0 0x1FFF, SisRow.tcrw), (wordI 0x24 1 0 0x1010, .tcrw), (wordI 0x24 1 0 0x1005, .tcrw)],
      Ready (running (regs 6 0) {}) 0 (wordRow e.1) e.2 .none) ∧ (running (regs 6 0) {}).tcr 0 0xFFF = none ∧
    6 ≤ fld ((running (regs 6 0) {}).xr 0 1) 0 4 ∧ ¬ 6 ≤ fld ((running (regs 5 0) {}).xr 0 1) 0 4 ∧
    (running (regs 5 0) {}).tcr 0 0x010 ≠ none ∧ (running (regs 6 0) {}).tcr 0 0x005 ≠ none := ⟨ready_words _ _ _ (by decide), by decide⟩

theorem witness_PassDone : Ready (running {} {}) 0 (wordRow (wordA 0x23 0 4 0 0 4)) .pdone .none ∧
    (let a := ((running {} {}).reaching 0 .pdone).fenceRel 0 (fun _ => true)
     a.running 0 = true ∧ a.net.waits = false ∧ (a.tile 0).run = some run0) := ⟨ready_running _ _ _ _ (by decide), by decide +kernel⟩

/-- A load from an address: where translation puts it, whether its data comes, and whether the tile goes on and waits for no other device. -/
def accessAt (va : Word) : Option Nat × Bool × Bool :=
  let a := ((running (regs va 0) {}).reaching 0 .load).translateT 0 .load va.toNat
  match a.1 with
  | none => (none, false, a.2.running 0 && !a.2.net.waits)
  | some pa => (some pa, (a.2.loadPa 0 pa 8).1.isSome, (a.2.loadPa 0 pa 8).2.running 0 && !(a.2.loadPa 0 pa 8).2.net.waits)

/-- Misaligned, accepted, refused at its home, and unmapped; a store; an atomic accepted and refused. -/
theorem witness_LoadStoreAtomic : (∀ va, ∀ e ∈ [(wordI 0x16 3 1 0, SisRow.load), (wordI 0x1B 3 1 0, .store), (wordA 0x1F 3 1 2 0 3, .atomic)],
      Ready (running (regs va 0) {}) 0 (wordRow e.1) e.2 .none) ∧ (0x101 : Word).toNat % 8 ≠ 0 ∧
    accessAt 0xFFFFF8 = (some (2 ^ 44 + 0xFFFFF8), true, true) ∧ accessAt 0x20000000 = (some (3 * 2 ^ 44), false, true) ∧
    accessAt 0x60000000 = (none, false, true) ∧
    (let a := ((running (regs 0x100 5) {}).reaching 0 .store).translateT 0 .store 0x100
     let c := a.2.storePa 0 (2 ^ 44 + 0x100) (leBytes 8 5) 0x10 0x1000
     a.1 = some (2 ^ 44 + 0x100) ∧ c.running 0 = true ∧ c.net.waits = false) ∧
    (let a := ((running (regs 0x100 5) {}).reaching 0 .atomic).translateT 0 .atomic 0x100
     let d := a.2.access (a.2.tileTag 0) (2 ^ 44 + 0x100) (.atomic 3 5 0)
     a.1 = some (2 ^ 44 + 0x100) ∧ a.2.uncached 0 (2 ^ 44 + 0x100) = true ∧ a.2.running 0 = true ∧ d.1 = .ok (zeros 8) ∧ d.2.running 0 = true ∧
     d.2.net.waits = false) ∧
    (let a := ((running (regs 0x20000000 5) {}).reaching 0 .atomic).translateT 0 .atomic 0x20000000
     let d := a.2.access (a.2.tileTag 0) (3 * 2 ^ 44) (.atomic 3 5 0)
     d.1 = .refused ∧ d.2.running 0 = true ∧ d.2.net.waits = false) :=
  ⟨fun va => ready_words _ _ _ (by decide), by decide +kernel⟩

/-- Fences and maintenance over a range, `cpf`, and `czero` misaligned, mapped and unmapped. -/
theorem witness_FencesAndCaches : (∀ r, ∀ e ∈ [(wordA 0x25 0 1 2 0 1, SisRow.fenceRel), (wordA 0x25 0 1 2 0 2, .fenceAcq), (wordA 0x25 0 0 0 0 3, .fenceRelAll),
      (wordA 0x25 0 0 0 0 4, .fenceAcqAll), (wordA 0x25 0 1 2 0 8, .cpf), (wordA 0x25 0 1 2 0 9, .cwb), (wordA 0x25 0 1 2 0 10, .cwbi),
      (wordA 0x25 0 1 2 0 11, .czero), (wordA 0x25 0 1 2 0 12, .iinv), (wordA 0x25 0 0 0 0 13, .iinvAll)],
      Ready (running r {}) 0 (wordRow e.1) e.2 .none) ∧
    (∀ e ∈ fenceRows 0 (wordA 0x25 0 1 2 0 1) .none, let s := running (regs 0x40000000 256) {}
      (s.taken 0 e.2.1 e.2.2).running 0 = true ∧ (e.2.2 ((s.acting 0).spend 0 e.2.1.units)).net.waits = false) ∧
    (128 + 64) % 128 ≠ 0 ∧
    (let z := (running (regs 0x40000000 256) {}).reaching 0 .czero
     let r := z.rangeT 0 .store 0x40000000 256
     let a := [(⟨0, 256⟩ : Extent)].foldl (fun s e => s.zeroExtent 0 e) r.2
     r.1 = .inl [⟨0, 256⟩] ∧ a.running 0 = true ∧ a.net.waits = false ∧
     (z.rangeT 0 .store 0x60000000 128).1 = .inr 0x60000000 ∧ (z.rangeT 0 .store 0x60000000 128).2.running 0 = true) :=
  ⟨fun r => ready_words r _ _ (by decide), by decide +kernel⟩

/-- The vector unit with `vl` elements of width code `sew`. -/
def lvu0 (vl : Nat) (sew : BitVec 2) : Lvu := { vl := vl, sew := sew }

/-- The check at issue of the row a word decodes to, at SEW 32. -/
def issuesAt (vl : Nat) (w : BitVec 32) (row : SisRow) : Bool :=
  (elementRows (running {} (lvu0 vl 2)) 0 w .none).any (fun e => decide (e.row = row) && e.issues)

/-- The same for the comparisons. -/
def comparesAt (vl : Nat) (w : BitVec 32) (row : SisRow) : Bool :=
  (compareRows (running {} (lvu0 vl 2)) 0 w .none).any (fun e => decide (e.row = row) && e.issues)

theorem witness_VectorElements : (∀ vl, ∀ e ∈ [(wordA 0x33 3 1 2 0 0, SisRow.vectorInteger), (wordA 0x34 3 1 2 0 2, .vectorFloat), (wordA 0x34 3 1 0 0 0x12, .vfcvtFrom),
      (wordA 0x34 3 1 0 0 0x1A, .vfcvtTo), (wordA 0x34 3 1 0 0 0x1E, .vfcvtInteger), (wordA 0x36 3 1 2 0 0x16, .vectorPermutation)],
      Ready (running {} (lvu0 vl 2)) 0 (wordRow e.1) e.2 .none) ∧
    issuesAt 3 (wordA 0x33 3 1 2 0 0) .vectorInteger = true ∧ issuesAt 3 (wordA 0x34 3 1 2 0 2) .vectorFloat = true ∧
    issuesAt 3 (wordA 0x34 3 1 0 0 0x12) .vfcvtFrom = true ∧ issuesAt 3 (wordA 0x34 3 1 0 0 0x1A) .vfcvtTo = true ∧
    issuesAt 3 (wordA 0x34 3 1 0 0 0x1E) .vfcvtInteger = true ∧ issuesAt 0 (wordA 0x36 3 1 2 0 0x16) .vectorPermutation = true :=
  ⟨fun vl => ready_words _ _ _ (by decide), rfl, rfl, rfl, rfl, rfl, rfl⟩

theorem witness_VectorMasks : (∀ vl, ∀ e ∈ [(wordA 0x33 3 1 2 0 0x10, SisRow.vectorCompare), (wordA 0x34 3 1 2 0 0x0A, .vectorFloat), (wordA 0x33 3 1 2 16 0x0F, .vmerge),
      (wordA 0x36 3 1 0 0 0x17, .vectorPermutation), (wordA 0x35 3 1 2 0 0, .maskLogic)], Ready (running {} (lvu0 vl 2)) 0 (wordRow e.1) e.2 .none) ∧
    comparesAt 3 (wordA 0x33 3 1 2 0 0x10) .vectorCompare = true ∧ comparesAt 0 (wordA 0x34 3 1 2 0 0x0A) .vectorFloat = true ∧
    wFn (wordA 0x36 3 1 0 0 0x17) = 0x17 ∧ (lvu0 3 2).vl ≠ 0 :=
  ⟨fun vl => ready_words _ _ _ (by decide), rfl, rfl, by decide⟩

/-- `vx.get`, `vx.put` and their F forms, inside and outside VLMAX; an integer reduction, and a floating one at SEW 8 and 32. -/
theorem witness_VectorScalars : (∀ r v, ∀ e ∈ [(wordA 0x30 3 1 0 0 2, SisRow.setvl), (wordA 0x30 3 0 0 0 0x20, .vgetvl), (wordA 0x35 3 1 0 0 8, .kpopcKfirst),
      (wordA 0x36 3 1 2 0 0x10, .vectorScalarMove), (wordA 0x36 3 1 2 0 0x11, .vectorScalarMove), (wordA 0x36 3 1 2 0 0x12, .vectorScalarMove),
      (wordA 0x36 3 1 2 0 0x13, .vectorScalarMove), (wordA 0x36 3 1 0 0 8, .vectorReduction), (wordA 0x36 3 1 0 0 0, .vectorReduction)],
      Ready (running r v) 0 (wordRow e.1) e.2 .none) ∧
    ((running (regs 511 0) (lvu0 3 2)).xr 0 1).toNat < (lvu0 3 2).max ∧ (lvu0 3 2).max ≤ ((running (regs 512 0) (lvu0 3 2)).xr 0 1).toNat ∧
    (lvu0 3 2).vl ≠ 0 ∧ (lvu0 0 0).sew = 0 ∧ (lvu0 3 2).sew ≠ 0 ∧ (lvu0 0 2).actives (wordA 0x36 3 1 0 0 8) = [] ∧ wFn (wordA 0x36 3 1 0 0 8) = 8 :=
  ⟨fun r v => ready_words r v _ (by decide), by decide⟩

/-- SEW 8 under a floating word, a wide memory element, a misaligned base, and VL 0 with every check passed. -/
theorem witness_VectorIssue : (∀ r v, ∀ e ∈ [(wordA 0x34 3 1 2 0 2, SisRow.vectorFloat), (wordA 0x34 3 1 0 0 0x12, .vfcvtFrom), (wordA 0x34 3 1 0 0 0x1A, .vfcvtTo),
      (wordA 0x34 3 1 0 0 0x1E, .vfcvtInteger), (wordA 0x31 3 1 0 0 0x02, .vld), (wordA 0x31 3 1 0 0 0x06, .vldu), (wordA 0x31 3 1 0 0 0x0A, .vldFf),
      (wordA 0x31 3 1 2 0 0x0E, .vlx), (wordA 0x32 3 1 0 0 0x02, .vst), (wordA 0x32 3 1 0 0 0x06, .vstu), (wordA 0x32 3 1 2 0 0x0E, .vsx)],
      Ready (running r v) 0 (wordRow e.1) e.2 .none) ∧
    (lvu0 3 0).sew = 0 ∧ (lvu0 3 1).sew.toNat < wMew (wordA 0x31 3 1 0 0 0x02) ∧ wMew (wordA 0x31 3 1 0 0 0x02) ≤ (lvu0 3 2).sew.toNat ∧
    (255 : Word).toNat % 256 ≠ 0 ∧ (3 : Word).toNat % 4 ≠ 0 ∧ (lvu0 0 2).vl = 0 := ⟨fun r v => ready_words r v _ (by decide), by decide⟩

theorem witness_GatherOverItsIndex : (running {} {}).running 0 = true ∧ ((running {} {}).tile 0).tsu.pc.toNat % 4 = 0 ∧
    ((running {} {}).tile 0).queue = [] ∧ (running {} {}).maySpend 0 [.tsu] = true ∧
    wMajor (wordA 0x31 2 1 2 0 0x0E) = 0x31 ∧ fld (wordA 0x31 2 1 2 0 0x0E) 2 3 = 3 ∧
    wRd (wordA 0x31 2 1 2 0 0x0E) = wRb (wordA 0x31 2 1 2 0 0x0E) := by decide

theorem witness_StochasticConversion : Ready (running { rm := 5 } (lvu0 3 2)) 0 (wordRow (wordA 0x34 3 1 0 0 0x1A)) .vfcvtTo .none ∧
    (let s := running { rm := 5 } (lvu0 3 2)
     (s.tile 0).run = some run0 ∧ run0.seed = none ∧ (s.tile 0).tsu.rmode = .sr ∧ (s.lvu 0).wide = true ∧
     (cvtFmt (wFn (wordA 0x34 3 1 0 0 0x1A))).width < (s.lvu 0).w ∧ (s.lvu 0).vl ≠ 0 ∧
     ((s.paid 0 .vfcvtTo).tileFatal 0 (mkRec 0x0105 1)).running 0 = false) ∧ { run0 with seed := some (zeros 32) }.seed = some (zeros 32) :=
  ⟨ready_running _ _ _ _ (by decide), by decide, rfl⟩

/-- Where a list of elements translates to, whether anything faults, and whether the bytes there are read. -/
def elementsAt (k : AccessKind) (vas : List Nat) : List Nat × Option Nat × Bool :=
  let a := State.vecTrans 0 k 4 ((List.range vas.length).zip vas) [] ((running {} (lvu0 2 2)).reaching 0 .vld)
  let b := State.vecRead 0 4 a.1.1 [] a.2
  (a.1.1, a.1.2.map (·.1), b.1.isSome && b.2.running 0 && !b.2.net.waits)

/-- Two elements in the Local Store; and a first one at the last word before a page that is not mapped. -/
theorem witness_VectorMemory : (∀ r v, ∀ e ∈ [(wordA 0x31 3 1 0 0 0x02, SisRow.vld), (wordA 0x31 3 1 0 0 0x06, .vldu), (wordA 0x31 3 1 0 0 0x0A, .vldFf),
      (wordA 0x31 3 1 2 0 0x0E, .vlx), (wordA 0x32 3 1 0 0 0x02, .vst), (wordA 0x32 3 1 0 0 0x06, .vstu), (wordA 0x32 3 1 2 0 0x0E, .vsx)],
      Ready (running r v) 0 (wordRow e.1) e.2 .none) ∧ (lvu0 2 2).vl ≠ 0 ∧ wMew (wordA 0x31 3 1 0 0 0x02) ≤ (lvu0 2 2).sew.toNat ∧
    (0x100 : Word).toNat % 256 = 0 ∧ elementsAt .load [0x100, 0x104] = ([2 ^ 44 + 0x100, 2 ^ 44 + 0x104], none, true) ∧
    elementsAt .store [0x100, 0x104] = ([2 ^ 44 + 0x100, 2 ^ 44 + 0x104], none, true) ∧
    elementsAt .load [0x5FFFFFFC, 0x60000000] = ([0x1FFFFFFC], some 1, true) ∧
    (let a := State.vecTrans 0 .store 4 [(0, 0x100), (1, 0x104)] [] ((running {} (lvu0 2 2)).reaching 0 .vst)
     let c := a.2.vecStore 0 [(2 ^ 44 + 0x100, zeros 8)]
     c.running 0 = true ∧ c.net.waits = false) :=
  ⟨fun r v => ready_words r v _ (by decide), by decide +kernel⟩

/-- A matrix instruction has its own effect on the running tile. -/
theorem ready_pairs (r : Tsu) (v : Lvu) (l : List ((BitVec 32 × BitVec 32) × SisRow)) (h : ∀ e ∈ l, pairRow e.1.1 e.1.2 = some e.2) :
    ∀ e ∈ l, Ready (running r v) 0 (pairRow e.1.1 e.1.2) e.2 .none := fun e he => ready_running r v _ _ (h e he)

/-- `vlm` and `vsm` of 256 aligned bytes in the Local Store; rows 4,095 to 4,096 and one row too many. -/
theorem witness_MaskMemoryAndPlanes : (∀ r v, ∀ e ∈ [(wordA 0x35 3 1 0 0 0x10, SisRow.vlmVsm), (wordA 0x35 3 1 0 0 0x11, .vlmVsm)],
      Ready (running r v) 0 (wordRow e.1) e.2 .none) ∧
    (∀ r v, ∀ e ∈ [((wordA 0x38 0 0 0 4 0, (0 : BitVec 32)), SisRow.mxSwap), ((wordA 0x38 0 1 2 3 0, 0), .mxZero)],
      Ready (running r v) 0 (pairRow e.1.1 e.1.2) e.2 .none) ∧
    (0x100 : Word).toNat % 256 = 0 ∧ (lvu0 2 2).vl ≠ 0 ∧
    (∀ k ∈ [AccessKind.load, .store], (State.vecTrans 0 k 128 [(0, 0x100), (1, 0x180)] [] ((running {} (lvu0 2 2)).reaching 0 .vlmVsm)).1 =
      ([2 ^ 44 + 0x100, 2 ^ 44 + 0x180], none)) ∧
    (let a := State.vecTrans 0 .load 128 [(0, 0x100), (1, 0x180)] [] ((running {} (lvu0 2 2)).reaching 0 .vlmVsm)
     let c := a.2.loadPa 0 (2 ^ 44 + 0x100) 128
     let d := c.2.loadPa 0 (2 ^ 44 + 0x180) 128
     c.1.isSome = true ∧ d.1.isSome = true ∧ d.2.running 0 = true ∧ d.2.net.waits = false) ∧ 4096 < 4095 + 2 ∧ 4095 + 1 ≤ 4096 :=
  ⟨fun r v => ready_words r v _ (by decide), fun r v => ready_pairs r v _ (by decide), by decide +kernel⟩

/-- One E4M3 column, one E4M3 row against a loaded plane, and one FP32 output row, all in the Local Store. -/
theorem witness_MatrixData : (∀ r v, ∀ e ∈ [((wordA 0x38 1 2 0 0 0, (2 : BitVec 32)), SisRow.mxLdw), ((wordA 0x38 1 2 0 1 0, 2), .mxRun),
      ((wordA 0x38 1 2 0 2 0, 9), .mxDrain)], Ready (running r v) 0 (pairRow e.1.1 e.1.2) e.2 .none) ∧
    mxPitch 2 % 64 = 0 ∧ RunOp.ok ⟨2, false, false, 0, 0, 4095, 1⟩ { loaded := true, fmt := 2 } = true ∧ RunOp.rows ⟨2, false, false, 0, 0, 4095, 1⟩ ≠ 0 ∧
    (State.ownRanges 0 .load [(0, mxBytes 2)] [] ((running {} {}).paid 0 .mxLdw)).1.toOption = some [[⟨2 ^ 44, mxBytes 2⟩]] ∧
    (State.ownRanges 0 .load [(0, mxBytes 2)] [] ((running {} {}).paid 0 .mxRun)).2.running 0 = true ∧
    (State.ownRanges 0 .store [(0, outData 9)] [] ((running {} {}).paid 0 .mxDrain)).1.toOption = some [[⟨2 ^ 44, 512⟩]] ∧
    (State.ownRanges 0 .store [] [] ((running {} {}).paid 0 .mxDrain)).1.toOption = some [] ∧ (rmOf 0).getD .rne ≠ RMode.sr ∧ 4095 + 1 * 1 ≤ 4096 :=
  ⟨fun r v => ready_pairs r v _ (by decide), by decide +kernel⟩

/-- Local Store bytes of tile 0 from an offset. -/
def lsCells (l : List (Nat × Byte)) : List Host.Cell := l.map (fun p => (2 ^ 44 + p.1, p.2))

/-- A table of one expert whose list of 4 items lies at 0x100; and a descriptor of one position, staged at 0x1000. -/
theorem witness_ExpertData : (∀ r v, ∀ e ∈ [(wordA 0x37 3 1 2 0 1, SisRow.vxDeal), (wordA 0x37 3 1 2 0 8, .vxCombinePut), (wordA 0x37 3 0 2 0 0x10, .vxCombineSum)],
      Ready (running r v) 0 (wordRow e.1) e.2 .none) ∧
    (let s := ({ running {} (lvu0 2 2) with
        mem := tables0 ++ lsCells [(0, 1), (65, 1), (68, 4)], tiles := [(0, { tile0 {} (lvu0 2 2) with lsValid := [(0, true), (1, true)] })] } : State).reaching 0 .vxDeal
     (s.ownRange 0 .store 0 64).1.toOption = some [⟨2 ^ 44, 64⟩] ∧ (s.ownRange 0 .store 0 80).1.toOption = some [⟨2 ^ 44, 80⟩] ∧
     (let tb := (s.ownRead 0 [⟨2 ^ 44, 80⟩]).1
      at' tb 0 2 = 1 ∧ (expertOf tb 0).list = 0x100 ∧ (expertOf tb 0).cap = 4 ∧ inLs (expertOf tb 0).list (16 * (expertOf tb 0).cap) = true) ∧
     s.running 0 = true ∧ s.net.waits = false) ∧
    (let s := ({ running {} (lvu0 1 3) with
        mem := tables0 ++ lsCells [(1, 0x10), (5, 0x20), (17, 8)],
        tiles := [(0, { tile0 { x := [(2, 0x4000)] } (lvu0 1 3) with lsValid := [(0, true)] })] } : State).reaching 0 .vxCombinePut
     let c := combineOf (bytesBv 512 (s.ownRead 0 [⟨2 ^ 44, 64⟩]).1)
     c.aligned = true ∧ c.tag 0 0 = some (0, 0) ∧ c.inside = true ∧ s.lsByte 0 (c.pres + 0) / 2 ^ 0 % 2 = 0 ∧
     (State.readRows 0 c.row [0x4000] [] s).1.toOption = some [zeros 4] ∧ (s.putRow 0 c 0 0 (zeros 4)).running 0 = true ∧ c.next + 1 ≤ c.cap) :=
  ⟨fun r v => ready_words r v _ (by decide), by decide +kernel⟩

/-! Requests and queues. -/

/-- Partition 0 with SQ 15 (one entry waiting of two) bound to CQ 15, both in host memory. -/
def partQ : Part := { part0 with
  sqs := [(15, some { host := true, base := 0, size := 2, cq := 15, tail := 1 })]
  cqs := [(15, some { host := true, ien := false, base := 0, size := 2 })] }

/-- The device with partition 0 given and tile 0 idle. -/
def idle (p : Part) : State := { State.reset with mem := tables0, parts := [(0, p)], boot := { state := .ready, floor := 2, opened := true } }

/-- An index below the queue's size, at its size, no queue, and a BAR2 write that is not yet performed. -/
theorem witness_Doorbells : (idle partQ).windowBusy 0 = false ∧ ((SMap.get none ((idle partQ).part 0).sqs 15).map (·.size)) = some 2 ∧
    ((SMap.get none ((idle partQ).part 0).cqs 15).map (·.size)) = some 2 ∧
    fld (1 : Word) 0 16 < 2 ∧ 2 ≤ fld (2 : Word) 0 16 ∧ (∀ sq, SMap.get none ((idle partQ).part 0).sqs 3 = some sq → sq.size ≤ 0) ∧
    ({ idle partQ with net := { remote := [{ id := 0, unit := windowUnit 0, tag := 0, pa := 2 ^ 46, op := .write [0] }] } } : State).windowBusy 0 = true := by
  refine ⟨rfl, rfl, rfl, by decide, by decide, fun _ h => (nomatch h), by decide⟩

/-- What a submission of an entry takes: the queue it comes from, and its bytes. -/
def taken (p : Part) (e : BitVec 1024) : Option (Nat × BitVec 1024) := (((idle p).acting 136).takeEntry 0 e).map (fun r => (r.1, r.2.1))

/-- The same where it is admitted: nothing waits for another device. -/
def admitted (p : Part) (e : BitVec 1024) : Bool :=
  match ((idle p).acting 136).takeEntry 0 e with
  | some (q, e, a) => !(a.admitEntry 0 q e).net.waits
  | none => false

/-- Each operation code is taken from SQ 15; the device and the partition with a fault flag, an entry that is ill formed; a Strict partition at a
window's start and later. -/
theorem witness_Submissions : [(1 : BitVec 1024), 2, 3, 4].map (taken partQ) = [some (15, 1), some (15, 2), some (15, 3), some (15, 4)] ∧
    [(1 : BitVec 1024), 2, 3, 4].all (admitted partQ) = true ∧ (idle partQ).isStrict 0 = false ∧
    (let p := { partQ with entry := { part0.entry with strict := true } }
     let s : State := { (idle p).acting 136 with lastWindow := some 0 }
     s.isStrict 0 = true ∧ (s.part 0).deferred = none ∧ s.lastWindow = some s.now ∧ s.net.waits = false ∧ (idle p).lastWindow ≠ some (idle p).now ∧
     taken p 1 = some (15, 1)) ∧
    { (idle partQ) with boot := { fault := true } }.boot.fault = true ∧ (idle { partQ with fault := true }).boot.fault = false ∧
    ((idle { partQ with fault := true }).part 0).fault = true ∧ entryForm 5 = some .unknownOpcode := by decide +kernel

/-- A Strict partition's queue at the start of a window. -/
def atWindow (p : Part) : State := State.windowApply { (idle { p with entry := { part0.entry with strict := true } }).acting 136 with lastWindow := some 0 } 0

/-- No Strict partition; one whose queue holds an entry; and one whose queue is empty; and a window before this one. -/
theorem witness_AdmissionWindow : parts64.filter (idle partQ).isStrict = [] ∧
    (parts64.filter (idle { partQ with entry := { part0.entry with strict := true } }).isStrict = [0] ∧ parts64.filter (atWindow partQ).isStrict = [0] ∧
     ((atWindow partQ).takeEntry 0 1).any (fun x => !x.2.2.net.waits) = true) ∧
    (parts64.filter (atWindow part0).isStrict = [0] ∧ ((atWindow part0).takeEntry 0 1).isNone = true ∧ (atWindow part0).net.waits = false) ∧
    ({ idle partQ with lastWindow := some 1000 } : State).lastWindow = some 1000 := by decide +kernel

/-- A device with request 0 in a given ledger entry and tile 0 given. -/
def withReq (e : Ledger) (x : Tile) : State := { idle partQ with ledger := [(0, e)], tiles := [(0, x)] }

/-- A hand whose request may start, with its deadline passed and without one, a stream's later pass before and after its moves; a move in its
queue; a pass about to start. -/
theorem witness_Dispatching :
    (let x : Tile := { hand := [⟨0, 0, false⟩] }
     let s (e : Ledger) := withReq { e with cq := 15 } x
     let a (e : Ledger) := ((s e).acting 64).setTile 0 { x with hand := [], taken := some ⟨0, 0, false⟩ }
     x.stopped = false ∧ x.run = none ∧ x.taken = none ∧ x.chainHold = none ∧ x.health.running = none ∧ x.health.pending = false ∧
     x.health.unavailable = false ∧ ((s { state := .dealt }).led 0).state = .dealt ∧ ((s { state := .dealt }).led 0).deadline = 0 ∧
     (let b := (a { state := .dealt }).retranslate 0
      let c := (b.2.updLed 0 (fun e => { e with state := .running, root := some 0 })).runPhase 0 0
      b.1 = none ∧ c.1 = true ∧ c.2.net.waits = false) ∧
     (let c := (a { state := .running }).runPhase 0 0
      c.1 = true ∧ c.2.net.waits = false) ∧
     (let e : Ledger := { state := .dealt, deadline := 5 }
      let s := { s e with now := 6 }
      (s.led 0).deadline ≠ 0 ∧ (s.led 0).deadline < s.now ∧ ((a e).endRequest 0 .declined).net.waits = false)) ∧
    (let s := { idle { partQ with moveq := [0] } with ledger := [(0, { state := .dealt, isMove := true })] }
     ((List.range 64).map (fun i => (SMap.get 63 s.lastMover 0 + 1 + i) % 64)).find? (fun n => !(s.part n).moveq.isEmpty && !(s.part n).fault && !s.boot.fault) = some 0 ∧
     (s.part 0).moveq = [0] ∧
     (State.firstDispatch { (s.acting 128).updPart 0 (fun y => { y with moveq := [] }) with lastMover := SMap.put 63 s.lastMover 0 0 } 0 2).net.waits = false) ∧
    (let x : Tile := { taken := some ⟨0, 0, false⟩ }
     let s := withReq { state := .running, phase0 := true } x
     s.tileOwner 0 = some 0 ∧ (s.tile 0).taken = some ⟨0, 0, false⟩ ∧ (s.tile 0).stopped = false ∧ (s.tile 0).health.running = none ∧
     (s.led 0).state = .running ∧ (s.led 0).phase0 = true) := by decide +kernel

/-- The end of a pass that trapped, of one that did not, of a move that a target refuses, of a stream's pass that goes on and of one that closes. -/
theorem witness_RequestEnds :
    (let s (r : RankEnd) := withReq { state := .running, ends := [r] } {}
     (s { rank := 0, status := .unmapped, cause := 3 }).active 0 = false ∧
     (((s { rank := 0, status := .unmapped, cause := 3 }).led 0).trapped).isSome = true ∧ (((s { rank := 0 }).led 0).trapped).isNone = true ∧
     ((((s { rank := 0 }).acting 64).runPhase 0 1)).1 = true ∧ ((((s { rank := 0 }).acting 64).endRequest 0 .unmapped)).net.waits = false ∧
     (let e : Ledger := { state := .running, isMove := true, moves := [⟨0, 0, 1, 1, 0, false, false, 0, [⟨3 * 2 ^ 44, 1⟩], [⟨0, 1⟩]⟩] }
      let a := ((withReq e {}).acting 64).runPhase 0 1
      (withReq e {}).active 0 = false ∧ a.1 = false ∧ (a.2.endRequest 0 .notPermitted).net.waits = false) ∧
     (((s { rank := 0 }).acting 64).endRequest 0 .ok).net.waits = false ∧ ((s { rank := 0 }).acting 64).endStatus 0 .ok = .ok) ∧
    (let e : Ledger := { state := .running, stream := true, ends := [{ rank := 0, more := true }] }
     e.rank0.map (·.more) = some true ∧ e.closing = false) ∧
    (let e : Ledger := { state := .running, more := true, closing := true }
     e.more = true ∧ e.ready = none ∧ e.closing = true) ∧ ({ idle partQ with boot := { fault := true } } : State).boot.fault = true := by decide +kernel

/-- A completion with room, a full queue and a full journal; a queue in host memory whose DMA fails. -/
theorem witness_CompletionsPost :
    (let s := withReq { state := .posting, cq := 15, ready := some (.ok, 3) } {}
     (s.led 0).ready = some (.ok, 3) ∧ ((SMap.get none (s.part 0).cqs 15).map (fun c => (c.room, c.host, c.stopped))) = some (true, true, false) ∧
     s.journalRoom (s.led 0) = true) ∧
    (let c : Cq := { host := true, ien := false, base := 0, size := 2, tail := 1 }
     c.room = false ∧ c.stopped = false) ∧ ((SMap.get none ((idle partQ).part 0).sqs 15).map (·.host)) = some true := by decide +kernel

theorem witness_CompletionsPost_journal :
    (List.replicate 32768 (⟨0, 0, 0, 0, 0, false, 0, 0, none⟩ : JournalItem)).length = 32768 ∧
    ∀ s : State, (s.tile 0).health.journal.length = 32768 → s.journalRoom { ranks := [0] } = false :=
  ⟨List.length_replicate, fun s h => by simp [State.journalRoom, h]⟩

/-! Mailboxes and Velna commands. -/

/-- A request header: magic, version 0x32, the opcode, tag 5, the length and the partition (R374). -/
def header (op len part : Nat) : List Byte := [0x4C, 0x56, 0x32, 0] ++ leBytes 2 op ++ [5, 0] ++ leBytes 2 len ++ leBytes 1 part ++ zeros 21

/-- A held command under tag 5. -/
def held (op part : Nat) (pl : List Byte) : Held := { tag := 5, opcode := op, part := part, cred := 0, hdr := header op pl.length part, payload := pl, bell := 0 }

/-- Mailbox m holds command `h` of partition 0. -/
def cmd (m : MbxId) (h : Held) (p : Part) : State := { idle p with mbx := [(m.val, { ready := true, held := [h] })] }

/-- The three facts of `Takes`. -/
def takesOk (s : State) (m : MbxId) (op : Nat) (chk : List Byte → Option Status) (h : Held) : Bool :=
  decide ((s.box m).held.find? (fun x => x.tag == 5 && x.opcode == op && !x.served) = some h) && decide (chk h.payload = none) && decide (s.gate m h = none)

theorem takes_of (s : State) (m : MbxId) (op : Nat) (chk : List Byte → Option Status) (h : Held) (k : takesOk s m op chk h = true) :
    Takes s m 5 op chk h := by
  simp only [takesOk, Bool.and_eq_true, decide_eq_true_eq] at k
  exact ⟨k.1.1, k.1.2, k.2⟩

/-- For each command of a list, mailbox m takes it on the state that holds it. -/
theorem takes_list (m : MbxId) (p : Part) (part : Nat) (l : List (Nat × (List Byte → Option Status) × List Byte))
    (h : l.all (fun e => takesOk (cmd m (held e.1 part e.2.2) p) m e.1 e.2.1 (held e.1 part e.2.2)) = true) :
    ∀ e ∈ l, Takes (cmd m (held e.1 part e.2.2) p) m 5 e.1 e.2.1 (held e.1 part e.2.2) :=
  fun e he => takes_of _ _ _ _ _ (List.all_eq_true.1 h e he)

/-- A mailbox whose window holds a request of an opcode. -/
def asked (bell : Bool) : State := { idle part0 with
  mbx := [(0, { ready := true, bellReq := bell, req := SMap.putMany 0 [] 0 (header 0x0101 0 0) })] }

/-- A Strict partition's mailbox that rings and one that will be taken at 2 µs; two open mailboxes. -/
def strictBox0 (b : Mailbox) : State := { idle { part0 with entry := { part0.entry with strict := true } } with mbx := [(0, b)] }
def twoBoxes : State := { idle part0 with mbx := [(0, { ready := true }), (1, { ready := true })] }

theorem witness_MessagesTaken_quiet : (∀ p, ((asked false).irq p).pending = [] ∧ ((asked false).irq p).handler = none) ∧
    (∀ p, (twoBoxes.irq p).pending = [] ∧ (twoBoxes.irq p).handler = none) :=
  ⟨fun _ => ⟨rfl, rfl⟩, fun _ => ⟨rfl, rfl⟩⟩

/-- A good request with the bell clear and set, a mailbox that holds 8 commands, a Strict one, and two that ring at once. -/
theorem witness_MessagesTaken :
    (let h := SMap.getMany 0 ((asked false).box 0).req 0 32
     headerOk h = true ∧ hSeg h = 0 ∧ hFlags h % 2 = 0 ∧ hLength h ≤ 4064 ∧ (lengthOk (hOpcode h)).map (fun ok => ok (hLength h)) = some true ∧
     (asked false).callerOk 0 (hOpcode h) (hPart h) = true ∧ ((asked false).box 0).ready = true ∧ ((asked false).box 0).held = [] ∧
     ((asked false).box 0).seg = none ∧ (asked false).strictBox 0 = false) ∧
    ((strictBox0 { ready := true }).strictBox 0 = true ∧ ((strictBox0 { ready := true, takeAt := some 2000 }).box 0).takeAt = some 2000) ∧
    ((0 : Fin 64) < 1 ∧ twoBoxes.strictBox 0 = false ∧ twoBoxes.strictBox 1 = false ∧ (twoBoxes.box 0).bellReq = false ∧ (twoBoxes.box 1).bellReq = false ∧
     (twoBoxes.box 0).ready = true ∧ (twoBoxes.box 1).ready = true) ∧
    ((asked false).box 0).bellReq = false ∧ ((asked true).box 0).bellReq = true ∧
    8 ≤ ({ held := List.replicate 8 (held 0x0101 0 []) } : Mailbox).held.length := by decide +kernel

/-- A loaded answer with another behind it, a half-sent command, and a Strict partition's mailbox. -/
theorem witness_MailboxService :
    (let b : Mailbox := { ready := true, rspValid := true, rsps := [⟨zeros 32, 7, 5, true⟩], seg := some ⟨5, zeros 32, [], 0, 9⟩ }
     let s := { idle part0 with mbx := [(0, b)] }
     (s.box 0).rspValid = true ∧ (s.box 0).rsps = [⟨zeros 32, 7, 5, true⟩] ∧ s.strictBox 0 = false ∧ (s.box 0).ready = true ∧
     ((s.box 0).seg.map (·.deadline)) = some 9 ∧ ((idle part0).box 0).rspValid = false ∧ ((idle part0).box 0).seg = none ∧
     ((idle part0).box 0).rsps = []) ∧
    (let s := { idle { part0 with entry := { part0.entry with strict := true } } with mbx := [(0, { ready := true, rsps := [⟨zeros 32, 7, 5, true⟩] })] }
     s.strictBox 0 = true ∧ (s.box 0).rspValid = false ∧ (s.box 0).rsps = [⟨zeros 32, 7, 5, true⟩] ∧ (s.box 0).events = []) ∧
    (let b : Mailbox := { ready := true, rsps := [⟨zeros 32, 50000, 5, true⟩], events := [{ kind := 5, time := 0 }] }
     let s := { idle { part0 with entry := { part0.entry with strict := true } } with mbx := [(0, b)] }
     s.strictBox 0 = true ∧ boundary s.now < 50000 ∧ (s.box 0).events.isEmpty = false ∧ ((s.box 0).evtTail - (s.box 0).evtHead).toNat < 16) := by decide +kernel

/-- A payload of the wrong kind, a fault flag, and a mailbox that can answer. -/
theorem witness_CommandRefused :
    ((cmd 0 (held 0x0602 0 (leBytes 8 64)) part0).box 0).held.find? (fun x => x.tag == 5 && x.opcode == 0x0602 && !x.served) = some (held 0x0602 0 (leBytes 8 64)) ∧
    chainReleaseChk (leBytes 8 64) = some .notPermitted ∧ chainReleaseChk (leBytes 8 63) = none ∧
    (cmd 0 (held 0x0602 0 (leBytes 8 63)) { part0 with fault := true }).gate 0 (held 0x0602 0 (leBytes 8 63)) = some .partitionFaulted ∧
    (cmd 0 (held 0x0602 0 (leBytes 8 63)) part0).strictBox 0 = false ∧ ((cmd 0 (held 0x0602 0 (leBytes 8 63)) part0).box 0).rspValid = false ∧
    ((cmd 0 (held 0x0602 0 (leBytes 8 63)) part0).box 0).rsps = [] := by decide +kernel

/-- Partition 0 with a posted notice. -/
def partN : Part := { part0 with notices := [{ num := 1, tile := 0, fromDev := 0, winStart := 0, winEnd := 0, posted := true }] }

/-- Each query from the operator's mailbox, CONFIG_READ answered and refused, the log's two parts, and a slot held and not held. -/
theorem witness_Queries : (∀ e ∈ [(0x0101, noChk, []), (0x0102, noChk, []), (0x0103, noChk, []), (0x0203, configReadChk, leBytes 8 0x10000),
      (0x0504, ledgerQueryChk, leBytes 16 (2 ^ 64)), (0x0801, errorLogReadChk, leBytes 24 (2 ^ 128)), (0x0801, errorLogReadChk, leBytes 24 (1 + 2 ^ 32 + 2 ^ 128)),
      (0x0405, regionStatusChk, leBytes 8 0), (0x0305, noChk, [])], Takes (cmd 64 (held e.1 0 e.2.2) partN) 64 5 e.1 e.2.1 (held e.1 0 e.2.2)) ∧
    ((cmd 64 (held 0x0203 0 (leBytes 8 0x10000)) partN).configValue 64 (held 0x0203 0 (leBytes 8 0x10000))).1.toOption = some [0] ∧
    ((cmd 0 (held 0x0203 0 (leBytes 8 0)) partN).configValue 0 (held 0x0203 0 (leBytes 8 0))).1.toOption = none ∧
    ((partN.notices.find? (fun x => x.num == 1 && x.posted)).isSome = true ∧ partN.conf = false ∧ { partN with conf := true }.conf = true) ∧
    { idle partN with regions := [(0, { owner := some 0, state := .empty })] }.holdsSlot 0 0 = true ∧ (idle partN).holdsSlot 0 0 = false :=
  ⟨takes_list _ _ _ _ (by decide +kernel), by decide +kernel⟩

/-- A new queue and an existing one of each kind, queues to destroy, an ante, and a chain that is new, defined already and released. -/
theorem witness_QueuesAndChains : (∀ e ∈ [(0x0501, queueCreateChk, leBytes 24 (1 + 14 * 2 ^ 8 + 2 * 2 ^ 32)), (0x0501, queueCreateChk, leBytes 24 (14 * 2 ^ 8 + 2 * 2 ^ 32 + 15 * 2 ^ 128)),
      (0x0502, queueDestroyChk, leBytes 8 (15 * 2 ^ 8)), (0x0502, queueDestroyChk, leBytes 8 (1 + 15 * 2 ^ 8)), (0x0503, anteSetChk, leBytes 8 262144),
      (0x0501, queueCreateChk, leBytes 8 (1 + 13 * 2 ^ 8 + 2 ^ 16 + 2 * 2 ^ 32) ++ leBytes 16 0x40000000), (0x0501, queueCreateChk, leBytes 8 (1 + 13 * 2 ^ 8 + 2 ^ 16 + 2 * 2 ^ 32) ++ leBytes 16 0x60000000),
      (0x0601, chainDefineChk, leBytes 18 63), (0x0602, chainReleaseChk, leBytes 8 63)],
      Takes (cmd 64 (held e.1 0 e.2.2) partQ) 64 5 e.1 e.2.1 (held e.1 0 e.2.2)) ∧ (idle partQ).valid 0 = true ∧
    SMap.get none partQ.cqs 14 = none ∧ SMap.get none partQ.sqs 14 = none ∧ SMap.get none partQ.cqs 15 ≠ none ∧ SMap.get none partQ.sqs 15 ≠ none ∧
    { partQ with sqs := [] }.sqs = [] ∧ (idle partQ).ledgerOf 0 = [] ∧ partQ.answers = [] ∧ (idle partQ).isStrict 0 = false ∧
    SMap.get none partQ.chains 63 = none ∧ ((idle partQ).chainsOf 0).length < partQ.entry.chainQuota.toNat ∧ fld (0 : BitVec 16) 6 6 < (idle partQ).ergSize ∧
    ((idle partQ).availOf 0).contains 0 = true ∧ SMap.get none ([(63, some {})] : SMap (Option Chain)) 63 ≠ none ∧
    (idle { partQ with chains := [(63, some {})] }).chainActive 0 63 = false ∧
    ((idle partQ).range part0.root .store 0x40000000 64).1 = some [⟨0, 64⟩] ∧ ((idle partQ).range part0.root .store 0x60000000 64).1 = none ∧
    ((withReq { state := .running, cq := 15 } {}).ledgerOf 0 = [0] ∧ ((withReq { state := .running, cq := 15 } {}).led 0).cq = 15) ∧
    ({ idle { partQ with chains := [(63, some {})] } with ledger := [(0, { state := .running, cstep := some ⟨63, 8, 1, 4088, 9, 0⟩, crun := { started := true } })] } : State).chainActive 0 63 = true :=
  ⟨takes_list _ _ _ _ (by decide +kernel), by decide +kernel⟩

/-- A notice to acknowledge and one that is; check-split with and without a confidential partition; an envelope at its least. -/
theorem witness_OperatorSettings : (∀ e ∈ [(0x0803, recallAckChk, leBytes 8 1), (0x0803, recallAckChk, leBytes 8 2), (0x0901, checkSplitEnableChk, leBytes 8 (1 + 7 * 2 ^ 8)),
      (0x0A01, powerEnvelopeChk, leBytes 8 1100)], Takes (cmd 64 (held e.1 0 e.2.2) partN) 64 5 e.1 e.2.1 (held e.1 0 e.2.2)) ∧
    partN.notices.any (fun x => x.num == 1 && !x.acked) = true ∧ partN.notices.all (fun x => x.num != 2) = true ∧ (idle partN).anyConf = false ∧
    (idle { partN with conf := true }).anyConf = true :=
  ⟨takes_list _ _ _ _ (by decide +kernel), by decide +kernel⟩

/-! Mappings, regions, protection, modes, secrets and restarts. -/

/-- One 64 KiB page at 0x80000000 to HBM 0, read and write; and a region of one 512 MiB page each at 0x80000000 and 0xA0000000. -/
def mapPay : List Byte := leBytes 8 1 ++ leBytes 8 0x80000000 ++ leBytes 8 0 ++ leBytes 4 1 ++ leBytes 4 13
def regionPay : List Byte := leBytes 8 256 ++ leBytes 8 0x20000000 ++ leBytes 8 0x80000000 ++ leBytes 8 0xA0000000 ++ leBytes 8 0 ++ leBytes 8 0x20000000 ++ zeros 16

/-- A region of partition 0 in slot 7. -/
def withRegion (g : Region) : State := { idle part0 with regions := [(7, { g with owner := some 0, size := 65536, vaA := 0x80000000, vaB := 0x80010000 })] }

/-- The changes of each command find room in the partition's area. -/
theorem witness_MapsAndRegions_changed : ((idle part0).changed 0 (changesOf mapPay)).isSome = true ∧
    ((idle part0).changed 0 ((regionOf 0 regionPay).changes true)).isSome = true ∧
    ((withRegion { state := .retiring }).changed 0 (((withRegion { state := .retiring }).region 7).changes false)).isSome = true :=
  ⟨State.changed_isSome (by decide +kernel), State.changed_isSome (by decide +kernel), State.changed_isSome (by decide +kernel)⟩

/-- Commands on an idle root and on one that drains; an update waiting, running and done; a retirement; a root with and without a wait. -/
theorem witness_MapsAndRegions : (∀ e ∈ [(0x0401, mapChk, mapPay), (0x0402, regionCreateChk, regionPay), (0x0403, regionUpdateChk, leBytes 16 7 ++ leBytes 56 65536),
      (0x0404, regionRetireChk, leBytes 8 7)], Takes (cmd 64 (held e.1 0 e.2.2) part0) 64 5 e.1 e.2.1 (held e.1 0 e.2.2)) ∧
    ((idle part0).valid 0 = true ∧ { part0 with old := some (0, 0) }.old ≠ none ∧ part0.old = none ∧
     (changesOf mapPay).all (fun c => (idle part0).physOk 0 c.pa c.len c.page) = true ∧ (idle part0).rgnTouched 0 (changesOf mapPay) = false ∧
     ({ idle part0 with mem := tables0 ++ [(0x40010020, 0x3F)] } : State).rgnTouched 0 (changesOf mapPay) = true ∧
     ((idle { part0 with ptArea := none }).changed 0 (changesOf mapPay)).isNone = true ∧
     (idle { part0 with entry := { part0.entry with ext := [(0, 0), (0, 0), (0, 0), (0, 0)] } }).physOk 0 0 65536 65536 = false) ∧
    (((regionOf 0 regionPay).changes true).all (fun c => (idle part0).physOk 0 c.pa c.len c.page) = true ∧
     (idle part0).rgnTouched 0 ((regionOf 0 regionPay).changes true) = false ∧
     ((idle part0).regionsOf 0).length < part0.entry.regionQuota.toNat ∧ (idle part0).regionMeets 0 (regionOf 0 regionPay) = false) ∧
    ((withRegion { state := .empty }).holdsSlot 0 7 = true ∧ at' (leBytes 16 7 ++ leBytes 56 65536) 16 8 = ((withRegion { state := .empty }).region 7).size) ∧
    (((idle part0).range part0.root .load 0x40000000 65536).1.isSome = true ∧ Region.segments ({ size := 65536 } : Region) = 1) ∧
    ((withRegion { state := .retiring }).region 7).state = .retiring ∧
    (idle { part0 with old := some (5, 0) }).rootInUse 0 5 = false := by
  refine ⟨takes_list _ _ _ _ (by decide +kernel), by decide +kernel⟩

/-- The operator's mailbox with a nonce of zeros holds a signed command; slot 0 is the signer with the key given, slot 1 a custodian. -/
def signedBy (key : Nat × Nat) (h : Held) (ps : List Proposal) : State := { State.reset with
  boot := { state := .ready, floor := 2, opened := true }, mbx := [(64, { ready := true, held := [h], nonce := zeros 32 })],
  cfg := { proposals := ps, prot := { authentic := true, auth := [(0, { role := 1, keyX := BitVec.ofNat 384 key.1, keyY := BitVec.ofNat 384 key.2 }),
    (1, { role := 2, keyX := BitVec.ofNat 384 g384.1, keyY := BitVec.ofNat 384 g384.2 })] } } }

/-- A signed command with the signature's number for both of its halves. -/
def signedHeld (op : Nat) (body : List Byte) (r : Nat) : Held :=
  let pl := body ++ leBytes 48 r ++ leBytes 48 r
  { tag := 5, opcode := op, part := 0x7F, cred := 0, payload := pl, bell := 0,
    hdr := [0x4C, 0x56, 0x32, 4] ++ leBytes 2 op ++ [5, 0] ++ leBytes 2 pl.length ++ [0x7F] ++ zeros 21 }

/-- A change of no field. -/
def body0 : List Byte := leBytes 16 1

/-- The proposal of it, by slot 1, and approved by slot 0. -/
def prop1 : Proposal := { id := 1, body := body0, proposer := 1, propMbx := 64, expires := 10 }

def keyP : Nat × Nat := (0x76d14d4f98273d25b6378afd0a59982e609d97973ebb5a9a084b5c70200c54e9eafdcce114d8ab55fcaab5cd7d54d2ce,
  0x7418a051c89602708739b93bf43ccbb142595647641dde97a2a83d47250dfd26a234a5417fea680119bce74fdf03cbc6)
def keyA : Nat × Nat := (0xb833150b7edc983795ad14e34e0307a8c767318fdd48cee934d6d4ef81e88af4511b7523c78569f3680b6dceda67bb12,
  0xaf4d47fd2020979f8db77aec382a7682a75eca0647771ade4014a3ab742657746338917eef64e0f652218c800d3a42a2)
def keyC : Nat × Nat := (0x2b9b0136ceee777f75e164954319baebb0fb44fcd5135ea21520bccdff238159c3e1b900eb26e7a4f1ca95949cf1b221,
  0xb46d228e7a57ed887038aaf9260e3386c4b64a79827c5f497e567ceb732e007d7a48e302ffb5e889c3c9ebf38a6b6e18)
def keyW : Nat × Nat := (0xa153f760f133577ad1422679b2d88a7ccd14e73b15af76cb3c4f64af6693fd58afd653f7b05c5d14c1743d3c1fa94280,
  0x2596dd660e0ac8235ead7c7902611bd8b588be1b9e00df18b20b5dda904ff9fbb10e8ebc013a4848a2c7926817193a22)

def heldP : Held := signedHeld 0x0301 body0 0x89c85b9a21c2b8432bae4d9802187c6d123b10524084dbcd11557c0dbf0dec4411e96fefa871eb83dad988cca02ccaac
def heldA : Held := signedHeld 0x0302 (leBytes 8 1 ++ sha384 body0)
  0xa647a8e680c064be621cede6aae0999dc45ca38ac933dfbe026c8a50c87f3359262d5805b716f0ac7c09efd78a2192e9
def heldC : Held := signedHeld 0x0303 (leBytes 8 1) 0x8a05f0f55bba6e725a4cb8eb96f60b00cfe0b1dbf906a3f3c706d82ba9806d27e867483abb154bff09155d6096055454
def heldW : Held := signedHeld 0x0304 (leBytes 8 1) 0x91c9c152ee13707ba333ad86c131a9f8503cd06a890c1a33cc117a6e6ee96449a950cbc70450f8b51827be9fce0b3b25

/-- Four commands with genuine signatures, made outside the model. -/
theorem witness_signed : (signedBy keyP heldP []).signedOk 64 heldP = true ∧ (signedBy keyA heldA []).signedOk 64 heldA = true ∧
    (signedBy keyC heldC []).signedOk 64 heldC = true ∧ (signedBy keyW heldW []).signedOk 64 heldW = true := by decide +kernel

theorem witness_Protection :
    (takesOk (signedBy keyP heldP []) 64 0x0301 noChk heldP && takesOk (signedBy keyA heldA [prop1]) 64 0x0302 protectApproveChk heldA
      && takesOk (signedBy keyC heldC [{ prop1 with approver := some 0 }]) 64 0x0303 protectCommitChk heldC
      && takesOk (signedBy keyW heldW [prop1]) 64 0x0304 protectWithdrawChk heldW) = true ∧
    (signedBy keyA heldP []).signedOk 64 { heldP with cred := 9 } = false ∧
    (let a := (signedBy keyP heldP []).newNonce 64
     unsigned heldP.payload = body0 ∧ a.cfg.proposals = [] ∧ at' body0 4 4 = a.cfg.prot.epoch.toNat ∧ bodyPatches body0 = some [] ∧
     a.recordOk (a.cfg.prot.patched []) = true ∧ a.mayAct 0 (a.affectedOf (loosePatches body0)) = true ∧ (a.cfg.prot.patched []).debug ≠ 1) ∧
    (let a := (signedBy keyA heldA [prop1]).newNonce 64
     a.proposal 1 = some prop1 ∧ a.now ≤ prop1.expires ∧ slice heldA.payload 8 48 = sha384 prop1.body ∧ prop1.approver = none ∧
     a.pairOk 1 0 (a.affectedOf ((bodyPatches body0).getD [])) = true) ∧
    (let q := { prop1 with approver := some 0, commitBy := 5 }
     let a := (signedBy keyC heldC [q]).newNonce 64
     a.proposal 1 = some q ∧ q.approver = some heldC.cred ∧ a.now ≤ q.commitBy ∧ q.committing = false ∧ a.cfg.wait = none ∧
     a.pairOk 1 0 (a.affectedOf ((bodyPatches body0).getD [])) = true) ∧
    (signedBy keyP heldP [prop1]).proposal 1 = some prop1 ∧
    { (signedBy keyP heldP []).cfg with wait := some (.committing 64 5 1 [0]) }.wait = some (.committing 64 5 1 [0]) := by decide +kernel

/-- CONFIG_LOAD with no image and one that fails its check; a write to flash; SET_MODE free and waiting; the quiet jobs; the tests. -/
theorem witness_ModesAndTests : (∀ e ∈ [(0x0201, configLoadChk, leBytes 16 0 ++ leBytes 8 1048576), (0x0202, setModeChk, leBytes 8 0), (0x0A02, paceLockChk, leBytes 8 (1 + 340 * 2 ^ 16)),
      (0x0A02, paceLockChk, leBytes 8 0), (0x0902, selfTestRunChk, leBytes 8 0), (0x0902, selfTestRunChk, leBytes 8 1)],
      Takes (cmd 64 (held e.1 0 e.2.2) part0) 64 5 e.1 e.2.1 (held e.1 0 e.2.2)) ∧
    ((idle part0).loadCheck (zeros 32) false).isSome = true ∧ (idle part0).cfg.wait = none ∧ (idle part0).valid 0 = true ∧ (idle part0).isStrict 0 = false ∧
    (idle part0).isQuiet 0 = true ∧ part0.quiet = [] ∧ part0.pendKey = none ∧
    (let p := { part0 with quiet := [.paceLock 64 5 340, .selfTest 64 5, .confEnter 64 5] }
     p.quiet.find? (jobIs (.confidential 0)) = some (.confEnter 64 5) ∧ p.quiet.find? (jobIs (.paceLock 0)) = some (.paceLock 64 5 340) ∧
     p.quiet.find? (jobIs (.selfTest 0)) = some (.selfTest 64 5)) ∧
    ((0x1FF : BitVec 64) &&& 0x1FF ≠ 0) ∧ ((0x200 : BitVec 64) &&& 0x1FF = 0) ∧ ((0x1FF : BitVec 64) &&& 0x7FE00 = 0) :=
  ⟨takes_list _ _ _ _ (by decide +kernel), by decide +kernel⟩

/-- A job that runs at the last moment that its deadline allows; a mode change that waits for a partition that is quiet, and for one that is not. -/
theorem witness_ModesAndTests_deadlines :
    (let s := { idle { part0 with quiet := [.paceLock 64 5 340] } with now := 1998000000 }
     s.isQuiet 0 = true ∧ (s.part 0).pendKey = none ∧ (s.part 0).quiet = [.paceLock 64 5 340] ∧ s.cfg.wait = none ∧ s.now ≤ s.bellOf 64 5 + 1998000000) ∧
    (let s := { idle { part0 with quiet := [.paceLock 64 5 340] } with cfg := { wait := some (.setMode 64 5 0 [0] 9) } }
     s.cfg.wait = some (.setMode 64 5 0 [0] 9) ∧ s.allQuiet [0] = true ∧
     { s with ledger := [(0, { state := .running })] }.allQuiet [0] = false ∧ { s with ledger := [(0, { state := .running })] }.isQuiet 0 = false ∧
     ({ s with ledger := [(0, { state := .running })] }.part 0).quiet.find? (jobIs (.paceLock 0)) = some (.paceLock 64 5 340)) := by decide +kernel

/-- Partition 0 as a partition that may enter confidential mode. -/
def secretPart : Part := { part0 with
  entry := { part0.entry with cipher := true, strict := true, conf := true }, paceRate := some 340, key := some (zeros 64), keyFresh := true }

/-- The wrapping key of partition 0 under a session whose secret is zeros, and the stream and tag it gives a key pair `ks` under an IV of zeros (R450). -/
def wrapKey : List Byte := hkdfExpand (zeros 32) (ascii "AVRAK KEYWRAP" ++ leBytes 1 0) 32
def wrapStream : List Byte := (ctrBlocks wrapKey 4 (beNat (zeros 12) * 2 ^ 32 + 1)).1
def wrapAad : List Byte := leBytes 1 0 ++ leBytes 4 1 ++ ascii "XTS1"
def wrapTag (ct : List Byte) : List Byte :=
  let data := pad16 wrapAad ++ pad16 ct ++ beBytes 8 (8 * wrapAad.length) ++ beBytes 8 (8 * ct.length)
  xorB (beBytes 16 (ghash (beNat (aes256 wrapKey (zeros 16))) (data.length / 16) 0 data)) (aes256 wrapKey (beBytes 16 (beNat (zeros 12) * 2 ^ 32 + 1)))

/-- Two keys that differ. -/
def keyPair : List Byte := zeros 32 ++ List.replicate 32 1
def wrapped : List Byte := xorB keyPair wrapStream

/-- KEY_INSTALL of them: the session, the IV, the wrapped pair and its tag. -/
def keyPay : List Byte := leBytes 4 1 ++ (zeros 16 ++ (wrapped ++ (wrapTag wrapped ++ zeros 4)))

theorem xorB_xorB : ∀ a b : List Byte, a.length ≤ b.length → xorB (xorB a b) b = a
  | [], b, _ => by cases b <;> rfl
  | x :: a, [], h => absurd h (by simp)
  | x :: a, y :: b, h => by
    have ih := xorB_xorB a b (by simpa using h)
    simp only [xorB, List.zip_cons_cons, List.map_cons] at ih ⊢
    rw [ih, BitVec.xor_assoc, BitVec.xor_self, BitVec.xor_zero]

theorem wrapped_length : wrapped.length = 64 ∧ (wrapTag wrapped).length = 16 ∧ keyPair.length ≤ wrapStream.length := by decide +kernel

/-- The two slices of KEY_INSTALL's payload that hold the wrapped pair and its tag. -/
theorem keyPay_slices : slice keyPay 20 64 = wrapped ∧ slice keyPay 84 16 = wrapTag wrapped := by
  obtain ⟨h, k, _⟩ := wrapped_length
  have front : keyPay.drop 20 = wrapped ++ (wrapTag wrapped ++ zeros 4) := by
    rw [keyPay, ← List.append_assoc]; exact List.drop_left' rfl
  constructor
  · rw [slice, front, List.take_append_of_le_length (Nat.le_of_eq h.symm), ← h, List.take_length]
  · have : keyPay.drop 84 = (keyPay.drop 20).drop 64 := by rw [List.drop_drop]
    rw [slice, this, front, ← h, List.drop_left, List.take_append_of_le_length (Nat.le_of_eq k.symm), ← k, List.take_length]

theorem witness_Secrets_takes : Takes (cmd 0 (held 0x0704 0 keyPay) secretPart) 0 5 0x0704 keyInstallChk (held 0x0704 0 keyPay) :=
  ⟨rfl, by decide +kernel, rfl⟩

/-- A session, and a key pair that unwraps under it. -/
theorem witness_Secrets_key :
    (let se : Session := { id := 1, established := true, secret := zeros 32 }
     [se].find? (fun x => x.id == BitVec.ofNat 32 (at' keyPay 0 4) && x.established) = some se) ∧
    slice keyPay 8 12 = zeros 12 ∧ leBytes 1 0 ++ slice keyPay 0 4 ++ ascii "XTS1" = wrapAad ∧
    gcmOpen wrapKey (zeros 12) wrapAad (slice keyPay 20 64) (slice keyPay 84 16) = some keyPair ∧ keyPair.take 32 ≠ keyPair.drop 32 := by
  refine ⟨rfl, rfl, rfl, ?_, by decide⟩
  rw [keyPay_slices.1, keyPay_slices.2]
  have h : xorB wrapped wrapStream = keyPair := xorB_xorB _ _ wrapped_length.2.2
  have n : ceilDiv wrapped.length 16 = 4 := by rw [wrapped_length.1]; rfl
  rw [← h]
  simp only [gcmOpen]
  rw [n]
  exact if_pos rfl

/-- A report of two pages, of which page 1 is the last. -/
theorem witness_Secrets_pages : 1 < ceilDiv (Snapshot.mk (zeros 32) none (zeros 4049) 10).bytes.length 4048 ∧
    ({ snap := some ⟨zeros 32, none, [], 10⟩ } : Mailbox).snap = some ⟨zeros 32, none, [], 10⟩ := by
  refine ⟨?_, rfl⟩
  show 1 < ceilDiv (List.replicate 4049 (0 : Byte)).length 4048
  rw [List.length_replicate]
  decide

theorem witness_Secrets : (∀ e ∈ [(0x0701, attestChk, leBytes 40 0), (0x0702, attestChk, leBytes 32 0 ++ leBytes 8 1), (0x0703, grainSeedChk, leBytes 40 1),
      (0x0703, grainSeedChk, leBytes 40 0), (0x0705, noChk, [])],
      Takes (cmd 0 (held e.1 0 e.2.2) secretPart) 0 5 e.1 e.2.1 (held e.1 0 e.2.2)) ∧
    (idle secretPart).boot.floor = 2 ∧ { idle secretPart with boot := { floor := 0 } }.boot.floor = 0 ∧
    ([(0x0701, leBytes 40 0), (0x0703, leBytes 40 0)].all (fun e => let h := held e.1 0 e.2
      (cmd 0 h secretPart).heldOf 0 5 [e.1] == some h && (cmd 0 h secretPart).gate 0 h == none)) = true ∧
    (let s := { cmd 0 (held 0x0703 0 (leBytes 40 0)) secretPart with eng := { entropy := { state := 3 } } }
     s.entropyDead = true ∧ s.canDraw true = false ∧ s.eng.tasks = []) ∧
    (idle secretPart).isQuiet 0 = true ∧ { idle secretPart with ledger := [(0, { state := .running })] }.isQuiet 0 = false ∧
    ((idle secretPart).confCheck 0).isSome = true ∧
    ({ idle secretPart with sec := { latched := [(6, 2)], tdis := [(0, { state := .run })], ide := [(0, { keyed := true, secure := true })] } }.confCheck 0 = none) :=
  ⟨takes_list _ _ _ _ (by decide +kernel), by decide +kernel⟩

/-- A partition that may restart; the device or the partition out of service; a restart that runs; and one with a notice outstanding. -/
theorem witness_Restarts : (∀ e ∈ [(0x0802, noChk, [])], Takes (cmd 64 (held e.1 0 e.2.2) part0) 64 5 e.1 e.2.1 (held e.1 0 e.2.2)) ∧
    (idle part0).mayRestart 0 = true ∧ (idle part0).boot.fault = false ∧ (idle part0).valid 0 = true ∧ part0.restart = none ∧ (idle part0).valid 1 = false ∧
    { part0 with restart := some none }.restart = some none ∧ (idle part0).tilesOf 0 = [0] ∧ ((idle part0).tile 0).health.running ≠ some .closing :=
  ⟨takes_list _ _ _ _ (by decide +kernel), by decide +kernel⟩

theorem witness_RestartWaitsForRecalls : (∀ e ∈ [(0x0802, noChk, [])], Takes (cmd 64 (held e.1 0 e.2.2) partN) 64 5 e.1 e.2.1 (held e.1 0 e.2.2)) ∧
    ∃ x ∈ ((idle partN).part 0).notices, x.acked = false :=
  ⟨takes_list _ _ _ _ (by decide +kernel), _, List.mem_cons_self, rfl⟩

/-! Tiles, health, memory, chains, links, the plant and the engines. -/

/-- Tile 0 running with given caches. -/
def cached (c : Caches) : State := { running {} {} with tiles := [(0, { tile0 {} {} with caches := c })] }

/-- An outstanding store's fill, an instruction line whose data comes and one that is refused, a talon fill, a discard entry, and both answers of a
walk. -/
theorem witness_TileCaches :
    (let s := cached { fills := [{ line := 5, writes := [] }], talonFills := [6], discard := [{ line := 7 }] }
     let a (port : TileUnit) := ((s.acting 0).strike 0 .none).spend 0 [port]
     s.maySpend 0 [.l1] = true ∧ s.maySpend 0 [.talon] = true ∧ s.maySpend 0 [.discard] = true ∧
     ((a .l1).tile 0).caches.fills.find? (fun f => f.line == 5) = some { line := 5, writes := [] } ∧
     (((a .l1).arriveD 0 5 .none).fillDone 0 { line := 5, writes := [] }).net.waits = false ∧
     (s.tile 0).caches.talonFills.contains 6 = true ∧ ((a .talon).talonFill 0 6).net.waits = false ∧ (s.tile 0).caches.talonFills.contains 7 = false ∧
     ((a .discard).ackDiscard 0 0).net.waits = false) ∧
    (let a := ((running {} {}).acting 0).strike 0 .none |>.spend 0 [.l1]
     let b (l : Nat) := (a.checkI 0 l).arriveI 0 l .none
     a.running 0 = true ∧ (a.checkI 0 8).running 0 = true ∧ ((a.checkI 0 8).tile 0).caches.findI 8 = none ∧ ((b 8).tile 0).stopped = false ∧
     ((b 8).fetchLine 0 8).1.isSome = true ∧ ((b 8).fetchLine 0 8).2.net.waits = false ∧
     ((b (3 * 2 ^ 37)).fetchLine 0 (3 * 2 ^ 37)).1 = none ∧ ((b (3 * 2 ^ 37)).fetchLine 0 (3 * 2 ^ 37)).2.net.waits = false) ∧
    (running {} {}).running 0 = true ∧ (idle part0).running 0 = false ∧ ((running {} {}).translateT 0 .fetch 0x1000).1 = some (2 ^ 44 + 0x1000) ∧
    ((running {} {}).translateT 0 .fetch 0x60000000).1 = none := by decide +kernel

/-- A tile of a partition locked to a rate takes no fill without a token. -/
theorem witness_TileCaches_gated : ({ cached {} with parts := [(0, { part0 with paceRate := some 340 })] } : State).maySpend 0 [.l1] = false := by
  decide +kernel

/-- A journal at its threshold. -/
theorem witness_HealthPasses_journal : 24576 ≤ ({ journal := List.replicate 24576 ⟨0, 0, 0, 0, 0, false, 0, 0, none⟩ } : Health).journal.length :=
  Nat.le_of_eq List.length_replicate.symm

/-- A tile that takes passes, one in a pass of each kind, its journal at the threshold; notices and FAULT events due; owned and unowned tiles. -/
theorem witness_HealthPasses :
    { idle part0 with boot := { state := .ready, floor := 2, opened := true, steps := 0xFFF } }.tile 0 = {} ∧
    ((idle part0).tile 0).takesPasses = true ∧
    ({ running := some .health } : Health).running = some .health ∧ ({ pending := true } : Health).running = none ∧
    ({ running := some .closing } : Health).running = some .closing ∧
    partN.notices.find? (fun x => x.num == 1 && x.posted) = some ⟨1, 0, 0, false, false, [], 0, 0, true, false⟩ ∧
    ([({ num := 1, tile := 0, fromDev := 0, winStart := 0, winEnd := 0 } : Notice)].find? (fun x => x.num == 1 && !x.posted)).isSome = true ∧
    ({ part0 with faultDue := [9] }.faultDue = [9] ∧ (idle { part0 with faultDue := [9] }).noticesOut 0 = true ∧
     (idle { part0 with notices := [{ num := 1, tile := 0, fromDev := 0, winStart := 0, winEnd := 0 }] }).noticesOut 0 = false) ∧
    (let s := { idle part0 with boot := { faultDue := [9] } }
     s.boot.faultDue = [9] ∧ parts64.all (fun n => !s.valid n || s.noticesOut n) = true) ∧
    (idle part0).tileOwner 0 = some 0 ∧ (idle part0).tileOwner 1 = none ∧ (idle part0).plant.ciRunning = true ∧ 0 ≤ (idle part0).now := by decide +kernel

/-- Tiles out of reset with nothing planted, and in reset; scrubs at their first and last lines; a die with 4,096 errors; temperatures about 95 °C. -/
theorem witness_ScrubsAndHbm :
    (let s := { idle part0 with boot := { steps := 0x80 } }
     s.tilesUp = true ∧ (s.tile 0).mxu.chk = [] ∧ (s.tile 0).lsChk = [] ∧ State.reset.tilesUp = false) ∧
    (let c : Hbm := { scrub := some (0, 6), nextLine := 250000000 }
     c.scrub = some (0, 6) ∧ c.state ≠ 2 ∧ 0 + 6 * 3600000000000 ≤ (21600000000000 : Nat) ∧ ({ c with nextLine := 249999999 } : Hbm).nextLine ≠ 250000000 ∧
     ({} : Hbm).scrub = none) ∧
    ({} : Hbm).overErrors 3 = false ∧ ({ corrected := [(3, 4096)] } : Hbm).overErrors 3 = true ∧
    SMap.get 0 ({} : Hbm).dieState 3 ≠ 2 ∧ ({} : Hbm).state = 0 ∧ ({} : Hbm).lostDie = 0xF ∧ ({ hotSince := some 5 } : Hbm).hotSince = some 5 ∧
    ({} : Hbm).hotSince = none := by decide +kernel

/-- Tile 0 is held by a chain step of request 0: member 1 of so many, for 8 rows of chain 63. -/
def chainState (started : Bool) (allreduce : Bool) (next : Nat) (members : Nat) : State := { idle { part0 with
    chains := [(63, some { header := if allreduce then 0x200 else 0, members := List.replicate members 0 })] } with
  tiles := [(0, { chainHold := some 0 })],
  ledger := [(0, { state := .running, cstep := some ⟨63, 8, 1, 4088, 9, 0⟩, crun := { started := started, next := next } })] }

/-- A packet of the chain's last rows. -/
def pkt (first : Nat) : ChainPacket := ⟨63, 9, 8, 0, first, List.replicate (8 - first) 0⟩

/-- A step about to start and no step; the packet that ends the message at an inner and at the last member, one too early and one of another
message; DONE under each mode; a BREAK that matches and one that does not; a recall with room and without; recalls on their way; a log entry. -/
theorem witness_Chains :
    (let s := chainState false false 0 2
     s.stepAt (s.led 0).tile = some (0, ⟨63, 8, 1, 4088, 9, 0⟩, { header := 0, members := [0, 0] }) ∧ (s.led 0).state = .running ∧
     (s.led 0).crun.started = false ∧ (s.tile 0).run = none ∧ (s.tile 0).stopped = false ∧ (s.mxu 0).chk = [] ∧ (idle part0).stepAt 0 = none ∧
     s.startedStep 0 63 = none) ∧
    (let s := chainState true false 7 2
     let ch : Chain := { header := 0, members := [0, 0] }
     let c : ChainStep := ⟨63, 8, 1, 4088, 9, 0⟩
     s.startedStep 0 63 = some (0, c, ch) ∧ s.stepAt (s.led 0).tile = some (0, c, ch) ∧ (s.led 0).crun.started = true ∧
     chainMismatch c ch (pkt 7) = false ∧ chainMismatch c ch { pkt 7 with msg := 8 } = true ∧ c.member ≠ 0 ∧ (pkt 7).first = (s.led 0).crun.next ∧
     (pkt 7).data ≠ [] ∧ (pkt 7).data.length ≤ 8 ∧ (pkt 7).first + (pkt 7).data.length ≤ c.rows ∧ ((chainState true false 0 2).led 0).crun.next < (pkt 7).first ∧
     c.msg = 9 ∧ c.msg ≠ 8) ∧
    (let s := chainState true true 8 3
     (s.startedStep 0 63).isSome = true ∧ (s.led 0).crun.next = 8 ∧ 1 + 1 < (List.replicate 3 (0 : BitVec 16)).length ∧
     (pkt 0).first = (s.led 0).crun.nextFinal ∧ (pkt 0).data ≠ [] ∧ ({ header := 0x200 } : Chain).allreduce = true ∧ ({} : Chain).allreduce = false) ∧
    ((idle part0).valid 0 = true ∧ (parts64.map (fun m => (((idle part0).part m).notices.filter (·.chainRecall)).length)).sum < 256) ∧
    (let r : ChainRecall := { part := 0, steps := [], tile := 0, fromDev := 0, winStart := 0, winEnd := 0, late := false }
     let s (going : Bool) : State := { idle part0 with net := { recalls := [⟨1, r, 0, going⟩] } }
     (s true).net.recalls.all (·.going) = true ∧ (s false).net.recalls.all (·.going) = false) ∧
    (let x : ChainItem := ⟨0, 0, 63, 9, 0, 1, ⟨0, 0, 0, 0, 0, false, 0, 0, none⟩⟩
     { idle part0 with chainLog := [x] }.chainLog = [x] ∧ (idle part0).chainLog = []) := by decide +kernel

/-- A partition with 256 chain recalls to acknowledge. -/
def partFull : Part := { part0 with notices := List.replicate 256 { num := 1, tile := 0, fromDev := 0, winStart := 0, winEnd := 0, chainRecall := true } }

theorem witness_Chains_full : (partFull.notices.filter (·.chainRecall)).length = 256 := by decide +kernel

/-- Device 0 of an erg of two by one, past step 7, with link 0 in a state. -/
def linked (x : Link) : State := { idle part0 with
  cfg := { bcr := [(2, [2]), (3, [2]), (4, [1])] }, boot := { state := .ready, floor := 2, opened := true, steps := 0x80 }, links := [(0, x)] }

/-- A flit of a type with number 0, its CRC right (R295, R296). -/
def flitOf (type : Nat) : BitVec 2048 := BitVec.ofNat 2048 (type + crc32 (leBytes 252 type) * 2 ^ 2016)

set_option maxRecDepth 100000 in
/-- A flit with a wrong CRC, and good ones of types 0, 1 and 2. -/
theorem witness_LinksAndFabric_flits : crc32 (leBytes 252 (0 : BitVec 2048).toNat) ≠ fld (0 : BitVec 2048) 2016 32 ∧
    (∀ type ∈ [0, 1, 2], crc32 (leBytes 252 (flitOf type).toNat) = fld (flitOf type) 2016 32 ∧ fld (flitOf type) 0 2 = type ∧
      fld (flitOf type) 2 12 = 0 ∧ fld (flitOf type) 34 3 = 0) := by decide +kernel

/-- A read of line 0 from device 1, and its packet at link 0. -/
def np0 : NetPacket := ⟨0, 0, 7, 1, 3, .request (BitVec.ofNat 52 (2 ^ 46)) (.read 8)⟩

/-- An idle slot, a blank one and one with a packet to send on an UP link; a link that is not UP; a replay and the eighth send; training; an access
that completes; packets in sequence, out of it, with a wrong CRC and asked for before; a route that is up and one that is not. -/
theorem witness_LinksAndFabric :
    (let s := linked { state := 2, credits := [(0, 1)], egress := [{ key := 0, pkt := np0, vc := 0, left := 1 }] }
     let used : State := { s with arbs := [(18, { last := 0 })] }
     let blank : State := { s with arbs := [(18, { last := 0, blank := true })] }
     (s.link 0).state = 2 ∧ (s.arb 18).last = 0x7F ∧ (used.arb 18).last ≠ 0x7F ∧ (used.link 0).replayBuf.length < 512 ∧ (used.arb 18).blank = false ∧
     ((used.link 0).nextFor 0).isSome = true ∧ ((linked { state := 2 }).link 0).nextFor 0 = none ∧ (blank.arb 18).last ≠ 0x7F ∧ (blank.arb 18).blank = true ∧
     ((linked {}).link 0).state ≠ 2) ∧
    (let ups (x : Link) := ((linked x).routeLinks np0.dst).filter (fun l => ((linked x).link l).state == 2)
     ups { state := 2 } ≠ [] ∧ ups {} = []) ∧
    (({ state := 2 } : Link).rxSeq = 0 ∧ ({ state := 2, rxSeq := 1 } : Link).rxSeq ≠ 0) ∧
    (let x : Link := { state := 2, replayBuf := [⟨0, 0, 8, none⟩] }
     x.state = 2 ∧ x.replayBuf ≠ [] ∧ (∃ f ∈ x.replayBuf, 8 ≤ f.sends) ∧ (∀ f ∈ [SentFlit.mk 0 0 7 none], f.sends < 8)) ∧
    (let s := linked { state := 1 }
     (s.link 0).state.toNat < 2 ∧ s.tilesUp = true ∧ s.plant.lost.contains 10 = false ∧ s.neighbour 0 = some 1 ∧ (0 : BitVec 6).toNat ≠ 1) ∧
    (let r : HbmReq := { tag := 0, off := 0, kind := .packet { dev := 0, unit := 7 } (.read 8), done := 120 }
     let s : State := { idle part0 with hbm := [(0, { committed := [r] })] }
     firstDone (s.hbmc 0).committed = some (0, r) ∧ s.deviceNum = 0 ∧ ((idle part0).hbmc 0).committed = []) ∧
    (let s := idle { part0 with entry := { part0.entry with strict := true } }
     fld (0x80 : BitVec 8) 0 7 < 64 ∧ (0 : BitVec 66).getLsbD 0 = false ∧ (1 : BitVec 66).getLsbD 0 = true ∧ s.isStrict 0 = true ∧
     (idle part0).isStrict 0 = false ∧ ((idle part0).slotUser 0x3F 1).1 = 0) ∧
    (let p : Packet := ⟨0, 0x41, 0, true, 0, .read 8⟩
     let key := p.unit * 1024 + packetTarget p.pa.toNat
     p.seq = SMap.get 0 (idle part0).fabric.nextSeq key ∧ (idle part0).fabric.asked.contains (key, p.seq) = false ∧ p.tag.toNat < 0x42 ∧
     { p with seq := 1 }.seq ≠ SMap.get 0 (idle part0).fabric.nextSeq key ∧ { p with crcOk := false }.crcOk = false) := by decide +kernel

/-- A locked partition, a running clock and one that stands, a spare that is mapped, a tile slow since time 0 with no, one and two locked
partitions about, a second and a third reading out of rating, islands lost and not. -/
theorem witness_PowerPlant :
    (let about (s : State) := parts64.filter (fun n => s.valid n && (s.part n).paceRate.isSome && (s.tilesOf n).any (fun u => u / 16 == 15 / 16))
     let locked := { part0 with paceRate := some 340 }
     let s := idle locked
     (s.part 0).paceRate ≠ none ∧ s.plant.ciRunning = true ∧ about s = [0] ∧ about (idle part0) = [] ∧
     2 ≤ (about { s with parts := [(0, locked), (1, { locked with entry := { locked.entry with tiles := 2 } })] }).length) ∧
    ({ ciRunning := false } : Plant).ciRunning = false ∧
    ((0 : Fin 76).val < 72 ∧ (72 : Fin 76).val - 72 = 0 ∧ SMap.get 0xFF ([] : SMap (BitVec 8)) 0 = 0xFF ∧ SMap.get 0xFF ([(0, 5)] : SMap (BitVec 8)) 0 ≠ 0xFF) ∧
    SMap.get 0 ([(15, 1)] : SMap Nat) 15 ≠ 0 ∧ SMap.get 0 ([] : SMap Nat) 15 = 0 ∧
    2 ≤ SMap.get 0 ([(151, 2)] : SMap Nat) (2 * 75 + 1) ∧ SMap.get 0 ([(151, 1)] : SMap Nat) (2 * 75 + 1) < 2 ∧
    (idle part0).plant.lost.contains 14 = false ∧ ({ lost := [14] } : Plant).lost.contains 14 = true := by decide +kernel

/-- A state whose entropy unit is given. -/
def noisy (e : Entropy) : State := { idle part0 with eng := { entropy := e } }

/-- Its work waits for the engines. -/
def busy (n : Need) : Task := { work := .nonce 64, needs := [n], since := 3 }

/-- Samples that make the 81st equal one, and the 824th of a window, and neither; a window not full; states; work that starves and none; a slot that
its owner uses, and one that a Strict owner leaves blank. -/
theorem witness_Engines :
    (noisy { state := 1 }).eng.entropy.state = 1 ∧ ({ state := 2 } : Entropy).state = 2 ∧ ({} : Entropy).state ≠ 1 ∧ ({} : Entropy).state ≠ 2 ∧
    ({ window := [true] } : Entropy).window.length ≠ 1024 ∧
    (let len (e : Entropy) := let a := ((noisy e).atLeast (ceilDiv (noisy e).now 8 * 8)).windowEnd
       if a.eng.entropy.runLen ≠ 0 ∧ a.eng.entropy.runBit = true then a.eng.entropy.runLen + 1 else 1
     81 ≤ len { state := 1, runBit := true, runLen := 80 } ∧ len { state := 1, runBit := true, runLen := 79 } < 81 ∧ len { state := 1, runLen := 80 } < 81) ∧
    (let a := ((noisy { state := 1 }).atLeast (ceilDiv (noisy { state := 1 }).now 8 * 8)).windowEnd
     let win := a.eng.entropy.window ++ [true]
     (win.filter (fun b => b == win.headD true)).length < 824) ∧
    (let s : State := { idle part0 with eng := { tasks := [busy (.gen false 32)] } }
     s.eng.tasks.find? s.starved = some (busy (.gen false 32)) ∧ (idle part0).eng.tasks.find? (idle part0).starved = none) ∧
    (let s : State := { idle part0 with eng := { tasks := [busy .p384] }, arbs := [((engineSlot .signature).1, { index := 65 })] }
     s.engineReady .signature 65 = true ∧ (s.beginSlot .signature none).1 = 65 ∧ (s.beginSlot .signature none).2.engineReady .signature 65 = true) ∧
    (let s := idle { part0 with entry := { part0.entry with strict := true } }
     s.anyStrict = true ∧ (s.beginSlot .hash none).1 = 0 ∧ (s.beginSlot .hash none).2.engineReady .hash 0 = false ∧
     (s.beginSlot .hash none).2.isStrict 0 = true ∧ (s.beginSlot .hash none).2.anyStrict = true) := by decide +kernel

theorem witness_Engines_window : 824 ≤ (List.replicate 823 false ++ [false]).length ∧ (List.replicate 1024 false).length = 1024 := by
  rw [List.length_append, List.length_replicate, List.length_replicate]; decide

/-- Partition 0 with hash registers. -/
def hashing (h : HashRegs) : State := idle { part0 with hash := h }

/-- A GO that starts a job, one while a job runs, one with a misaligned digest and one that is not mapped; a job that has a segment to hash and one
that has none. -/
theorem witness_Engines_hash :
    (let v : Word := 0 ||| 0x80000000
     let set (s : State) := s.updPart 0 (fun p => { p with hash := { p.hash with ctl := v &&& 0x1FF03 } })
     let s := hashing { src := 0x40000000, len := 8, dst := 0x100 }
     let job : HashJob := ⟨0, [⟨0, 8⟩], 8, [], 0, [⟨2 ^ 44, 64⟩], false, 0, 0, []⟩
     (set s).hashBusy 0 = false ∧ (set (hashing { job := some job })).hashBusy 0 = true ∧ ({ dst := 8 } : HashRegs).dst.toNat % 64 ≠ 0 ∧
     ¬ ((2 ≤ fld v 0 2 ∧ fld v 8 8 = 0) ∨ v &&& 0xFFFFFFFF7FFE00FC ≠ 0 ∨ (s.part 0).hash.dst.toNat % 64 ≠ 0 ∨ 2 ^ 38 < (s.part 0).hash.len.toNat ∨
       (2 ≤ fld v 0 2 ∧ 128 < fld v 8 8)) ∧
     ((set s).range part0.root .load 0x40000000 8).1 = some [⟨0, 8⟩] ∧
     (((set s).range part0.root .load 0x40000000 8).2.range part0.root .store 0x100 64).1 = some [⟨2 ^ 44 + 0x100, 64⟩] ∧
     ((set s).range part0.root .load 0x80000000 8).1 = none ∧
     job.segs < job.segments ∧ ((hashing { job := some job }).readExtents 0 (cutExtents (65536 * job.segs) 65536 job.src)).1.isSome = true ∧
     (((hashing { job := some job }).readExtents 0 (cutExtents (65536 * job.segs) 65536 job.src)).2.part 0).hash.job = some job ∧
     (let j := { job with segs := 1, msg := zeros 8 }
      let s := hashing { job := some j }
      let d := (((s.acting 136).readExtents 0 j.key).2.writeExtents 0 j.dst (padTo 64 (jobDigest j.alg [] j.msg))).2
      j.segments ≤ j.segs ∧ ((s.acting 136).readExtents 0 j.key).1 = some [] ∧ (d.part 0).hash.job ≠ none ∧ d.net.waits = false)) := by
  decide +kernel

/-! Resets, start-up, attestation and the host's and the board's interfaces. -/

theorem witness_Resets : State.reset.boot.powerOk = true ∧ ({ powerOk := false } : Boot).powerOk = false ∧ State.reset.eng.entropy.state ≠ 3 ∧
    ({ state := 3 } : Entropy).state = 3 := by decide

/-- An image of one patch, `DEVICE` 0, signed outside the model under slot 0's key. -/
def image0 : List Byte :=
  let r := 0x98217af94ccab55c817abfde5dfc74a29e37aa316109c07ed3fe625f4df628b70acd7c55db8b960524480e8500b65690
  leBytes 8 0x000146434A53 ++ leBytes 8 1 ++ leBytes 16 264 ++ leBytes 128 (160 + 8 * 2 ^ 32) ++ leBytes 8 0x10001 ++ leBytes 48 r ++ leBytes 48 r

/-- The key of it. -/
def keyI : Nat × Nat := (0xeca0bb7a043dfc6624cc26e39792c2b7b5899602883cc55ffff6e3bf49961d706219d305c14a12db359288b7fc91d2c4,
  0xc66deb4d68342eb3bbbfb752ba654545329a6ba55301a88f468dd0bfad75f34a76ad84b81446b61344ad9297a5507b2f)

/-- A record with that key in slot 0, which authenticates. -/
def recordI : ProtRecord := { authentic := true, auth := [(0, { role := 1, keyX := BitVec.ofNat 384 keyI.1, keyY := BitVec.ofNat 384 keyI.2 })] }

/-- CONFIG_LOAD's checks pass. -/
theorem witness_ModesAndTests_image : ({ idle part0 with cfg := { prot := recordI } } : State).loadCheck image0 false = none ∧ padTo 264 image0 = image0 := by decide +kernel

/-- The device in start-up with the given steps ended. -/
def booting (steps : BitVec 12) (low : Bool) : State := { State.reset with boot := { state := .booting, steps := steps, low := low } }

/-- Each step when those before it have ended, and one whose time has not come. -/
theorem witness_Startup :
    State.reset.boot.state = .reset ∧ State.reset.boot.powerOk = true ∧ (booting 0 false).boot.state ≠ .reset ∧
    (booting 0x002 false).mayStep 3 [1] = true ∧ (booting 0 false).mayStep 3 [1] = false ∧ (booting 0 false).plant.ciRunning = true ∧
    (booting 0x004 false).mayStep 4 [2] = true ∧ (booting 0 false).mayStep 4 [2] = false ∧ (booting 0x004 false).mayStep 5 [2] = true ∧
    (booting 0 false).mayStep 5 [2] = false ∧ (booting 0x020 false).mayStep 6 [5] = true ∧ (booting 0x020 true).mayStep 6 [5] = true ∧
    (booting 0 false).mayStep 6 [5] = false ∧ (booting 0x050 false).mayStep 7 [4, 6] = true ∧ (booting 0 false).mayStep 7 [4, 6] = false ∧
    (booting 0x080 false).mayStep 8 [7] = true ∧ (booting 0 false).mayStep 8 [7] = false ∧ (booting 0x080 false).mayStep 9 [7] = true ∧
    (booting 0x080 false).boot.steps.getLsbD 0 = false ∧ (booting 0 false).boot.lostDies = [] ∧ (booting 0x081 false).mayStep 9 [0, 7] = true ∧
    (booting 0 false).mayStep 9 [0, 7] = false ∧ (booting 0x308 false).mayStep 11 [3, 8, 9] = true ∧ (booting 0x058 true).mayStep 11 [3, 4, 6] = true ∧
    (booting 0 false).mayStep 11 [3, 8, 9] = false := by decide +kernel

/-- A provisioned device whose record stands with a good image, one whose image fails, one without a record, and one not provisioned. -/
theorem witness_Startup_record :
    (let s := { booting 0x020 false with sec := { latched := [(6, 4)] }, cfg := { protA := recordI, slotA := image0 } }
     let a : State := { s with cfg := { s.cfg with prot := recordI, protInB := false, debugSinceCold := s.cfg.debugSinceCold || recordI.debug == 1 } }
     s.provisioned = true ∧ s.recordInForce = some (false, recordI) ∧ a.bootSlot recordI.auth (fun _ => recordI.parts) = some false ∧
     ({ a with cfg := { a.cfg with slotA := [] } } : State).bootSlot recordI.auth (fun _ => recordI.parts) = none) ∧
    (let s := { booting 0x020 false with sec := { latched := [(6, 4)] } }
     s.provisioned = true ∧ s.recordInForce = none) ∧
    (booting 0x020 false).provisioned = false ∧ (booting 0x020 false).bootSlot [] (fun img => (imageRecordOf img).parts) = none := by decide +kernel

/-- The host link up, VF 0 enabled, function 64 with a responder, and an entropy unit in a state. -/
def hosted (e : Entropy) (r : Responder) : State := { idle part0 with
  hostl := { width := 16, vfEnable := true, numVfs := 1, mse := [(0, true), (64, true)] }
  sec := { responders := [(64, r), (0, r)] }
  eng := { entropy := e } }

/-- A connection with a session, and a request that waits. -/
def resp1 (established : Bool) : Responder :=
  { sessions := [{ id := 7, established := established }], wait := some ⟨3, .challenge 0, 0⟩, conn := 3 }

theorem responds_hosted (e : Entropy) (r : Responder) (f : FnId) (h : (hosted e r).fnExists f.val = true) : Responds (hosted e r) f :=
  ⟨by show (16 : Nat) ≠ 0; decide, h, rfl⟩

/-- A connection at each point; entropy in each state; blocks that stand and one that does not; no, four and few sessions, and one of each kind. -/
theorem witness_SpdmRequests : Responds (hosted {} (resp1 true)) 0 ∧ Responds (hosted {} (resp1 false)) 64 ∧ InSession (hosted {} (resp1 true)) 7 ∧
    ((hosted {} { conn := 1 }).responder 64).conn = 1 ∧ ((hosted {} { conn := 2 }).responder 64).conn = 2 ∧ ((hosted {} { conn := 3 }).responder 64).conn = 3 ∧
    ((hosted {} {}).responder 64).conn ≠ 3 ∧
    ((hosted {} {}).measBlocks 64 1).isSome = true ∧ ((hosted {} {}).measBlocks 64 0x80).isNone = true ∧
    (hosted { state := 3 } {}).entropyDead = true ∧ (hosted {} {}).entropyDead = false ∧ (hosted { state := 1 } {}).eng.entropy.state = 1 ∧
    (hosted {} {}).eng.entropy.state = 0 ∧ (hosted { state := 2 } {}).eng.entropy.state = 2 ∧
    4 ≤ (List.replicate 4 ({ id := 7 } : Session)).length ∧ ((hosted {} {}).responder 64).sessions.length < 4 ∧ (hosted {} {}).boot.floor = 2 ∧
    ((hosted {} (resp1 true)).responder 64).wait = some ⟨3, .challenge 0, 0⟩ ∧ ((hosted {} {}).responder 64).wait = none ∧
    (hosted {} (resp1 true)).session 64 7 = some { id := 7, established := true } ∧ (hosted {} (resp1 false)).session 64 7 = some { id := 7 } ∧
    (SMap.get {} ([(5, { keyed := true })] : SMap IdeStream) 5).keyed = true ∧ (63 : Fin 66).val < 64 ∧ 64 ≤ (64 : Fin 66).val :=
  ⟨responds_hosted _ _ _ rfl, responds_hosted _ _ _ rfl, ⟨responds_hosted _ _ _ rfl, _, rfl, rfl⟩, by decide +kernel⟩

/-- Exchange data: the base point, each half big-endian. -/
def exchange0 : BitVec 768 := bytesBv 768 (beBytes 48 g384.1 ++ beBytes 48 g384.2)

theorem witness_SpdmRequests_key : validPoint (beNat (slice (bvBytes exchange0) 0 48)) (beNat (slice (bvBytes exchange0) 48 48)) = true := by decide +kernel

/-- An interface in each state, with its nonce, and a confidential partition. -/
theorem witness_Interfaces : InSession (hosted {} (resp1 true)) 7 ∧ (hosted {} (resp1 true)).fnExists 0 = true ∧
    ((hosted {} (resp1 true)).tdi 0).state = .configUnlocked ∧ ({ state := .configLocked, nonce := 5 } : Tdi).nonce = 5 ∧
    ({ state := .configLocked, nonce := 5 } : Tdi).state ≠ .configUnlocked ∧ ({ state := .run } : Tdi).state = .run ∧
    ((idle { part0 with conf := true }).part 0).conf = true :=
  ⟨⟨responds_hosted _ _ _ rfl, _, rfl, rfl⟩, rfl, rfl, rfl, by decide, rfl, rfl⟩

/-- VF 0 with its window open. -/
def vfState : State := { hosted {} {} with parts := [(0, { part0 with entry := { part0.entry with vfEn := true }, winEn := true, winBase := 0 })] }

/-- Functions that exist and not; windows that decode and not; accesses within a page; a range that is mapped and one that is not; a mailbox whose REQ
is clear and set; check-split on and off. -/
theorem witness_HostWindows :
    ({ vfState with boot := { state := .ready, opened := true, steps := 8 } } : State).stepDid 3 = true ∧ vfState.stepDid 3 = false ∧
    vfState.hostl.width ≠ 0 ∧ vfState.boot.state ≠ .reset ∧
    vfState.fnExists 0 = true ∧ vfState.fnExists 1 = false ∧ vfState.pfDecodes = true ∧ (hosted {} {}).vfDecodes 0 = false ∧ vfState.vfDecodes 0 = true ∧
    vfState.ideOk 0 false = true ∧ (vfState.part 0).winEn = true ∧ ({ vfState with hostl := {} } : State).pfDecodes = false ∧
    tlpOpOk 0xFF8 (.read 8) = true ∧ tlpOpOk 0xFF8 (.write (zeros 8)) = true ∧
    (vfState.readExtents 0x41 (cutRun 6 (vfState.pfBar2Pa 0xFF8) 8)).1.isSome = true ∧
    (let a := vfState.winFill 0 0x40000FF8
     (a.range (a.part 0).root .load 0x40000FF8 8).1 = some [⟨0xFF8, 8⟩] ∧ (a.range (a.part 0).root .store 0x40000FF8 8).1 = some [⟨0xFF8, 8⟩] ∧
     ((a.range (a.part 0).root .load 0x40000FF8 8).2.readExtents 0 (cutRun 6 0xFF8 8)).1.isSome = true ∧
     (a.range (a.part 0).root .store 0x80000000 8).1 = none) ∧
    (vfState.box 0).bellReq = false ∧ ({ bellReq := true } : Mailbox).bellReq = true ∧ 0xFFC % 4 = 0 ∧ 0xFFC + 4 ≤ 0x1000 ∧
    ({ vfState with boot := { checkSplit := 7 } } : State).csState (.tile 0) = (0x8018, true) ∧
    (({ vfState with boot := { checkSplit := 4 } } : State).csState (.hbm 7)).2 = true ∧ (vfState.csState (.hbm 7)).2 = false := by decide +kernel

/-- The clock of the board's ports, debug on and off, a confidential partition. -/
theorem witness_BoardPorts : (idle part0).i3cUp = true ∧ ({ idle part0 with plant := { lost := [12] } } : State).i3cUp = false ∧ (idle part0).debugOn = false ∧
    ({ idle part0 with cfg := { prot := { debug := 1, authentic := true } } } : State).debugOn = true ∧ (idle { part0 with conf := true }).anyConf = true := by
  decide +kernel

end Sys2Proof.Tests
end

section
/-!
When a partition's restart may begin, and what `PARTITION_RESTART` answers where it may not (R31, R499).
-/

namespace Sys2Proof.Machine

/-- The conditions of R31 and R499, one by one. -/
theorem State.mayRestart_iff {s : State} {n : Nat} : s.mayRestart n = true ↔
    s.valid n = true ∧ (s.part n).restart = none ∧ (∀ x ∈ (s.part n).notices, x.acked = true) ∧
      ∀ t ∈ s.tilesOf n, (s.tile t).health.running ≠ some .closing := by
  simp [State.mayRestart, and_assoc]

theorem State.mayRestart_false_of_unacked {s : State} {n : Nat} (unacked : ∃ x ∈ (s.part n).notices, x.acked = false) :
    s.mayRestart n = false := by
  obtain ⟨x, mem, notAcked⟩ := unacked
  refine Bool.eq_false_iff.mpr fun may => ?_
  obtain ⟨-, -, allAcked, -⟩ := State.mayRestart_iff.mp may
  simp [allAcked x mem] at notAcked

/-- A taken `PARTITION_RESTART` that may not begin has one answer and no other effect. -/
theorem exec_partitionRestart_of_mayNot {s : State} {m : MbxId} {tag : BitVec 16} {h : Held} (t : Takes s m tag 0x0802 noChk h)
    (mayNot : s.mayRestart (targetOf m h) = false) : exec (.partitionRestart m tag) s = .next (s.answer m h .notPermitted []) := by
  simp [execPartitionRestart, State.serve_takes t, mayNot]

/-- Settles O47: an unacknowledged notice fails R31's condition of `mayRestart`, so the command only answers. -/
theorem restartWaitsForRecalls : Obligations.RestartWaitsForRecalls :=
  fun _ _ _ _ takes unacked => exec_partitionRestart_of_mayNot takes (State.mayRestart_false_of_unacked unacked)

end Sys2Proof.Machine
end

section
/-!
What the integer instructions do where they are ready: the result in the destination register and no trap, and the corners of division (R88, R89).
-/

namespace Sys2Proof.Machine

/-- Division by zero (R89). -/
theorem mulDiv_by_zero (a : Word) :
    mulDiv 4 a 0 = BitVec.allOnes 64 ∧ mulDiv 5 a 0 = BitVec.allOnes 64 ∧ mulDiv 6 a 0 = a ∧ mulDiv 7 a 0 = a :=
  ⟨rfl, rfl, rfl, rfl⟩

/-- `div` by −1 negates, which leaves the most negative value as it is (R89). -/
theorem mulDiv_div_neg_one (a : Word) : mulDiv 4 a (BitVec.allOnes 64) = -a :=
  calc mulDiv 4 a (BitVec.allOnes 64) = BitVec.ofInt 64 (a.toInt.tdiv (-1)) := rfl
    _ = -a := by rw [Int.tdiv_neg, Int.tdiv_one, BitVec.ofInt_neg, BitVec.ofInt_toInt]

/-- `rem` by −1 leaves nothing (R89). -/
theorem mulDiv_rem_neg_one (a : Word) : mulDiv 6 a (BitVec.allOnes 64) = 0 :=
  calc mulDiv 6 a (BitVec.allOnes 64) = BitVec.ofInt 64 (a.toInt.tmod (-1)) := rfl
    _ = 0 := congrArg (BitVec.ofInt 64) ((Int.tmod_neg _ _).trans (Int.tmod_one _))

/-- A value computed from the scalar unit and written to an X register is a plain register write. -/
theorem State.updTsu_setX (s : State) (t d : Nat) (f : Tsu → Word) :
    s.updTsu t (fun r => r.setX d (f r)) = s.setX t d (f (s.tile t).tsu) := rfl

/-- Each row of `integerRows` is a row of the TSU alone, and its instruction writes the row's result to one X register. -/
theorem exec_integerRows (s : State) {t : TileId} {w : BitVec 32} {u : Upset} {e : Instr × SisRow × (Tsu → Word)}
    (he : e ∈ integerRows t w u) : exec e.1 s = .next (s.sisReg t w u e.2.1 (fun r => r.setX (wRd w) (e.2.2 r))) ∧
      e.2.1.reaches = false ∧ e.2.1.queued = false := by
  fin_cases he <;> exact ⟨rfl, rfl, rfl⟩

/-- Of the integer rows only its own holds `multiplyDivide`. -/
theorem integerRows_multiplyDivide {t : TileId} {w : BitVec 32} {u : Upset} {e : Instr × SisRow × (Tsu → Word)}
    (he : e ∈ integerRows t w u) (h : e.1 = .multiplyDivide t w u) (r : Tsu) :
    e.2.2 r = mulDiv (wFn w) (r.xr (wRa w)) (r.xr (wRb w)) := by
  fin_cases he <;> cases h
  rfl

/-- A ready integer instruction writes its destination and falls through. -/
theorem exec_integer_ready {s : State} {t : TileId} {w : BitVec 32} {u : Upset} {e : Instr × SisRow × (Tsu → Word)}
    (he : e ∈ integerRows t w u) (h : Ready s t (wordRow w) e.2.1 u) :
    ∃ s', exec e.1 s = .next s' ∧ StepsTo s s' t e.2.1 ((s.tile t).tsu.pc + 4) ∧ XWrite s s' t (wRd w) (e.2.2 (s.tile t).tsu) ∧
      (s'.tile t).tsu.tip = (s.tile t).tsu.tip := by
  obtain ⟨runs, reaches, queued⟩ := exec_integerRows s he
  refine ⟨_, ?_, stepsTo_setX s t (wRd w) (e.2.2 (s.tile t).tsu) _ e.2.1 queued⟩
  rw [runs, State.sisReg_ready h reaches, State.updTsu_setX, State.tile_spend]

/-- Such a step sets the PC and leaves the trap registers. -/
theorem StepsTo.trapRegisters {s s' : State} {t : Nat} {row : SisRow} {pc : Word} (h : StepsTo s s' t row pc) :
    (s'.tile t).tsu.pc = pc ∧ (s'.tile t).tsu.epc = (s.tile t).tsu.epc ∧ (s'.tile t).tsu.cause = (s.tile t).tsu.cause := by
  obtain ⟨-, tile⟩ := h
  rw [tile]
  exact ⟨rfl, rfl, rfl⟩

/-- Settles O9: division by zero is `mulDiv`'s own case, division by −1 negates, and every integer row falls through. -/
theorem divideCorners : Obligations.DivideCorners := by
  refine ⟨mulDiv_by_zero, (mulDiv_div_neg_one _).trans BitVec.neg_intMin, mulDiv_rem_neg_one _, fun s t w u e he ready => ?_⟩
  obtain ⟨s', next, steps, write, tip⟩ := exec_integer_ready he ready
  obtain ⟨pc, epc, cause⟩ := steps.trapRegisters
  refine ⟨s', next, pc, tip, epc, cause, fun mul => ?_⟩
  rwa [integerRows_multiplyDivide he mul] at write

end Sys2Proof.Machine
end

section
/-!
An instruction word that decodes to no row: the TSU traps before the instruction has any effect (R86), which is what a gather over its own
index register meets (R124).
-/

namespace Sys2Proof.Machine

theorem State.dropRanks_net (s : State) (i : Nat) : (s.dropRanks i).net = s.net :=
  List.foldlRecOn (motive := fun (x : State) => x.net = s.net) _ _ rfl fun _ kept _ _ => kept

theorem State.endPass_net (s : State) (t : Nat) (e : RankEnd) : (s.endPass t e).net = s.net := by
  unfold State.endPass
  split
  · rfl
  · dsimp only
    split
    · rfl
    · exact State.dropRanks_net _ _

/-- A trap sends nothing and waits for no other device, whether its handler or the end of the pass takes it (R106, R107). -/
theorem State.trapT_net (s : State) (t c : Nat) (v : Word) : (s.trapT t c v).net = s.net := by
  unfold State.trapT
  dsimp only
  split
  · exact State.endPass_net _ _ _
  · rfl

/-- A word that decodes to nothing raises ILLEGAL_INSTRUCTION with the word in `TCR_TVAL` (R86, R105). -/
theorem State.begin_illegal {s : State} {t : Nat} {w : BitVec 32} {u : Upset} {f : State → Flow × State}
    (aligned : (s.tile t).tsu.pc.toNat % 4 = 0) (twins : u ≠ .mismatch) :
    s.begin t w none u f = s.trapT t 0x01 (w.zeroExtend 64) := by
  simp [State.begin, aligned, twins]

section
variable {s : State} {t : Nat} {w : BitVec 32} {d : Option SisRow} {u : Upset} {row : SisRow} {f : State → Flow × State}
  (runs : s.running t = true) (idle : (s.tile t).queue = []) (tokens : s.maySpend t row.units = true) (calm : row.calm u = true)
include runs idle tokens calm

/-- With nothing queued, a token and no upset, the step at a word is the TSU's beginning of it, whatever the word decodes to. -/
theorem State.sisStep_begin : s.sisStep t w d u row f = (s.spend t row.units).begin t w d u f := by
  simp [State.sisStep, SisRow.calm_strike calm, State.unitsFirst_idle u row idle, runs, Tile.open', idle, tokens]

variable (aligned : (s.tile t).tsu.pc.toNat % 4 = 0)
include aligned

/-- At an illegal word the TSU takes its token and traps. -/
theorem State.sisStep_illegal : s.sisStep t w none u row f = (s.spend t row.units).trapT t 0x01 (w.zeroExtend 64) := by
  rw [State.sisStep_begin runs idle tokens calm, State.begin_illegal _ (SisRow.calm_mismatch calm)]
  rwa [State.tile_spend]

/-- The trap is all that an illegal word's instruction does; no response of another device is awaited for it (R86, R312). -/
theorem State.sis_illegal : s.sis t w none u row f = s.taken t row (fun s => s.trapT t 0x01 (w.zeroExtend 64)) := by
  unfold State.sis State.taken
  rw [if_neg (by simp [runs])]
  cases row.reaches with
  | true =>
    have trap : (s.acting t).sisStep t w none u row f = ((s.acting t).spend t row.units).trapT t 0x01 (w.zeroExtend 64) :=
      State.sisStep_illegal runs idle tokens calm aligned
    have answered : ((s.acting t).sisStep t w none u row f).net.waits = false := by
      rw [trap, State.trapT_net]
      rfl
    rw [if_pos (by simp), State.retry_done answered, trap, if_pos rfl]
  | false => rw [if_neg (by simp [idle]), State.sisStep_illegal runs idle tokens calm aligned, if_neg (by simp)]

end

/-- `vlx` whose destination is its index register decodes to no row (R124). -/
theorem wordRow_gatherOverIndex {w : BitVec 32} (major : wMajor w = 0x31) (form : fld w 2 3 = 3) (same : wRd w = wRb w) :
    wordRow w = none := by
  simp [wordRow, sisRow, vectorRow, vecMemRow, rowIf, major, form, same]

/-- Settles O24: the word decodes to no row, so its trap is all that happens. -/
theorem gatherOverItsIndex : Obligations.GatherOverItsIndex := by
  intro s t w u runs aligned idle tokens calm major form same
  have illegal : sisRow w (fun _ => none) = none := wordRow_gatherOverIndex major form same
  rw [exec_vlx, execVlx, State.sisV, State.sisQ, illegal, State.sis_illegal (row := .vlx) runs idle tokens calm aligned]

end Sys2Proof.Machine
end

section
/-!
What a step does to the block as a whole: it removes the front command, keeps every table canonical, and never takes CI13 back but for the two
commands after which it counts anew (R50, R494).
-/

namespace Sys2Proof.Machine

theorem State.reset_canon : State.reset.Canon :=
  ⟨rfl, rfl, rfl, rfl, rfl, rfl, rfl, rfl, rfl, rfl, Nat.zero_le _⟩

/-- What a reset keeps holds no table of the device. -/
theorem State.kept_canon (s : State) : s.kept.Canon :=
  ⟨rfl, rfl, rfl, rfl, rfl, rfl, rfl, rfl, rfl, rfl, Nat.zero_le _⟩

/-- With every tile stopped the table of tiles is canonical. -/
theorem stoppedTiles_wf : SMap.wf ({} : Tile) ((List.range 64).map (fun t => (t, { stopped := true }))) = true := by
  decide

/-- The fall of `PWR_OK` keeps the time and the queue, and what a reset keeps (R558). -/
theorem execPwrOkFall_keeps {s : State} : NextKeeps s (execPwrOkFall s) := by
  unfold execPwrOkFall
  split
  · exact .mk (.refl s)
  · refine .mk (Keeps.lit (Keeps.foldl ?_ fun _ _ h => State.updHbm_keeps h))
    exact ⟨fun _ => ⟨rfl, stoppedTiles_wf, rfl, rfl, rfl, rfl, rfl, rfl, rfl, rfl, Nat.zero_le _⟩, rfl, Nat.le_refl _⟩

/-- It is enough to know a command by its meaning. -/
theorem NextKeeps.of {s : State} {o o' : Host.Outcome State Fault Refusal} (h : o = o') (k : NextKeeps s o') : NextKeeps s o := h ▸ k

/-- Every command but the two after which CI13 counts anew answers a state that keeps what `Keeps` says. -/
theorem exec_keeps {s : State} {c : Instr} (notCold : c ≠ .coldReset) (notLoss : c ≠ .lossOfPower) : NextKeeps s (exec c s) := by
  cases c with
  | coldReset => exact absurd rfl notCold
  | warmReset => exact .of (exec_warmReset ..) execWarmReset_keeps
  | vfFlr => exact .of (exec_vfFlr ..) execVfFlr_keeps
  | d3hotEntry => exact .of (exec_d3hotEntry ..) execD3hotEntry_keeps
  | startupT0 => exact .of (exec_startupT0 ..) execStartupT0_keeps
  | hostLinkUp => exact .of (exec_hostLinkUp ..) execHostLinkUp_keeps
  | startupSelfTest => exact .of (exec_startupSelfTest ..) execStartupSelfTest_keeps
  | firmwareBundleLoad => exact .of (exec_firmwareBundleLoad ..) execFirmwareBundleLoad_keeps
  | protectedRecordRead => exact .of (exec_protectedRecordRead ..) execProtectedRecordRead_keeps
  | pairsRelease => exact .of (exec_pairsRelease ..) execPairsRelease_keeps
  | entropyStartup => exact .of (exec_entropyStartup ..) execEntropyStartup_keeps
  | hbmTraining => exact .of (exec_hbmTraining ..) execHbmTraining_keeps
  | hbmZeroing => exact .of (exec_hbmZeroing ..) execHbmZeroing_keeps
  | configurationApply => exact .of (exec_configurationApply ..) execConfigurationApply_keeps
  | pwrOkFall => exact .of (exec_pwrOkFall ..) execPwrOkFall_keeps
  | pwrBrakeAssert => exact .of (exec_pwrBrakeAssert ..) execPwrBrakeAssert_keeps
  | pwrBrakeRelease => exact .of (exec_pwrBrakeRelease ..) execPwrBrakeRelease_keeps
  | vrHotAssert => exact .of (exec_vrHotAssert ..) execVrHotAssert_keeps
  | clockLoss => exact .of (exec_clockLoss ..) execClockLoss_keeps
  | paceWindowEnd => exact .of (exec_paceWindowEnd ..) execPaceWindowEnd_keeps
  | powerLoopTick => exact .of (exec_powerLoopTick ..) execPowerLoopTick_keeps
  | paceDeficit => exact .of (exec_paceDeficit ..) execPaceDeficit_keeps
  | outOfRating => exact .of (exec_outOfRating ..) execOutOfRating_keeps
  | hbmTempRead => exact .of (exec_hbmTempRead ..) execHbmTempRead_keeps
  | hbmThermal => exact .of (exec_hbmThermal ..) execHbmThermal_keeps
  | tokenRelease => exact .of (exec_tokenRelease ..) execTokenRelease_keeps
  | healthPassDue => exact .of (exec_healthPassDue ..) execHealthPassDue_keeps
  | healthPassStart => exact .of (exec_healthPassStart ..) execHealthPassStart_keeps
  | journalThreshold => exact .of (exec_journalThreshold ..) execJournalThreshold_keeps
  | healthPassEnd => exact .of (exec_healthPassEnd ..) execHealthPassEnd_keeps
  | closingPassEnd => exact .of (exec_closingPassEnd ..) execClosingPassEnd_keeps
  | recallNoticePost => exact .of (exec_recallNoticePost ..) execRecallNoticePost_keeps
  | faultEventPost => exact .of (exec_faultEventPost ..) execFaultEventPost_keeps
  | stallDeclare => exact .of (exec_stallDeclare ..) execStallDeclare_keeps
  | acmScrubRead => exact .of (exec_acmScrubRead ..) execAcmScrubRead_keeps
  | lsScrubRead => exact .of (exec_lsScrubRead ..) execLsScrubRead_keeps
  | hbmScrubRead => exact .of (exec_hbmScrubRead ..) execHbmScrubRead_keeps
  | hbmRefresh => exact .of (exec_hbmRefresh ..) execHbmRefresh_keeps
  | hbmDieLost => exact .of (exec_hbmDieLost ..) execHbmDieLost_keeps
  | arbiterSlotStart => exact .of (exec_arbiterSlotStart ..) execArbiterSlotStart_keeps
  | hbmAccessComplete => exact .of (exec_hbmAccessComplete ..) execHbmAccessComplete_keeps
  | engineSlotStart => exact .of (exec_engineSlotStart ..) execEngineSlotStart_keeps
  | engineKat => exact .of (exec_engineKat ..) execEngineKat_keeps
  | admissionWindow => exact .of (exec_admissionWindow ..) execAdmissionWindow_keeps
  | strictMailboxPost => exact .of (exec_strictMailboxPost ..) execStrictMailboxPost_keeps
  | entropyWindowEnd => exact .of (exec_entropyWindowEnd ..) execEntropyWindowEnd_keeps
  | entropyRestart => exact .of (exec_entropyRestart ..) execEntropyRestart_keeps
  | entropyWaitTimeout => exact .of (exec_entropyWaitTimeout ..) execEntropyWaitTimeout_keeps
  | linkFlitSend => exact .of (exec_linkFlitSend ..) execLinkFlitSend_keeps
  | linkFlitReceive => exact .of (exec_linkFlitReceive ..) execLinkFlitReceive_keeps
  | linkReplay => exact .of (exec_linkReplay ..) execLinkReplay_keeps
  | linkFailedAfterReplay => exact .of (exec_linkFailedAfterReplay ..) execLinkFailedAfterReplay_keeps
  | linkTrainingEnd => exact .of (exec_linkTrainingEnd ..) execLinkTrainingEnd_keeps
  | fabricPacketArrive => exact .of (exec_fabricPacketArrive ..) execFabricPacketArrive_keeps
  | sqTailWrite => exact .of (exec_sqTailWrite ..) execSqTailWrite_keeps
  | cqHeadWrite => exact .of (exec_cqHeadWrite ..) execCqHeadWrite_keeps
  | submitPass => exact .of (exec_submitPass ..) execSubmitPass_keeps
  | submitMove => exact .of (exec_submitMove ..) execSubmitMove_keeps
  | submitStream => exact .of (exec_submitStream ..) execSubmitStream_keeps
  | submitStreamClose => exact .of (exec_submitStreamClose ..) execSubmitStreamClose_keeps
  | dispatch => exact .of (exec_dispatch ..) execDispatch_keeps
  | moveDispatch => exact .of (exec_moveDispatch ..) execMoveDispatch_keeps
  | passStart => exact .of (exec_passStart ..) execPassStart_keeps
  | completionReady => exact .of (exec_completionReady ..) execCompletionReady_keeps
  | completionPost => exact .of (exec_completionPost ..) execCompletionPost_keeps
  | streamNextPass => exact .of (exec_streamNextPass ..) execStreamNextPass_keeps
  | queueDmaFailure => exact .of (exec_queueDmaFailure ..) execQueueDmaFailure_keeps
  | atsInvalidation => exact .of (exec_atsInvalidation ..) execAtsInvalidation_keeps
  | l1FillComplete => exact .of (exec_l1FillComplete ..) execL1FillComplete_keeps
  | talonFillComplete => exact .of (exec_talonFillComplete ..) execTalonFillComplete_keeps
  | discardWritebackAck => exact .of (exec_discardWritebackAck ..) execDiscardWritebackAck_keeps
  | tlbWalkComplete => exact .of (exec_tlbWalkComplete ..) execTlbWalkComplete_keeps
  | deferredFault => exact .of (exec_deferredFault ..) execDeferredFault_keeps
  | integerAlu => exact .of (exec_integerAlu ..) execIntegerAlu_keeps
  | aluImmediate => exact .of (exec_aluImmediate ..) execAluImmediate_keeps
  | shiftImmediate => exact .of (exec_shiftImmediate ..) execShiftImmediate_keeps
  | movhi => exact .of (exec_movhi ..) execMovhi_keeps
  | pcrel => exact .of (exec_pcrel ..) execPcrel_keeps
  | multiplyDivide => exact .of (exec_multiplyDivide ..) execMultiplyDivide_keeps
  | load => exact .of (exec_load ..) execLoad_keeps
  | store => exact .of (exec_store ..) execStore_keeps
  | atomic => exact .of (exec_atomic ..) execAtomic_keeps
  | branch => exact .of (exec_branch ..) execBranch_keeps
  | jl => exact .of (exec_jl ..) execJl_keeps
  | jlr => exact .of (exec_jlr ..) execJlr_keeps
  | trap => exact .of (exec_trap ..) execTrap_keeps
  | tret => exact .of (exec_tret ..) execTret_keeps
  | rdtime => exact .of (exec_rdtime ..) execRdtime_keeps
  | pdone => exact .of (exec_pdone ..) execPdone_keeps
  | brk => exact .of (exec_brk ..) execBrk_keeps
  | tcrr => exact .of (exec_tcrr ..) execTcrr_keeps
  | tcrw => exact .of (exec_tcrw ..) execTcrw_keeps
  | fenceRel => exact .of (exec_fenceRel ..) execFenceRel_keeps
  | fenceAcq => exact .of (exec_fenceAcq ..) execFenceAcq_keeps
  | fenceRelAll => exact .of (exec_fenceRelAll ..) execFenceRelAll_keeps
  | fenceAcqAll => exact .of (exec_fenceAcqAll ..) execFenceAcqAll_keeps
  | cpf => exact .of (exec_cpf ..) execCpf_keeps
  | cwb => exact .of (exec_cwb ..) execCwb_keeps
  | cwbi => exact .of (exec_cwbi ..) execCwbi_keeps
  | czero => exact .of (exec_czero ..) execCzero_keeps
  | iinv => exact .of (exec_iinv ..) execIinv_keeps
  | iinvAll => exact .of (exec_iinvAll ..) execIinvAll_keeps
  | fpArithmetic => exact .of (exec_fpArithmetic ..) execFpArithmetic_keeps
  | fpSign => exact .of (exec_fpSign ..) execFpSign_keeps
  | fpFused => exact .of (exec_fpFused ..) execFpFused_keeps
  | fpConversion => exact .of (exec_fpConversion ..) execFpConversion_keeps
  | fkind => exact .of (exec_fkind ..) execFkind_keeps
  | setvl => exact .of (exec_setvl ..) execSetvl_keeps
  | vgetvl => exact .of (exec_vgetvl ..) execVgetvl_keeps
  | vld => exact .of (exec_vld ..) execVld_keeps
  | vldu => exact .of (exec_vldu ..) execVldu_keeps
  | vldFf => exact .of (exec_vldFf ..) execVldFf_keeps
  | vlx => exact .of (exec_vlx ..) execVlx_keeps
  | vst => exact .of (exec_vst ..) execVst_keeps
  | vstu => exact .of (exec_vstu ..) execVstu_keeps
  | vsx => exact .of (exec_vsx ..) execVsx_keeps
  | vectorInteger => exact .of (exec_vectorInteger ..) execVectorInteger_keeps
  | vmerge => exact .of (exec_vmerge ..) execVmerge_keeps
  | vectorCompare => exact .of (exec_vectorCompare ..) execVectorCompare_keeps
  | vectorFloat => exact .of (exec_vectorFloat ..) execVectorFloat_keeps
  | vfcvtFrom => exact .of (exec_vfcvtFrom ..) execVfcvtFrom_keeps
  | vfcvtTo => exact .of (exec_vfcvtTo ..) execVfcvtTo_keeps
  | vfcvtInteger => exact .of (exec_vfcvtInteger ..) execVfcvtInteger_keeps
  | maskLogic => exact .of (exec_maskLogic ..) execMaskLogic_keeps
  | kpopcKfirst => exact .of (exec_kpopcKfirst ..) execKpopcKfirst_keeps
  | vlmVsm => exact .of (exec_vlmVsm ..) execVlmVsm_keeps
  | vectorReduction => exact .of (exec_vectorReduction ..) execVectorReduction_keeps
  | vectorScalarMove => exact .of (exec_vectorScalarMove ..) execVectorScalarMove_keeps
  | vectorPermutation => exact .of (exec_vectorPermutation ..) execVectorPermutation_keeps
  | vxDeal => exact .of (exec_vxDeal ..) execVxDeal_keeps
  | vxCombinePut => exact .of (exec_vxCombinePut ..) execVxCombinePut_keeps
  | vxCombineSum => exact .of (exec_vxCombineSum ..) execVxCombineSum_keeps
  | mxLdw => exact .of (exec_mxLdw ..) execMxLdw_keeps
  | mxRun => exact .of (exec_mxRun ..) execMxRun_keeps
  | mxDrain => exact .of (exec_mxDrain ..) execMxDrain_keeps
  | mxZero => exact .of (exec_mxZero ..) execMxZero_keeps
  | mxSwap => exact .of (exec_mxSwap ..) execMxSwap_keeps
  | chainStepStart => exact .of (exec_chainStepStart ..) execChainStepStart_keeps
  | chainPacketReceive => exact .of (exec_chainPacketReceive ..) execChainPacketReceive_keeps
  | chainDoneReceive => exact .of (exec_chainDoneReceive ..) execChainDoneReceive_keeps
  | chainBreakReceive => exact .of (exec_chainBreakReceive ..) execChainBreakReceive_keeps
  | chainWaitExpiry => exact .of (exec_chainWaitExpiry ..) execChainWaitExpiry_keeps
  | chainRecallReceive => exact .of (exec_chainRecallReceive ..) execChainRecallReceive_keeps
  | chainRecallResend => exact .of (exec_chainRecallResend ..) execChainRecallResend_keeps
  | chainLogAging => exact .of (exec_chainLogAging ..) execChainLogAging_keeps
  | rootDrained => exact .of (exec_rootDrained ..) execRootDrained_keeps
  | mapUpdateDrainTimeout => exact .of (exec_mapUpdateDrainTimeout ..) execMapUpdateDrainTimeout_keeps
  | regionUpdateStart => exact .of (exec_regionUpdateStart ..) execRegionUpdateStart_keeps
  | regionUpdateComplete => exact .of (exec_regionUpdateComplete ..) execRegionUpdateComplete_keeps
  | regionRetireComplete => exact .of (exec_regionRetireComplete ..) execRegionRetireComplete_keeps
  | hashGo => exact .of (exec_hashGo ..) execHashGo_keeps
  | hashJobComplete => exact .of (exec_hashJobComplete ..) execHashJobComplete_keeps
  | quietPointReached => exact .of (exec_quietPointReached ..) execQuietPointReached_keeps
  | quietTimeout => exact .of (exec_quietTimeout ..) execQuietTimeout_keeps
  | protectedRecordWritten => exact .of (exec_protectedRecordWritten ..) execProtectedRecordWritten_keeps
  | proposalExpiry => exact .of (exec_proposalExpiry ..) execProposalExpiry_keeps
  | restartPassEnd => exact .of (exec_restartPassEnd ..) execRestartPassEnd_keeps
  | mbxBellReq => exact .of (exec_mbxBellReq ..) execMbxBellReq_keeps
  | mbxMessageTake => exact .of (exec_mbxMessageTake ..) execMbxMessageTake_keeps
  | mbxBellRspDone => exact .of (exec_mbxBellRspDone ..) execMbxBellRspDone_keeps
  | mbxEvtHeadWrite => exact .of (exec_mbxEvtHeadWrite ..) execMbxEvtHeadWrite_keeps
  | segmentGapTimeout => exact .of (exec_segmentGapTimeout ..) execSegmentGapTimeout_keeps
  | devInfo => exact .of (exec_devInfo ..) execDevInfo_keeps
  | devStatus => exact .of (exec_devStatus ..) execDevStatus_keeps
  | paceReport => exact .of (exec_paceReport ..) execPaceReport_keeps
  | configLoad => exact .of (exec_configLoad ..) execConfigLoad_keeps
  | setMode => exact .of (exec_setMode ..) execSetMode_keeps
  | configRead => exact .of (exec_configRead ..) execConfigRead_keeps
  | protectPropose => exact .of (exec_protectPropose ..) execProtectPropose_keeps
  | protectApprove => exact .of (exec_protectApprove ..) execProtectApprove_keeps
  | protectCommit => exact .of (exec_protectCommit ..) execProtectCommit_keeps
  | protectWithdraw => exact .of (exec_protectWithdraw ..) execProtectWithdraw_keeps
  | authorityList => exact .of (exec_authorityList ..) execAuthorityList_keeps
  | mapUpdate => exact .of (exec_mapUpdate ..) execMapUpdate_keeps
  | regionCreate => exact .of (exec_regionCreate ..) execRegionCreate_keeps
  | regionUpdate => exact .of (exec_regionUpdate ..) execRegionUpdate_keeps
  | regionRetire => exact .of (exec_regionRetire ..) execRegionRetire_keeps
  | regionStatus => exact .of (exec_regionStatus ..) execRegionStatus_keeps
  | queueCreate => exact .of (exec_queueCreate ..) execQueueCreate_keeps
  | queueDestroy => exact .of (exec_queueDestroy ..) execQueueDestroy_keeps
  | anteSet => exact .of (exec_anteSet ..) execAnteSet_keeps
  | ledgerQuery => exact .of (exec_ledgerQuery ..) execLedgerQuery_keeps
  | chainDefine => exact .of (exec_chainDefine ..) execChainDefine_keeps
  | chainRelease => exact .of (exec_chainRelease ..) execChainRelease_keeps
  | attestDevice => exact .of (exec_attestDevice ..) execAttestDevice_keeps
  | attestPartition => exact .of (exec_attestPartition ..) execAttestPartition_keeps
  | grainSeed => exact .of (exec_grainSeed ..) execGrainSeed_keeps
  | keyInstall => exact .of (exec_keyInstall ..) execKeyInstall_keeps
  | confidentialEnter => exact .of (exec_confidentialEnter ..) execConfidentialEnter_keeps
  | errorLogRead => exact .of (exec_errorLogRead ..) execErrorLogRead_keeps
  | partitionRestart => exact .of (exec_partitionRestart ..) execPartitionRestart_keeps
  | recallAck => exact .of (exec_recallAck ..) execRecallAck_keeps
  | checkSplitEnable => exact .of (exec_checkSplitEnable ..) execCheckSplitEnable_keeps
  | selfTestRun => exact .of (exec_selfTestRun ..) execSelfTestRun_keeps
  | powerEnvelope => exact .of (exec_powerEnvelope ..) execPowerEnvelope_keeps
  | paceLock => exact .of (exec_paceLock ..) execPaceLock_keeps
  | csRawRead => exact .of (exec_csRawRead ..) execCsRawRead_keeps
  | csRawWrite => exact .of (exec_csRawWrite ..) execCsRawWrite_keeps
  | pfBar2Access => exact .of (exec_pfBar2Access ..) execPfBar2Access_keeps
  | vfBar2Access => exact .of (exec_vfBar2Access ..) execVfBar2Access_keeps
  | registerWrite => exact .of (exec_registerWrite ..) execRegisterWrite_keeps
  | i3cWriteCapW => exact .of (exec_i3cWriteCapW ..) execI3cWriteCapW_keeps
  | i3cReadFlags => exact .of (exec_i3cReadFlags ..) execI3cReadFlags_keeps
  | tapInstruction => exact .of (exec_tapInstruction ..) execTapInstruction_keeps
  | uartInput => exact .of (exec_uartInput ..) execUartInput_keeps
  | getVersion => exact .of (exec_getVersion ..) execGetVersion_keeps
  | getCapabilities => exact .of (exec_getCapabilities ..) execGetCapabilities_keeps
  | negotiateAlgorithms => exact .of (exec_negotiateAlgorithms ..) execNegotiateAlgorithms_keeps
  | getDigests => exact .of (exec_getDigests ..) execGetDigests_keeps
  | getCertificate => exact .of (exec_getCertificate ..) execGetCertificate_keeps
  | challenge => exact .of (exec_challenge ..) execChallenge_keeps
  | getMeasurements => exact .of (exec_getMeasurements ..) execGetMeasurements_keeps
  | keyExchange => exact .of (exec_keyExchange ..) execKeyExchange_keeps
  | finish => exact .of (exec_finish ..) execFinish_keeps
  | heartbeat => exact .of (exec_heartbeat ..) execHeartbeat_keeps
  | spdmHeartbeatTimeout => exact .of (exec_spdmHeartbeatTimeout ..) execSpdmHeartbeatTimeout_keeps
  | keyUpdate => exact .of (exec_keyUpdate ..) execKeyUpdate_keeps
  | endSession => exact .of (exec_endSession ..) execEndSession_keeps
  | respondIfReady => exact .of (exec_respondIfReady ..) execRespondIfReady_keeps
  | spdmUnsupportedRequest => exact .of (exec_spdmUnsupportedRequest ..) execSpdmUnsupportedRequest_keeps
  | ideKm => exact .of (exec_ideKm ..) execIdeKm_keeps
  | getTdispVersion => exact .of (exec_getTdispVersion ..) execGetTdispVersion_keeps
  | getTdispCapabilities => exact .of (exec_getTdispCapabilities ..) execGetTdispCapabilities_keeps
  | lockInterfaceRequest => exact .of (exec_lockInterfaceRequest ..) execLockInterfaceRequest_keeps
  | getDeviceInterfaceReport => exact .of (exec_getDeviceInterfaceReport ..) execGetDeviceInterfaceReport_keeps
  | getDeviceInterfaceState => exact .of (exec_getDeviceInterfaceState ..) execGetDeviceInterfaceState_keeps
  | startInterfaceRequest => exact .of (exec_startInterfaceRequest ..) execStartInterfaceRequest_keeps
  | stopInterfaceRequest => exact .of (exec_stopInterfaceRequest ..) execStopInterfaceRequest_keeps
  | reportSnapshotExpiry => exact .of (exec_reportSnapshotExpiry ..) execReportSnapshotExpiry_keeps
  | configurationRequest => exact .of (exec_configurationRequest ..) execConfigurationRequest_keeps
  | lossOfPower => exact absurd rfl notLoss
  | noiseSourceSample => exact .of (exec_noiseSourceSample ..) execNoiseSourceSample_keeps
  | knownPatternTestEnd => exact .of (exec_knownPatternTestEnd ..) execKnownPatternTestEnd_keeps
  | flashWriteComplete => exact .of (exec_flashWriteComplete ..) execFlashWriteComplete_keeps

/-- Those two keep the queue and leave no table (R533, R559). -/
theorem exec_anew {s : State} {c : Instr} (h : c = .coldReset ∨ c = .lossOfPower) :
    ∃ t, exec c s = .next t ∧ t.Canon ∧ t.pending = s.pending := by
  rcases h with rfl | rfl
  · exact ⟨_, rfl, s.kept_canon, rfl⟩
  · exact ⟨_, rfl, ⟨rfl, rfl, rfl, rfl, rfl, rfl, rfl, rfl, rfl, rfl, Nat.zero_le _⟩, rfl⟩

/-- Every command answers a state, keeps the canonical form and leaves the queue alone. -/
theorem exec_next (s : State) (c : Instr) : ∃ t, exec c s = .next t ∧ (s.Canon → t.Canon) ∧ t.pending = s.pending := by
  by_cases h : c = .coldReset ∨ c = .lossOfPower
  · obtain ⟨t, next, canon, queue⟩ := exec_anew (s := s) h
    exact ⟨t, next, fun _ => canon, queue⟩
  · obtain ⟨notCold, notLoss⟩ := not_or.mp h
    obtain ⟨t, next, canon, queue, -⟩ := exec_keeps (s := s) notCold notLoss
    exact ⟨t, next, canon, queue⟩

theorem step_nil {s : State} (h : s.pending = []) : step s = .next (tick s) := by
  rw [step, h]

theorem step_cons {s : State} {c : Instr} {rest : List Instr} (h : s.pending = c :: rest) : step s = exec c { s with pending := rest } := by
  rw [step, h]

/-- The canonical form says nothing of the queue. -/
theorem State.Canon.withPending {s : State} (h : s.Canon) (rest : List Instr) : ({ s with pending := rest } : State).Canon :=
  { h with }

/-- Every step answers a state, keeps the canonical form and removes the front command alone. -/
theorem step_next (s : State) : ∃ t, step s = .next t ∧ (s.Canon → t.Canon) ∧ t.pending = s.pending.tail := by
  cases h : s.pending with
  | nil =>
    obtain ⟨canon, queue, -⟩ := tick_keeps (.refl s)
    exact ⟨_, step_nil h, canon, queue.trans h⟩
  | cons c rest =>
    obtain ⟨t, next, canon, queue⟩ := exec_next { s with pending := rest } c
    exact ⟨t, (step_cons h).trans next, fun k => canon (k.withPending rest), queue⟩

/-- Settles O1: both are `step`'s own cases. -/
theorem stepRunsFront : Obligations.StepRunsFront :=
  ⟨fun _ _ => rfl, fun _ h => step_nil h⟩

/-- Settles O2: every field of the reset state is its default. -/
theorem resetValues : Obligations.ResetValues :=
  ⟨rfl, rfl, rfl, rfl, rfl, rfl, rfl, rfl, fun _ => rfl, fun _ => rfl, fun _ r => by simp [State.xr, Tsu.xr, State.tile, State.reset], fun _ => rfl, fun _ => rfl, fun _ => rfl,
    fun _ => rfl, fun _ => rfl, rfl, rfl, rfl⟩

/-- Settles O3. -/
theorem resetCanon : Obligations.ResetCanon := State.reset_canon

/-- Settles O4, from what every command keeps. -/
theorem canonKept : Obligations.CanonKept := by
  intro s t canon next
  obtain ⟨t', next', keeps, -⟩ := step_next s
  cases next'.symm.trans next
  exact keeps canon

/-- Settles O5, from what every command keeps. -/
theorem queueKept : Obligations.QueueKept := by
  intro s t next
  obtain ⟨t', next', -, queue⟩ := step_next s
  cases next'.symm.trans next
  exact queue

/-- Settles O6: the front command is none of the two that `exec_keeps` leaves out. -/
theorem timeGoesForward : Obligations.TimeGoesForward := by
  intro s t notCold notLoss next
  cases h : s.pending with
  | nil =>
    cases (step_nil h).symm.trans next
    exact (tick_keeps (.refl s)).2.2
  | cons c rest =>
    rw [h] at notCold notLoss
    obtain ⟨t', next', -, -, forward⟩ := exec_keeps (s := { s with pending := rest }) (c := c)
      (fun e => notCold (congrArg some e)) (fun e => notLoss (congrArg some e))
    cases (next'.symm.trans (step_cons h).symm).trans next
    exact forward

/-- Settles O7. -/
theorem noStop : Obligations.NoStop := fun s => (step_next s).imp fun _ h => h.1

/-- Settles O8: each row writes its result to its destination and falls through. -/
theorem integerResult : Obligations.IntegerResult := fun _ _ _ _ _ he ready => exec_integer_ready he ready

end Sys2Proof.Machine
end

section
/-!
What the scalar floating instructions leave alone (R90): they write one register and raise flags, and nothing else.
-/

namespace Sys2Proof.Machine

/-- From `u` to `v` the scalar unit has written at most X or F register `rd` and raised flags. -/
structure Tsu.Raises (rd : Nat) (u v : Tsu) : Prop where
  rest : v = { u with x := v.x, f := v.f, fflags := v.fflags }
  regs : ∀ k, k ≠ rd → v.xr k = u.xr k ∧ v.fr k = u.fr k
  sticky : v.fflags &&& u.fflags = u.fflags

theorem Tsu.setX_raises (u : Tsu) (rd : Nat) (v : Word) : Tsu.Raises rd u (u.setX rd v) := by
  have rest : u.setX rd v = { u with x := (u.setX rd v).x } := by
    unfold Tsu.setX
    split <;> rfl
  refine ⟨by rw [rest], fun k other => ⟨?_, by rw [rest]; rfl⟩, by rw [rest]; exact BitVec.and_self⟩
  rw [Tsu.xr_setX, if_neg fun h => other h.1]

theorem Tsu.setF_raises (u : Tsu) (rd : Nat) (v : Word) : Tsu.Raises rd u (u.setF rd v) :=
  ⟨rfl, fun _ other => ⟨rfl, SMap.get_put_ne 0 u.f other v⟩, BitVec.and_self⟩

/-- Raising flags keeps those that are set (R90). -/
theorem Tsu.Raises.raise {rd : Nat} {u v : Tsu} (h : Tsu.Raises rd u v) (f : FFlags) : Tsu.Raises rd u (v.raise f) where
  rest := by
    obtain ⟨rest, -, -⟩ := h
    rw [rest]
    rfl
  regs := h.regs
  sticky := by
    have sticky := h.sticky
    have spread : (v.fflags ||| f) &&& u.fflags = (v.fflags &&& u.fflags) ||| (f &&& u.fflags) := by
      ext i
      simp [Bool.and_or_distrib_right]
    show (v.fflags ||| f) &&& u.fflags = u.fflags
    rw [spread, sticky]
    ext i
    cases h : u.fflags[i] <;> simp [h]

theorem Tsu.fres_raises (u : Tsu) (rd : Nat) (r : FRes) : Tsu.Raises rd u (u.fres rd r) := (u.setF_raises rd _).raise _

theorem Tsu.cmpRes_raises (u : Tsu) (rd : Nat) (r : Bool × FFlags) : Tsu.Raises rd u (u.cmpRes rd r) := (u.setX_raises rd _).raise _

theorem fpArith_raises (w : BitVec 32) (u : Tsu) : Tsu.Raises (wRd w) u (fpArith w u) := by
  unfold fpArith
  extract_lets
  split
  all_goals first
    | exact u.fres_raises _ _
    | exact u.cmpRes_raises _ _

theorem fpSignOp_raises (w : BitVec 32) (u : Tsu) : Tsu.Raises (wRd w) u (fpSignOp w u) := u.setF_raises _ _

theorem fpFusedOp_raises (w : BitVec 32) (u : Tsu) : Tsu.Raises (wRd w) u (fpFusedOp w u) := u.fres_raises _ _

theorem fpConv_raises (w : BitVec 32) (u : Tsu) : Tsu.Raises (wRd w) u (fpConv w u) := by
  unfold fpConv
  extract_lets f rm rd x int
  have toInt (signed : Bool) : Tsu.Raises rd u (int signed) := (u.setX_raises rd _).raise _
  split
  all_goals first
    | exact toInt _
    | exact u.fres_raises _ _
    | exact u.setX_raises _ _
    | exact u.setF_raises _ _

/-- Each row of `floatRows` is a row of the TSU alone that writes one register and raises flags. -/
theorem exec_floatRows (s : State) {t : TileId} {w : BitVec 32} {u : Upset} {e : Instr × SisRow × (Tsu → Tsu)}
    (he : e ∈ floatRows t w u) : exec e.1 s = .next (s.sisReg t w u e.2.1 e.2.2) ∧ e.2.1.reaches = false ∧ e.2.1.queued = false ∧
      ∀ r, Tsu.Raises (wRd w) r (e.2.2 r) := by
  fin_cases he
  · exact ⟨rfl, rfl, rfl, fpArith_raises w⟩
  · exact ⟨rfl, rfl, rfl, fpSignOp_raises w⟩
  · exact ⟨rfl, rfl, rfl, fpFusedOp_raises w⟩
  · exact ⟨rfl, rfl, rfl, fpConv_raises w⟩

/-- The tile after a change of its scalar unit that retires. -/
theorem State.tile_updTsu_retire (s : State) (t : Nat) (row : SisRow) (f : Tsu → Tsu) (p : Word) :
    (((s.spend t row.units).updTsu t f).retire t p).tile t = { s.tile t with
      tokens := spendTokens (s.tile t).tokens row.units,
      tsu := { f (s.tile t).tsu with pc := p, retired := (f (s.tile t).tsu).retired + 1 } } := by
  simp [State.retire, State.updTsu, State.spend]

theorem onlyTile_updTsu_retire (s : State) (t : Nat) (row : SisRow) (f : Tsu → Tsu) (p : Word) :
    OnlyTile s (((s.spend t row.units).updTsu t f).retire t p) t :=
  ((onlyTile_spend _ _ _).trans (onlyTile_updTile _ _ _)).trans (onlyTile_retire _ _ _)

/-- Settles O10: each row writes one register and raises flags, then falls through. -/
theorem floatResult : Obligations.FloatResult := by
  intro s t w u e he ready
  obtain ⟨next, reaches, queued, raises⟩ := exec_floatRows s he
  obtain ⟨rest, regs, sticky⟩ := raises (s.tile t).tsu
  have tile := s.tile_updTsu_retire t e.2.1 e.2.2 ((s.tile t).tsu.pc + 4)
  have steps : e.2.1.steps = e.2.1.units := by simp [SisRow.steps, queued]
  have retired : (e.2.2 (s.tile t).tsu).retired = (s.tile t).tsu.retired := by rw [rest]
  refine ⟨_, next.trans (congrArg _ (State.sisReg_ready ready reaches)), onlyTile_updTsu_retire s t e.2.1 e.2.2 _, ?_, ?_, ?_, ?_⟩
  · rw [tile, steps, retired]
  · rw [tile]
    dsimp only
    rw [retired]
    exact congrArg (fun r : Tsu => { r with pc := (s.tile t).tsu.pc + 4, retired := (s.tile t).tsu.retired + 1 }) rest
  · intro k other
    rw [State.xr, State.fr, tile]
    exact regs k other
  · rw [tile]
    exact sticky

end Sys2Proof.Machine
end

section
/-!
Control transfer, the software trap, the end of a pass and the system group (R50, R94, R102, R105–R109).
-/

namespace Sys2Proof.Machine

/-! Instructions of the TSU alone. -/

/-- An instruction that issues into no queue pays for its own units alone. -/
theorem State.paid_unqueued (s : State) (t : Nat) {row : SisRow} (q : row.queued = false) : s.paid t row = s.spend t row.units := by
  simp [State.paid, q]

section
variable {s : State} {t : Nat} {w : BitVec 32} {u : Upset} {row : SisRow} {f : State → Flow × State} {z : State}
  (ready : Ready s t (wordRow w) row u) (inside : row.reaches = false)
include ready inside

/-- A ready scalar instruction ends as its own effect on the state that paid for its units. -/
theorem State.sis1_ready : s.sis1 t w u row f = State.finish t w (s.tile t).tsu.pc (f (s.spend t row.units)) :=
  State.sis_ready ready inside

theorem State.sis1_falls (e : f (s.spend t row.units) = (.next, z)) (r : z.running t = true) :
    s.sis1 t w u row f = z.retire t ((s.tile t).tsu.pc + 4) := by
  rw [State.sis1_ready ready inside, e, State.finish_next r, if_neg (major_of_wordRow ready.word)]

theorem State.sis1_jumps {p : Word} (e : f (s.spend t row.units) = (.jump p, z)) (r : z.running t = true) :
    s.sis1 t w u row f = z.retire t p := by
  rw [State.sis1_ready ready inside, e, State.finish_jump r]

theorem State.sis1_traps {c : Nat} {v : Word} (e : f (s.spend t row.units) = (.trap c v, s.spend t row.units)) :
    s.sis1 t w u row f = (s.spend t row.units).trapT t c v := by
  rw [State.sis1_ready ready inside, e, State.finish_trap (by rw [State.running_spend, ready.runs])]

end

/-! Branches, jumps and the return from a trap. -/

section
variable {s : State} {t : TileId} {w : BitVec 32} {u : Upset}

/-- A ready branch goes to its target or falls through. -/
theorem exec_branch_ready (ready : Ready s t (wordRow w) .branch u) : exec (.branch t w u) s = .next ((s.spend t SisRow.branch.units).retire t
    (if condHolds (fld w 13 3) (s.xr t (wRd w)) (s.xr t (wRa w)) then (s.tile t).tsu.pc + sext64 13 (fld w 0 13) * 4
     else (s.tile t).tsu.pc + 4)) := by
  have runs : (s.spend t SisRow.branch.units).running t = true := by rw [State.running_spend, ready.runs]
  rw [exec_branch, execBranch]
  split
  · next taken => rw [State.sis1_jumps ready rfl (by rw [State.tile_spend]; exact if_pos taken) runs]
  · next missed => rw [State.sis1_falls ready rfl (by rw [State.tile_spend]; exact if_neg missed) runs]

theorem State.running_spend_setX (s : State) (t d : Nat) (us : List TileUnit) (v : Word) :
    ((s.spend t us).setX t d v).running t = s.running t := by
  rw [State.running_setX, State.running_spend]

/-- `jl` writes its link and goes to its target. -/
theorem exec_jl_ready (ready : Ready s t (wordRow w) .jl u) : exec (.jl t w u) s = .next
    (((s.spend t SisRow.jl.units).setX t (wRd w) ((s.tile t).tsu.pc + 4)).retire t ((s.tile t).tsu.pc + sext64 21 (fld w 0 21) * 4)) := by
  rw [exec_jl, execJl, State.sis1_jumps ready rfl (by rw [State.tile_spend]) (by rw [State.running_spend_setX, ready.runs])]

theorem exec_jlr_ready (ready : Ready s t (wordRow w) .jlr u) : exec (.jlr t w u) s = .next
    (((s.spend t SisRow.jlr.units).setX t (wRd w) ((s.tile t).tsu.pc + 4)).retire t ((s.xr t (wRa w) + sext64 16 (wImm w)) &&& ~~~3)) := by
  rw [exec_jlr, execJlr, State.sis1_jumps ready rfl (by rw [State.tile_spend]) (by rw [State.running_spend_setX, ready.runs])]
  rfl

/-- `tret` clears `TIP` and goes to `TCR_EPC` (R106). -/
theorem exec_tret_ready (ready : Ready s t (wordRow w) .tret u) : exec (.tret t w u) s = .next
    (((s.spend t SisRow.tret.units).updTsu t (fun r => { r with tip := false })).retire t (s.tile t).tsu.epc) := by
  rw [exec_tret, execTret, State.sis1_jumps ready rfl (by rw [State.tile_spend]) (by rw [State.running_updTsu, State.running_spend, ready.runs])]

/-- Settles O11: each goes to its target, with the link or `TIP` written. -/
theorem controlTransfer : Obligations.ControlTransfer := by
  intro s t w u
  refine ⟨fun ready => ⟨_, exec_branch_ready ready, stepsTo_retire s t .branch _ rfl⟩,
    fun ready => ⟨_, exec_jl_ready ready, stepsTo_setX s t (wRd w) _ _ .jl rfl⟩,
    fun ready => ⟨_, exec_jlr_ready ready, stepsTo_setX s t (wRd w) _ _ .jlr rfl⟩,
    fun ready => ⟨_, exec_tret_ready ready, ⟨onlyTile_updTsu_retire s t .tret _ _, ?_⟩, ?_, ?_⟩⟩
  all_goals simp only [State.lvu, State.tile_updTsu_retire]
  rfl

end

/-! The software trap. -/

/-- `trap` raises SOFTWARE_TRAP with its code (R105). -/
theorem exec_trap_ready {s : State} {t : TileId} {w : BitVec 32} {u : Upset} (ready : Ready s t (wordRow w) .trap u) :
    exec (.trap t w u) s = .next ((s.paid t .trap).trapT t 0x07 (BitVec.ofNat 64 (fld w 6 15))) := by
  rw [exec_trap, execTrap, State.sis1_traps ready rfl rfl, State.paid_unqueued s t rfl]

/-- Taking the ranks of a request out of their hands leaves what a tile runs. -/
theorem State.tile_dropRanks (s : State) (i k : Nat) :
    ∃ hand taken, (s.dropRanks i).tile k = { s.tile k with hand := hand, taken := taken } := by
  refine List.foldlRecOn (motive := fun (x : State) => ∃ hand taken, x.tile k = { s.tile k with hand := hand, taken := taken }) _ _
    ⟨_, _, rfl⟩ fun x h a _ => ?_
  obtain ⟨hand, taken, e⟩ := h
  dsimp only
  rw [State.tile_updTile]
  split
  · next same =>
    subst same
    rw [e]
    exact ⟨_, _, rfl⟩
  · exact ⟨hand, taken, e⟩

theorem State.ledger_dropRanks (s : State) (i : Nat) : (s.dropRanks i).ledger = s.ledger :=
  List.foldlRecOn (motive := fun (x : State) => x.ledger = s.ledger) _ _ rfl fun _ kept _ _ => kept

/-- After the end of its pass a tile runs none, has nothing queued, and is else as before but for its hand. -/
theorem State.tile_endPass {s : State} {t : Nat} {p : PassCtx} (e : RankEnd) (runs : (s.tile t).run = some p) :
    ∃ hand taken, (s.endPass t e).tile t = { s.tile t with run := none, queue := [], hand := hand, taken := taken } := by
  unfold State.endPass
  rw [runs]
  dsimp only
  split
  · exact ⟨_, _, by rw [State.updPart_tile, State.updLed_tile, State.tile_updTile_self]⟩
  · obtain ⟨hand, taken, h⟩ := State.tile_dropRanks _ _ t
    refine ⟨hand, taken, h.trans ?_⟩
    simp

theorem State.run_endPass (s : State) (t : Nat) (e : RankEnd) : ((s.endPass t e).tile t).run = none := by
  cases runs : (s.tile t).run with
  | none => simp [State.endPass, runs]
  | some p =>
    obtain ⟨hand, taken, h⟩ := State.tile_endPass e runs
    rw [h]

/-- What a request keeps of the end of tile t's pass `p`: the pass's rank, and the flags and counters of the tile (R94, R107, R352). -/
def State.rankEnd (s : State) (t : Nat) (p : PassCtx) (e : RankEnd) : RankEnd :=
  let m := (s.tile t).mxu
  { e with
    rank := p.rank, flags := (s.tile t).tsu.fflags ||| (s.tile t).lvu.flags ||| m.flags, stats := m.stats, sat := m.sat.toNat,
    flush := m.flush.toNat, nan := m.nan.toNat, hist := SMap.getMany 0 m.hist 0 64 }

theorem State.ends_endPass {s : State} {t : Nat} {p : PassCtx} (e : RankEnd) (runs : (s.tile t).run = some p) :
    ((s.endPass t e).led p.ix).ends = (s.led p.ix).ends ++ [s.rankEnd t p e] := by
  unfold State.endPass
  rw [runs]
  dsimp only
  split
  · simp only [State.updPart_led, State.led_updLed, State.updTile_led, if_true]
    rfl
  · rw [State.led, State.ledger_dropRanks, ← State.led]
    simp only [State.updPart_led, State.led_updLed, State.updTile_led, if_true]
    rfl

/-- Settles O12: the trap of the state that paid for the TSU's step. -/
theorem softwareTrap : Obligations.SoftwareTrap := by
  intro s t w u ready r
  have tile := s.tile_paid t .trap
  refine ⟨fun handler outside => ⟨_, exec_trap_ready ready, ?_⟩, fun ends => ⟨_, exec_trap_ready ready, ?_⟩⟩
  · rw [State.trapT_handler (by rw [tile]; exact handler) (by rw [tile]; exact outside)]
    refine ⟨(onlyTile_paid s t .trap).trans (onlyTile_updTile _ _ _), ?_⟩
    rw [State.updTsu, State.tile_updTile_self, tile]
    rfl
  · rw [State.trapT_ends (by rw [tile]; exact ends)]
    exact ⟨State.run_endPass _ _ _, rfl⟩

end Sys2Proof.Machine
end

section
/-!
What the TSU meets before an instruction has any effect of its own: a word that decodes to nothing, a misaligned PC, the twin's mismatch, an
audit's difference and upsets of stored bits (R86, R105–R107, R110, R138, R164); and the instructions of the system group (R50, R102, R109).
-/

namespace Sys2Proof.Machine

@[simp] theorem State.acting_tile (s : State) (n k : Nat) : (s.acting n).tile k = s.tile k := rfl
@[simp] theorem State.acted_tile (s x : State) (k : Nat) : (s.acted x).tile k = x.tile k := rfl

/-- The state that tile t's instruction of a row begins in: one that reaches memory waits for other devices' responses (R312). -/
def State.met (s : State) (t : Nat) (row : SisRow) : State := if row.reaches then s.acting t else s

theorem State.met_cases (s : State) (t : Nat) (row : SisRow) : s.met t row = s ∨ s.met t row = s.acting t := by
  unfold State.met
  split <;> simp

theorem Ready.met {s : State} {t : Nat} {d : Option SisRow} {u : Upset} {row : SisRow} (h : Ready s t d row u) :
    Ready (s.met t row) t d row u := by
  rcases s.met_cases t row with e | e <;> rw [e]
  exacts [h, h.acting t]

/-- What is done to a tile in the state it begins in shows in the state it leaves. -/
theorem State.taken_tile (s : State) (t : Nat) (row : SisRow) (f : State → State) (k : Nat) :
    (s.taken t row f).tile k = (f ((s.met t row).spend t row.units)).tile k := by
  unfold State.taken State.met
  split <;> rfl

/-- Where nothing is queued, the tile runs and its units may step, and the word is the row's or illegal, the step is what the TSU begins. -/
theorem State.sis_open {s : State} {t : Nat} {w : BitVec 32} {d : Option SisRow} {u : Upset} {row : SisRow} {f : State → Flow × State}
    {g : State → State} (calm : ∀ a : State, a.strike t u = a) (runs : s.running t = true) (idle : (s.tile t).queue = [])
    (tokens : s.maySpend t row.units = true) (word : d = none ∨ d = some row)
    (begins : ((s.met t row).spend t row.units).begin t w d u f = g ((s.met t row).spend t row.units)) (prompt : s.prompt t row g) :
    s.sis t w d u row f = s.taken t row g := by
  have ok : (!s.running t || (d.isSome && d != some row)) = false := by
    rcases word with rfl | rfl <;> simp [runs]
  have step : (s.met t row).sisStep t w d u row f = g ((s.met t row).spend t row.units) := by
    have idle' : ((s.met t row).tile t).queue = [] := by rcases s.met_cases t row with e | e <;> rw [e] <;> exact idle
    have runs' : (s.met t row).running t = true := by rcases s.met_cases t row with e | e <;> rw [e] <;> exact runs
    have tokens' : (s.met t row).maySpend t row.units = true := by rcases s.met_cases t row with e | e <;> rw [e] <;> exact tokens
    rw [State.sisStep, calm, State.unitsFirst_idle u row idle']
    simp only [runs', Tile.open', idle', tokens', List.isEmpty_nil, Bool.true_or, Bool.not_true, Bool.or_self, Bool.false_eq_true, if_false]
    exact begins
  rw [State.sis, ok, if_neg Bool.false_ne_true, idle, State.taken]
  rw [State.met] at step
  cases reaches : row.reaches with
  | false => rwa [reaches, if_neg Bool.false_ne_true] at step
  | true =>
    rw [reaches, if_pos rfl] at step
    rw [if_pos (by rfl), State.retry_done (by rw [step]; exact prompt reaches), step]
    rfl

/-! Traps before the instruction's own effect. -/

theorem State.prompt_trapT (s : State) (t : Nat) (row : SisRow) (c : Nat) (v : Word) : s.prompt t row (fun s => s.trapT t c v) :=
  fun _ => by rw [State.trapT_net]; rfl

/-- A trap that a handler takes changes its tile alone, whether or not the row reaches memory (R106). -/
theorem State.taken_trapT_handler {s : State} {t : Nat} {row : SisRow} {c : Nat} {v : Word} (handler : (s.tile t).tsu.tvec ≠ 0)
    (outside : (s.tile t).tsu.tip = false) :
    let s' := s.taken t row (fun s => s.trapT t c v)
    OnlyTile s s' t ∧ s'.tile t = { s.tile t with
      tokens := spendTokens (s.tile t).tokens row.units,
      tsu := { (s.tile t).tsu with
        epc := (s.tile t).tsu.pc, cause := BitVec.ofNat 8 c, tval := v, tip := true, pc := (s.tile t).tsu.tvec } } := by
  have trap : ∀ a : State, a.tile t = s.tile t → (a.spend t row.units).trapT t c v = (a.spend t row.units).updTsu t (fun u => { u with
      epc := u.pc, cause := BitVec.ofNat 8 c, tval := v, tip := true, pc := u.tvec }) := fun a same =>
    State.trapT_handler (by rw [State.tile_spend, same]; exact handler) (by rw [State.tile_spend, same]; exact outside)
  intro s'
  cases reaches : row.reaches with
  | false =>
    have e : s' = (s.spend t row.units).trapT t c v := if_neg (by rw [reaches]; exact Bool.false_ne_true)
    rw [e, trap s rfl]
    exact ⟨(onlyTile_spend _ _ _).trans (onlyTile_updTile _ _ _), by simp [State.updTsu, State.tile_spend]⟩
  | true =>
    have e : s' = s.acted (((s.acting t).spend t row.units).trapT t c v) := if_pos reaches
    rw [e, trap (s.acting t) rfl]
    refine ⟨⟨rfl, fun k other => ?_⟩, ?_⟩
    · rw [State.acted_tile, State.updTsu, State.tile_updTile_ne _ _ other, State.spend, State.tile_updTile_ne _ _ other, State.acting_tile]
    · rw [State.acted_tile, State.updTsu, State.tile_updTile_self, State.tile_spend, State.acting_tile]

/-- A trap that no handler takes ends the pass (R107). -/
theorem State.taken_trapT_ends {s : State} {t : Nat} {row : SisRow} {c : Nat} {v : Word}
    (ends : (s.tile t).tsu.tvec = 0 ∨ (s.tile t).tsu.tip = true) : ((s.taken t row (fun s => s.trapT t c v)).tile t).run = none := by
  have trap : ∀ a : State, a.tile t = s.tile t → (((a.spend t row.units).trapT t c v).tile t).run = none := fun a same => by
    rw [State.trapT_ends (by rw [State.tile_spend, same]; exact ends)]
    exact State.run_endPass _ _ _
  unfold State.taken
  split
  · exact trap (s.acting t) rfl
  · exact trap s rfl

/-- Settles O13: the TSU begins no instruction at a misaligned PC, and none whose word decodes to nothing. -/
theorem illegalWord : Obligations.IllegalWord := by
  intro s t w ext u e he runs idle tokens calm r took
  obtain ⟨f, next⟩ := exec_sisInstrs s he
  have twins : u ≠ .mismatch := SisRow.calm_mismatch calm
  have took' (c : Nat) (v : Word) : took c v (s.taken t e.2.1 (fun s => s.trapT t c v)) :=
    ⟨rfl, State.taken_trapT_handler, State.taken_trapT_ends⟩
  refine ⟨fun aligned illegal => ⟨_, ?_, took' _ _⟩, fun misaligned word => ⟨_, ?_, took' _ _⟩⟩
  · rw [next, illegal, State.sis_illegal runs idle tokens calm aligned]
  · rw [next, State.sis_open (fun a => SisRow.calm_strike calm a t) runs idle tokens word ?_ (s.prompt_trapT t e.2.1 0x05 r.pc)]
    unfold State.begin
    rw [if_neg twins, State.tile_spend]
    rcases s.met_cases t e.2.1 with m | m <;> rw [m] <;> exact if_pos misaligned

/-! Checkers and upsets. -/

/-- What an instruction for a queue does: its checks at issue, then the issue (R86, R91). -/
def queueEffect (t : Nat) (w ext : BitVec 32) (row : SisRow) (u : Upset) (s : State) : Flow × State :=
  match s.issueTrap t w ext row with
  | some (c, v) => (.trap c v, s)
  | none => (.next, s.issue t w ext u row)

/-- The instructions of the TSU, for every upset, with their rows. -/
def scalarTable (t : TileId) (w : BitVec 32) : List ((Upset → Instr) × SisRow) :=
  [(.integerAlu t w, .integerAlu), (.aluImmediate t w, .aluImmediate), (.shiftImmediate t w, .shiftImmediate), (.movhi t w, .movhi),
   (.pcrel t w, .pcrel), (.multiplyDivide t w, .multiplyDivide), (.load t w, .load), (.store t w, .store), (.atomic t w, .atomic),
   (.branch t w, .branch), (.jl t w, .jl), (.jlr t w, .jlr), (.trap t w, .trap), (.tret t w, .tret), (.rdtime t w, .rdtime),
   (.pdone t w, .pdone), (.brk t w, .brk), (.tcrr t w, .tcrr), (.tcrw t w, .tcrw), (.fenceRel t w, .fenceRel), (.fenceAcq t w, .fenceAcq),
   (.fenceRelAll t w, .fenceRelAll), (.fenceAcqAll t w, .fenceAcqAll), (.cpf t w, .cpf), (.cwb t w, .cwb), (.cwbi t w, .cwbi),
   (.czero t w, .czero), (.iinv t w, .iinv), (.iinvAll t w, .iinvAll), (.fpArithmetic t w, .fpArithmetic), (.fpSign t w, .fpSign),
   (.fpFused t w, .fpFused), (.fpConversion t w, .fpConversion), (.fkind t w, .fkind)]

/-- Those of the vector queue. -/
def vectorTable (t : TileId) (w : BitVec 32) : List ((Upset → Instr) × SisRow) :=
  [(.setvl t w, .setvl), (.vgetvl t w, .vgetvl), (.vld t w, .vld), (.vldu t w, .vldu), (.vldFf t w, .vldFf), (.vlx t w, .vlx),
   (.vst t w, .vst), (.vstu t w, .vstu), (.vsx t w, .vsx), (.vectorInteger t w, .vectorInteger), (.vmerge t w, .vmerge),
   (.vectorCompare t w, .vectorCompare), (.vectorFloat t w, .vectorFloat), (.vfcvtFrom t w, .vfcvtFrom), (.vfcvtTo t w, .vfcvtTo),
   (.vfcvtInteger t w, .vfcvtInteger), (.maskLogic t w, .maskLogic), (.kpopcKfirst t w, .kpopcKfirst), (.vlmVsm t w, .vlmVsm),
   (.vectorReduction t w, .vectorReduction), (.vectorScalarMove t w, .vectorScalarMove), (.vectorPermutation t w, .vectorPermutation),
   (.vxDeal t w, .vxDeal), (.vxCombinePut t w, .vxCombinePut), (.vxCombineSum t w, .vxCombineSum)]

/-- Those of the matrix queue. -/
def matrixTable (t : TileId) (w ext : BitVec 32) : List ((Upset → Instr) × SisRow) :=
  [(.mxLdw t w ext, .mxLdw), (.mxRun t w ext, .mxRun), (.mxDrain t w ext, .mxDrain), (.mxZero t w ext, .mxZero), (.mxSwap t w ext, .mxSwap)]

/-- The table of the instructions, for every upset. -/
def sisTable (t : TileId) (w ext : BitVec 32) : List ((Upset → Instr) × SisRow × Option SisRow) :=
  (scalarTable t w).map (fun e => (e.1, e.2, wordRow w)) ++ (vectorTable t w).map (fun e => (e.1, e.2, wordRow w)) ++
    (matrixTable t w ext).map (fun e => (e.1, e.2, pairRow w ext))

theorem sisInstrs_eq (t : TileId) (w ext : BitVec 32) (u : Upset) :
    sisInstrs t w ext u = (sisTable t w ext).map (fun e => (e.1 u, e.2)) := rfl

/-- The instructions `i` of a row run in the common step with one effect, which asks for the upset only where the row has a queue. -/
def Runs (t : TileId) (w ext : BitVec 32) (i : Upset → Instr) (row : SisRow) (d : Option SisRow) : Prop :=
  ∃ f : Upset → State → Flow × State, (∀ u s, exec (i u) s = .next (s.sis t w d u row (f u))) ∧
    (row.queued = false → ∀ u u', f u = f u') ∧ (row.queued = true → f = queueEffect t w (if row.matrix then ext else 0) row)

theorem Runs.ofScalar {t : TileId} {w ext : BitVec 32} {i : Upset → Instr} {row : SisRow} {d : Option SisRow} {f : State → Flow × State}
    (q : row.queued = false) (e : ∀ u s, exec (i u) s = .next (s.sis t w d u row f)) : Runs t w ext i row d :=
  ⟨fun _ => f, e, fun _ _ _ => rfl, fun q' => absurd (q.symm.trans q') Bool.false_ne_true⟩

theorem Runs.ofQueued {t : TileId} {w ext : BitVec 32} {i : Upset → Instr} {row : SisRow} {d : Option SisRow} (q : row.queued = true)
    (e : ∀ u s, exec (i u) s = .next (s.sisQ t w (if row.matrix then ext else 0) d u row)) : Runs t w ext i row d :=
  ⟨queueEffect t w (if row.matrix then ext else 0) row, e, fun q' => absurd (q'.symm.trans q) Bool.false_ne_true, fun _ => rfl⟩

theorem scalarTable_runs {t : TileId} {w ext : BitVec 32} : ∀ e ∈ scalarTable t w, Runs t w ext e.1 e.2 (wordRow w) := by
  simp only [scalarTable, List.forall_mem_cons]
  repeat' apply And.intro
  all_goals first | exact .ofScalar rfl (fun _ _ => rfl) | exact fun _ h => nomatch h

theorem vectorTable_runs {t : TileId} {w ext : BitVec 32} : ∀ e ∈ vectorTable t w, Runs t w ext e.1 e.2 (wordRow w) := by
  simp only [vectorTable, List.forall_mem_cons]
  repeat' apply And.intro
  all_goals first | exact .ofQueued rfl (fun _ _ => rfl) | exact fun _ h => nomatch h

theorem matrixTable_runs {t : TileId} {w ext : BitVec 32} : ∀ e ∈ matrixTable t w ext, Runs t w ext e.1 e.2 (pairRow w ext) := by
  simp only [matrixTable, List.forall_mem_cons]
  repeat' apply And.intro
  all_goals first | exact .ofQueued rfl (fun _ _ => rfl) | exact fun _ h => nomatch h

theorem sisTable_runs {t : TileId} {w ext : BitVec 32} {e : (Upset → Instr) × SisRow × Option SisRow} (he : e ∈ sisTable t w ext) :
    Runs t w ext e.1 e.2.1 e.2.2 := by
  simp only [sisTable, List.mem_append, List.mem_map] at he
  rcases he with (⟨r, hr, rfl⟩ | ⟨r, hr, rfl⟩) | ⟨r, hr, rfl⟩
  · exact scalarTable_runs r hr
  · exact vectorTable_runs r hr
  · exact matrixTable_runs r hr

/-- Paying a token leaves the checks at issue, -/
theorem State.issueTrap_spend (s : State) (t : Nat) (us : List TileUnit) (w ext : BitVec 32) (row : SisRow) :
    (s.spend t us).issueTrap t w ext row = s.issueTrap t w ext row := by
  unfold State.issueTrap
  simp only [State.xr, State.tile_spend]
  rfl

/-- and what the audits compare, as they were. -/
theorem State.auditAt_spend (s : State) (t : Nat) (us : List TileUnit) (w ext : BitVec 32) (row : SisRow) (k : Nat) :
    (s.spend t us).auditAt t w ext row k = s.auditAt t w ext row k := by
  simp only [State.auditAt, State.mxBeats, State.lvuSteps, State.lvu, State.xr, State.lsBytes, State.tile_spend]
  rfl

/-- The upset neither keeps the units idle nor stops what tile t's unit does: the audits see none of it, and the grain pipeline's comparator
does not differ. -/
def UpsetPasses (u : Upset) (s : State) (t : Nat) (w ext : BitVec 32) (row : SisRow) : Prop :=
  u ≠ .busy ∧ u ≠ .grainMismatch ∧ ∀ k, u = .audit k → s.auditAt t w ext row k = false

theorem UpsetPasses.none (s : State) (t : Nat) (w ext : BitVec 32) (row : SisRow) : UpsetPasses .none s t w ext row :=
  ⟨nofun, nofun, nofun⟩

/-- Only the grain pipeline's comparator changes what a unit does. -/
theorem State.unitOp_upset (s : State) (t : Nat) (w ext : BitVec 32) {u : Upset} (row : SisRow) (h : u ≠ .grainMismatch) :
    s.unitOp t w ext u row = s.unitOp t w ext .none row := by
  cases row
  case vfcvtTo => simp only [State.unitOp, State.vfcvtToOp, h, reduceCtorEq]
  case mxDrain => simp only [State.unitOp, State.mxDrainOp, h, reduceCtorEq]
  all_goals rfl

theorem State.unitStep_upset {s : State} {t : Nat} {w ext : BitVec 32} {u : Upset} {row : SisRow} (h : UpsetPasses u s t w ext row) :
    s.unitStep t w ext u row = s.unitStep t w ext .none row := by
  obtain ⟨-, grain, audit⟩ := h
  unfold State.unitStep
  rw [State.unitOp_upset s t w ext row grain]
  cases u
  case audit k => simp [audit k rfl]
  all_goals rfl

/-- Such an upset changes nothing of an issue. -/
theorem queueEffect_upset {s : State} {t : Nat} {w ext : BitVec 32} {u : Upset} {row : SisRow} (h : UpsetPasses u s t w ext row) :
    queueEffect t w ext row u s = queueEffect t w ext row .none s := by
  have h' : UpsetPasses u (s.spend t (unitTokens row)) t w ext row := by simpa only [UpsetPasses, State.auditAt_spend] using h
  unfold queueEffect State.issue
  rw [State.unitStep_upset h', bne_iff_ne.mpr h.1]
  rfl

/-- An upset of a stored bit changes the caches, the check bits of the Local Store and the matrix unit of its tile at most. -/
theorem State.strike_tile (s : State) (t : Nat) (u : Upset) :
    ∃ caches lsChk mxu, (s.strike t u).tile t = { s.tile t with caches := caches, lsChk := lsChk, mxu := mxu } := by
  cases u
  case spoilData | spoilState | spoilInstr | spoilTalon | spoilDiscard | flipLs | flipAcm =>
    exact ⟨_, _, _, SMap.get_put_self _ _ _ _⟩
  all_goals exact ⟨_, _, _, rfl⟩

theorem State.running_strike (s : State) (t : Nat) (u : Upset) : (s.strike t u).running t = s.running t := by
  obtain ⟨_, _, _, e⟩ := s.strike_tile t u
  rw [State.running, e, State.running]

theorem State.queue_strike (s : State) (t : Nat) (u : Upset) : ((s.strike t u).tile t).queue = (s.tile t).queue := by
  obtain ⟨_, _, _, e⟩ := s.strike_tile t u
  rw [e]

/-- With nothing queued, a step differs from a calm one on the struck state by its own effect alone. -/
theorem State.sisStep_upset {s : State} {t : Nat} {w : BitVec 32} {d : Option SisRow} {u : Upset} {row : SisRow} {f g : State → Flow × State}
    (idle : (s.tile t).queue = []) (twins : u ≠ .mismatch)
    (same : f ((s.strike t u).spend t row.units) = g ((s.strike t u).spend t row.units)) :
    s.sisStep t w d u row f = (s.strike t u).sisStep t w d .none row g := by
  have idle' := (s.queue_strike t u).trans idle
  have calm : (s.strike t u).strike t .none = s.strike t u := rfl
  unfold State.sisStep
  rw [calm, State.unitsFirst_idle u row idle', State.unitsFirst_idle .none row idle']
  unfold State.begin
  simp only [twins, if_false, same, reduceCtorEq]

theorem State.retry_congr {s : State} {n : Nat} {f g : State → State} (h : f (s.acting n) = g (s.acting n)) : s.retry n f = s.retry n g := by
  unfold State.retry
  rw [h]

/-- What the instruction answers depends on its step in this state, and where it reaches memory in the one where its accesses wait. -/
theorem State.sis_congr {s : State} {t : Nat} {w : BitVec 32} {d : Option SisRow} {u u' : Upset} {row : SisRow} {f g : State → Flow × State}
    (h : ∀ a : State, a = s ∨ a = s.acting t → a.sisStep t w d u row f = a.sisStep t w d u' row g) :
    s.sis t w d u row f = s.sis t w d u' row g := by
  unfold State.sis
  rw [h s (.inl rfl), State.retry_congr (f := fun s => s.sisStep t w d u row f) (g := fun s => s.sisStep t w d u' row g) (h (s.acting t) (.inr rfl))]

/-- At every state with nothing queued an upset of the table that passes changes nothing. -/
theorem Runs.exec_passes {s : State} {t : TileId} {w ext : BitVec 32} {i : Upset → Instr} {row : SisRow} {d : Option SisRow}
    (runs : Runs t w ext i row d) {u : Upset} (calm : ∀ a : State, a.strike t u = a) (idle : (s.tile t).queue = []) (twins : u ≠ .mismatch)
    (passes : row.queued = true → UpsetPasses u s t w (if row.matrix then ext else 0) row) : exec (i u) s = exec (i .none) s := by
  obtain ⟨f, next, scalar, queued⟩ := runs
  rw [next, next]
  refine congrArg _ (State.sis_congr fun a from_ => ?_)
  have idle' : (a.tile t).queue = [] := by
    rcases from_ with rfl | rfl <;> exact idle
  rw [State.sisStep_upset idle' twins (g := f .none) ?_, calm]
  rw [calm]
  cases q : row.queued with
  | false => rw [scalar q u .none]
  | true =>
    rw [queued q]
    refine queueEffect_upset ?_
    have p : UpsetPasses u a t w (if row.matrix then ext else 0) row := by
      rcases from_ with rfl | rfl <;> exact passes q
    simpa only [UpsetPasses, State.auditAt_spend] using p

/-- An upset of a stored bit changes that bit, and then nothing of an instruction that stays in the tile. -/
theorem Runs.exec_strikes {s : State} {t : TileId} {w ext : BitVec 32} {i : Upset → Instr} {row : SisRow} {d : Option SisRow}
    (runs : Runs t w ext i row d) {u : Upset} (inside : row.reaches = false) (idle : (s.tile t).queue = []) (starts : s.running t = true)
    (word : d = none ∨ d = some row) (twins : u ≠ .mismatch) (busy : u ≠ .busy) (grain : u ≠ .grainMismatch) (audit : ∀ k, u ≠ .audit k) :
    exec (i u) s = exec (i .none) (s.strike t u) := by
  obtain ⟨f, next, scalar, queued⟩ := runs
  have ok : ∀ a : State, a.running t = true → (!a.running t || (d.isSome && d != some row)) = false := by
    intro a r
    rcases word with rfl | rfl <;> simp [r]
  rw [next, next]
  unfold State.sis
  rw [ok s starts, ok _ ((s.running_strike t u).trans starts), inside, idle, s.queue_strike, idle]
  refine congrArg _ (State.sisStep_upset idle twins ?_)
  cases q : row.queued with
  | false => rw [scalar q u .none]
  | true =>
    rw [queued q]
    exact queueEffect_upset ⟨busy, grain, fun k e => absurd e (audit k)⟩

theorem getElem?_sisInstrs {t : TileId} {w ext : BitVec 32} {u : Upset} {i : Nat} {e : Instr × SisRow × Option SisRow}
    (h : (sisInstrs t w ext u)[i]? = some e) : ∃ r, (sisTable t w ext)[i]? = some r ∧ e = (r.1 u, r.2) := by
  rw [sisInstrs_eq, List.getElem?_map, Option.map_eq_some_iff] at h
  obtain ⟨r, hr, e⟩ := h
  exact ⟨r, hr, e.symm⟩

/-- Two instructions of one place in the table are one, for two upsets. -/
theorem sisInstrs_sameIndex {t : TileId} {w ext : BitVec 32} {u u' : Upset} {i : Nat} {e e' : Instr × SisRow × Option SisRow}
    (he : (sisInstrs t w ext u)[i]? = some e) (he' : (sisInstrs t w ext u')[i]? = some e') :
    ∃ r ∈ sisTable t w ext, e = (r.1 u, r.2) ∧ e' = (r.1 u', r.2) := by
  obtain ⟨r, hr, eq⟩ := getElem?_sisInstrs he
  obtain ⟨r', hr', eq'⟩ := getElem?_sisInstrs he'
  cases hr.symm.trans hr'
  exact ⟨r, List.mem_of_getElem? hr, eq, eq'⟩

/-- An audit that differs at a step or beat which it compares stops the unit before its effect (R139, R165). -/
theorem queueEffect_audit {s : State} {t : Nat} {w ext : BitVec 32} {row : SisRow} {k : Nat} (idle : (s.tile t).queue = [])
    (tokens : s.maySpend t (unitTokens row) = true) (issues : s.issueTrap t w ext row = none) (caught : s.auditAt t w ext row k = true) :
    queueEffect t w ext row (.audit k) s =
      (.next, (s.spend t (unitTokens row)).tileFatal t (mkRec (if row.matrix then 0x0103 else 0x0102) 1)) := by
  have notSetvl : row ≠ .setvl := by
    rintro rfl
    simp [State.auditAt, State.lvuSteps, SisRow.byLength, SisRow.matrix] at caught
  unfold queueEffect State.issue State.unitStep
  simp [issues, idle, tokens, notSetvl, State.auditAt_spend, caught]

/-- Settles O14: the twin's mismatch is the TSU's first check, an audit's the unit's, and any other upset leaves the effect as it is. -/
theorem checkerMismatch : Obligations.CheckerMismatch := by
  refine ⟨?_, ?_, ?_, ?_⟩
  · intro s t w ext e he runs idle tokens word f prompt
    obtain ⟨g, next⟩ := exec_sisInstrs s he
    rw [next, State.sis_open (fun _ => rfl) runs idle tokens word ?_ prompt]
    unfold State.begin
    exact if_pos rfl
  · intro s t w ext k e he q ready issues caught f prompt stops
    obtain ⟨i, hi⟩ := List.mem_iff_getElem?.mp he
    obtain ⟨r, hr, rfl⟩ := getElem?_sisInstrs hi
    obtain ⟨g, next, -, queued⟩ := sisTable_runs (List.mem_of_getElem? hr)
    rw [next, State.sis_open (fun _ => rfl) ready.runs ready.idle (State.maySpend_left ready.tokens) (.inr ready.word) ?_ prompt]
    have ready' := ready.met
    have effect : g (.audit k) (((s.met t r.2.1).spend t r.2.1.units)) = (.next, f ((s.met t r.2.1).spend t r.2.1.units)) := by
      rw [queued q]
      refine queueEffect_audit ?_ (State.maySpend_queue q ready'.tokens) ?_ ?_
      · rw [State.tile_spend]
        exact ready'.idle
      · rw [State.issueTrap_spend]
        rcases s.met_cases t r.2.1 with m | m <;> rw [m] <;> exact issues
      · rw [State.auditAt_spend]
        rcases s.met_cases t r.2.1 with m | m <;> rw [m] <;> exact caught
    have stopped : (f ((s.met t r.2.1).spend t r.2.1.units)).running t = false := by
      rw [State.running, ← State.taken_tile]
      exact stops
    unfold State.begin
    rw [if_neg (by simp), State.tile_spend, if_neg (by simp [ready'.aligned]), ready.word, effect]
    exact State.finish_done (.inr stopped)
  · intro s t w ext k i e e' he he' idle missed
    obtain ⟨r, hr, rfl, rfl⟩ := sisInstrs_sameIndex he he'
    exact (sisTable_runs hr).exec_passes (fun _ => rfl) idle nofun
      fun _ => ⟨nofun, nofun, fun k' eq => by cases eq; exact missed⟩
  · intro s t w ext u i e e' he he' inside idle busy twins grain audit starts word
    obtain ⟨r, hr, rfl, rfl⟩ := sisInstrs_sameIndex he he'
    exact (sisTable_runs hr).exec_strikes inside idle starts word twins busy grain audit

end Sys2Proof.Machine
end

section
/-!
The instructions of the system group (R50, R94, R102, R109), and those that reach memory: loads, stores, atomics, fences and cache
instructions (R194, R197, R212, R214), which wait for no other device where their accesses have been answered (R312).
-/

namespace Sys2Proof.Machine

/-! The system group. -/

/-- A read of the timestamp: the register and the request's mark are written and the timestamp has moved on (R50, R109). -/
def State.readTime (s : State) (t rd : Nat) : State :=
  let s' := (s.setX t rd (BitVec.ofNat 64 s.now)).updTsu t (fun r => { r with trd := true })
  let s' := match (s'.tile t).run with
    | some r => s'.updLed r.ix (fun e => { e with trd := true })
    | none => s'
  { s' with now := s'.now + 1 }

theorem State.tile_readTime (s : State) (t rd k : Nat) : (s.readTime t rd).tile k =
    ((s.setX t rd (BitVec.ofNat 64 s.now)).updTsu t (fun r => { r with trd := true })).tile k := by
  unfold State.readTime
  dsimp only
  split <;> rfl

theorem State.now_readTime (s : State) (t rd : Nat) : (s.readTime t rd).now = s.now + 1 := by
  unfold State.readTime
  dsimp only
  split <;> rfl

theorem State.mem_readTime (s : State) (t rd : Nat) : (s.readTime t rd).mem = s.mem := by
  unfold State.readTime
  dsimp only
  split <;> rfl

/-- The request of the tile's pass is marked (R109). -/
theorem State.led_readTime {s : State} {t rd : Nat} {p : PassCtx} (runs : (s.tile t).run = some p) : ((s.readTime t rd).led p.ix).trd = true := by
  have runs' : (((s.setX t rd (BitVec.ofNat 64 s.now)).updTsu t (fun r => { r with trd := true })).tile t).run = some p := by
    simpa [State.setX, State.updTsu] using runs
  unfold State.readTime
  dsimp only
  rw [runs']
  exact congrArg Ledger.trd (SMap.get_put_self _ _ _ _)

theorem State.tile_readTime_self (s : State) (t rd : Nat) :
    (s.readTime t rd).tile t = { s.tile t with tsu := { (s.tile t).tsu.setX rd (BitVec.ofNat 64 s.now) with trd := true } } := by
  simp [State.tile_readTime, State.setX, State.updTsu]

theorem State.running_readTime (s : State) (t rd : Nat) : (s.readTime t rd).running t = s.running t := by
  rw [State.running, State.tile_readTime_self, State.running]

theorem exec_rdtime_ready {s : State} {t : TileId} {w : BitVec 32} {u : Upset} (ready : Ready s t (wordRow w) .rdtime u) :
    exec (.rdtime t w u) s = .next (((s.spend t SisRow.rdtime.units).readTime t (wRd w)).retire t ((s.tile t).tsu.pc + 4)) := by
  rw [exec_rdtime, execRdtime, State.sis1_falls (z := (s.spend t SisRow.rdtime.units).readTime t (wRd w)) ready rfl rfl]
  · exact (State.running_readTime _ t (wRd w)).trans ((State.running_spend s t _).trans ready.runs)

/-- `rdtime` and the marks that it leaves. -/
theorem readTime_retire (s : State) (t rd : Nat) (p : Word) :
    let s' := ((s.spend t SisRow.rdtime.units).readTime t rd).retire t p
    XWrite s s' t rd (BitVec.ofNat 64 s.now) ∧ (s'.tile t).tsu.trd = true ∧
      (∀ r, (s.tile t).run = some r → (s'.led r.ix).trd = true) ∧ s'.now = s.now + 1 ∧ (s'.tile t).tsu.pc = p ∧ s'.mem = s.mem ∧
      (∀ k, k ≠ t → s'.tile k = s.tile k) := by
  intro s'
  have tile : s'.tile t = { s.tile t with
      tokens := spendTokens (s.tile t).tokens SisRow.rdtime.units,
      tsu := { (s.tile t).tsu.setX rd (BitVec.ofNat 64 s.now) with
        trd := true, pc := p, retired := ((s.tile t).tsu.setX rd (BitVec.ofNat 64 s.now)).retired + 1 } } := by
    rw [State.tile_retire, State.tile_readTime_self, State.tile_spend]
    rfl
  refine ⟨fun k => ?_, by rw [tile], fun r runs => ?_, State.now_readTime _ _ _, by rw [tile], State.mem_readTime _ _ _, fun k other => ?_⟩
  · rw [State.xr, tile]
    exact Tsu.xr_setX _ _ _ _
  · exact State.led_readTime (by rw [State.tile_spend]; exact runs)
  · simp [s', State.retire, State.tile_readTime, State.setX, State.updTsu, State.spend, State.tile_updTile, other]

theorem exec_brk_ready {s : State} {t : TileId} {w : BitVec 32} {u : Upset} (ready : Ready s t (wordRow w) .brk u) (off : s.debugOn = false) :
    exec (.brk t w u) s = .next ((s.spend t SisRow.brk.units).retire t ((s.tile t).tsu.pc + 4)) := by
  rw [exec_brk, execBrk, State.sis1_falls ready rfl (if_neg (by rw [show (s.spend t SisRow.brk.units).debugOn = s.debugOn from rfl, off]; simp))
    (by rw [State.running_spend, ready.runs])]

theorem exec_brk_traps {s : State} {t : TileId} {w : BitVec 32} {u : Upset} (ready : Ready s t (wordRow w) .brk u) (on : s.debugOn = true) :
    exec (.brk t w u) s = .next ((s.paid t .brk).trapT t 0x08 (s.tile t).tsu.pc) := by
  rw [exec_brk, execBrk, State.sis1_traps ready rfl (if_pos on), State.paid_unqueued s t rfl, State.tile_spend]

theorem exec_tcrr_ready {s : State} {t : TileId} {w : BitVec 32} {u : Upset} {v : Word} (ready : Ready s t (wordRow w) .tcrr u)
    (there : (s.paid t .tcrr).tcr t (fld w 0 12) = some v) :
    exec (.tcrr t w u) s = .next (((s.spend t SisRow.tcrr.units).setX t (wRd w) v).retire t ((s.tile t).tsu.pc + 4)) := by
  rw [State.paid_unqueued s t rfl] at there
  rw [exec_tcrr, execTcrr, State.sis1_falls ready rfl (by rw [there]) (by rw [State.running_spend_setX, ready.runs])]

theorem exec_tcrr_traps {s : State} {t : TileId} {w : BitVec 32} {u : Upset} (ready : Ready s t (wordRow w) .tcrr u)
    (absent : (s.paid t .tcrr).tcr t (fld w 0 12) = none) :
    exec (.tcrr t w u) s = .next ((s.paid t .tcrr).trapT t 0x01 (w.zeroExtend 64)) := by
  rw [State.paid_unqueued s t rfl] at *
  rw [exec_tcrr, execTcrr, State.sis1_traps ready rfl (by rw [absent])]

/-- Settles O15: each is the TSU's own instruction. -/
theorem systemGroup : Obligations.SystemGroup := by
  intro s t w u r
  refine ⟨fun ready => ⟨_, exec_rdtime_ready ready, readTime_retire s t (wRd w) _⟩,
    fun ready off => ⟨_, exec_brk_ready ready off, stepsTo_retire s t .brk _ rfl⟩, exec_brk_traps,
    fun v ready there => ⟨_, exec_tcrr_ready ready there, stepsTo_setX s t (wRd w) v _ .tcrr rfl⟩, exec_tcrr_traps⟩

/-! Instructions of the TSU that reach memory. -/

/-- What a tile holds but for its tokens is there when it acts. -/
theorem State.tile_reaching (s : State) (t : Nat) (row : SisRow) :
    (s.reaching t row).tile t = { s.tile t with tokens := spendTokens (s.tile t).tokens row.steps } := by
  rw [State.reaching, State.tile_paid, State.acting_tile]

@[simp] theorem State.xr_reaching (s : State) (t : Nat) (row : SisRow) (k : Nat) : (s.reaching t row).xr t k = s.xr t k := by
  rw [State.xr, State.tile_reaching, State.xr]

@[simp] theorem State.fr_reaching (s : State) (t : Nat) (row : SisRow) (k : Nat) : (s.reaching t row).fr t k = s.fr t k := by
  rw [State.fr, State.tile_reaching, State.fr]

@[simp] theorem State.accessVa_reaching (s : State) (t : Nat) (row : SisRow) (w : BitVec 32) :
    (s.reaching t row).accessVa t w = s.accessVa t w := by
  rw [State.accessVa, State.xr_reaching, State.accessVa]

theorem State.running_reaching (s : State) (t : Nat) (row : SisRow) : (s.reaching t row).running t = s.running t := by
  rw [State.running, State.tile_reaching, State.running]

theorem State.net_paid (s : State) (t : Nat) (row : SisRow) : (s.paid t row).net = s.net := by
  unfold State.paid
  split <;> rfl

theorem State.waits_reaching (s : State) (t : Nat) (row : SisRow) : (s.reaching t row).net.waits = false := by
  rw [State.reaching, State.net_paid]
  rfl

section
variable {s : State} {t : Nat} {w : BitVec 32} {u : Upset} {row : SisRow} {f : State → Flow × State} {z : State}
  (ready : Ready s t (wordRow w) row u) (outside : row.reaches = true) (q : row.queued = false)
include ready outside q

/-- It has its effect where its tile acts and has paid. -/
theorem State.sis1_reach {r : Flow × State} (e : f (s.reaching t row) = r)
    (answered : (State.finish t w (s.tile t).tsu.pc r).net.waits = false) :
    s.sis1 t w u row f = s.acted (State.finish t w (s.tile t).tsu.pc r) := by
  rw [State.reaching, State.paid_unqueued _ t q] at e
  exact State.sis_reach ready outside (by rw [e]) answered

/-- One that retires falls through, -/
theorem State.sis1_reach_falls (e : f (s.reaching t row) = (.next, z)) (r : z.running t = true) (answered : z.net.waits = false) :
    s.sis1 t w u row f = s.acted (z.retire t ((s.tile t).tsu.pc + 4)) := by
  have finish : State.finish t w (s.tile t).tsu.pc (.next, z) = z.retire t ((s.tile t).tsu.pc + 4) := by
    rw [State.finish_next r, if_neg (major_of_wordRow ready.word)]
  rw [State.sis1_reach ready outside q e (by rw [finish]; exact answered), finish]

/-- and one that raises a trap takes it. -/
theorem State.sis1_reach_traps {c : Nat} {v : Word} (e : f (s.reaching t row) = (.trap c v, z)) (r : z.running t = true)
    (answered : z.net.waits = false) : s.sis1 t w u row f = s.acted (z.trapT t c v) := by
  rw [State.sis1_reach ready outside q e (by rw [State.finish_trap r, State.trapT_net]; exact answered), State.finish_trap r]

/-- A check of the TSU before the first access traps where the tile acts. -/
theorem State.sis1_reach_refused {c : Nat} {v : Word} (e : f (s.reaching t row) = (.trap c v, s.reaching t row)) :
    s.sis1 t w u row f = s.acted ((s.reaching t row).trapT t c v) :=
  State.sis1_reach_traps ready outside q e ((s.running_reaching t row).trans ready.runs) (s.waits_reaching t row)

/-- One that ends its pass, or whose tile stopped, leaves its state. -/
theorem State.sis1_reach_done {c : Flow} (e : f (s.reaching t row) = (c, z)) (r : c = .done ∨ z.running t = false)
    (answered : z.net.waits = false) : s.sis1 t w u row f = s.acted z := by
  rw [State.sis1_reach ready outside q e (by rw [State.finish_done r]; exact answered), State.finish_done r]

end

/-- Ending a pass touches neither the network nor whether the tile is held. -/
theorem State.chainHold_endPass {s : State} {t : Nat} {p : PassCtx} (e : RankEnd) (runs : (s.tile t).run = some p) :
    ((s.endPass t e).tile t).chainHold = (s.tile t).chainHold := by
  obtain ⟨hand, taken, h⟩ := State.tile_endPass e runs
  rw [h]

/-- Where a chain step waits for the request's pass, the tile is held for it (R318). -/
def State.holdChain (s : State) (t : Nat) : State :=
  match (s.tile t).run with
  | some r => if (s.led r.ix).cstep.isSome then s.updTile t (fun x => { x with chainHold := some r.ix }) else s
  | none => s

theorem State.holdChain_running {s : State} {t : Nat} {p : PassCtx} (runs : (s.tile t).run = some p) :
    s.holdChain t = if (s.led p.ix).cstep.isSome then s.updTile t (fun x => { x with chainHold := some p.ix }) else s := by
  rw [State.holdChain, runs]

theorem State.led_holdChain (s : State) (t i : Nat) : (s.holdChain t).led i = s.led i := by
  unfold State.holdChain
  split
  · split <;> rfl
  · rfl

theorem State.net_holdChain (s : State) (t : Nat) : (s.holdChain t).net = s.net := by
  unfold State.holdChain
  split
  · split <;> rfl
  · rfl

theorem State.tile_holdChain {s : State} {t : Nat} {p : PassCtx} (runs : (s.tile t).run = some p) (free : (s.tile t).chainHold = none) :
    (s.holdChain t).tile t = { s.tile t with chainHold := if (s.led p.ix).cstep.isSome then some p.ix else none } := by
  rw [State.holdChain_running runs]
  split
  · rw [State.tile_updTile_self]
  · rw [← free]

/-- The rank's end that `pdone` asks for (R94). -/
def doneEnd (v : Word) : RankEnd := { rank := 0, app := BitVec.ofNat 12 v.toNat, more := v.getLsbD 15 }

theorem exec_pdone_ready {s a : State} {t : TileId} {w : BitVec 32} {u : Upset} (ready : Ready s t (wordRow w) .pdone u)
    (released : (s.reaching t .pdone).fenceRel t (fun _ => true) = a) (runs : a.running t = true) (answered : a.net.waits = false) :
    exec (.pdone t w u) s =
      .next (s.acted (((a.retire t ((a.tile t).tsu.pc + 4)).holdChain t).endPass t (doneEnd (s.xr t (wRa w))))) := by
  rw [exec_pdone, execPdone]
  refine congrArg _ (State.sis1_reach_done (c := .done) ready rfl rfl ?_ (.inl rfl) ?_)
  · rw [State.xr_reaching, released]
    simp only [runs, Bool.not_true, Bool.false_eq_true, if_false]
    rfl
  · rw [State.endPass_net, State.net_holdChain]
    exact answered

/-- Settles O17: the release fence, then the end of the pass. -/
theorem passDone : Obligations.PassDone := by
  intro s t w u p ready
  dsimp only
  generalize released : (s.reaching t .pdone).fenceRel t (fun _ => true) = a
  intro runs answered pass
  have free : (a.tile t).chainHold = none := by
    simp only [State.running, Bool.and_eq_true, Option.isNone_iff_eq_none] at runs
    exact runs.2
  have tile : (a.retire t ((a.tile t).tsu.pc + 4)).tile t =
      { a.tile t with tsu := { (a.tile t).tsu with pc := (a.tile t).tsu.pc + 4, retired := (a.tile t).tsu.retired + 1 } } :=
    State.tile_retire _ _ _
  have held := State.tile_holdChain (s := a.retire t ((a.tile t).tsu.pc + 4)) (t := t) (p := p)
    (by rw [tile]; exact pass) (by rw [tile]; exact free)
  have pass' : (((a.retire t ((a.tile t).tsu.pc + 4)).holdChain t).tile t).run = some p := by
    rw [held, tile]
    exact pass
  refine ⟨_, exec_pdone_ready ready released runs answered, State.run_endPass _ _ _, ?_, _,
    (State.ends_endPass _ pass').trans (by rw [State.led_holdChain]; rfl), rfl, rfl, rfl, rfl⟩
  rw [State.acted_tile, State.chainHold_endPass _ pass', held]
  rfl

/-! Loads, stores and atomics. -/

section
variable {s : State} {t : TileId} {w : BitVec 32} {u : Upset}

theorem exec_load_misaligned (ready : Ready s t (wordRow w) .load u) (h : (s.accessVa t w).toNat % accessSize (wMajor w) ≠ 0) :
    exec (.load t w u) s = .next (s.acted ((s.reaching t .load).trapT t 0x05 (s.accessVa t w))) := by
  rw [exec_load, execLoad]
  refine congrArg _ (State.sis1_reach_refused ready rfl rfl ?_)
  rw [State.accessVa_reaching, if_pos h]

theorem exec_load_unmapped {a : State} (ready : Ready s t (wordRow w) .load u) (h : (s.accessVa t w).toNat % accessSize (wMajor w) = 0)
    (unmapped : (s.reaching t .load).translateT t .load (s.accessVa t w).toNat = (none, a)) (runs : a.running t = true)
    (answered : a.net.waits = false) : exec (.load t w u) s = .next (s.acted (a.trapT t 0x03 (s.accessVa t w))) := by
  rw [exec_load, execLoad]
  refine congrArg _ (State.sis1_reach_traps ready rfl rfl ?_ runs answered)
  rw [State.accessVa_reaching, if_neg (not_not.mpr h), unmapped]

theorem exec_load_done {a c : State} {pa : Nat} {bs : List Byte} (ready : Ready s t (wordRow w) .load u)
    (h : (s.accessVa t w).toNat % accessSize (wMajor w) = 0)
    (mapped : (s.reaching t .load).translateT t .load (s.accessVa t w).toNat = (some pa, a))
    (loads : a.loadPa t pa (accessSize (wMajor w)) = (some bs, c)) (runs : c.running t = true) (answered : c.net.waits = false) :
    exec (.load t w u) s = .next (s.acted ((c.loaded t (wMajor w) (wRd w) (leNat bs)).retire t ((s.tile t).tsu.pc + 4))) := by
  rw [exec_load, execLoad]
  refine congrArg _ (State.sis1_reach_falls ready rfl rfl ?_ ?_ ?_)
  · rw [State.accessVa_reaching, if_neg (not_not.mpr h), mapped]
    dsimp only
    rw [loads]
  · unfold State.loaded
    split <;> exact (State.running_updTsu _ _ _).trans runs
  · unfold State.loaded
    split <;> exact answered

theorem exec_load_refused {a c : State} {pa : Nat} (ready : Ready s t (wordRow w) .load u)
    (h : (s.accessVa t w).toNat % accessSize (wMajor w) = 0)
    (mapped : (s.reaching t .load).translateT t .load (s.accessVa t w).toNat = (some pa, a))
    (refused : a.loadPa t pa (accessSize (wMajor w)) = (none, c)) (runs : c.running t = true) (answered : c.net.waits = false) :
    exec (.load t w u) s = .next (s.acted (c.trapT t 0x06 (s.accessVa t w))) := by
  rw [exec_load, execLoad]
  refine congrArg _ (State.sis1_reach_traps ready rfl rfl ?_ runs answered)
  rw [State.accessVa_reaching, if_neg (not_not.mpr h), mapped]
  dsimp only
  rw [refused]

/-- The value that a store takes from its source register. -/
def State.storeValue (s : State) (t : Nat) (w : BitVec 32) : Word :=
  if wMajor w = 0x1C ∨ wMajor w = 0x1E then s.fr t (wRd w) else s.xr t (wRd w)

theorem exec_store_misaligned (ready : Ready s t (wordRow w) .store u) (h : (s.accessVa t w).toNat % accessSize (wMajor w) ≠ 0) :
    exec (.store t w u) s = .next (s.acted ((s.reaching t .store).trapT t 0x05 (s.accessVa t w))) := by
  rw [exec_store, execStore]
  refine congrArg _ (State.sis1_reach_refused ready rfl rfl ?_)
  rw [State.accessVa_reaching, if_pos h]

theorem exec_store_unmapped {a : State} (ready : Ready s t (wordRow w) .store u) (h : (s.accessVa t w).toNat % accessSize (wMajor w) = 0)
    (unmapped : (s.reaching t .store).translateT t .store (s.accessVa t w).toNat = (none, a)) (runs : a.running t = true)
    (answered : a.net.waits = false) : exec (.store t w u) s = .next (s.acted (a.trapT t 0x04 (s.accessVa t w))) := by
  rw [exec_store, execStore]
  refine congrArg _ (State.sis1_reach_traps ready rfl rfl ?_ runs answered)
  rw [State.accessVa_reaching, if_neg (not_not.mpr h), unmapped]

theorem exec_store_done {a c : State} {pa : Nat} (ready : Ready s t (wordRow w) .store u)
    (h : (s.accessVa t w).toNat % accessSize (wMajor w) = 0)
    (mapped : (s.reaching t .store).translateT t .store (s.accessVa t w).toNat = (some pa, a))
    (stores : a.storePa t pa (leBytes (accessSize (wMajor w)) (s.storeValue t w).toNat) 0x10 (a.tile t).tsu.pc.toNat = c)
    (runs : c.running t = true) (answered : c.net.waits = false) :
    exec (.store t w u) s = .next (s.acted (c.retire t ((s.tile t).tsu.pc + 4))) := by
  rw [exec_store, execStore]
  refine congrArg _ (State.sis1_reach_falls ready rfl rfl ?_ runs answered)
  rw [State.accessVa_reaching, if_neg (not_not.mpr h), mapped]
  dsimp only
  rw [State.fr_reaching, State.xr_reaching, ← stores]
  rfl

theorem exec_atomic_misaligned (ready : Ready s t (wordRow w) .atomic u) (h : (s.xr t (wRa w)).toNat % 8 ≠ 0) :
    exec (.atomic t w u) s = .next (s.acted ((s.reaching t .atomic).trapT t 0x05 (s.xr t (wRa w)))) := by
  rw [exec_atomic, execAtomic]
  refine congrArg _ (State.sis1_reach_refused ready rfl rfl ?_)
  rw [State.xr_reaching, if_pos h]

theorem exec_atomic_unmapped {a : State} (ready : Ready s t (wordRow w) .atomic u) (h : (s.xr t (wRa w)).toNat % 8 = 0)
    (unmapped : (s.reaching t .atomic).translateT t .atomic (s.xr t (wRa w)).toNat = (none, a)) (runs : a.running t = true)
    (answered : a.net.waits = false) : exec (.atomic t w u) s = .next (s.acted (a.trapT t 0x04 (s.xr t (wRa w)))) := by
  rw [exec_atomic, execAtomic]
  refine congrArg _ (State.sis1_reach_traps ready rfl rfl ?_ runs answered)
  rw [State.xr_reaching, if_neg (not_not.mpr h), unmapped]

/-- The operation of an atomic instruction (R100). -/
def State.atomicOp (s : State) (t : Nat) (w : BitVec 32) : MemOp :=
  .atomic (BitVec.ofNat 6 (wFn w)) (s.xr t (wRb w)) (s.xr t (wRc w))

section
variable {a c d : State} {pa : Nat} (ready : Ready s t (wordRow w) .atomic u) (h : (s.xr t (wRa w)).toNat % 8 = 0)
  (mapped : (s.reaching t .atomic).translateT t .atomic (s.xr t (wRa w)).toNat = (some pa, a))
  (cleaned : (if a.uncached t pa then a else a.atomicClean t (pa / 128)) = c) (goes : c.running t = true)
include ready h mapped cleaned goes

theorem exec_atomic_done {bs : List Byte} (answers : c.access (c.tileTag t) pa (s.atomicOp t w) = (.ok bs, d)) (runs : d.running t = true)
    (answered : d.net.waits = false) :
    exec (.atomic t w u) s = .next (s.acted ((d.setX t (wRd w) (bytesBv 64 bs)).retire t ((s.tile t).tsu.pc + 4))) := by
  rw [exec_atomic, execAtomic]
  refine congrArg _ (State.sis1_reach_falls ready rfl rfl ?_ ((State.running_setX _ _ _ _).trans runs) answered)
  simp only [State.xr_reaching, h, mapped, cleaned, goes]
  rw [State.atomicOp] at answers
  simp [answers]

theorem exec_atomic_refused (answers : c.access (c.tileTag t) pa (s.atomicOp t w) = (.refused, d)) (runs : d.running t = true)
    (answered : d.net.waits = false) : exec (.atomic t w u) s = .next (s.acted (d.trapT t 0x06 (s.xr t (wRa w)))) := by
  rw [exec_atomic, execAtomic]
  refine congrArg _ (State.sis1_reach_traps ready rfl rfl ?_ runs answered)
  simp only [State.xr_reaching, h, mapped, cleaned, goes]
  rw [State.atomicOp] at answers
  simp [answers]

end

/-- Settles O18: alignment first, then the page, then the access. -/
theorem loadStoreAtomic : Obligations.LoadStoreAtomic := by
  intro s t w u va aa n pc v op
  refine ⟨fun ready => ⟨exec_load_misaligned ready, fun _ _ _ _ h => exec_load_done ready h, fun _ _ _ h => exec_load_refused ready h,
      fun _ h => exec_load_unmapped ready h⟩,
    fun ready => ⟨exec_store_misaligned ready, fun _ _ h mapped => exec_store_done ready h mapped rfl, fun _ h => exec_store_unmapped ready h⟩,
    fun ready => ⟨exec_atomic_misaligned ready, fun _ _ _ _ h mapped cleaned goes =>
      ⟨fun _ => exec_atomic_done ready h mapped cleaned goes, exec_atomic_refused ready h mapped cleaned goes⟩,
      fun _ h => exec_atomic_unmapped ready h⟩⟩

/-! Fences and cache instructions. -/

/-- An instruction of one effect on the state falls through after it. -/
theorem State.sis1_taken {t : Nat} {row : SisRow} {f : State → State} (ready : Ready s t (wordRow w) row u) (q : row.queued = false)
    (prompt : s.prompt t row f) (runs : (s.taken t row f).running t = true) :
    s.sis1 t w u row (fun s => (.next, f s)) = s.taken t row (fun x => (f x).retire t ((s.tile t).tsu.pc + 4)) := by
  cases reaches : row.reaches with
  | false =>
    simp only [State.taken, reaches, Bool.false_eq_true, if_false] at runs ⊢
    exact State.sis1_falls ready reaches rfl runs
  | true =>
    have e : s.reaching t row = (s.acting t).spend t row.units := State.paid_unqueued _ t q
    simp only [State.taken, reaches, if_true] at runs ⊢
    rw [← e] at runs ⊢
    exact State.sis1_reach_falls ready reaches q rfl runs (by rw [e]; exact prompt reaches)

/-- Each fence and cache instruction is one effect on the state. -/
theorem exec_fenceRows {e : Instr × SisRow × (State → State)} (he : e ∈ fenceRows t w u) :
    exec e.1 s = .next (s.sis1 t w u e.2.1 (fun s => (.next, e.2.2 s))) ∧ e.2.1.queued = false := by
  fin_cases he <;> exact ⟨rfl, rfl⟩

/-- What `cpf` asks of each of its lines (R212). -/
def State.prefetchVa (t : Nat) (s : State) (va : Nat) : State :=
  match s.translateT t .load va with
  | (some pa, s) => if s.uncached t pa then s else s.prefetch t (pa / 128)
  | (none, s) => s

theorem exec_cpf_done {a : State} (ready : Ready s t (wordRow w) .cpf u)
    (asks : (rangeLines (s.xr t (wRa w)).toNat (s.xr t (wRb w)).toNat 64).foldl (State.prefetchVa t) (s.reaching t .cpf) = a)
    (runs : a.running t = true) (answered : a.net.waits = false) :
    exec (.cpf t w u) s = .next (s.acted (a.retire t ((s.tile t).tsu.pc + 4))) := by
  rw [exec_cpf, execCpf]
  refine congrArg _ (State.sis1_reach_falls ready rfl rfl ?_ runs answered)
  rw [State.xr_reaching, State.xr_reaching, ← asks]
  rfl

theorem exec_czero_misaligned (ready : Ready s t (wordRow w) .czero u)
    (h : (s.xr t (wRa w)).toNat % 128 ≠ 0 ∨ (s.xr t (wRb w)).toNat % 128 ≠ 0) :
    exec (.czero t w u) s = .next (s.acted ((s.reaching t .czero).trapT t 0x05 (s.xr t (wRa w)))) := by
  rw [exec_czero, execCzero]
  refine congrArg _ (State.sis1_reach_refused ready rfl rfl ?_)
  rw [State.xr_reaching, State.xr_reaching]
  dsimp only
  split
  · rfl
  · next aligned => rw [if_pos (h.resolve_left (not_not.mpr (not_not.mp aligned)))]

section
variable {a b : State} (ready : Ready s t (wordRow w) .czero u) (base : (s.xr t (wRa w)).toNat % 128 = 0)
  (length : (s.xr t (wRb w)).toNat % 128 = 0)
include ready base length

theorem exec_czero_done {es : List Extent}
    (mapped : (s.reaching t .czero).rangeT t .store (s.xr t (wRa w)).toNat (s.xr t (wRb w)).toNat = (.inl es, b))
    (zeroes : es.foldl (fun s e => s.zeroExtent t e) b = a) (runs : a.running t = true) (answered : a.net.waits = false) :
    exec (.czero t w u) s = .next (s.acted (a.retire t ((s.tile t).tsu.pc + 4))) := by
  rw [exec_czero, execCzero]
  refine congrArg _ (State.sis1_reach_falls ready rfl rfl ?_ runs answered)
  rw [State.xr_reaching, State.xr_reaching, if_neg (not_not.mpr base), if_neg (not_not.mpr length), mapped, ← zeroes]

theorem exec_czero_unmapped {x : Nat}
    (unmapped : (s.reaching t .czero).rangeT t .store (s.xr t (wRa w)).toNat (s.xr t (wRb w)).toNat = (.inr x, b))
    (runs : b.running t = true) (answered : b.net.waits = false) :
    exec (.czero t w u) s = .next (s.acted (b.trapT t 0x04 (BitVec.ofNat 64 x))) := by
  rw [exec_czero, execCzero]
  refine congrArg _ (State.sis1_reach_traps ready rfl rfl ?_ runs answered)
  rw [State.xr_reaching, State.xr_reaching, if_neg (not_not.mpr base), if_neg (not_not.mpr length), unmapped]

end

/-- Settles O19: each is one effect on the state, after `czero`'s checks. -/
theorem fencesAndCaches : Obligations.FencesAndCaches := by
  intro s t w u pc va len
  refine ⟨fun e he ready prompt runs => ?_, fun ready => exec_cpf_done ready rfl, fun ready => ⟨exec_czero_misaligned ready,
    fun es b base length mapped => exec_czero_done ready base length mapped rfl, fun x b base length => exec_czero_unmapped ready base length⟩⟩
  obtain ⟨next, q⟩ := exec_fenceRows he
  rw [next, State.sis1_taken ready q prompt runs]

end

end Sys2Proof.Machine
end

section
/-!
What a vector or matrix instruction leaves whose unit takes it at once (R91, R137, R156): the frame that the statements about the units share.
-/

namespace Sys2Proof.Machine

/-! Paying for a step changes no operand. -/

@[simp] theorem State.lvu_paid (s : State) (t : Nat) (row : SisRow) : (s.paid t row).lvu t = s.lvu t := by
  rw [State.lvu, State.tile_paid, State.lvu]

@[simp] theorem State.mxu_paid (s : State) (t : Nat) (row : SisRow) : (s.paid t row).mxu t = s.mxu t := by
  rw [State.mxu, State.tile_paid, State.mxu]

@[simp] theorem State.xr_paid (s : State) (t : Nat) (row : SisRow) (k : Nat) : (s.paid t row).xr t k = s.xr t k := by
  rw [State.xr, State.tile_paid, State.xr]

@[simp] theorem State.fr_paid (s : State) (t : Nat) (row : SisRow) (k : Nat) : (s.paid t row).fr t k = s.fr t k := by
  rw [State.fr, State.tile_paid, State.fr]

@[simp] theorem State.tsu_paid (s : State) (t : Nat) (row : SisRow) : ((s.paid t row).tile t).tsu = (s.tile t).tsu := by
  rw [State.tile_paid]

@[simp] theorem State.run_paid (s : State) (t : Nat) (row : SisRow) : ((s.paid t row).tile t).run = (s.tile t).run := by
  rw [State.tile_paid]

@[simp] theorem State.vFlush_paid (s : State) (t : Nat) (row : SisRow) : (s.paid t row).vFlush t = s.vFlush t := by
  rw [State.vFlush, State.lvu_paid, State.run_paid, State.vFlush]

@[simp] theorem State.vb_paid (s : State) (t : Nat) (row : SisRow) (w : BitVec 32) (i : Nat) : (s.paid t row).vb t w i = s.vb t w i := by
  rw [State.vb, State.lvu_paid, State.xr_paid, State.vb]

@[simp] theorem State.vfb_paid (s : State) (t : Nat) (row : SisRow) (w : BitVec 32) (i : Nat) : (s.paid t row).vfb t w i = s.vfb t w i := by
  rw [State.vfb, State.lvu_paid, State.fr_paid, State.vfb]

@[simp] theorem State.vperm_paid (s : State) (t : Nat) (row : SisRow) (w : BitVec 32) (i : Nat) :
    (s.paid t row).vperm t w i = s.vperm t w i := by
  simp only [State.vperm, State.lvu_paid, State.xr_paid]

theorem OnlyTile.mem {s s' : State} {t : Nat} (h : OnlyTile s s' t) : s'.mem = s.mem := by rw [h.1]

@[simp] theorem State.lsBytes_paid (s : State) (t : Nat) (row : SisRow) (a n : Nat) : (s.paid t row).lsBytes t a n = s.lsBytes t a n := by
  simp only [State.lsBytes, State.tile_paid, (onlyTile_paid s t row).mem]

@[simp] theorem State.lvuSteps_paid (s : State) (t : Nat) (row : SisRow) (w : BitVec 32) (r : SisRow) :
    (s.paid t row).lvuSteps t w r = s.lvuSteps t w r := by
  simp only [State.lvuSteps, State.lvu_paid, State.xr_paid, State.lsBytes_paid]

@[simp] theorem State.issueTrap_paid (s : State) (t : Nat) (row : SisRow) (w ext : BitVec 32) (r : SisRow) :
    (s.paid t row).issueTrap t w ext r = s.issueTrap t w ext r := by
  unfold State.paid
  split <;> simp only [State.issueTrap_spend]

/-! The unit takes the instruction at once. -/

/-- Where its checks at issue pass and the unit goes on, a vector instruction is its unit's effect. -/
theorem State.sisV_unit {s z : State} {t : Nat} {w : BitVec 32} {u : Upset} {row : SisRow} (ready : Ready s t (wordRow w) row u)
    (inside : row.reaches = false) (q : row.queued = true) (m : row.matrix = false) (ns : row ≠ .setvl)
    (issues : s.issueTrap t w 0 row = none) (op : (s.paid t row).unitOp t w 0 u row = z) (runs : z.running t = true) :
    s.sisV t w u row = (s.paid t row).unitDone z t w 0 row := by
  have issued : (s.spend t row.units).issue t w 0 u row =
      z.stepped t row ((s.paid t row).lvuSteps t w row) ((s.paid t row).mxBeats t w 0 row) := by
    rw [State.issue_ready ready q, op]
    exact if_neg ns
  rw [State.sisV_ready ready inside (by rw [State.issueTrap_spend, issues]) (by rw [issued, State.running_stepped, runs]), issued,
    State.unitDone, m, State.tsu_paid]
  rfl

/-- Where its checks at issue pass, it waits for no other device and the unit goes on, so is one that reaches memory (R312). -/
theorem State.sisV_reach {s z : State} {t : Nat} {w : BitVec 32} {u : Upset} {row : SisRow} (ready : Ready s t (wordRow w) row u)
    (outside : row.reaches = true) (q : row.queued = true) (m : row.matrix = false) (ns : row ≠ .setvl)
    (issues : s.issueTrap t w 0 row = none) (op : (s.reaching t row).unitOp t w 0 u row = z) (runs : z.running t = true)
    (answered : z.net.waits = false) : s.sisV t w u row = s.acted ((s.reaching t row).unitDone z t w 0 row) := by
  have issued : ((s.acting t).spend t row.units).issue t w 0 u row =
      z.stepped t row ((s.reaching t row).lvuSteps t w row) ((s.reaching t row).mxBeats t w 0 row) := by
    rw [State.issue_ready (ready.acting t) q, ← State.reaching, op]
    exact if_neg ns
  have issues' : ((s.acting t).spend t row.units).issueTrap t w 0 row = none := by
    rw [State.issueTrap_spend]
    exact issues
  unfold State.sisV State.sisQ
  refine State.sis_reach ready outside ?_ answered
  rw [issues', issued, State.finish_next ((State.running_stepped _ _ _ _ _).trans runs), if_neg (major_of_wordRow ready.word),
    State.unitDone, m, State.tile_reaching]
  rfl

/-- Where its checks at issue pass and the unit goes on, a matrix instruction is its unit's effect, past both its words. -/
theorem State.sisM_unit {s z : State} {t : Nat} {w ext : BitVec 32} {u : Upset} {row : SisRow} (ready : Ready s t (pairRow w ext) row u)
    (mem : row ∈ matrixRows) (issues : s.issueTrap t w ext row = none) (op : (s.paid t row).unitOp t w ext u row = z)
    (runs : z.running t = true) : s.sisM t w ext u row = (s.paid t row).unitDone z t w ext row := by
  have q : row.queued = true ∧ row.matrix = true ∧ row ≠ .setvl := by
    fin_cases mem <;> exact ⟨rfl, rfl, nofun⟩
  have issued : (s.spend t row.units).issue t w ext u row =
      z.stepped t row ((s.paid t row).lvuSteps t w row) ((s.paid t row).mxBeats t w ext row) := by
    rw [State.issue_ready ready q.1, op]
    exact if_neg q.2.2
  rw [State.sisM_ready ready mem (by rw [State.issueTrap_spend, issues]) (by rw [issued, State.running_stepped, runs]), issued,
    State.unitDone, q.2.1, State.tsu_paid]
  rfl

/-- A vector instruction whose checks at issue raise a trap takes it before its unit. -/
theorem State.sisV_refused {s : State} {t : Nat} {w : BitVec 32} {u : Upset} {row : SisRow} {c : Nat} {v : Word}
    (ready : Ready s t (wordRow w) row u) (issues : s.issueTrap t w 0 row = some (c, v)) :
    s.sisV t w u row = s.taken t row (fun s => s.trapT t c v) := by
  have issues' : ((s.met t row).spend t row.units).issueTrap t w 0 row = some (c, v) := by
    rw [State.issueTrap_spend]
    rcases s.met_cases t row with m | m <;> rw [m] <;> exact issues
  unfold State.sisV State.sisQ
  refine State.sis_open (SisRow.calm_strike ready.calm · t) ready.runs ready.idle (State.maySpend_left ready.tokens) (.inr ready.word) ?_
    (s.prompt_trapT t row c v)
  have ready' := ready.met
  have word : sisRow w (fun _ => none) = some row := ready.word
  unfold State.begin
  rw [if_neg (SisRow.calm_mismatch ready.calm), State.tile_spend, if_neg (not_not.mpr ready'.aligned), word]
  dsimp only
  rw [issues']
  exact State.finish_trap (by rw [State.running_spend]; exact ready'.runs)

/-! What a unit leaves that changes the tile's registers alone. -/

theorem onlyTile_updTsu (s : State) (t : Nat) (f : Tsu → Tsu) : OnlyTile s (s.updTsu t f) t := onlyTile_updTile s t _

/-- From `s` to `z` tile t's scalar unit has become `r` and its vector unit `v`, and nothing else has changed. -/
structure State.Leaves (s z : State) (t : Nat) (r : Tsu) (v : Lvu) : Prop where
  only : OnlyTile s z t
  tile : z.tile t = { s.tile t with tsu := r, lvu := v }

theorem State.leaves_refl (s : State) (t : Nat) : s.Leaves s t (s.tile t).tsu (s.lvu t) := ⟨.refl s t, rfl⟩

theorem State.leaves_updLvu (s : State) (t : Nat) (f : Lvu → Lvu) : s.Leaves (s.updLvu t f) t (s.tile t).tsu (f (s.lvu t)) :=
  ⟨onlyTile_updTile _ _ _, by rw [State.updLvu, State.tile_updTile_self]; rfl⟩

theorem State.leaves_setX (s : State) (t d : Nat) (x : Word) : s.Leaves (s.setX t d x) t ((s.tile t).tsu.setX d x) (s.lvu t) :=
  ⟨onlyTile_updTsu _ _ _, by rw [State.setX, State.updTsu, State.tile_updTile_self]; rfl⟩

theorem State.leaves_setF (s : State) (t d : Nat) (x : Word) : s.Leaves (s.setF t d x) t ((s.tile t).tsu.setF d x) (s.lvu t) :=
  ⟨onlyTile_updTsu _ _ _, by rw [State.setF, State.updTsu, State.tile_updTile_self]; rfl⟩

theorem State.Leaves.running {s z : State} {t : Nat} {r : Tsu} {v : Lvu} (h : s.Leaves z t r v) : z.running t = s.running t := by
  rw [State.running, h.tile, State.running]

/-- The tile after a vector instruction whose unit left `r` and `v`. -/
def State.afterUnit (s : State) (t : Nat) (w : BitVec 32) (row : SisRow) (r : Tsu) (v : Lvu) : Tile :=
  { s.tile t with
    tokens := spendTokens (s.tile t).tokens row.steps, lvu := { v with steps := v.steps + s.lvuSteps t w row },
    tsu := { r with pc := (s.tile t).tsu.pc + 4, retired := r.retired + 1 } }

/-- Such an instruction changes its tile alone. -/
theorem State.sisV_leaves {s : State} {t : Nat} {w : BitVec 32} {u : Upset} {row : SisRow} {r : Tsu} {v : Lvu}
    (ready : Ready s t (wordRow w) row u) (inside : row.reaches = false) (q : row.queued = true) (m : row.matrix = false) (ns : row ≠ .setvl)
    (issues : s.issueTrap t w 0 row = none) (op : (s.paid t row).Leaves ((s.paid t row).unitOp t w 0 u row) t r v) :
    OnlyTile s (s.sisV t w u row) t ∧ (s.sisV t w u row).tile t = s.afterUnit t w row r v := by
  have runs : ((s.paid t row).unitOp t w 0 u row).running t = true := by rw [op.running, State.running_paid, ready.runs]
  rw [State.sisV_unit ready inside q m ns issues rfl runs]
  refine ⟨((onlyTile_paid s t row).trans op.only).trans ((onlyTile_updTile _ _ _).trans (onlyTile_retire _ _ _)), ?_⟩
  rw [State.unitDone, State.tile_retire, State.stepped, State.tile_updTile_self, op.tile, m, State.tile_paid, State.lvuSteps_paid]
  rfl

/-- `setvl` also writes its scalar result at issue (R92). -/
theorem State.sisV_setvl {s : State} {t : Nat} {w : BitVec 32} {u : Upset} (ready : Ready s t (wordRow w) .setvl u) :
    OnlyTile s (s.sisV t w u .setvl) t ∧ (s.sisV t w u .setvl).tile t =
      s.afterUnit t w .setvl ((s.tile t).tsu.setX (wRd w) (BitVec.ofNat 64 (setvlLen w (s.xr t (wRa w)))))
        { s.lvu t with vl := setvlLen w (s.xr t (wRa w)), sew := BitVec.ofNat 2 (wFn w), falt := BitVec.ofNat 2 (wFn w / 4) } := by
  have issued : (s.spend t SisRow.setvl.units).issue t w 0 u .setvl =
      (((s.paid t .setvl).setvlOp t w).stepped t .setvl ((s.paid t .setvl).lvuSteps t w .setvl) ((s.paid t .setvl).mxBeats t w 0 .setvl)).setX t
        (wRd w) (BitVec.ofNat 64 (setvlLen w (s.xr t (wRa w)))) := by
    rw [State.issue_ready ready rfl]
    rfl
  have runs : ((s.spend t SisRow.setvl.units).issue t w 0 u .setvl).running t = true := by
    rw [issued, State.running_setX, State.running_stepped, State.setvlOp, State.running_updLvu, State.running_paid, ready.runs]
  rw [State.sisV_ready ready rfl rfl runs, issued]
  refine ⟨(((onlyTile_paid s t .setvl).trans (onlyTile_updTile _ _ _)).trans (onlyTile_updTile _ _ _)).trans
    ((onlyTile_updTsu _ _ _).trans (onlyTile_retire _ _ _)), ?_⟩
  rw [State.tile_retire, State.setX, State.updTsu, State.tile_updTile_self, State.stepped, State.tile_updTile_self, State.setvlOp,
    State.updLvu, State.tile_updTile_self, State.xr_paid, State.lvuSteps_paid, State.tile_paid, State.afterUnit]
  rfl

end Sys2Proof.Machine
end

section
/-!
The element-wise vector instructions, the comparisons and the mask instructions (R116, R129–R133, R181, R182).
-/

namespace Sys2Proof.Machine

/-! What an element-wise instruction leaves in its destination (R116). -/

/-- From `v` to `v'` the active elements of register `wRd w` below VL have got their values, a masked-off one is zero or as it was, the
vector flags have at most been raised and every other register is as it was. -/
structure Lvu.Elements (w : BitVec 32) (value : Nat → Nat) (v v' : Lvu) : Prop where
  rest : v' = { v with v := v'.v, flags := v'.flags }
  sticky : v'.flags &&& v.flags = v.flags
  others : ∀ r, r ≠ wRd w → SMap.get 0 v'.v r = SMap.get 0 v.v r
  elements : ∀ i, i < v.max → v'.el (wRd w) i =
    if i < v.vl then (if v.on w i then value i % 2 ^ v.w else if wMz w then 0 else v.el (wRd w) i) else v.el (wRd w) i

/-- Nothing is below a VL of 0 (R117). -/
theorem Lvu.Elements.empty {w : BitVec 32} {value : Nat → Nat} {v : Lvu} (h : v.vl = 0) : Lvu.Elements w value v v :=
  ⟨rfl, BitVec.and_self, fun _ _ => rfl, fun i _ => by rw [h, if_neg (Nat.not_lt_zero i)]⟩

@[simp] theorem Lvu.length_each {α : Type} (v : Lvu) (w : BitVec 32) (f : Nat → α) : (v.each w f).length = v.vl := by
  simp [Lvu.each, Lvu.ix]

theorem Lvu.getD_each {α : Type} (v : Lvu) (w : BitVec 32) (f : Nat → α) {i : Nat} (h : i < v.vl) :
    (v.each w f).getD i none = if v.on w i then some (f i) else none := by
  rw [getD_of_lt none (by simpa using h)]
  simp [Lvu.each, Lvu.ix]

theorem Lvu.elements_write (v : Lvu) (w : BitVec 32) (value : Nat → Nat) :
    Lvu.Elements w value v (v.write (wRd w) (wMz w) (v.each w value)) where
  rest := rfl
  sticky := BitVec.and_self
  others _ other := Lvu.get_write v _ _ _ other
  elements i h := by
    rw [Lvu.el_write v _ _ _ h, Lvu.length_each]
    split
    · next below =>
      rw [Lvu.getD_each v w value below]
      cases v.on w i <;> simp
    · rfl

/-- Raising flags keeps those that are set. -/
theorem flags_raise {a f old : FFlags} (h : a &&& old = old) : (a ||| f) &&& old = old := by
  have spread : (a ||| f) &&& old = (a &&& old) ||| (f &&& old) := by
    ext i
    simp [Bool.and_or_distrib_right]
  rw [spread, h]
  ext i
  cases h : old[i] <;> simp [h]

theorem Lvu.Elements.raise {w : BitVec 32} {value : Nat → Nat} {v v' : Lvu} (h : Lvu.Elements w value v v') (f : FFlags) :
    Lvu.Elements w value v (v'.raise f) where
  rest := by
    obtain ⟨rest, -, -, -⟩ := h
    rw [rest]
    rfl
  sticky := flags_raise h.sticky
  others := h.others
  elements := h.elements

theorem Lvu.map_each {α β : Type} (v : Lvu) (w : BitVec 32) (f : Nat → α) (g : α → β) :
    (v.each w f).map (fun r => r.map g) = v.each w (fun i => g (f i)) := by
  simp only [Lvu.each, List.map_map]
  refine List.map_congr_left fun i _ => ?_
  simp only [Function.comp_apply]
  split <;> rfl

theorem Lvu.elements_writeF (v : Lvu) (w : BitVec 32) (f : Nat → FRes) :
    Lvu.Elements w (fun i => (f i).1) v (v.writeF (wRd w) (wMz w) (v.each w f)) := by
  rw [Lvu.writeF, Lvu.map_each]
  exact (v.elements_write w fun i => (f i).1).raise _

/-- With nothing queued the checks at issue see the element width in force. -/
theorem Tile.issueSew_idle {x : Tile} (h : x.queue = []) : x.issueSew = x.lvu := by
  rw [Tile.issueSew, h, List.foldl_nil]

/-- With VL = 0 such an instruction does nothing (R117), -/
theorem State.unitOp_empty {s : State} {t : Nat} {w ext : BitVec 32} {u : Upset} {row : SisRow} (h : row.byLength = true)
    (empty : (s.lvu t).vl = 0) : s.unitOp t w ext u row = s := by
  unfold State.unitOp
  exact if_pos (by simp [h, empty])

/-- Each element-wise instruction queues for the vector unit and passes its checks at issue. -/
theorem elementRows_issues {s : State} {t : TileId} {w : BitVec 32} {u : Upset} {e : ElementRow Nat} (he : e ∈ elementRows s t w u)
    (idle : (s.tile t).queue = []) (issues : e.issues = true) :
    exec e.instr s = .next (s.sisV t w u e.row) ∧ (e.row.reaches = false ∧ e.row.queued = true ∧ e.row.matrix = false ∧ e.row ≠ .setvl) ∧
      e.row.byLength = true ∧ s.issueTrap t w 0 e.row = none := by
  have sew : (s.tile t).issueSew = s.lvu t := Tile.issueSew_idle idle
  fin_cases he
  all_goals
    refine ⟨rfl, ⟨rfl, rfl, rfl, nofun⟩, rfl, ?_⟩
    simp only [State.issueTrap, sew]
  all_goals simp_all only [Bool.and_eq_true, Bool.true_and, if_true]

/-- With VL above 0 each writes its elements. -/
theorem elementRows_effect {s : State} {t : TileId} {w : BitVec 32} {u : Upset} {e : ElementRow Nat} (he : e ∈ elementRows s t w u)
    (some : (s.lvu t).vl ≠ 0) (issues : e.issues = true) : ∃ v', s.Leaves (s.unitOp t w 0 u e.row) t (s.tile t).tsu v' ∧
      Lvu.Elements w e.value (s.lvu t) v' := by
  fin_cases he
  all_goals
    dsimp only
    unfold State.unitOp
    rw [if_neg (by simp [some])]
    dsimp only
  · exact ⟨_, by unfold State.vectorIntegerOp; exact s.leaves_updLvu t _, Lvu.elements_write _ _ _⟩
  · unfold State.vectorFloatOp
    have cmp : ¬ (0x0A ≤ wFn w % 32 ∧ wFn w % 32 ≤ 0x0C) := by
      intro h
      simp [h] at issues
    simp only [cmp, if_false]
    exact ⟨_, State.leaves_updLvu _ _ _, Lvu.elements_writeF _ _ _⟩
  · exact ⟨_, by unfold State.vfcvtFromOp; exact s.leaves_updLvu t _, Lvu.elements_writeF _ _ _⟩
  · have rm : (s.tile t).tsu.rmode ≠ .sr := by
      intro h
      simp [h] at issues
    unfold State.vfcvtToOp
    rw [if_neg rm]
    exact ⟨_, State.leaves_updLvu _ _ _, Lvu.elements_writeF _ _ _⟩
  · refine ⟨_, by unfold State.vfcvtIntegerOp; exact s.leaves_updLvu t _, ?_⟩
    convert Lvu.elements_writeF (s.lvu t) w _ using 2 with i
    split <;> rfl
  · have pack : wFn w ≠ 0x17 := by
      intro h
      simp [h] at issues
    unfold State.vectorPermutationOp
    rw [if_neg pack]
    exact ⟨_, State.leaves_updLvu _ _ _, Lvu.elements_write _ _ _⟩

/-- A ready element-wise instruction falls through with its elements written. -/
theorem exec_elementRows {s : State} {t : TileId} {w : BitVec 32} {u : Upset} {e : ElementRow Nat} (he : e ∈ elementRows s t w u)
    (ready : Ready s t (wordRow w) e.row u) (issues : e.issues = true) : ∃ v', exec e.instr s = .next (s.sisV t w u e.row) ∧
      OnlyTile s (s.sisV t w u e.row) t ∧ Lvu.Elements w e.value (s.lvu t) v' ∧
      (s.sisV t w u e.row).tile t = s.afterUnit t w e.row (s.tile t).tsu v' := by
  obtain ⟨next, ⟨inside, q, m, ns⟩, byLength, passes⟩ := elementRows_issues he ready.idle issues
  obtain ⟨v', op, elements⟩ : ∃ v', (s.paid t e.row).Leaves ((s.paid t e.row).unitOp t w 0 u e.row) t (s.tile t).tsu v' ∧
      Lvu.Elements w e.value (s.lvu t) v' := by
    by_cases empty : (s.lvu t).vl = 0
    · rw [State.unitOp_empty byLength (by rw [State.lvu_paid, empty])]
      have leaves := (s.paid t e.row).leaves_refl t
      rw [State.tsu_paid, State.lvu_paid] at leaves
      exact ⟨_, leaves, .empty empty⟩
    · have he' : e ∈ elementRows (s.paid t e.row) t w u := by
        simpa only [elementRows, State.lvu_paid, State.vFlush_paid, State.tsu_paid, State.vb_paid, State.vfb_paid, State.vperm_paid] using he
      have effect := elementRows_effect he' (by rwa [State.lvu_paid]) issues
      rwa [State.tsu_paid, State.lvu_paid] at effect
  obtain ⟨only, tile⟩ := State.sisV_leaves ready inside q m ns passes op
  exact ⟨v', next, only, elements, tile⟩

theorem State.lvu_afterUnit {s z : State} {t : Nat} {w : BitVec 32} {row : SisRow} {r : Tsu} {v : Lvu}
    (tile : z.tile t = s.afterUnit t w row r v) : z.lvu t = { v with steps := v.steps + s.lvuSteps t w row } := by
  rw [State.lvu, tile, State.afterUnit]

/-- Settles O20: each row writes its elements under the mask and raises flags at most. -/
theorem vectorElements : Obligations.VectorElements := by
  intro s t w u e he ready issues
  obtain ⟨v', next, only, ⟨rest, sticky, others, elements⟩, tile⟩ := exec_elementRows he ready issues
  have lvu := State.lvu_afterUnit tile
  refine ⟨_, next, only, ?_, ?_, ?_, ?_, ?_⟩
  · rw [State.lvu] at lvu
    rw [lvu, tile]
    rfl
  · rw [lvu]
    exact congrArg (fun v : Lvu => { v with steps := v.steps + s.lvuSteps t w e.row }) rest
  · rw [lvu]
    exact sticky
  · rw [lvu]
    exact others
  · rw [lvu]
    exact elements

/-! Comparisons, merges, packs and mask logic. -/

/-- From `v` to `v'` the active bits of K register `wRd w` below VL have got their values, a masked-off one is zero or as it was, the vector
flags have at most been raised and every other register is as it was. -/
structure Lvu.Bits (w : BitVec 32) (value : Nat → Bool) (v v' : Lvu) : Prop where
  rest : v' = { v with k := v'.k, flags := v'.flags }
  others : ∀ r, r ≠ wRd w → SMap.get 0 v'.k r = SMap.get 0 v.k r
  bits : ∀ i, i < 2048 → v'.kbit (wRd w) i =
    if i < v.vl then (if v.on w i then value i else if wMz w then false else v.kbit (wRd w) i) else v.kbit (wRd w) i

theorem Lvu.Bits.empty {w : BitVec 32} {value : Nat → Bool} {v : Lvu} (h : v.vl = 0) : Lvu.Bits w value v v :=
  ⟨rfl, fun _ _ => rfl, fun i _ => by rw [h, if_neg (Nat.not_lt_zero i)]⟩

theorem Lvu.bits_writeK (v : Lvu) (w : BitVec 32) (value : Nat → Bool) :
    Lvu.Bits w value v (v.writeK (wRd w) (wMz w) (v.each w value)) where
  rest := rfl
  others _ other := SMap.get_put_ne 0 v.k other _
  bits i h := by
    rw [Lvu.kbit_writeK v _ _ _ h, Lvu.length_each]
    split
    · next below =>
      rw [Lvu.getD_each v w value below]
      cases v.on w i <;> simp
    · rfl

theorem Lvu.Bits.raise {w : BitVec 32} {value : Nat → Bool} {v v' : Lvu} (h : Lvu.Bits w value v v') (f : FFlags) :
    Lvu.Bits w value v (v'.raise f) where
  rest := by
    obtain ⟨rest, -, -⟩ := h
    rw [rest]
    rfl
  others := h.others
  bits := h.bits

/-- Each comparison queues for the vector unit and passes its checks at issue. -/
theorem compareRows_issues {s : State} {t : TileId} {w : BitVec 32} {u : Upset} {e : ElementRow Bool} (he : e ∈ compareRows s t w u)
    (idle : (s.tile t).queue = []) (issues : e.issues = true) :
    exec e.instr s = .next (s.sisV t w u e.row) ∧ (e.row.reaches = false ∧ e.row.queued = true ∧ e.row.matrix = false ∧ e.row ≠ .setvl) ∧
      e.row.byLength = true ∧ s.issueTrap t w 0 e.row = none := by
  have sew : (s.tile t).issueSew = s.lvu t := Tile.issueSew_idle idle
  fin_cases he
  all_goals
    refine ⟨rfl, ⟨rfl, rfl, rfl, nofun⟩, rfl, ?_⟩
    simp only [State.issueTrap, sew]
  all_goals simp_all only [Bool.and_eq_true, if_true]

/-- With VL above 0 each writes its bits. -/
theorem compareRows_effect {s : State} {t : TileId} {w : BitVec 32} {u : Upset} {e : ElementRow Bool} (he : e ∈ compareRows s t w u)
    (some : (s.lvu t).vl ≠ 0) (issues : e.issues = true) : ∃ v', s.Leaves (s.unitOp t w 0 u e.row) t (s.tile t).tsu v' ∧
      Lvu.Bits w e.value (s.lvu t) v' := by
  fin_cases he
  all_goals
    dsimp only
    unfold State.unitOp
    rw [if_neg (by simp [some])]
    dsimp only
  · exact ⟨_, by unfold State.vectorCompareOp; exact s.leaves_updLvu t _, Lvu.bits_writeK _ _ _⟩
  · have cmp : 0x0A ≤ wFn w % 32 ∧ wFn w % 32 ≤ 0x0C := by
      simp only [Bool.and_eq_true, decide_eq_true_eq] at issues
      exact issues.2
    unfold State.vectorFloatOp
    simp only [cmp, and_self, if_true]
    refine ⟨_, s.leaves_updLvu t _, Lvu.Bits.raise ?_ _⟩
    rw [Lvu.map_each]
    exact Lvu.bits_writeK _ _ _

/-- A ready comparison falls through with its bits written. -/
theorem exec_compareRows {s : State} {t : TileId} {w : BitVec 32} {u : Upset} {e : ElementRow Bool} (he : e ∈ compareRows s t w u)
    (ready : Ready s t (wordRow w) e.row u) (issues : e.issues = true) : ∃ v', exec e.instr s = .next (s.sisV t w u e.row) ∧
      OnlyTile s (s.sisV t w u e.row) t ∧ Lvu.Bits w e.value (s.lvu t) v' ∧
      (s.sisV t w u e.row).tile t = s.afterUnit t w e.row (s.tile t).tsu v' := by
  obtain ⟨next, ⟨inside, q, m, ns⟩, byLength, passes⟩ := compareRows_issues he ready.idle issues
  obtain ⟨v', op, bits⟩ : ∃ v', (s.paid t e.row).Leaves ((s.paid t e.row).unitOp t w 0 u e.row) t (s.tile t).tsu v' ∧
      Lvu.Bits w e.value (s.lvu t) v' := by
    by_cases empty : (s.lvu t).vl = 0
    · rw [State.unitOp_empty byLength (by rw [State.lvu_paid, empty])]
      have leaves := (s.paid t e.row).leaves_refl t
      rw [State.tsu_paid, State.lvu_paid] at leaves
      exact ⟨_, leaves, .empty empty⟩
    · have he' : e ∈ compareRows (s.paid t e.row) t w u := by
        simpa only [compareRows, State.lvu_paid, State.vFlush_paid, State.vb_paid, State.vfb_paid] using he
      have effect := compareRows_effect he' (by rwa [State.lvu_paid]) issues
      rwa [State.tsu_paid, State.lvu_paid] at effect
  obtain ⟨only, tile⟩ := State.sisV_leaves ready inside q m ns passes op
  exact ⟨v', next, only, bits, tile⟩

/-- Writing a value for every element below VL. -/
theorem Lvu.el_write_all (v : Lvu) (rd : Nat) (xs : List Nat) {i : Nat} (h : i < v.max) :
    (v.write rd false (xs.map some)).el rd i = if i < xs.length then xs.getD i 0 % 2 ^ v.w else v.el rd i := by
  rw [Lvu.el_write v _ _ _ h, List.length_map]
  split
  · next below =>
    rw [getD_of_lt none (by simpa using below), getD_of_lt 0 below, List.getElem_map]
  · rfl

theorem Lvu.el_lt (v : Lvu) (r i : Nat) : v.el r i % 2 ^ v.w = v.el r i :=
  Nat.mod_eq_of_lt (Nat.mod_lt _ (Nat.two_pow_pos _))

/-- What `vmerge` leaves in element i of its destination (R116). -/
theorem vmerge_leaves (s : State) (t : Nat) (w : BitVec 32) (u : Upset) : ∃ v',
    s.Leaves (s.unitOp t w 0 u .vmerge) t (s.tile t).tsu v' ∧ ∀ i, i < (s.lvu t).max → v'.el (wRd w) i =
      if i < (s.lvu t).vl then (if (s.lvu t).kbit (wKm w) i then s.vb t w i % 2 ^ (s.lvu t).w else (s.lvu t).el (wRa w) i)
      else (s.lvu t).el (wRd w) i := by
  by_cases empty : (s.lvu t).vl = 0
  · rw [State.unitOp_empty rfl empty]
    exact ⟨_, s.leaves_refl t, fun i _ => by rw [empty, if_neg (Nat.not_lt_zero i)]⟩
  · have op : s.unitOp t w 0 u .vmerge = s.vmergeOp t w := by
      unfold State.unitOp
      exact if_neg (by simp [empty])
    refine ⟨_, by rw [op]; unfold State.vmergeOp; exact s.leaves_updLvu t _, fun i h => ?_⟩
    have all := Lvu.el_write_all (s.lvu t) (wRd w)
      ((s.lvu t).ix.map fun i => if (s.lvu t).kbit (wKm w) i then s.vb t w i else (s.lvu t).el (wRa w) i) h
    rw [List.map_map] at all
    refine all.trans ?_
    simp only [Lvu.ix, List.length_map, List.length_range]
    split
    · next below =>
      rw [getD_of_lt 0 (by simpa using below)]
      simp only [List.getElem_map, List.getElem_range]
      split
      · rfl
      · exact Lvu.el_lt _ _ _
    · rfl

/-- The elements that `vp.pack` keeps. -/
def Lvu.kept (v : Lvu) (w : BitVec 32) : List Nat := (v.ix.filter (fun i => v.kbit (wKm w) i)).map (fun i => v.el (wRa w) i)

theorem Lvu.kept_length (v : Lvu) (w : BitVec 32) : (v.kept w).length ≤ v.vl := by
  rw [Lvu.kept, List.length_map]
  exact (List.length_filter_le _ _).trans (by simp [Lvu.ix])

theorem Lvu.kept_lt (v : Lvu) (w : BitVec 32) (i : Nat) : (v.kept w).getD i 0 % 2 ^ v.w = (v.kept w).getD i 0 := by
  rw [Lvu.kept, List.getD_eq_getElem?_getD, List.getElem?_map]
  cases (List.filter (fun i => v.kbit (wKm w) i) v.ix)[i]? with
  | none => simp
  | some j => exact v.el_lt _ _

/-- What `vp.pack` leaves in element i of its destination. -/
theorem pack_leaves {s : State} {t : Nat} {w : BitVec 32} (u : Upset) (pack : wFn w = 0x17) (some : (s.lvu t).vl ≠ 0) : ∃ v',
    s.Leaves (s.unitOp t w 0 u .vectorPermutation) t (s.tile t).tsu v' ∧ ∀ i, i < (s.lvu t).max → v'.el (wRd w) i =
      if i < (s.lvu t).vl then ((s.lvu t).kept w).getD i 0 else (s.lvu t).el (wRd w) i := by
  have op : s.unitOp t w 0 u .vectorPermutation = s.vectorPermutationOp t w := by
    unfold State.unitOp
    exact if_neg (by simp [some])
  refine ⟨_, by rw [op]; unfold State.vectorPermutationOp; rw [if_pos pack]; exact s.leaves_updLvu t _, fun i h => ?_⟩
  refine (Lvu.el_write_all (s.lvu t) (wRd w) ((s.lvu t).kept w ++ List.replicate ((s.lvu t).vl - ((s.lvu t).kept w).length) 0) h).trans ?_
  have total : ((s.lvu t).kept w ++ List.replicate ((s.lvu t).vl - ((s.lvu t).kept w).length) 0).length = (s.lvu t).vl := by
    have := (s.lvu t).kept_length w
    simp only [List.length_append, List.length_replicate]
    omega
  have padded : ((s.lvu t).kept w ++ List.replicate ((s.lvu t).vl - ((s.lvu t).kept w).length) 0).getD i 0 = ((s.lvu t).kept w).getD i 0 := by
    rcases Nat.lt_or_ge i ((s.lvu t).kept w).length with inside | above
    · rw [List.getD_append _ _ _ _ inside]
    · rw [List.getD_append_right _ _ _ _ above, List.getD_eq_default _ _ above]
      simp [List.getD_eq_getElem?_getD, List.getElem?_replicate]
      split <;> rfl
  rw [total, padded, Lvu.kept_lt]

/-- Mask logic writes all of its register, whatever VL is. -/
theorem maskLogic_leaves (s : State) (t : Nat) (w : BitVec 32) (u : Upset) : ∃ v',
    s.Leaves (s.unitOp t w 0 u .maskLogic) t (s.tile t).tsu v' ∧ v'.v = (s.lvu t).v ∧ ∀ r, SMap.get 0 v'.k r =
      if r = wRd w then klogic (wFn w) (SMap.get 0 (s.lvu t).k (wRa w)) (SMap.get 0 (s.lvu t).k (wRb w)) else SMap.get 0 (s.lvu t).k r := by
  have leaves := s.leaves_updLvu t fun v =>
    { v with k := SMap.put 0 v.k (wRd w) (klogic (wFn w) (SMap.get 0 v.k (wRa w)) (SMap.get 0 v.k (wRb w))) }
  refine ⟨_, leaves, ?_, fun r => ?_⟩
  · rfl
  · exact SMap.get_put _ _ _ _ _

/-- A ready vector instruction without checks at issue falls through with what its unit leaves. -/
theorem State.sisV_falls {s : State} {t : Nat} {w : BitVec 32} {u : Upset} {row : SisRow} {r : Tsu} {v : Lvu}
    (ready : Ready s t (wordRow w) row u) (row' : row ∈ [SisRow.vmerge, .vectorPermutation, .maskLogic, .vgetvl, .kpopcKfirst, .vectorScalarMove])
    (op : (s.paid t row).Leaves ((s.paid t row).unitOp t w 0 u row) t r v) :
    OnlyTile s (s.sisV t w u row) t ∧ (s.sisV t w u row).tile t = s.afterUnit t w row r v := by
  fin_cases row' <;> exact State.sisV_leaves ready rfl rfl rfl nofun rfl op

/-- Settles O21: each writes its register alone. -/
theorem vectorMasks : Obligations.VectorMasks := by
  intro s t w u
  refine ⟨fun e he ready issues => ?_, fun ready => ?_, ?_, fun ready => ?_⟩
  · obtain ⟨v', next, only, ⟨rest, others, bits⟩, tile⟩ := exec_compareRows he ready issues
    refine ⟨_, next, only, ?_, by rw [tile]; rfl, ?_, ?_⟩
    all_goals rw [State.lvu_afterUnit tile]
    · show v'.v = (s.lvu t).v
      rw [rest]
    · exact others
    · exact bits
  · have op := vmerge_leaves (s.paid t .vmerge) t w u
    simp only [State.tsu_paid, State.lvu_paid, State.vb_paid] at op
    obtain ⟨v', op, elements⟩ := op
    obtain ⟨only, tile⟩ := State.sisV_falls ready (by simp) op
    refine ⟨_, exec_vmerge .., only, by rw [tile]; rfl, ?_⟩
    rw [State.lvu_afterUnit tile]
    exact elements
  · intro ready pack some kept
    have op := pack_leaves (s := s.paid t .vectorPermutation) (t := t) u pack (by rwa [State.lvu_paid])
    simp only [State.tsu_paid, State.lvu_paid] at op
    obtain ⟨v', op, elements⟩ := op
    obtain ⟨only, tile⟩ := State.sisV_falls ready (by simp) op
    refine ⟨_, exec_vectorPermutation .., only, by rw [tile]; rfl, ?_⟩
    rw [State.lvu_afterUnit tile]
    exact elements
  · have op := maskLogic_leaves (s.paid t .maskLogic) t w u
    simp only [State.tsu_paid, State.lvu_paid] at op
    obtain ⟨v', op, v, k⟩ := op
    obtain ⟨only, tile⟩ := State.sisV_falls ready (by simp) op
    refine ⟨_, exec_maskLogic .., only, ?_, by rw [tile]; rfl, ?_⟩
    all_goals rw [State.lvu_afterUnit tile]
    · exact v
    · exact k

end Sys2Proof.Machine
end

section
/-!
Vector configuration, scalar moves, reductions and stochastic conversions (R113, R129, R134–R136, R173–R177), and the checks at issue (R117,
R118, R121, R122, R130).
-/

namespace Sys2Proof.Machine

/-! Instructions whose result is one scalar register. -/

theorem Tsu.setX_rest (u : Tsu) (d : Nat) (v : Word) : u.setX d v = { u with x := (u.setX d v).x } := by
  unfold Tsu.setX
  split <;> rfl

/-- A unit that leaves one X register written steps to the next instruction. -/
theorem stepsTo_afterUnit {s z : State} {t d : Nat} {w : BitVec 32} {row : SisRow} {x : Word} (only : OnlyTile s z t)
    (tile : z.tile t = s.afterUnit t w row ((s.tile t).tsu.setX d x) (s.lvu t)) :
    StepsTo s z t row ((s.tile t).tsu.pc + 4) ∧ XWrite s z t d x := by
  refine ⟨⟨only, ?_⟩, fun k => ?_⟩
  · rw [State.lvu_afterUnit tile, tile, State.afterUnit, Tsu.setX_rest]
  · rw [State.xr, tile]
    exact Tsu.xr_setX _ _ _ _

/-- One that leaves no register written. -/
theorem stepsTo_afterUnit_none {s z : State} {t : Nat} {w : BitVec 32} {row : SisRow} (only : OnlyTile s z t)
    (tile : z.tile t = s.afterUnit t w row (s.tile t).tsu (s.lvu t)) :
    StepsTo s z t row ((s.tile t).tsu.pc + 4) ∧ (z.tile t).tsu.x = (s.tile t).tsu.x ∧ (z.tile t).tsu.tip = (s.tile t).tsu.tip := by
  refine ⟨⟨only, ?_⟩, by rw [tile]; rfl, by rw [tile]; rfl⟩
  rw [State.lvu_afterUnit tile, tile, State.afterUnit]

/-- A ready instruction without checks at issue whose unit writes one X register. -/
theorem State.sisV_setX {s : State} {t d : Nat} {w : BitVec 32} {u : Upset} {row : SisRow} {x : Word} (ready : Ready s t (wordRow w) row u)
    (row' : row ∈ [SisRow.vmerge, .vectorPermutation, .maskLogic, .vgetvl, .kpopcKfirst, .vectorScalarMove])
    (op : (s.paid t row).unitOp t w 0 u row = (s.paid t row).setX t d x) :
    StepsTo s (s.sisV t w u row) t row ((s.tile t).tsu.pc + 4) ∧ XWrite s (s.sisV t w u row) t d x := by
  have leaves := (s.paid t row).leaves_setX t d x
  rw [← op, State.tsu_paid, State.lvu_paid] at leaves
  obtain ⟨only, tile⟩ := State.sisV_falls ready row' leaves
  exact stepsTo_afterUnit only tile

theorem exec_setvl_ready {s : State} {t : TileId} {w : BitVec 32} {u : Upset} (ready : Ready s t (wordRow w) .setvl u) :
    let vl := min (s.xr t (wRa w)).toNat (16384 / (8 * 2 ^ (BitVec.ofNat 2 (wFn w)).toNat))
    ∃ s', exec (.setvl t w u) s = .next s' ∧ OnlyTile s s' t ∧ XWrite s s' t (wRd w) (BitVec.ofNat 64 vl) ∧
      (s'.lvu t).vl = vl ∧ (s'.lvu t).sew = BitVec.ofNat 2 (wFn w) ∧ (s'.lvu t).falt = BitVec.ofNat 2 (wFn w / 4) ∧
      (s'.lvu t).v = (s.lvu t).v ∧ (s'.lvu t).k = (s.lvu t).k ∧ (s'.lvu t).flags = (s.lvu t).flags ∧
      (s'.tile t).tsu.pc = (s.tile t).tsu.pc + 4 := by
  obtain ⟨only, tile⟩ := State.sisV_setvl ready
  have lvu := State.lvu_afterUnit tile
  refine ⟨_, exec_setvl .., only, fun k => ?_, ?_, ?_, ?_, ?_, ?_, ?_, by rw [tile]; rfl⟩
  · rw [State.xr, tile]
    exact Tsu.xr_setX _ _ _ _
  all_goals rw [lvu]
  rfl

/-! Scalar moves. -/

section
variable {s : State} {t : TileId} {w : BitVec 32} {u : Upset}

/-- The element that `vp.get` and `vp.fget` read: zero from VL on. -/
def State.readEl (s : State) (t : Nat) (w : BitVec 32) : Nat :=
  if (s.xr t (wRb w)).toNat < (s.lvu t).vl then (s.lvu t).el (wRa w) (s.xr t (wRb w)).toNat else 0

/-- The register after `vp.put` and `vp.fput` of `x`. -/
def Lvu.putEl (rd i n : Nat) (x : Word) (v : Lvu) : Lvu := { v with v := SMap.upd 0 v.v rd (fun r => setFld r (i * n) n x.toNat) }

theorem Lvu.get_putEl (v : Lvu) (rd i n : Nat) (x : Word) (r : Nat) : SMap.get 0 (Lvu.putEl rd i n x v).v r =
    if r = rd then setFld (SMap.get 0 v.v r) (i * n) n x.toNat else SMap.get 0 v.v r := by
  rw [Lvu.putEl, SMap.get_upd]
  split
  · next same => rw [same]
  · rfl

theorem State.unitOp_get (fn : wFn w = 0x10) : s.unitOp t w 0 u .vectorScalarMove = s.setX t (wRd w) (sext64 (s.lvu t).w (s.readEl t w)) := by
  show s.vectorScalarMoveOp t w = _
  unfold State.vectorScalarMoveOp
  rw [fn]
  rfl

theorem State.unitOp_fget (fn : wFn w = 0x12) : s.unitOp t w 0 u .vectorScalarMove = s.setF t (wRd w) (BitVec.ofNat 64 (s.readEl t w)) := by
  show s.vectorScalarMoveOp t w = _
  unfold State.vectorScalarMoveOp
  rw [fn]
  rfl

/-- The value that a put writes. -/
def State.putValue (s : State) (t : Nat) (w : BitVec 32) : Word := if wFn w = 0x11 then s.xr t (wRb w) else s.fr t (wRb w)

theorem State.unitOp_put (fn : wFn w = 0x11 ∨ wFn w = 0x13) : s.unitOp t w 0 u .vectorScalarMove =
    if (s.lvu t).vl = 0 ∨ (s.lvu t).max ≤ (s.xr t (wRa w)).toNat then s
    else s.updLvu t (Lvu.putEl (wRd w) (s.xr t (wRa w)).toNat (s.lvu t).w (s.putValue t w)) := by
  show s.vectorScalarMoveOp t w = _
  unfold State.vectorScalarMoveOp State.putValue
  rcases fn with fn | fn <;> rw [fn] <;> rfl

/-- A put below VLMAX replaces one element. -/
theorem exec_put_done (ready : Ready s t (wordRow w) .vectorScalarMove u) (fn : wFn w = 0x11 ∨ wFn w = 0x13) (some : (s.lvu t).vl ≠ 0)
    (inside : (s.xr t (wRa w)).toNat < (s.lvu t).max) : ∃ s', exec (.vectorScalarMove t w u) s = .next s' ∧ OnlyTile s s' t ∧
      (s'.tile t).tsu.pc = (s.tile t).tsu.pc + 4 ∧ ∀ r, SMap.get 0 (s'.lvu t).v r =
        if r = wRd w then
          setFld (SMap.get 0 (s.lvu t).v r) ((s.xr t (wRa w)).toNat * (s.lvu t).w) (s.lvu t).w (s.putValue t w).toNat
        else SMap.get 0 (s.lvu t).v r := by
  have op := State.unitOp_put (s := s.paid t .vectorScalarMove) (t := t) (u := u) fn
  have value : (s.paid t .vectorScalarMove).putValue t w = s.putValue t w := by
    rw [State.putValue, State.xr_paid, State.fr_paid, State.putValue]
  rw [State.lvu_paid, State.xr_paid, value, if_neg (by omega)] at op
  have leaves := (s.paid t .vectorScalarMove).leaves_updLvu t (Lvu.putEl (wRd w) (s.xr t (wRa w)).toNat (s.lvu t).w (s.putValue t w))
  rw [← op, State.tsu_paid, State.lvu_paid] at leaves
  obtain ⟨only, tile⟩ := State.sisV_falls ready (by simp) leaves
  refine ⟨_, exec_vectorScalarMove .., only, by rw [tile]; rfl, fun r => ?_⟩
  rw [State.lvu_afterUnit tile]
  exact Lvu.get_putEl _ _ _ _ _ r

/-- One outside changes nothing. -/
theorem exec_put_outside (ready : Ready s t (wordRow w) .vectorScalarMove u) (fn : wFn w = 0x11 ∨ wFn w = 0x13)
    (outside : (s.lvu t).vl = 0 ∨ (s.lvu t).max ≤ (s.xr t (wRa w)).toNat) : ∃ s', exec (.vectorScalarMove t w u) s = .next s' ∧
      StepsTo s s' t .vectorScalarMove ((s.tile t).tsu.pc + 4) ∧ (s'.tile t).tsu.x = (s.tile t).tsu.x := by
  have op := State.unitOp_put (s := s.paid t .vectorScalarMove) (t := t) (u := u) fn
  rw [State.lvu_paid, State.xr_paid, if_pos outside] at op
  have leaves := (s.paid t .vectorScalarMove).leaves_refl t
  rw [State.tsu_paid, State.lvu_paid] at leaves
  obtain ⟨only, tile⟩ := State.sisV_falls ready (by simp) (by rw [op]; exact leaves)
  obtain ⟨steps, x, -⟩ := stepsTo_afterUnit_none only tile
  exact ⟨_, exec_vectorScalarMove .., steps, x⟩

/-- A read of an element for an F register. -/
theorem exec_fget_done (ready : Ready s t (wordRow w) .vectorScalarMove u) (fn : wFn w = 0x12) :
    ∃ s', exec (.vectorScalarMove t w u) s = .next s' ∧ OnlyTile s s' t ∧ (s'.tile t).tsu.pc = (s.tile t).tsu.pc + 4 ∧
      ∀ r, s'.fr t r = if r = wRd w then BitVec.ofNat 64 (s.readEl t w) else s.fr t r := by
  have op := State.unitOp_fget (s := s.paid t .vectorScalarMove) (t := t) (u := u) fn
  have value : (s.paid t .vectorScalarMove).readEl t w = s.readEl t w := by
    rw [State.readEl, State.xr_paid, State.lvu_paid, State.readEl]
  rw [value] at op
  have leaves := (s.paid t .vectorScalarMove).leaves_setF t (wRd w) (BitVec.ofNat 64 (s.readEl t w))
  rw [← op, State.tsu_paid, State.lvu_paid] at leaves
  obtain ⟨only, tile⟩ := State.sisV_falls ready (by simp) leaves
  refine ⟨_, exec_vectorScalarMove .., only, by rw [tile]; rfl, fun r => ?_⟩
  rw [State.fr, tile]
  exact SMap.get_put _ _ _ _ _

/-! Reductions (R134–R136). -/

/-- The tree over no present leaf has no value. -/
theorem redLevel_none {α : Type} (op : α → α → α) : ∀ l : List (Option α), (∀ x ∈ l, x = none) → ∀ x ∈ redLevel op l, x = none
  | [], _, x, h => by simp [redLevel] at h
  | [y], all, x, h => all x (by simpa [redLevel] using h)
  | none :: y :: r, all, x, h => by
    rw [redLevel, List.mem_cons] at h
    rcases h with rfl | h
    · exact all _ (by simp)
    · exact redLevel_none op r (fun z hz => all z (by simp [hz])) x h
  | some a :: y :: r, all, x, h => by
    have := all (some a) (by simp)
    simp at this

theorem redTree_none {α : Type} (op : α → α → α) : ∀ (k : Nat) (l : List (Option α)), (∀ x ∈ l, x = none) → redTree op k l = none
  | 0, [], _ => rfl
  | 0, x :: _, all => all x (by simp)
  | k + 1, l, all => redTree_none op k _ (redLevel_none op l all)

theorem Lvu.leaves_none {α : Type} {v : Lvu} {w : BitVec 32} (h : v.actives w = []) (f : Nat → α) : ∀ x ∈ v.leaves w f, x = none := by
  intro x hx
  obtain ⟨i, -, rfl⟩ := List.mem_map.mp hx
  refine if_neg fun on => ?_
  simp only [Bool.and_eq_true, decide_eq_true_eq] at on
  have : i ∈ v.actives w := List.mem_filter.mpr ⟨List.mem_range.mpr on.1, on.2⟩
  rw [h] at this
  exact absurd this List.not_mem_nil

/-- An integer reduction's result (R134, R135). -/
def Lvu.reduceInt (v : Lvu) (w : BitVec 32) : Int :=
  (redTree (redInt (wFn w)) v.max.log2 (v.leaves w (fun i =>
    if redSigned (wFn w) then sval v.w (v.el (wRa w) i) else ((v.el (wRa w) i : Nat) : Int)))).getD (redId v.w (wFn w))

theorem State.unitOp_reduceInt (fn : wFn w < 8) :
    s.unitOp t w 0 u .vectorReduction = s.setX t (wRd w) (BitVec.ofInt 64 ((s.lvu t).reduceInt w)) := by
  show s.vectorReductionOp t w = _
  unfold State.vectorReductionOp
  exact if_pos fn

theorem vectorReduction_issues (idle : (s.tile t).queue = []) (ok : wFn w < 8 ∨ (s.lvu t).sew ≠ 0) : s.issueTrap t w 0 .vectorReduction = none := by
  have sew : (s.tile t).issueSew = s.lvu t := Tile.issueSew_idle idle
  simp only [State.issueTrap, sew, Lvu.wide]
  refine if_pos ?_
  simpa [or_comm] using ok

theorem exec_reduceInt (ready : Ready s t (wordRow w) .vectorReduction u) (fn : wFn w < 8) :
    ∃ s', exec (.vectorReduction t w u) s = .next s' ∧ StepsTo s s' t .vectorReduction ((s.tile t).tsu.pc + 4) ∧
      XWrite s s' t (wRd w) (BitVec.ofInt 64 ((s.lvu t).reduceInt w)) := by
  have leaves := (s.paid t .vectorReduction).leaves_setX t (wRd w) (BitVec.ofInt 64 ((s.lvu t).reduceInt w))
  have op := State.unitOp_reduceInt (s := s.paid t .vectorReduction) (t := t) (u := u) fn
  rw [State.lvu_paid] at op
  rw [← op, State.tsu_paid, State.lvu_paid] at leaves
  obtain ⟨only, tile⟩ := State.sisV_leaves ready rfl rfl rfl nofun (vectorReduction_issues ready.idle (.inl fn)) leaves
  exact ⟨_, exec_vectorReduction .., stepsTo_afterUnit only tile⟩

/-- The format that a floating reduction accumulates in (R134). -/
def Lvu.redFmt (v : Lvu) : Fmt := if v.sew = 3 then Fmt.fp64 else Fmt.fp32

/-- The identity of a floating reduction (R135). -/
def Lvu.redIdn (v : Lvu) (fn : Nat) : Nat := if fn = 8 then 0 else v.redFmt.signBit (fn == 9) + v.redFmt.infMag

/-- A floating reduction writes its F register and raises flags; where no element is active, its identity and none. -/
theorem State.unitOp_reduceFloat (s : State) (t : Nat) {w : BitVec 32} (u : Upset) (fn : 8 ≤ wFn w) : ∃ x f,
    s.unitOp t w 0 u .vectorReduction = (s.setF t (wRd w) (BitVec.ofNat 64 x)).updLvu t (fun v => v.raise f) ∧
      ((s.lvu t).actives w = [] → x = (s.lvu t).redIdn (wFn w) ∧ f = 0) := by
  have op : s.unitOp t w 0 u .vectorReduction = s.vectorReductionOp t w := rfl
  rw [op]
  unfold State.vectorReductionOp
  extract_lets v n levels l fmt fl rm leaf op idn r
  rw [if_neg (Nat.not_lt.mpr fn)]
  refine ⟨r.1, r.2, rfl, fun none => ?_⟩
  have e : r = idn := by
    simp only [r]
    rw [redTree_none _ _ _ (Lvu.leaves_none none leaf)]
    rfl
  rw [e]
  exact ⟨rfl, rfl⟩

theorem exec_reduceFloat (ready : Ready s t (wordRow w) .vectorReduction u) (fn : 8 ≤ wFn w) (wide : (s.lvu t).sew ≠ 0) :
    ∃ s', exec (.vectorReduction t w u) s = .next s' ∧ OnlyTile s s' t ∧ (s'.tile t).tsu.pc = (s.tile t).tsu.pc + 4 ∧
      (s'.tile t).tsu.x = (s.tile t).tsu.x ∧ (s'.lvu t).v = (s.lvu t).v ∧ (s'.lvu t).k = (s.lvu t).k ∧
      (s'.lvu t).flags &&& (s.lvu t).flags = (s.lvu t).flags ∧ (∀ r, r ≠ wRd w → s'.fr t r = s.fr t r) ∧
      ((s.lvu t).actives w = [] → (s'.lvu t).flags = (s.lvu t).flags ∧
        s'.fr t (wRd w) = BitVec.ofNat 64 ((s.lvu t).redIdn (wFn w))) := by
  obtain ⟨x, f, op, identity⟩ := (s.paid t .vectorReduction).unitOp_reduceFloat t u fn
  rw [State.lvu_paid] at identity
  have leaves : (s.paid t .vectorReduction).Leaves ((s.paid t .vectorReduction).unitOp t w 0 u .vectorReduction) t
      ((s.tile t).tsu.setF (wRd w) (BitVec.ofNat 64 x)) ((s.lvu t).raise f) := by
    have first := (s.paid t .vectorReduction).leaves_setF t (wRd w) (BitVec.ofNat 64 x)
    rw [op, ← State.tsu_paid s t .vectorReduction, ← State.lvu_paid s t .vectorReduction]
    refine ⟨first.only.trans (onlyTile_updTile _ _ _), ?_⟩
    rw [State.updLvu, State.tile_updTile_self, first.tile]
  obtain ⟨only, tile⟩ := State.sisV_leaves ready rfl rfl rfl nofun (vectorReduction_issues ready.idle (.inr wide)) leaves
  have lvu := State.lvu_afterUnit tile
  refine ⟨_, exec_vectorReduction .., only, by rw [tile]; rfl, by rw [tile]; rfl, by rw [lvu]; rfl, by rw [lvu]; rfl, ?_, fun r other => ?_,
    fun none => ?_⟩
  · rw [lvu]
    exact flags_raise BitVec.and_self
  · rw [State.fr, tile]
    exact SMap.get_put_ne 0 _ other _
  · obtain ⟨rfl, rfl⟩ := identity none
    refine ⟨by rw [lvu]; exact BitVec.or_zero, ?_⟩
    rw [State.fr, tile]
    exact SMap.get_put_self _ _ _ _

/-- At SEW 8 a floating reduction is illegal (R136). -/
theorem exec_reduceFloat_narrow (ready : Ready s t (wordRow w) .vectorReduction u) (fn : 8 ≤ wFn w) (narrow : (s.lvu t).sew = 0) :
    exec (.vectorReduction t w u) s = .next ((s.spend t [.tsu]).trapT t 0x01 (w.zeroExtend 64)) := by
  have sew : (s.tile t).issueSew = s.lvu t := Tile.issueSew_idle ready.idle
  have issues : s.issueTrap t w 0 .vectorReduction = some (0x01, w.zeroExtend 64) := by
    simp [State.issueTrap, sew, Lvu.wide, narrow, fn]
  rw [exec_vectorReduction, execVectorReduction, State.sisV_refused ready issues]
  rfl

end

theorem State.unitOp_kpopcKfirst (s : State) (t : Nat) (w : BitVec 32) (u : Upset) : s.unitOp t w 0 u .kpopcKfirst =
    s.setX t (wRd w) (if wFn w = 8 then BitVec.ofNat 64 ((List.range (s.lvu t).vl).filter (fun i => (s.lvu t).kbit (wRa w) i)).length
      else ((((List.range (s.lvu t).vl).filter (fun i => (s.lvu t).kbit (wRa w) i)).head?.map (BitVec.ofNat 64)).getD (BitVec.allOnes 64))) := by
  show s.kpopcKfirstOp t w = _
  unfold State.kpopcKfirstOp Lvu.ix
  dsimp only
  cases List.filter (fun i => (s.lvu t).kbit (wRa w) i) (List.range (s.lvu t).vl) <;> rfl

/-- Settles O22: one scalar register, one element, or the vector length. -/
theorem vectorScalars : Obligations.VectorScalars := by
  intro s t w u v pc
  refine ⟨exec_setvl_ready, fun ready => ?_, fun ready => ?_, fun ready => ⟨fun fn => ?_, exec_fget_done ready, ?_, ?_,
    exec_put_outside ready⟩, fun ready fn => ⟨exec_reduceFloat_narrow ready fn, exec_reduceFloat ready fn⟩,
    fun ready fn => exec_reduceInt ready fn⟩
  · have op : (s.paid t .vgetvl).unitOp t w 0 u .vgetvl =
        (s.paid t .vgetvl).setX t (wRd w) (BitVec.ofNat 64 ((s.paid t .vgetvl).lvu t).vl) := rfl
    rw [State.lvu_paid] at op
    exact ⟨_, exec_vgetvl .., State.sisV_setX ready (by simp) op⟩
  · have op := (s.paid t .kpopcKfirst).unitOp_kpopcKfirst t w u
    rw [State.lvu_paid] at op
    exact ⟨_, exec_kpopcKfirst .., State.sisV_setX ready (by simp) op⟩
  · have op := State.unitOp_get (s := s.paid t .vectorScalarMove) (t := t) (u := u) fn
    rw [State.readEl, State.lvu_paid, State.xr_paid] at op
    exact ⟨_, exec_vectorScalarMove .., State.sisV_setX ready (by simp) op⟩
  · intro fn some inside
    have put := exec_put_done ready (.inl fn) some inside
    rwa [State.putValue, if_pos fn] at put
  · intro fn some inside
    have put := exec_put_done ready (.inr fn) some inside
    rwa [State.putValue, if_neg (by rw [fn]; decide)] at put

/-! The checks at issue, and VL = 0. -/

section
variable {s : State} {t : TileId} {w : BitVec 32} {u : Upset}

/-- What a vector memory instruction checks at issue: the element width, then the base (R118, R121, R122). -/
theorem vectorMemory_issues {e : Instr × SisRow × Nat} (he : e ∈ vectorMemoryRows t w u) (idle : (s.tile t).queue = []) :
    exec e.1 s = .next (s.sisV t w u e.2.1) ∧ (e.2.1.queued = true ∧ e.2.1.matrix = false ∧ e.2.1 ≠ .setvl) ∧ e.2.1.byLength = true ∧
      e.2.1.reaches = true ∧ s.issueTrap t w 0 e.2.1 =
        if (s.lvu t).sew.toNat < wMew w then some (0x01, w.zeroExtend 64)
        else if (s.xr t (wRa w)).toNat % e.2.2 ≠ 0 then some (0x05, s.xr t (wRa w)) else none := by
  have sew : (s.tile t).issueSew = s.lvu t := Tile.issueSew_idle idle
  fin_cases he
  all_goals
    refine ⟨rfl, ⟨rfl, rfl, nofun⟩, rfl, rfl, ?_⟩
    simp only [State.issueTrap, sew]

/-- The floating rows need an element width of 16 bits or more (R130, R132). -/
theorem floatRows_narrow (narrow : (s.lvu t).sew = 0) {e : Instr × SisRow} (he : e ∈ [((Instr.vectorFloat t w u), SisRow.vectorFloat),
    (.vfcvtFrom t w u, .vfcvtFrom), (.vfcvtTo t w u, .vfcvtTo), (.vfcvtInteger t w u, .vfcvtInteger)]) (idle : (s.tile t).queue = []) :
    exec e.1 s = .next (s.sisV t w u e.2) ∧ s.issueTrap t w 0 e.2 = some (0x01, w.zeroExtend 64) := by
  have sew : (s.tile t).issueSew = s.lvu t := Tile.issueSew_idle idle
  have wide : (s.lvu t).wide = false := by simp [Lvu.wide, narrow]
  fin_cases he <;> exact ⟨rfl, by simp only [State.issueTrap, sew, wide, Bool.false_and, Bool.false_eq_true, if_false]⟩

/-- With VL = 0 an instruction of the vector unit that stays in the tile only falls through (R117). -/
theorem State.sisV_empty {row : SisRow} (ready : Ready s t (wordRow w) row u) (inside : row.reaches = false) (q : row.queued = true)
    (m : row.matrix = false) (ns : row ≠ .setvl) (byLength : row.byLength = true) (issues : s.issueTrap t w 0 row = none)
    (empty : (s.lvu t).vl = 0) : StepsTo s (s.sisV t w u row) t row ((s.tile t).tsu.pc + 4) ∧
      ((s.sisV t w u row).tile t).tsu.x = (s.tile t).tsu.x ∧ ((s.sisV t w u row).tile t).tsu.tip = (s.tile t).tsu.tip := by
  have leaves := (s.paid t row).leaves_refl t
  rw [State.tsu_paid, State.lvu_paid] at leaves
  obtain ⟨only, tile⟩ := State.sisV_leaves ready inside q m ns issues
    (by rw [State.unitOp_empty byLength (by rw [State.lvu_paid, empty])]; exact leaves)
  exact stepsTo_afterUnit_none only tile

/-- And so does one that reaches memory. -/
theorem State.sisV_empty_reach {row : SisRow} (ready : Ready s t (wordRow w) row u) (outside : row.reaches = true) (q : row.queued = true)
    (m : row.matrix = false) (ns : row ≠ .setvl) (byLength : row.byLength = true) (issues : s.issueTrap t w 0 row = none)
    (empty : (s.lvu t).vl = 0) : StepsTo s (s.sisV t w u row) t row ((s.tile t).tsu.pc + 4) ∧
      ((s.sisV t w u row).tile t).tsu.x = (s.tile t).tsu.x ∧ ((s.sisV t w u row).tile t).tsu.tip = (s.tile t).tsu.tip := by
  have op : (s.reaching t row).unitOp t w 0 u row = s.reaching t row :=
    State.unitOp_empty byLength (by rw [State.reaching, State.lvu_paid]; exact empty)
  rw [State.sisV_reach ready outside q m ns issues op ((s.running_reaching t row).trans ready.runs) (s.waits_reaching t row)]
  have only : OnlyTile (s.acting t) ((s.reaching t row).unitDone (s.reaching t row) t w 0 row) t :=
    (onlyTile_paid _ t row).trans ((onlyTile_updTile _ _ _).trans (onlyTile_retire _ _ _))
  refine stepsTo_afterUnit_none (w := w) ⟨?_, only.2⟩ ?_
  · rw [only.1]
    rfl
  · rw [State.acted_tile, State.unitDone, State.tile_retire, State.stepped, State.tile_updTile_self, m, State.tile_reaching,
      State.reaching, State.lvuSteps_paid]
    rfl

end

/-- Settles O23: the checks at issue come before the unit, and with VL = 0 the unit does nothing. -/
theorem vectorIssue : Obligations.VectorIssue := by
  intro s t w u base pass trap
  refine ⟨fun narrow e he ready => ?_, fun e he ready => ?_, fun empty => ⟨fun e he ready issues => ?_, fun e he ready issues => ?_,
    fun e he ready wide aligned => ?_⟩⟩
  · obtain ⟨next, refused⟩ := floatRows_narrow narrow he ready.idle
    rw [next, State.sisV_refused ready refused]
  · obtain ⟨next, -, -, -, issues⟩ := vectorMemory_issues he ready.idle
    refine ⟨fun wider => ?_, fun fits misaligned => ?_⟩
    · rw [if_pos wider] at issues
      rw [next, State.sisV_refused ready issues]
    · rw [if_neg (Nat.not_lt.mpr fits), if_pos misaligned] at issues
      rw [next, State.sisV_refused ready issues]
  · obtain ⟨next, ⟨inside, q, m, ns⟩, byLength, passes⟩ := elementRows_issues he ready.idle issues
    exact ⟨_, next, State.sisV_empty ready inside q m ns byLength passes empty⟩
  · obtain ⟨next, ⟨inside, q, m, ns⟩, byLength, passes⟩ := compareRows_issues he ready.idle issues
    exact ⟨_, next, State.sisV_empty ready inside q m ns byLength passes empty⟩
  · obtain ⟨next, ⟨q, m, ns⟩, byLength, outside, passes⟩ := vectorMemory_issues he ready.idle
    rw [if_neg (Nat.not_lt.mpr wide), if_neg (not_not.mpr aligned)] at passes
    exact ⟨_, next, State.sisV_empty_reach ready outside q m ns byLength passes empty⟩

/-! Stochastic conversions. -/

/-- The upset keeps a queued instruction's unit neither from its step nor from the TSU's and the audits' checks. -/
structure Unhindered (u : Upset) (t : Nat) : Prop where
  strikes : ∀ a : State, a.strike t u = a
  twins : u ≠ .mismatch
  busy : u ≠ .busy
  audit : ∀ k, u ≠ .audit k

theorem SisRow.calm_unhindered {row : SisRow} {u : Upset} (h : row.calm u = true) (q : row.queued = true) (t : Nat) : Unhindered u t :=
  ⟨(SisRow.calm_strike h · t), SisRow.calm_mismatch h, SisRow.calm_busy h q, SisRow.calm_audit h q⟩

/-- A vector instruction whose unit ends the pass or stops the tile leaves what its unit left, and its steps are counted. -/
theorem State.sisV_stops {s z : State} {t : Nat} {w : BitVec 32} {u : Upset} {row : SisRow} (ready : Ready s t (wordRow w) row .none)
    (free : Unhindered u t) (inside : row.reaches = false) (q : row.queued = true) (ns : row ≠ .setvl) (issues : s.issueTrap t w 0 row = none)
    (op : (s.paid t row).unitOp t w 0 u row = z) (stops : z.running t = false) :
    s.sisV t w u row = z.stepped t row (s.lvuSteps t w row) ((s.paid t row).mxBeats t w 0 row) := by
  have issued : (s.spend t row.units).issue t w 0 u row =
      z.stepped t row (s.lvuSteps t w row) ((s.paid t row).mxBeats t w 0 row) := by
    unfold State.issue
    rw [if_neg ns, State.tile_spend, ready.idle, State.maySpend_queue q ready.tokens, bne_iff_ne.mpr free.busy]
    have paid : (s.spend t row.units).spend t (unitTokens row) = s.paid t row := by rw [State.paid, if_pos q]
    rw [if_pos (by rfl), paid, State.unitStep_calm free.audit, op, State.lvuSteps_paid]
  have stops' : ((s.spend t row.units).issue t w 0 u row).running t = false := by rw [issued, State.running_stepped, stops]
  unfold State.sisV State.sisQ
  rw [show sisRow w (fun _ => none) = wordRow w from rfl]
  rw [State.sis_open (g := fun x => x.issue t w 0 u row) free.strikes ready.runs ready.idle (State.maySpend_left ready.tokens)
    (.inr ready.word) ?_ (fun r => absurd (inside.symm.trans r) Bool.false_ne_true), State.taken, inside, if_neg Bool.false_ne_true, issued]
  have met : s.met t row = s := by rw [State.met, inside, if_neg Bool.false_ne_true]
  rw [met]
  unfold State.begin
  rw [if_neg free.twins, State.tile_spend, if_neg (not_not.mpr ready.aligned), ready.word]
  dsimp only
  rw [State.issueTrap_spend, issues]
  exact State.finish_done (.inr stops')

theorem vfcvtTo_issues {s : State} {t : Nat} {w : BitVec 32} (idle : (s.tile t).queue = []) (wide : (s.lvu t).wide = true) (narrower : (cvtFmt (wFn w)).width < (s.lvu t).w) :
    s.issueTrap t w 0 .vfcvtTo = none := by
  have sew : (s.tile t).issueSew = s.lvu t := Tile.issueSew_idle idle
  simp [State.issueTrap, sew, wide, narrower]

section
variable {s : State} {t : TileId} {w : BitVec 32} {u : Upset} {p : PassCtx} (pass : (s.tile t).run = some p)
  (sr : (s.tile t).tsu.rmode = .sr) (active : (s.lvu t).vl ≠ 0)
include pass sr active

/-- Without a grain seed it is a fault (R173), -/
theorem State.unitOp_noSeed (seed : p.seed = none) : s.unitOp t w 0 u .vfcvtTo = s.vecFault t .notPermitted := by
  unfold State.unitOp
  rw [if_neg (by simp [active])]
  dsimp only
  unfold State.vfcvtToOp
  rw [if_pos sr, pass]
  dsimp only
  rw [seed]

/-- a difference of the grain pipelines stops the tile (R472), -/
theorem State.unitOp_grainMismatch {seed : List Byte} (seed' : p.seed = some seed) :
    s.unitOp t w 0 .grainMismatch .vfcvtTo = s.tileFatal t (mkRec 0x0105 1) := by
  unfold State.unitOp
  rw [if_neg (by simp [active])]
  dsimp only
  unfold State.vfcvtToOp
  rw [if_pos sr, pass]
  dsimp only
  rw [seed']
  exact if_pos rfl

/-- else each active element draws at its position (R175–R177). -/
theorem State.unitOp_draws {seed : List Byte} (seed' : p.seed = some seed) (agree : u ≠ .grainMismatch) : ∃ v',
    s.Leaves (s.unitOp t w 0 u .vfcvtTo) t (s.tile t).tsu v' ∧ v'.grain = ((s.lvu t).grain + (s.lvu t).vl) % 2 ^ 33 ∧
      ∃ v'' : Lvu, v' = { v'' with grain := v'.grain } ∧ Lvu.Elements w (fun i => (cvtFloat (s.lvu t).fmt (cvtFmt (wFn w)) .sr
        (p.draw seed 0 ((s.lvu t).grain + i)) (s.vFlush t) (bit w 5) ((s.lvu t).el (wRa w) i)).1) (s.lvu t) v'' := by
  have op : s.unitOp t w 0 u .vfcvtTo = s.updLvu t (fun v' => { v'.writeF (wRd w) (wMz w) ((s.lvu t).each w (fun i =>
      cvtFloat (s.lvu t).fmt (cvtFmt (wFn w)) .sr (p.draw seed 0 ((s.lvu t).grain + i)) (s.vFlush t) (bit w 5) ((s.lvu t).el (wRa w) i)))
      with grain := ((s.lvu t).grain + (s.lvu t).vl) % 2 ^ 33 }) := by
    unfold State.unitOp
    rw [if_neg (by simp [active])]
    dsimp only
    unfold State.vfcvtToOp
    rw [if_pos sr, pass]
    dsimp only
    rw [seed', sr]
    exact if_neg agree
  rw [op]
  refine ⟨_, s.leaves_updLvu t _, ?_, _, ?_, Lvu.elements_writeF (s.lvu t) w _⟩
  · rfl
  · rfl

end

/-- Without a seed the pass ends with the fault's status, cause and PC (R105, R107, R173). -/
theorem exec_vfcvtTo_noSeed {s : State} {t : TileId} {w : BitVec 32} {u : Upset} {p : PassCtx} (ready : Ready s t (wordRow w) .vfcvtTo u)
    (pass : (s.tile t).run = some p) (issues : s.issueTrap t w 0 .vfcvtTo = none)
    (op : (s.paid t .vfcvtTo).unitOp t w 0 u .vfcvtTo = (s.paid t .vfcvtTo).vecFault t .notPermitted) :
    ∃ s', exec (.vfcvtTo t w u) s = .next s' ∧ (s'.tile t).run = none ∧
      ∃ e : RankEnd, (s'.led p.ix).ends = (s.led p.ix).ends ++ [e] ∧ e.status = .notPermitted ∧ e.cause = 0x11 ∧
        e.pc = (s.tile t).tsu.pc.toNat := by
  have ready' : Ready s t (wordRow w) .vfcvtTo .none := ⟨ready.runs, ready.aligned, ready.word, ready.idle, ready.tokens, rfl⟩
  have ended : (((s.paid t .vfcvtTo).vecFault t .notPermitted).tile t).run = none := State.run_endPass _ _ _
  have stops : ((s.paid t .vfcvtTo).vecFault t .notPermitted).running t = false := by
    simp [State.running, ended]
  have led : (s.paid t .vfcvtTo).led p.ix = s.led p.ix := by
    unfold State.paid
    split <;> rfl
  have ends := State.ends_endPass { rank := 0, status := .notPermitted, cause := 0x11, pc := (s.tile t).tsu.pc.toNat }
    (by rw [State.run_paid, pass] : ((s.paid t .vfcvtTo).tile t).run = some p)
  rw [led] at ends
  have next : exec (.vfcvtTo t w u) s = .next (((s.paid t .vfcvtTo).vecFault t .notPermitted).stepped t .vfcvtTo
      (s.lvuSteps t w .vfcvtTo) ((s.paid t .vfcvtTo).mxBeats t w 0 .vfcvtTo)) := by
    rw [exec_vfcvtTo, execVfcvtTo, State.sisV_stops ready' (SisRow.calm_unhindered ready.calm rfl t) rfl rfl nofun issues op stops]
  refine ⟨_, next, ?_, _, Eq.trans ?_ ends, rfl, rfl, rfl⟩
  · rw [State.stepped, State.tile_updTile_self, ← ended]
    rfl
  · rw [State.stepped, State.updTile_led, State.vecFault, State.tsu_paid]
    rfl

/-- Settles O25: without a seed the pass ends, with one the elements draw, and the comparator stops the tile. -/
theorem stochasticConversion : Obligations.StochasticConversion := by
  intro s t w u p pass sr wide narrower active v
  have pass' : ((s.paid t .vfcvtTo).tile t).run = .some p := by rw [State.run_paid, pass]
  have sr' : ((s.paid t .vfcvtTo).tile t).tsu.rmode = .sr := by rw [State.tsu_paid, sr]
  have active' : ((s.paid t .vfcvtTo).lvu t).vl ≠ 0 := by rwa [State.lvu_paid]
  refine ⟨fun ready seed => ?_, fun seed ready seed' => ?_, ?_⟩
  · exact exec_vfcvtTo_noSeed ready pass (vfcvtTo_issues ready.idle wide narrower) (State.unitOp_noSeed pass' sr' active' seed)
  · have agree : u ≠ .grainMismatch := by
      rintro rfl
      exact absurd ready.calm (by decide)
    obtain ⟨v', op, grain, v'', same, ⟨rest, -, -, elements⟩⟩ := State.unitOp_draws (w := w) pass' sr' active' seed' agree
    simp only [State.tsu_paid, State.lvu_paid, State.vFlush_paid] at op grain elements
    obtain ⟨only, tile⟩ := State.sisV_leaves ready rfl rfl rfl nofun (vfcvtTo_issues ready.idle wide narrower) op
    have lvu := State.lvu_afterUnit tile
    refine ⟨_, exec_vfcvtTo .., only, by rw [tile]; rfl, by rw [lvu]; exact grain, fun i h => ?_⟩
    rw [lvu, ← elements i h, same]
    rfl
  · intro seed ready seed' z stops
    have free : Unhindered .grainMismatch t := ⟨fun _ => rfl, nofun, nofun, fun _ => nofun⟩
    rw [exec_vfcvtTo, execVfcvtTo, State.sisV_stops ready free rfl rfl nofun (vfcvtTo_issues ready.idle wide narrower)
      (State.unitOp_grainMismatch pass' sr' active' seed') (by rw [← State.running_stepped]; exact stops)]
    simp only [z, State.lvuSteps_paid]
    rfl

end Sys2Proof.Machine
end

section
/-!
The vector memory instructions (R118–R128), the mask moves (R117) and the matrix and expert instructions (R140–R166, R358–R365) where their
checks pass.
-/

namespace Sys2Proof.Machine

@[simp] theorem State.lvu_reaching (s : State) (t : Nat) (row : SisRow) : (s.reaching t row).lvu t = s.lvu t := by
  rw [State.reaching, State.lvu_paid]
  rfl

@[simp] theorem State.tsu_reaching (s : State) (t : Nat) (row : SisRow) : ((s.reaching t row).tile t).tsu = (s.tile t).tsu := by
  rw [State.tile_reaching]

/-- With VL above 0 the unit does the row's own operation. -/
theorem byLength_active {v : Lvu} (active : v.vl ≠ 0) (b : Bool) : (b && v.vl == 0) = false := by
  simp [active]

/-! Vector loads and stores. -/

/-- Write loaded values to the active elements (R116, R119). -/
def State.putLoaded (s : State) (t : Nat) (w : BitVec 32) (xs : List Nat) : State :=
  s.updLvu t (fun v => v.write (wRd w) (wMz w) (spread (v.ix.map (fun i => v.on w i)) (xs.map (extendTo w v.w))))

theorem State.running_putLoaded (s : State) (t : Nat) (w : BitVec 32) (xs : List Nat) : (s.putLoaded t w xs).running t = s.running t :=
  s.running_updLvu t _

section
variable {s : State} {t : TileId} {w : BitVec 32} {u : Upset}

theorem State.vecLoad_done {a c : State} {pas xs : List Nat} (reads : State.vecRead t (mewBytes w) pas [] a = (some xs, c)) :
    a.vecLoad t w pas = c.putLoaded t w xs := by
  rw [State.vecLoad, reads]
  rfl

theorem State.vecLoadAt_done {va : Lvu → Nat → Nat} {a c : State} {pas xs : List Nat}
    (mapped : State.vecTrans t .load (mewBytes w) (((s.lvu t).actives w).map (fun i => (i, va (s.lvu t) i))) [] s = ((pas, none), a))
    (reads : State.vecRead t (mewBytes w) pas [] a = (some xs, c)) : s.vecLoadAt t w va = c.putLoaded t w xs := by
  unfold State.vecLoadAt
  dsimp only
  rw [mapped]
  exact State.vecLoad_done reads

theorem State.vecStoreAt_done {va : Lvu → Nat → Nat} {join : Bool} {a : State} {pas : List Nat}
    (mapped : State.vecTrans t .store (mewBytes w) (((s.lvu t).actives w).map (fun i => (i, va (s.lvu t) i))) [] s = ((pas, none), a)) :
    s.vecStoreAt t w join va =
      (let ps := (pas.zip ((s.lvu t).actives w)).map (fun p => (p.1, leBytes (mewBytes w) ((s.lvu t).el (wRd w) p.2)))
       a.vecStore t (if join then joinPieces ps [] else ps)) := by
  unfold State.vecStoreAt
  dsimp only
  rw [mapped]

/-- A ready vector memory instruction whose checks pass and that waits for no other device is its unit's effect. -/
theorem exec_vectorMemory {z : State} {e : Instr × SisRow × Nat} (he : e ∈ vectorMemoryRows t w u) (ready : Ready s t (wordRow w) e.2.1 u)
    (fits : wMew w ≤ (s.lvu t).sew.toNat) (aligned : (s.xr t (wRa w)).toNat % e.2.2 = 0)
    (op : (s.reaching t e.2.1).unitOp t w 0 u e.2.1 = z) (runs : z.running t = true) (answered : z.net.waits = false) :
    exec e.1 s = .next (s.acted ((s.reaching t e.2.1).unitDone z t w 0 e.2.1)) := by
  obtain ⟨next, ⟨q, m, ns⟩, -, outside, issues⟩ := vectorMemory_issues he ready.idle
  rw [if_neg (Nat.not_lt.mpr fits), if_neg (not_not.mpr aligned)] at issues
  rw [next, State.sisV_reach ready outside q m ns issues op runs answered]

/-- What a first-fault load does beside loading: nothing where no element faults (R128). -/
theorem State.vldFfOp_done {a c : State} {pas xs : List Nat}
    (mapped : State.vecTrans t .load (mewBytes w) (((s.lvu t).actives w).map (fun i => (i, s.unitAt t w (s.lvu t) i))) [] s = ((pas, none), a))
    (reads : State.vecRead t (mewBytes w) pas [] a = (some xs, c)) : s.vldFfOp t w = c.putLoaded t w xs := by
  unfold State.vldFfOp
  dsimp only
  rw [mapped]
  exact State.vecLoad_done reads

/-- A fault after the lowest active element truncates VL (R128). -/
theorem State.vldFfOp_truncates {a c : State} {p x : Nat} {st : Status} {pas xs : List Nat}
    (mapped : State.vecTrans t .load (mewBytes w) (((s.lvu t).actives w).map (fun i => (i, s.unitAt t w (s.lvu t) i))) [] s =
      ((p :: pas, some (x, st)), a))
    (reads : State.vecRead t (mewBytes w) (p :: pas) [] (a.updLvu t (fun v => { v with vl := x, fft := true })) = (some xs, c)) :
    s.vldFfOp t w = c.putLoaded t w xs := by
  unfold State.vldFfOp
  dsimp only
  rw [mapped]
  exact State.vecLoad_done reads

/-- The unit-stride loads. -/
theorem State.unitOp_unitLoad {row : SisRow} (hr : row ∈ [SisRow.vld, .vldu, .vldFf]) (active : (s.lvu t).vl ≠ 0) {pas xs : List Nat}
    {a c : State} (mapped : State.vecTrans t .load (mewBytes w)
      (((s.lvu t).actives w).map (fun i => (i, unitVa (s.xr t (wRa w)) (mewBytes w) i))) [] s = ((pas, none), a))
    (reads : State.vecRead t (mewBytes w) pas [] a = (some xs, c)) : s.unitOp t w 0 u row = c.putLoaded t w xs := by
  unfold State.unitOp
  rw [byLength_active active, if_neg Bool.false_ne_true]
  fin_cases hr
  · exact State.vecLoadAt_done mapped reads
  · exact State.vecLoadAt_done mapped reads
  · exact State.vldFfOp_done mapped reads

/-- The gather. -/
theorem State.unitOp_gather (active : (s.lvu t).vl ≠ 0) {pas xs : List Nat} {a c : State} (mapped : State.vecTrans t .load (mewBytes w)
      (((s.lvu t).actives w).map (fun i => (i, (s.lvu t).gatherVa (s.xr t (wRa w)) (wRb w) i))) [] s = ((pas, none), a))
    (reads : State.vecRead t (mewBytes w) pas [] a = (some xs, c)) : s.unitOp t w 0 u .vlx = c.putLoaded t w xs := by
  unfold State.unitOp
  rw [byLength_active active, if_neg Bool.false_ne_true]
  exact State.vecLoadAt_done mapped reads

/-- A first-fault load that truncates. -/
theorem State.unitOp_truncates (active : (s.lvu t).vl ≠ 0) {p x : Nat} {st : Status} {pas xs : List Nat} {a c : State}
    (mapped : State.vecTrans t .load (mewBytes w) (((s.lvu t).actives w).map (fun i => (i, unitVa (s.xr t (wRa w)) (mewBytes w) i))) [] s =
      ((p :: pas, some (x, st)), a))
    (reads : State.vecRead t (mewBytes w) (p :: pas) [] (a.updLvu t (fun v => { v with vl := x, fft := true })) = (some xs, c)) :
    s.unitOp t w 0 u .vldFf = c.putLoaded t w xs := by
  unfold State.unitOp
  rw [byLength_active active, if_neg Bool.false_ne_true]
  exact State.vldFfOp_truncates mapped reads

/-- The pieces that a store writes at `pas`. -/
def State.storePieces (s : State) (t : Nat) (w : BitVec 32) (join : Bool) (pas : List Nat) : List (Nat × List Byte) :=
  let ps := (pas.zip ((s.lvu t).actives w)).map (fun p => (p.1, leBytes (mewBytes w) ((s.lvu t).el (wRd w) p.2)))
  if join then joinPieces ps [] else ps

/-- The unit-stride stores. -/
theorem State.unitOp_unitStore {row : SisRow} (hr : row ∈ [SisRow.vst, .vstu]) (active : (s.lvu t).vl ≠ 0) {pas : List Nat} {a : State}
    (mapped : State.vecTrans t .store (mewBytes w) (((s.lvu t).actives w).map (fun i => (i, unitVa (s.xr t (wRa w)) (mewBytes w) i))) [] s =
      ((pas, none), a)) : s.unitOp t w 0 u row = a.vecStore t (s.storePieces t w true pas) := by
  unfold State.unitOp
  rw [byLength_active active, if_neg Bool.false_ne_true]
  fin_cases hr
  · exact State.vecStoreAt_done mapped
  · exact State.vecStoreAt_done mapped

/-- The scatter. -/
theorem State.unitOp_scatter (active : (s.lvu t).vl ≠ 0) {pas : List Nat} {a : State}
    (mapped : State.vecTrans t .store (mewBytes w) (((s.lvu t).actives w).map (fun i => (i, (s.lvu t).gatherVa (s.xr t (wRa w)) (wRb w) i))) [] s =
      ((pas, none), a)) : s.unitOp t w 0 u .vsx = a.vecStore t (s.storePieces t w false pas) := by
  unfold State.unitOp
  rw [byLength_active active, if_neg Bool.false_ne_true]
  exact State.vecStoreAt_done mapped

end

/-- Settles O26: each translates its elements, then accesses them. -/
theorem vectorMemory : Obligations.VectorMemory := by
  intro s t w u v base n unit gather put active fits
  have active' (row : SisRow) : ((s.reaching t row).lvu t).vl ≠ 0 := by
    rw [State.lvu_reaching]
    exact active
  refine ⟨fun e he => ?_, fun e he => ?_, ?_⟩
  · have op : ∀ pas a xs c, State.vecTrans t .load n ((v.actives w).map e.2.2.2) [] (s.reaching t e.2.1) = ((pas, none), a) →
        State.vecRead t n pas [] a = (some xs, c) → (s.reaching t e.2.1).unitOp t w 0 u e.2.1 = put c xs := by
      intro pas a xs c
      have unitLoad := fun row hr => State.unitOp_unitLoad (s := s.reaching t row) (t := t) (w := w) (u := u) (row := row) hr (active' row)
        (pas := pas) (xs := xs) (a := a) (c := c)
      have gathers := State.unitOp_gather (w := w) (u := u) (active' .vlx) (pas := pas) (xs := xs) (a := a) (c := c)
      simp only [State.lvu_reaching, State.xr_reaching] at unitLoad gathers
      fin_cases he
      · exact unitLoad .vld (by simp)
      · exact unitLoad .vldu (by simp)
      · exact unitLoad .vldFf (by simp)
      · exact gathers
    have row : (e.1, e.2.1, e.2.2.1) ∈ vectorMemoryRows t w u := by
      fin_cases he <;> simp [vectorMemoryRows, n]
    intro ready aligned z pas a xs c mapped reads runs answered
    exact exec_vectorMemory row ready fits aligned (op pas a xs c mapped reads) ((State.running_putLoaded c t w xs).trans runs) answered
  · have op : ∀ pas a, State.vecTrans t .store n ((v.actives w).map e.2.2.2.2) [] (s.reaching t e.2.1) = ((pas, none), a) →
        (s.reaching t e.2.1).unitOp t w 0 u e.2.1 = a.vecStore t (s.storePieces t w e.2.2.2.1 pas) := by
      intro pas a
      have unitStore := fun row hr => State.unitOp_unitStore (s := s.reaching t row) (t := t) (w := w) (u := u) (row := row) hr (active' row)
        (pas := pas) (a := a)
      have scatters := State.unitOp_scatter (w := w) (u := u) (active' .vsx) (pas := pas) (a := a)
      simp only [State.storePieces, State.lvu_reaching, State.xr_reaching] at unitStore scatters
      fin_cases he
      · exact unitStore .vst (by simp)
      · exact unitStore .vstu (by simp)
      · exact scatters
    have row : (e.1, e.2.1, e.2.2.1) ∈ vectorMemoryRows t w u := by
      fin_cases he <;> simp [vectorMemoryRows, n]
    intro ready aligned z pas a mapped ps c runs answered
    exact exec_vectorMemory row ready fits aligned (op pas a mapped) runs answered
  · intro ready aligned z p pas x st a xs c mapped reads runs answered
    have truncates := State.unitOp_truncates (u := u) (w := w) (active' .vldFf) (p := p) (x := x) (st := st) (pas := pas) (xs := xs) (a := a) (c := c)
    simp only [State.lvu_reaching, State.xr_reaching] at truncates
    have row : (.vldFf t w u, .vldFf, n) ∈ vectorMemoryRows t w u := by simp [vectorMemoryRows, n]
    exact exec_vectorMemory row ready fits aligned (truncates mapped reads) ((State.running_putLoaded c t w xs).trans runs) answered

/-! Mask registers in memory. -/

section
variable {s : State} {t : TileId} {w : BitVec 32} {u : Upset}

/-- The two lines of a mask register in memory (R117). -/
def State.maskLines (s : State) (t : Nat) (w : BitVec 32) : List (Nat × Nat) :=
  [(0, (s.xr t (wRa w)).toNat), (1, (s.xr t (wRa w)).toNat + 128)]

theorem State.unitOp_maskStore (active : (s.lvu t).vl ≠ 0) (fn : wFn w = 0x11) {pas : List Nat} {a : State}
    (mapped : State.vecTrans t .store 128 (s.maskLines t w) [] s = ((pas, none), a)) : s.unitOp t w 0 u .vlmVsm =
      a.vecStore t (pas.mapIdx (fun i pa => (pa, slice (bvBytes (SMap.get 0 (a.lvu t).k (wRd w))) (128 * i) 128))) := by
  unfold State.unitOp
  rw [byLength_active active, if_neg Bool.false_ne_true]
  dsimp only
  unfold State.vlmVsmOp
  rw [State.maskLines] at mapped
  simp only [fn, beq_self_eq_true, if_true, mapped]

theorem joinW_two (n a b : Nat) : joinW n [a, b] = a % 2 ^ n + 2 ^ n * (b % 2 ^ n) := by
  simp [joinW]

/-- Write a whole K register. -/
def State.putMask (s : State) (t rd : Nat) (k : BitVec 2048) : State := s.updLvu t (fun v => { v with k := SMap.put 0 v.k rd k })

theorem State.unitOp_maskLoad (active : (s.lvu t).vl ≠ 0) (fn : wFn w = 0x10) {p q : Nat} {x y : List Byte} {a c d : State}
    (mapped : State.vecTrans t .load 128 (s.maskLines t w) [] s = (([p, q], none), a))
    (low : a.loadPa t p 128 = (some x, c)) (high : c.loadPa t q 128 = (some y, d)) : s.unitOp t w 0 u .vlmVsm =
      d.putMask t (wRd w) (BitVec.ofNat 2048 (leNat x % 2 ^ 1024 + 2 ^ 1024 * (leNat y % 2 ^ 1024))) := by
  have reads : State.vecRead t 128 [p, q] [] a = (some [leNat x, leNat y], d) := by
    simp [State.vecRead, low, high]
  have load : (wFn w == 0x11) = false := by rw [fn]; rfl
  unfold State.unitOp
  rw [byLength_active active, if_neg Bool.false_ne_true]
  dsimp only
  unfold State.vlmVsmOp
  rw [State.maskLines] at mapped
  simp only [load, Bool.false_eq_true, if_false, mapped, reads, joinW_two]
  rfl

theorem exec_vlmVsm_done {z : State} (ready : Ready s t (wordRow w) .vlmVsm u) (aligned : (s.xr t (wRa w)).toNat % 256 = 0)
    (op : (s.reaching t .vlmVsm).unitOp t w 0 u .vlmVsm = z) (runs : z.running t = true) (answered : z.net.waits = false) :
    exec (.vlmVsm t w u) s = .next (s.acted ((s.reaching t .vlmVsm).unitDone z t w 0 .vlmVsm)) := by
  have issues : s.issueTrap t w 0 .vlmVsm = none := if_neg (not_not.mpr aligned)
  rw [exec_vlmVsm, execVlmVsm, State.sisV_reach ready rfl rfl rfl nofun issues op runs answered]

/-- The tile after a mask load. -/
theorem State.tile_maskLoaded (s d : State) (t rd : Nat) (w : BitVec 32) (k : BitVec 2048) :
    let z := s.acted ((s.reaching t .vlmVsm).unitDone (d.putMask t rd k) t w 0 .vlmVsm)
    (z.tile t).tsu.pc = (s.tile t).tsu.pc + 4 ∧ SMap.get 0 (z.lvu t).k rd = k := by
  intro z
  have tile : z.tile t = (((s.reaching t .vlmVsm).unitDone (d.putMask t rd k) t w 0 .vlmVsm)).tile t := rfl
  rw [State.unitDone, State.tile_retire, State.stepped, State.tile_updTile_self, State.putMask, State.updLvu, State.tile_updTile_self,
    State.tsu_reaching] at tile
  refine ⟨by rw [tile]; rfl, ?_⟩
  rw [State.lvu, tile]
  exact SMap.get_put_self _ _ _ _

/-! Planes and zeroed rows. -/

/-- From `s` to `z` tile t's matrix unit has become `m`, and nothing else has changed. -/
structure State.LeavesMxu (s z : State) (t : Nat) (m : Mxu) : Prop where
  only : OnlyTile s z t
  tile : z.tile t = { s.tile t with mxu := m }

theorem State.leavesMxu_refl (s : State) (t : Nat) : s.LeavesMxu s t (s.mxu t) := ⟨.refl s t, rfl⟩

theorem State.leavesMxu_updMxu (s : State) (t : Nat) (f : Mxu → Mxu) : s.LeavesMxu (s.updMxu t f) t (f (s.mxu t)) :=
  ⟨onlyTile_updTile _ _ _, by rw [State.updMxu, State.tile_updTile_self]; rfl⟩

/-- A matrix instruction without checks at issue whose unit changes its own registers alone falls through. -/
theorem State.sisM_leaves {ext : BitVec 32} {row : SisRow} {m : Mxu} (ready : Ready s t (pairRow w ext) row u)
    (hr : row ∈ [SisRow.mxSwap, .mxZero]) (op : (s.paid t row).LeavesMxu ((s.paid t row).unitOp t w ext u row) t m) :
    OnlyTile s (s.sisM t w ext u row) t ∧ (s.sisM t w ext u row).tile t = { s.tile t with
      tokens := spendTokens (s.tile t).tokens row.steps, mxu := m,
      tsu := { (s.tile t).tsu with pc := (s.tile t).tsu.pc + 8, retired := (s.tile t).tsu.retired + 1 } } := by
  have frame : row ∈ matrixRows ∧ row.matrix = true ∧ s.issueTrap t w ext row = none ∧ (s.paid t row).mxBeats t w ext row = 0 := by
    fin_cases hr <;> exact ⟨by simp [matrixRows], rfl, rfl, rfl⟩
  obtain ⟨mem, matrix, issues, beats⟩ := frame
  have runs : ((s.paid t row).unitOp t w ext u row).running t = true := by
    rw [State.running, op.tile, ← ready.runs, ← State.running_paid s t row, State.running]
  rw [State.sisM_unit ready mem issues rfl runs]
  refine ⟨((onlyTile_paid s t row).trans op.only).trans ((onlyTile_updTile _ _ _).trans (onlyTile_retire _ _ _)), ?_⟩
  rw [State.unitDone, State.tile_retire, State.stepped, State.tile_updTile_self, op.tile, matrix, beats, State.tile_paid]
  rfl

/-- The matrix unit with rows `row` to `row + n` of its accumulator memory cleared (R151). -/
def Mxu.clearRows (m : Mxu) (row n : Nat) : Mxu := (List.range n).foldl (fun m i => m.clearRow (row + i)) m

theorem Mxu.clearRows_succ (m : Mxu) (row n : Nat) : m.clearRows row (n + 1) = (m.clearRows row n).clearRow (row + n) := by
  rw [Mxu.clearRows, List.range_succ, List.foldl_append]
  rfl

theorem Mxu.clearRows_rest (m : Mxu) (row n : Nat) : m.clearRows row n = { m with rowValid := (m.clearRows row n).rowValid } := by
  induction n with
  | zero => rfl
  | succ n ih => rw [Mxu.clearRows_succ, ih]; rfl

theorem Mxu.get_clearRows (m : Mxu) (row n i : Nat) : SMap.get false (m.clearRows row n).rowValid i =
    if row ≤ i ∧ i < row + n then false else SMap.get false m.rowValid i := by
  induction n with
  | zero =>
    rw [if_neg (by omega)]
    rfl
  | succ n ih =>
    rw [Mxu.clearRows_succ, Mxu.clearRow]
    dsimp only
    rw [SMap.get_put, ih]
    by_cases last : i = row + n
    · rw [if_pos last, if_pos (by omega)]
    · rw [if_neg last]
      by_cases inside : row ≤ i ∧ i < row + n
      · rw [if_pos inside, if_pos (by omega)]
      · rw [if_neg inside, if_neg (by omega)]

theorem Mxu.rowWords_clearRows (m : Mxu) (row n i : Nat) : (m.clearRows row n).rowWords i =
    if row ≤ i ∧ i < row + n then List.replicate 64 0 else m.rowWords i := by
  have acm : (m.clearRows row n).acm = m.acm := by rw [Mxu.clearRows_rest]
  rw [Mxu.rowWords, Mxu.get_clearRows, acm]
  split
  · rfl
  · rw [Mxu.rowWords]

section
variable {ext : BitVec 32}

/-- `mx.zero` within the memory clears its rows. -/
theorem unitOp_mxZero (inside : (s.xr t (wRa w)).toNat + (s.xr t (wRb w)).toNat ≤ 4096) :
    s.LeavesMxu (s.unitOp t w ext u .mxZero) t ((s.mxu t).clearRows (s.xr t (wRa w)).toNat (s.xr t (wRb w)).toNat) := by
  show s.LeavesMxu (s.mxZeroOp t w) t _
  unfold State.mxZeroOp
  dsimp only
  split
  · next none =>
    rw [none]
    exact s.leavesMxu_refl t
  · rw [if_neg (by omega)]
    exact s.leavesMxu_updMxu t fun m => m.clearRows (s.xr t (wRa w)).toNat (s.xr t (wRb w)).toNat

theorem unitOp_mxZero_beyond (beyond : 4096 < (s.xr t (wRa w)).toNat + (s.xr t (wRb w)).toNat) (some : (s.xr t (wRb w)).toNat ≠ 0) :
    s.unitOp t w ext u .mxZero = s.mxFault t .notPermitted := by
  show s.mxZeroOp t w = _
  unfold State.mxZeroOp
  dsimp only
  rw [if_neg some, if_pos beyond]

/-- Beyond the memory the pass ends (R152). -/
theorem exec_mxZero_beyond (ready : Ready s t (pairRow w ext) .mxZero u)
    (beyond : 4096 < (s.xr t (wRa w)).toNat + (s.xr t (wRb w)).toNat) (some : (s.xr t (wRb w)).toNat ≠ 0) :
    ∃ s', exec (.mxZero t w ext u) s = .next s' ∧ (s'.tile t).run = none := by
  have op := unitOp_mxZero_beyond (s := s.paid t .mxZero) (t := t) (w := w) (u := u) (ext := ext)
    (by rw [State.xr_paid, State.xr_paid]; exact beyond) (by rw [State.xr_paid]; exact some)
  have ended : (((s.spend t SisRow.mxZero.units).issue t w ext u .mxZero).tile t).run = none := by
    have fault : (((s.paid t .mxZero).mxFault t .notPermitted).tile t).run = none := State.run_endPass _ _ _
    rw [State.issue_ready ready rfl, op]
    dsimp only
    rw [if_neg (by decide), State.stepped, State.tile_updTile_self]
    exact fault
  refine ⟨_, exec_mxZero .., ?_⟩
  rw [State.sisM_done ready (by simp [matrixRows]) rfl (by simp [State.running, ended]), ended]

end

end

/-- Settles O27: each is its unit's own operation. -/
theorem maskMemoryAndPlanes : Obligations.MaskMemoryAndPlanes := by
  intro s t w ext u base lines row n pc
  refine ⟨?_, fun ready => ?_, fun ready beyond some => ?_, fun ready inside => ?_⟩
  · intro ready aligned active z
    have active' : ((s.reaching t .vlmVsm).lvu t).vl ≠ 0 := by
      rw [State.lvu_reaching]
      exact active
    have lines' : (s.reaching t .vlmVsm).maskLines t w = lines := by
      rw [State.maskLines, State.xr_reaching]
    refine ⟨fun fn pas a mapped => ?_, fun fn p q a x y c d mapped low high runs answered => ?_⟩
    · intro c runs answered
      exact exec_vlmVsm_done ready aligned (State.unitOp_maskStore active' fn (lines'.symm ▸ mapped)) runs answered
    · have op := State.unitOp_maskLoad (u := u) active' fn (lines'.symm ▸ mapped) low high
      exact ⟨_, exec_vlmVsm_done ready aligned op ((State.running_updLvu _ _ _).trans runs) answered, State.tile_maskLoaded s d t (wRd w) w _⟩
  · have leaves := (s.paid t .mxSwap).leavesMxu_updMxu t (fun m => { m with active := !m.active })
    rw [State.mxu_paid] at leaves
    obtain ⟨only, tile⟩ := State.sisM_leaves ready (by simp) leaves
    exact ⟨_, exec_mxSwap .., only, by rw [tile]; rfl, by rw [tile]⟩
  · exact exec_mxZero_beyond ready beyond some
  · have leaves := unitOp_mxZero (s := s.paid t .mxZero) (t := t) (w := w) (u := u) (ext := ext)
      (by rw [State.xr_paid, State.xr_paid]; exact inside)
    simp only [State.xr_paid, State.mxu_paid] at leaves
    obtain ⟨only, tile⟩ := State.sisM_leaves ready (by simp) leaves
    have mxu : (s.sisM t w ext u .mxZero).mxu t = (s.mxu t).clearRows row n := by rw [State.mxu, tile]
    refine ⟨_, exec_mxZero .., only, by rw [tile], ?_, ?_, ?_⟩
    all_goals rw [mxu]
    · exact Mxu.get_clearRows _ _ _
    · exact Mxu.rowWords_clearRows _ _ _
    · rw [Mxu.clearRows_rest]

end Sys2Proof.Machine
end

section
/-!
The matrix instructions and the expert instructions where their checks pass (R140–R166, R358–R365).
-/

namespace Sys2Proof.Machine

/-! Matrix loads, runs and drains. -/

section
variable {s : State} {t : TileId} {w ext : BitVec 32} {u : Upset}

/-- The row pitch of a load: that of the format where none is given (R143). -/
def State.loadPitch (s : State) (t : Nat) (w ext : BitVec 32) : Nat :=
  if (s.xr t (wRb w)).toNat = 0 then mxPitch (fld ext 0 4) else (s.xr t (wRb w)).toNat

/-- A load's columns and what reading them leaves. -/
def State.readColumns (s : State) (t : Nat) (ess : List (List Extent)) : List (List Byte) × State :=
  ess.foldl (fun (r : List (List Byte) × State) es => ((r.2.ownRead t es).1 :: r.1, (r.2.ownRead t es).2)) ([], s)

theorem State.unitOp_mxLdw (some : (s.xr t (wRa w)).toNat ≠ 0) (few : (s.xr t (wRa w)).toNat ≤ 128) (whole : s.loadPitch t w ext % 64 = 0)
    (wide : mxPitch (fld ext 0 4) ≤ s.loadPitch t w ext) {ess : List (List Extent)} {b : State}
    (mapped : State.ownRanges t .load ((List.range (s.xr t (wRa w)).toNat).map
      (fun c => ((s.xr t (wRd w)).toNat + c * s.loadPitch t w ext, mxBytes (fld ext 0 4)))) [] s = (.ok ess, b)) :
    s.unitOp t w ext u .mxLdw = (b.readColumns t ess).2.updMxu t (fun m =>
      m.setPlane (!m.active) (planeOf (fld ext 0 4) (b.readColumns t ess).1.reverse)) := by
  show s.mxLdwOp t w ext = _
  unfold State.mxLdwOp
  dsimp only
  rw [State.loadPitch] at *
  rw [if_neg some, if_neg (by omega), mapped]
  rfl

theorem State.unitOp_mxRun (some : (s.runOp t w ext).rows ≠ 0) (few : (s.runOp t w ext).rows ≤ 4096)
    (ok : (s.runOp t w ext).ok (s.mxu t).act = true) {ess : List (List Extent)} {b : State}
    (mapped : State.ownRanges t .load ((List.range (s.runOp t w ext).rows).map
      (fun i => ((s.xr t (wRd w)).toNat + i * mxPitch (fld ext 0 4), mxBytes (fld ext 0 4)))) [] s = (.ok ess, b)) :
    s.unitOp t w ext u .mxRun = ess.zipIdx.foldl (fun (x : State) e => x.runRow t (s.runOp t w ext) e.2 e.1) b := by
  have fmt : (s.runOp t w ext).fmt = fld ext 0 4 := rfl
  show s.mxRunOp t w ext = _
  unfold State.mxRunOp
  dsimp only
  rw [if_neg some, if_neg (by simp [few, ok]), fmt, mapped]

theorem matrix_aligned {row : SisRow} (hr : row ∈ [SisRow.mxLdw, .mxRun]) (aligned : (s.xr t (wRd w)).toNat % 64 = 0) :
    s.issueTrap t w ext row = none := by
  fin_cases hr <;> exact if_neg (not_not.mpr aligned)

@[simp] theorem State.loadPitch_paid (row : SisRow) : (s.paid t row).loadPitch t w ext = s.loadPitch t w ext := by
  rw [State.loadPitch, State.xr_paid, State.loadPitch]

@[simp] theorem State.runOp_paid (row : SisRow) : (s.paid t row).runOp t w ext = s.runOp t w ext := by
  rw [State.runOp, State.xr_paid, State.xr_paid, State.runOp]

/-- The operands of a drain as its words and registers give them (R150, R172). -/
def State.drainOp (s : State) (t : Nat) (ext : BitVec 32) (flush : Nat) : DrainOp :=
  ⟨fld ext 0 4, if bit ext 8 then (s.tile t).tsu.rmode else (rmOf (fld ext 4 4)).getD .rne, bit ext 9, bit ext 10, bit ext 11, bit ext 12, flush⟩

/-- ACM rows of one output row of a drain. -/
def DrainOp.per (d : DrainOp) : Nat := if d.wide then 2 else 1

/-- The pitch of a drain's output rows and their padding (R150). -/
def drainPitch (ext : BitVec 32) : Nat := if fld ext 16 16 = 0 then outPitch (fld ext 0 4) else 64 * fld ext 16 16
def drainPad (ext : BitVec 32) : Nat := if fld ext 16 16 = 0 then outPitch (fld ext 0 4) - outData (fld ext 0 4) else 0

/-- The draws of output row i under stochastic rounding, from the counter's value before the drain (R175–R177). -/
def drainDraws (run : PassCtx) (rm : RMode) (g0 i : Nat) : List Nat :=
  match rm, run.seed with
  | .sr, some seed => (List.range 128).map (fun j => run.draw seed 1 (g0 + 128 * i + j))
  | _, _ => List.replicate 128 0

/-- Drain the rows to the ranges `outs` and `scs`, and advance the counter by the draws (R166, R177). -/
def State.drainTo (s : State) (t : Nat) (ext : BitVec 32) (run : PassCtx) (d : DrainOp) (row k : Nat) (outs scs : List (List Extent)) : State :=
  let a := outs.zipIdx.foldl (fun (x : State) o =>
    x.drainRow t d (row + d.per * o.2) (drainDraws run d.rm (s.mxu t).grain o.2) (drainPad ext) o.1 (scs.getD o.2 [])) s
  if d.rm = .sr then a.updMxu t (fun m => { m with grain := ((s.mxu t).grain + 128 * k) % 2 ^ 33 }) else a

section
variable {run : PassCtx} {row k : Nat} {d : DrainOp} (pass : (s.tile t).run = some run) (operands : s.drainOp t ext run.flush = d)
  (first : fld (s.xr t (wRa w)) 0 12 = row) (count : fld (s.xr t (wRa w)) 16 13 = k)
include pass operands first count

theorem State.unitOp_mxDrain (agree : u ≠ .grainMismatch) (some : k ≠ 0) (inside : row + d.per * k ≤ 4096) (even : d.wide = true → row % 2 = 0)
    (seeded : d.rm = .sr → run.seed ≠ none) {outs scs : List (List Extent)} {b c : State}
    (mapped : State.ownRanges t .store ((List.range k).map
      (fun i => ((s.xr t (wRd w)).toNat + i * drainPitch ext, outData (fld ext 0 4) + drainPad ext))) [] s = (.ok outs, b))
    (scales : State.ownRanges t .store (if isMx (fld ext 0 4) then (List.range k).map (fun i => ((s.xr t (wRb w)).toNat + i * drainPitch ext, 4))
      else []) [] b = (.ok scs, c)) : s.unitOp t w ext u .mxDrain = c.drainTo t ext run d row k outs scs := by
  subst operands first count
  show s.mxDrainOp t w ext u = _
  unfold State.mxDrainOp
  rw [pass]
  dsimp -zeta only
  extract_lets f rm d x row n per op pitch pad base sbase g0 draws
  have valid : ¬ (4096 < row + per * n ∨ (d.wide && row % 2 == 1) = true ∨ (rm = .sr ∧ run.seed = none)) := by
    rintro (beyond | odd | ⟨sr, none⟩)
    · exact absurd inside (Nat.not_le.mpr beyond)
    · simp only [Bool.and_eq_true, beq_iff_eq] at odd
      exact absurd ((even odd.1).symm.trans odd.2) (by decide)
    · exact seeded sr none
  have agrees : ¬ (rm = .sr ∧ u = .grainMismatch) := fun h => agree h.2
  have mapped' : State.ownRanges t .store ((List.range n).map (fun i => (base + i * pitch, outData f + pad))) [] s = (.ok outs, b) := mapped
  have scales' : State.ownRanges t .store (if isMx f then (List.range n).map (fun i => (sbase + i * pitch, 4)) else []) [] b = (.ok scs, c) :=
    scales
  rw [if_neg some, if_neg valid, mapped']
  dsimp -zeta only
  rw [scales']
  dsimp -zeta only
  rw [if_neg agrees]
  have counter : g0 = (c.mxu t).grain := by
    simp only [g0, mapped', scales']
  have drawn : draws = drainDraws run rm (c.mxu t).grain := by
    rw [← counter]
    clear_value g0 rm
    rfl
  rw [drawn, counter]
  rfl

end

theorem mxDrain_aligned (data : (s.xr t (wRd w)).toNat % (if fld ext 0 4 = 6 ∨ fld ext 0 4 = 7 then 32 else 64) = 0)
    (scales : isMx (fld ext 0 4) = true → (s.xr t (wRb w)).toNat % 4 = 0) : s.issueTrap t w ext .mxDrain = none := by
  have all : (drainBases w ext).find? (fun b => (s.xr t b.1).toNat % b.2 != 0) = none := by
    rw [List.find?_eq_none]
    intro b hb
    rw [drainBases, List.mem_cons] at hb
    rcases hb with rfl | hb
    · simp [data]
    · split at hb
      · next mx =>
        obtain rfl := List.mem_singleton.mp hb
        simp [scales mx]
      · exact absurd hb List.not_mem_nil
  simp only [State.issueTrap, all, Option.map_none]

end

/-- Settles O28: each is its unit's own operation on the ranges of the Local Store. -/
theorem matrixData : Obligations.MatrixData := by
  refine ⟨rfl, rfl, fun s t w ext u => ?_⟩
  intro f base n
  refine ⟨?_, ?_, ?_⟩
  · intro ready aligned some few z given pitch whole wide ess b mapped r runs
    have op := State.unitOp_mxLdw (s := z) (t := t) (w := w) (ext := ext) (u := u) (ess := ess) (b := b)
    simp only [z, State.xr_paid, State.loadPitch_paid] at op
    have op' := op some few whole wide mapped
    rw [exec_mxLdw, execMxLdw, State.sisM_unit ready (by simp [matrixRows]) (matrix_aligned (by simp) aligned) op'
      ((State.running_updMxu _ _ _).trans runs)]
    rfl
  · intro r ready aligned some few ok z ess b mapped a runs
    have op := State.unitOp_mxRun (s := z) (t := t) (w := w) (ext := ext) (u := u) (ess := ess) (b := b)
    simp only [z, State.xr_paid, State.runOp_paid, State.mxu_paid] at op
    rw [exec_mxRun, execMxRun, State.sisM_unit ready (by simp [matrixRows]) (matrix_aligned (by simp) aligned) (op some few ok mapped) runs]
  · intro run ready pass z rm d row k per pitch pad sbase data scales some inside even seeded outs scs b c mapped scaled g0 draws a a' runs
    have agree : u ≠ .grainMismatch := by
      rintro rfl
      exact absurd ready.calm (by decide)
    have op := State.unitOp_mxDrain (s := z) (t := t) (w := w) (ext := ext) (u := u) (run := run) (row := row) (k := k) (d := d)
      (outs := outs) (scs := scs) (b := b) (c := c)
    simp only [z, State.xr_paid, State.run_paid, State.drainOp, State.tsu_paid] at op
    have op' := op pass rfl rfl rfl agree some inside even seeded mapped scaled
    rw [exec_mxDrain, execMxDrain, State.sisM_unit ready (by simp [matrixRows]) (mxDrain_aligned data scales) op' runs]
    rfl

/-! Deal and combine: `vx.combine.sum` does nothing while VL is 0 (R117; log entry 61), and the statement leaves VL open. -/

/-- Tile 0 runs a pass at PC 0x1000 with VL = 0; its root maps the page at address 0 to its own Local Store, where every byte reads zero. -/
def emptySum : State := { State.reset with
  mem := [(0x40000000, 1), (0x40000002, 1), (0x40000003, 0x40), (0x40010000, 0x1F), (0x40010005, 0x10)]
  tiles := [(0, { tsu := { pc := 0x1000 }, run := some { ix := 0, rank := 0, rootId := 0, flush := 0, seed := none, base := 0 } })]
  parts := [(0, { entry := { valid := true, tiles := 1, chainQuota := 4, regionQuota := 4, ext := [(0, 0x100000), (0, 0), (0, 0), (0, 0)] },
                  root := 0x40000001, ptArea := some 0x40000000 })]
  boot := { state := .ready, floor := 2, opened := true } }

/-- `vx.combine.sum` of X3 and X2, both 0: a descriptor of all zeros, and no position to sum. -/
def sumWord : BitVec 32 := 0xDC601010

theorem emptySum_ready : Ready emptySum 0 (wordRow sumWord) .vxCombineSum .none :=
  ⟨by decide, by decide, by decide, rfl, by decide, rfl⟩

/-- The state in which it acts, and the one in which its descriptor has been translated and read. -/
def sumActs : State := emptySum.reaching 0 .vxCombineSum
def sumMapped : State := (sumActs.ownRange 0 .store 0 64).2
def sumRead : List Byte × State := sumMapped.ownRead 0 [⟨2 ^ 44, 64⟩]

theorem sumActs_mapped : sumActs.ownRange 0 .store 0 64 = (.ok [⟨2 ^ 44, 64⟩], sumMapped) := by
  refine Prod.ext ?_ rfl
  have own : (sumActs.ownRange 0 .store 0 64).1.toOption = some [⟨2 ^ 44, 64⟩] := by decide +kernel
  cases e : (sumActs.ownRange 0 .store 0 64).1 <;> rw [e] at own
  · cases own
  · exact congrArg _ (Option.some.inj own)

/-- What the statement asks for: no position is summed, and the descriptor is written back. -/
def sumWritten : State :=
  (sumRead.2.ownRead 0 [⟨2 ^ 44, 64⟩]).2.ownWrite 0 [⟨2 ^ 44, 64⟩]
    (bvBytes (setFld (bytesBv 512 (sumRead.2.ownRead 0 [⟨2 ^ 44, 64⟩]).1) 163 24 ((combineOf (bytesBv 512 sumRead.1)).next + 0)))

theorem sumWritten_valid : sumWritten.running 0 = true ∧ sumWritten.net.waits = false ∧
    SMap.get false (sumWritten.tile 0).lsValid 0 = true := by decide +kernel

theorem sumRead_descriptor : (sumRead.2.xr 0 (wRb sumWord)).toNat = 0 ∧ 
    (combineOf (bytesBv 512 sumRead.1)).next + 0 ≤ (combineOf (bytesBv 512 sumRead.1)).cap ∧
    (combineOf (bytesBv 512 sumRead.1)).aligned = true ∧ (combineOf (bytesBv 512 sumRead.1)).inside = true := by decide +kernel

/-- What it does: VL is 0, so nothing but falling through. -/
theorem emptySum_exec : exec (.vxCombineSum 0 sumWord .none) emptySum =
    .next (emptySum.acted (sumActs.unitDone sumActs 0 sumWord 0 .vxCombineSum)) := by
  have op : sumActs.unitOp 0 sumWord 0 .none .vxCombineSum = sumActs := State.unitOp_empty rfl (by decide)
  rw [exec_vxCombineSum, execVxCombineSum]
  exact congrArg _ (State.sisV_reach emptySum_ready rfl rfl rfl nofun (by decide) op (by decide) (by decide))

/-- Refutes O29: at VL = 0 `vx.combine.sum` leaves its descriptor alone, where the statement has it written back. -/
theorem not_expertData : ¬ Obligations.ExpertData := by
  intro h
  obtain ⟨-, -, sum⟩ := h emptySum 0 sumWord .none (by decide)
  obtain ⟨count, fits, aligned, inside⟩ := sumRead_descriptor
  obtain ⟨runs, answered, valid⟩ := sumWritten_valid
  have claimed := sum emptySum_ready [⟨2 ^ 44, 64⟩] sumRead.1 sumMapped sumRead.2 sumActs_mapped rfl
  simp only [Fin.val_zero, count, List.range_zero, List.foldl_nil] at claimed
  rw [← sumWritten, ← sumActs] at claimed
  have same := congrArg (fun o : Host.Outcome State Fault Refusal => match o with
    | .next x => SMap.get false (x.tile 0).lsValid 0
    | _ => true) (emptySum_exec.symm.trans (claimed fits aligned inside runs answered))
  dsimp only at same
  rw [State.acted_tile, State.acted_tile, State.unitDone, State.unitDone, State.tile_retire, State.tile_retire, State.stepped, State.stepped,
    State.tile_updTile_self, State.tile_updTile_self] at same
  exact absurd (same.trans valid) (by decide)

end Sys2Proof.Machine
end

section
/-!
SUPPORT and PROOFS. The request path (12_requests_experts.md): doorbells (O30), submissions (O31), the admission window (O32) and dispatch (O33).
-/

namespace Sys2Proof.Machine

/-! Doorbells. -/

/-- A doorbell of an SQ that waits for no BAR2 write is a write of that queue's tail (R330, R526). -/
theorem State.hostBell_sq {s : State} {n : Nat} (q : Fin 16) (v : Word) (h : s.windowBusy n = false) :
    s.hostBell n (0x10000 + 8 * q.val) v = s.sqTail n q v := by
  have page : 0x10000 ≤ 0x10000 + 8 * q.val ∧ 0x10000 + 8 * q.val < 0x10080 := by omega
  have index : (0x10000 + 8 * q.val - 0x10000) / 8 = q.val := by omega
  unfold State.hostBell State.pageWrite
  rw [h, if_neg Bool.false_ne_true]
  dsimp only
  rw [if_pos page, index]

/-- A doorbell of a CQ that waits for no BAR2 write is a write of that queue's head (R330, R526). -/
theorem State.hostBell_cq {s : State} {n : Nat} (q : Fin 16) (v : Word) (h : s.windowBusy n = false) :
    s.hostBell n (0x10080 + 8 * q.val) v = s.cqHead n q v := by
  have notSq : ¬ (0x10000 ≤ 0x10080 + 8 * q.val ∧ 0x10080 + 8 * q.val < 0x10080) := by omega
  have page : 0x10080 ≤ 0x10080 + 8 * q.val ∧ 0x10080 + 8 * q.val < 0x10100 := by omega
  have index : (0x10080 + 8 * q.val - 0x10080) / 8 = q.val := by omega
  unfold State.hostBell State.pageWrite
  rw [h, if_neg Bool.false_ne_true]
  dsimp only
  rw [if_neg notSq, if_pos page, index]

theorem State.hostBell_held {s : State} {n : Nat} (off : Nat) (v : Word) (h : s.windowBusy n = true) :
    s.hostBell n off v = { s with hostl := { s.hostl with heldBells := s.hostl.heldBells ++ [(n, off, v)] } } :=
  if_pos h

theorem State.sqTail_moves {s : State} {n q : Nat} {v : Word} {sq : Sq} (h : SMap.get none (s.part n).sqs q = some sq)
    (lt : fld v 0 16 < sq.size) :
    s.sqTail n q v = s.updPart n (fun p => { p with sqs := SMap.put none p.sqs q (some { sq with tail := fld v 0 16 }) }) := by
  unfold State.sqTail
  rw [h]
  exact if_pos lt

theorem State.cqHead_moves {s : State} {n q : Nat} {v : Word} {cq : Cq} (h : SMap.get none (s.part n).cqs q = some cq)
    (lt : fld v 0 16 < cq.size) :
    s.cqHead n q v = s.updPart n (fun p => { p with cqs := SMap.put none p.cqs q (some { cq with head := fld v 0 16 }) }) := by
  unfold State.cqHead
  rw [h]
  exact if_pos lt

/-- A tail that no queue takes is logged (R331). -/
theorem State.sqTail_bad {s : State} {n q : Nat} {v : Word}
    (h : ∀ sq, SMap.get none (s.part n).sqs q = some sq → sq.size ≤ fld v 0 16) : s.sqTail n q v = s.badDoorbell n := by
  unfold State.sqTail
  split
  · rfl
  · rename_i sq found
    exact if_neg (Nat.not_lt.2 (h sq found))

/-- A head that no queue takes is logged (log entry 26). -/
theorem State.cqHead_bad {s : State} {n q : Nat} {v : Word}
    (h : ∀ cq, SMap.get none (s.part n).cqs q = some cq → cq.size ≤ fld v 0 16) : s.cqHead n q v = s.badDoorbell n := by
  unfold State.cqHead
  split
  · rfl
  · rename_i cq found
    exact if_neg (Nat.not_lt.2 (h cq found))

theorem State.parts_badDoorbell (s : State) (n : Nat) : (s.badDoorbell n).parts = s.parts := by
  unfold State.badDoorbell
  simp

/-- Settles O30. -/
theorem doorbells : Obligations.Doorbells := by
  intro s n q v p i
  refine ⟨fun free => ⟨fun sq found lt => ?_, fun cq found lt => ?_, fun bad => ?_, fun bad => ?_⟩, fun busy e he => ?_, s.parts_badDoorbell n⟩
  · refine ⟨_, by rw [exec_sqTailWrite, execSqTailWrite, State.hostBell_sq q v free, State.sqTail_moves found lt], rfl, fun k hk => ?_, ?_, fun j => ?_⟩
    · rw [State.part_updPart, if_neg hk]
    · rw [State.part_updPart_self]
    · rw [State.part_updPart_self]
      exact SMap.get_put _ _ _ _ _
  · refine ⟨_, by rw [exec_cqHeadWrite, execCqHeadWrite, State.hostBell_cq q v free, State.cqHead_moves found lt], rfl, fun k hk => ?_, ?_, fun j => ?_⟩
    · rw [State.part_updPart, if_neg hk]
    · rw [State.part_updPart_self]
    · rw [State.part_updPart_self]
      exact SMap.get_put _ _ _ _ _
  · rw [exec_sqTailWrite, execSqTailWrite, State.hostBell_sq q v free, State.sqTail_bad bad]
  · rw [exec_cqHeadWrite, execCqHeadWrite, State.hostBell_cq q v free, State.cqHead_bad bad]
  · simp only [List.mem_cons, List.not_mem_nil, or_false] at he
    obtain rfl | rfl := he
    · rw [exec_sqTailWrite, execSqTailWrite, State.hostBell_held _ v busy]
    · rw [exec_cqHeadWrite, execCqHeadWrite, State.hostBell_held _ v busy]

/-! Submissions. -/

theorem State.part_acted (s x : State) (k : Nat) : (s.acted x).part k = x.part k := rfl

/-- What the stage does with the entry that it takes from the queue the command names (R340–R342). -/
theorem State.submit_taken {s a : State} {n q : Nat} {given e : BitVec 1024} {want : Nat → Bool} (taken : s.takeEntry n given = some (q, e, a))
    (wanted : want (ent e 0 8) = true) :
    s.submit n q given want = if s.isStrict n then
      (if (s.part n).deferred.isSome || s.lastWindow != some s.now then s else a.updPart n (fun p => { p with deferred := some (q, e) }))
      else a.admitEntry n q e := by
  unfold State.submit
  rw [taken]
  simp only [ne_eq, not_true_eq_false, wanted, Bool.not_true, Bool.false_eq_true, or_self, if_false]

section
variable {s p a : State} {n q : Nat} {given e : BitVec 1024} {want : Nat → Bool} {f : State → State}
  (start : f (s.acting 136) = p.submit n q given want) (taken : p.takeEntry n given = some (q, e, a)) (wanted : want (ent e 0 8) = true)
include start taken wanted

/-- A Lent partition's entry is acted on at once. -/
theorem State.submit_lent (lent : p.isStrict n = false) (done : (a.admitEntry n q e).net.waits = false) :
    s.retry 136 f = s.acted (a.admitEntry n q e) := by
  have now : f (s.acting 136) = a.admitEntry n q e := by rw [start, State.submit_taken taken wanted, lent]; rfl
  rw [State.retry_done (by rw [now]; exact done), now]

/-- A Strict partition's entry is held where a window has just started and none is held (R342). -/
theorem State.submit_strict (strict : p.isStrict n = true) (none : (p.part n).deferred = none) (window : p.lastWindow = some p.now)
    (done : a.net.waits = false) : s.retry 136 f = s.acted (a.updPart n (fun p => { p with deferred := some (q, e) })) := by
  have now : f (s.acting 136) = a.updPart n (fun p => { p with deferred := some (q, e) }) := by
    rw [start, State.submit_taken taken wanted, strict, none, window]
    simp
  rw [State.retry_done (by rw [now]; exact done), now]

/-- At any other time a Strict partition's entry stays in its queue (R342). -/
theorem State.submit_later (strict : p.isStrict n = true) (no : (p.part n).deferred.isSome = true ∨ p.lastWindow ≠ some p.now)
    (done : p.net.waits = false) : s.retry 136 f = s.acted p := by
  have now : f (s.acting 136) = p := by
    rw [start, State.submit_taken taken wanted, strict, if_pos rfl, if_pos]
    simpa using no
  rw [State.retry_done (by rw [now]; exact done), now]

/-- The answers of one submission command, Lent or Strict (R341, R342). -/
theorem State.submit_answers {i : Instr} (runs : exec i s = .next (s.retry 136 f)) :
    (p.isStrict n = false → (a.admitEntry n q e).net.waits = false → exec i s = .next (s.acted (a.admitEntry n q e))) ∧
    (p.isStrict n = true → (p.part n).deferred = none → p.lastWindow = some p.now → a.net.waits = false →
      ∃ s', exec i s = .next s' ∧ (s'.part n).deferred = some (q, e)) ∧
    (p.isStrict n = true → (p.part n).deferred.isSome = true ∨ p.lastWindow ≠ some p.now → p.net.waits = false →
      exec i s = .next (s.acted p)) := by
  rw [runs]
  refine ⟨fun lent done => congrArg _ (State.submit_lent start taken wanted lent done), fun strict none window done => ?_,
    fun strict no done => congrArg _ (State.submit_later start taken wanted strict no done)⟩
  refine ⟨_, congrArg _ (State.submit_strict start taken wanted strict none window done), ?_⟩
  rw [State.part_acted, State.part_updPart_self]

end

/-- The queue the stage reads next exists, is not stopped and holds an entry (R331, R332). -/
theorem State.pickSq_some {s : State} {n q : Nat} (h : s.pickSq n = some q) :
    ∃ sq, SMap.get none (s.part n).sqs q = some sq ∧ sq.stopped = false ∧ sq.head ≠ sq.tail := by
  unfold State.pickSq at h
  dsimp only at h
  split at h
  · cases h
  · have ready := List.find?_some h
    split at ready
    · rename_i sq found
      simp only [Bool.and_eq_true, Bool.not_eq_true', bne_iff_ne, ne_eq] at ready
      exact ⟨sq, found, ready.1.1, ready.1.2⟩
    · cases ready

/-- An entry is taken from the queue that is next, whose head goes on (R331, R332). -/
theorem State.takeEntry_some {s a : State} {n q : Nat} {given e : BitVec 1024} (h : s.takeEntry n given = some (q, e, a)) :
    ∃ sq : Sq, SMap.get none (s.part n).sqs q = some sq ∧ sq.head ≠ sq.tail ∧ sq.stopped = false ∧
      ∀ x, SMap.get none (a.part n).sqs q = some x → x.head = if sq.head + 1 = sq.size then 0 else sq.head + 1 := by
  unfold State.takeEntry at h
  split at h
  · cases h
  · rename_i k picked
    obtain ⟨sq, found, running, left⟩ := State.pickSq_some picked
    rw [found] at h
    dsimp only at h
    generalize s.sqEntry n sq given = r at h
    simp only [Option.some.injEq, Prod.mk.injEq] at h
    obtain ⟨rfl, -, rfl⟩ := h
    refine ⟨sq, found, left, running, fun x hx => ?_⟩
    rw [State.part_updPart_self] at hx
    dsimp only at hx
    rw [SMap.get_put_self] at hx
    cases hx
    rfl

theorem State.admitEntry_device {a : State} (n q : Nat) (e : BitVec 1024) (h : a.boot.fault = true) :
    a.admitEntry n q e = a.answerReq n q (BitVec.ofNat 16 (ent e 16 16)) .deviceFaulted 0 := by
  unfold State.admitEntry
  exact if_pos h

theorem State.admitEntry_partition {a : State} {n : Nat} (q : Nat) (e : BitVec 1024) (h : a.boot.fault = false) (k : (a.part n).fault = true) :
    a.admitEntry n q e = a.answerReq n q (BitVec.ofNat 16 (ent e 16 16)) .partitionFaulted 0 := by
  unfold State.admitEntry
  simp only [h, k, Bool.false_eq_true, if_false, if_true]

theorem State.admitEntry_form {a : State} {n : Nat} (q : Nat) {e : BitVec 1024} {st : Status} (h : a.boot.fault = false)
    (k : (a.part n).fault = false) (form : entryForm e = some st) :
    a.admitEntry n q e = a.answerReq n q (BitVec.ofNat 16 (ent e 16 16)) st 0 := by
  unfold State.admitEntry
  simp only [h, k, form, Bool.false_eq_true, if_false]

/-- Settles O31. -/
theorem submissions : Obligations.Submissions := by
  intro s n q given e ecc a op p
  refine ⟨fun r mem => ?_, State.admitEntry_device n q e, State.admitEntry_partition q e, fun st => State.admitEntry_form q, State.takeEntry_some⟩
  simp only [List.mem_cons, List.not_mem_nil, or_false] at mem
  obtain rfl | rfl | rfl | rfl := mem
  all_goals intro opcode taken
  · exact State.submit_answers rfl taken (by simpa [and_assoc] using opcode) rfl
  · exact State.submit_answers (want := fun op => op == 2) rfl taken (beq_iff_eq.2 opcode) rfl
  · exact State.submit_answers (want := fun op => op == 3) rfl taken (beq_iff_eq.2 opcode) rfl
  · exact State.submit_answers (want := fun op => op == 4) rfl taken (beq_iff_eq.2 opcode) rfl

/-! The admission window. -/

theorem State.netSend_parts (s : State) (p : NetPacket) : (s.netSend p).parts = s.parts ∧ (s.netSend p).ledger = s.ledger := by
  unfold State.netSend State.netPut
  dsimp only
  split
  · simp [State.routeDown]
  · exact ⟨rfl, rfl⟩

/-- While a unit waits for another device, no partition and no ledger entry changes (R312). -/
theorem State.retry_waits_parts {s : State} {u : Nat} {f : State → State} (waits : (f (s.acting u)).net.waits = true) :
    (s.retry u f).parts = s.parts ∧ (s.retry u f).ledger = s.ledger := by
  unfold State.retry
  simp only [waits, if_true]
  generalize (f (s.acting u)).net.remote.filter _ = new
  refine List.foldlRecOn (motive := fun t : State => t.parts = s.parts ∧ t.ledger = s.ledger) new _ ⟨rfl, rfl⟩ (fun t ih r _ => ?_)
  obtain ⟨parts, ledger⟩ := t.netSend_parts (t.request r.tag u r.id r.pa r.op)
  exact ⟨parts.trans ih.1, ledger.trans ih.2⟩

theorem boundary_le (t : Nat) : t ≤ boundary t := by
  unfold boundary ceilDiv
  omega

theorem boundary_mono {t u : Nat} (h : t ≤ u) : boundary t ≤ boundary u := by
  unfold boundary ceilDiv
  omega

/-- The start of the next admission window: the first boundary that no window started at (R342). -/
def State.windowStart (s : State) : State :=
  let t := s.atLeast (boundary (match s.lastWindow with
    | some w => max s.now (w + 1)
    | none => s.now))
  { t with lastWindow := some t.now }

/-- A Strict partition's next entry is taken and held for the next window (R342). -/
def State.windowTake (given : Nat → BitVec 1024) (n : Nat) (s : State) : State :=
  match s.takeEntry n (given n) with
  | some (q, e, s') => s'.updPart n (fun p => { p with deferred := some (q, e) })
  | none => s

/-- What an admission window does for the Strict partitions (R342). -/
def State.window (given : Nat → BitVec 1024) (s : State) : State :=
  let s := s.windowStart
  let s := s.forEach (parts64.filter s.isStrict) (fun n s => s.windowApply n)
  s.forEach (parts64.filter s.isStrict) (State.windowTake given)

/-- The entry that the host's memory returns for partition n. -/
def givenEntry (es : List (PartId × BitVec 1024)) (n : Nat) : BitVec 1024 := ((es.find? (fun x => x.1.val == n)).map (·.2)).getD 0

theorem exec_window (s : State) (es : List (PartId × BitVec 1024)) :
    exec (.admissionWindow es) s = .next (s.retry 136 (State.window (givenEntry es))) := rfl

theorem State.windowStart_now (s : State) : boundary s.now ≤ s.windowStart.now := by
  unfold State.windowStart
  rw [State.atLeast_now]
  split
  · exact (boundary_mono (Nat.le_max_left _ _)).trans (Nat.le_max_right _ _)
  · exact Nat.le_max_right _ _

theorem State.windowStart_after {s : State} {w : Nat} (h : s.lastWindow = some w) : w < s.windowStart.now := by
  unfold State.windowStart
  rw [State.atLeast_now, h]
  dsimp only
  have := boundary_le (max s.now (w + 1))
  omega

/-- A window ends no earlier than it starts. -/
theorem State.windowStart_le_window (given : Nat → BitVec 1024) (s : State) : s.windowStart.now ≤ (s.window given).now := by
  have keeps : Keeps s.windowStart (s.window given) := by
    unfold State.window
    refine State.forEach_keeps (State.forEach_keeps (.refl _) (fun n t h => State.windowApply_keeps h)) (fun n t h => ?_)
    unfold State.windowTake
    split
    · rename_i taken
      exact State.updPart_keeps (State.takeEntry_keeps_of_eq h taken)
    · exact h
  exact keeps.2.2

/-- Without a Strict partition a window only takes the time (R342). -/
theorem State.window_none {s : State} (given : Nat → BitVec 1024) (h : parts64.filter s.isStrict = []) : s.window given = s.windowStart := by
  have none : parts64.filter s.windowStart.isStrict = [] := h
  unfold State.window
  dsimp only
  rw [none]
  unfold State.forEach
  rw [List.foldl_nil, none]
  rfl

/-- With one Strict partition a window decides and posts for it, then takes its next entry (R342). -/
theorem State.window_one {s : State} (given : Nat → BitVec 1024) {n : Nat} (h : parts64.filter s.isStrict = [n])
    (k : parts64.filter (s.windowStart.windowApply n).isStrict = [n]) :
    s.window given = State.windowTake given n (s.windowStart.windowApply n) := by
  have one : parts64.filter s.windowStart.isStrict = [n] := h
  unfold State.window
  dsimp only
  rw [one]
  unfold State.forEach
  rw [List.foldl_cons, List.foldl_nil, k, List.foldl_cons, List.foldl_nil]

/-- Settles O32. -/
theorem admissionWindow : Obligations.AdmissionWindow := by
  intro s es n given start a b
  rw [exec_window]
  refine ⟨⟨_, rfl, ?_⟩, fun w last => State.windowStart_after (s := s.acting 136) last, fun none => ?_, fun one still => ⟨fun q e c taken done => ?_, fun empty done => ?_⟩⟩
  · cases waits : ((s.acting 136).window (givenEntry es)).net.waits with
    | true => exact .inr (State.retry_waits_parts waits)
    | false =>
      rw [State.retry_done waits]
      exact .inl ((State.windowStart_now _).trans (State.windowStart_le_window (givenEntry es) (s.acting 136)))
  · have now : (s.acting 136).window (givenEntry es) = a := State.window_none (s := s.acting 136) _ none
    rw [State.retry_done (by rw [now]; rfl), now]
  · have now : (s.acting 136).window (givenEntry es) = c.updPart n (fun p => { p with deferred := some (q, e) }) := by
      rw [State.window_one (s := s.acting 136) _ one still]
      change State.windowTake (givenEntry es) n b = _
      unfold State.windowTake
      rw [show b.takeEntry n (givenEntry es n) = some (q, e, c) from taken]
    refine ⟨_, by rw [State.retry_done (by rw [now]; exact done), now], ?_⟩
    rw [State.part_acted, State.part_updPart_self]
  · have now : (s.acting 136).window (givenEntry es) = b := by
      rw [State.window_one (s := s.acting 136) _ one still]
      change State.windowTake (givenEntry es) n b = _
      unfold State.windowTake
      rw [show b.takeEntry n (givenEntry es n) = none from empty]
    rw [State.retry_done (by rw [now]; exact done), now]

/-! Dispatch. -/

/-- A request past its deadline ends DECLINED at its first dispatch (R348). -/
theorem State.firstDispatch_late {s : State} {i : Nat} (phase : Nat) (h : (s.led i).deadline ≠ 0) (k : (s.led i).deadline < s.now) :
    s.firstDispatch i phase = s.endRequest i .declined := by
  unfold State.firstDispatch
  exact if_pos ⟨h, k⟩

/-- A request whose ranges translate and whose moves succeed runs (R244, R248). -/
theorem State.firstDispatch_runs {s b c : State} {i phase : Nat} (h : ¬ ((s.led i).deadline ≠ 0 ∧ (s.led i).deadline < s.now))
    (fresh : s.retranslate i = (none, b))
    (moved : (b.updLed i (fun e => { e with state := .running, root := some (b.part e.part.val).rootId })).runPhase i phase = (true, c)) :
    s.firstDispatch i phase = c.updLed i (fun e => { e with phase0 := true }) := by
  unfold State.firstDispatch
  dsimp only
  rw [if_neg h, fresh]
  dsimp only
  rw [moved]
  rfl

/-- What the front of its hand does at a tile (R347, R353). -/
def State.dispatched (t : Nat) (h : HandEntry) (rest : List HandEntry) (x : Tile) (s : State) : State :=
  let s := s.setTile t { x with hand := rest, taken := some h }
  let e := s.led h.ix
  if e.state = .dealt then s.firstDispatch h.ix 0
  else if e.phase0 then s
  else
    let (ok, s) := s.runPhase h.ix 0
    if ok then s.updLed h.ix (fun e => { e with phase0 := true }) else s.endRequest h.ix .notPermitted

/-- The tile takes nothing from its hand: it runs a pass or a health pass, is about to, or is held or out of use. -/
def Tile.busy (x : Tile) : Bool :=
  x.stopped || x.run.isSome || x.taken.isSome || x.chainHold.isSome || x.health.running.isSome || x.health.pending || x.health.unavailable

theorem State.dispatch_idle {s : State} {t : TileId} {h : HandEntry} {rest : List HandEntry} (hand : (s.tile t).hand = h :: rest)
    (idle : (s.tile t).busy = false) : exec (.dispatch t) s = .next (s.retry (64 + t.val) (State.dispatched t h rest (s.tile t))) := by
  rw [exec_dispatch]
  unfold execDispatch
  dsimp only
  unfold Tile.busy at idle
  rw [hand]
  dsimp only
  rw [idle]
  rfl

section
variable {s a : State} {t : Nat} {h : HandEntry} {rest : List HandEntry} {x : Tile} (entry : a = s.setTile t { x with hand := rest, taken := some h })
include entry

theorem State.dispatched_first (dealt : (s.led h.ix).state = .dealt) : State.dispatched t h rest x s = a.firstDispatch h.ix 0 := by
  unfold State.dispatched
  dsimp only
  rw [← entry, if_pos (by rw [entry]; exact dealt)]

/-- A stream's later pass runs after its moves of phase 0 (R353). -/
theorem State.dispatched_again {c : State} (dealt : (s.led h.ix).state ≠ .dealt) (fresh : (s.led h.ix).phase0 = false)
    (moved : a.runPhase h.ix 0 = (true, c)) : State.dispatched t h rest x s = c.updLed h.ix (fun e => { e with phase0 := true }) := by
  unfold State.dispatched
  dsimp only
  rw [← entry, if_neg (by rw [entry]; exact dealt), if_neg (by rw [entry, State.setTile_led, fresh]; exact Bool.false_ne_true), moved]
  rfl

/-- A pass whose moves of phase 0 have run only waits for its start. -/
theorem State.dispatched_ready (dealt : (s.led h.ix).state ≠ .dealt) (moved : (s.led h.ix).phase0 = true) :
    State.dispatched t h rest x s = a := by
  unfold State.dispatched
  dsimp only
  rw [← entry, if_neg (by rw [entry]; exact dealt), if_pos (by rw [entry, State.setTile_led, moved])]

end

/-- The partition that a free mover serves: the first after the one it served last that has a move waiting (R349). -/
def State.nextMover (s : State) (m : Nat) : Option Nat :=
  ((List.range 64).map (fun i => (SMap.get 63 s.lastMover m + 1 + i) % 64)).find? (fun n =>
    !(s.part n).moveq.isEmpty && !(s.part n).fault && !s.boot.fault)

/-- A mover takes the front of partition n's move queue (R349). -/
def State.moved (m n : Nat) (s : State) : State :=
  let i := (s.part n).moveq.headD 0
  let s := { s.updPart n (fun p => { p with moveq := p.moveq.tail }) with lastMover := SMap.put 63 s.lastMover m n }
  s.firstDispatch i 2

theorem State.exec_moveDispatch_none {s : State} {m : Fin 8} (h : s.nextMover m.val = none) : exec (.moveDispatch m) s = .next s := by
  unfold State.nextMover at h
  rw [exec_moveDispatch]
  unfold execMoveDispatch
  rw [h]

theorem State.exec_moveDispatch_some {s : State} {m : Fin 8} {n : Nat} (h : s.nextMover m.val = some n) :
    exec (.moveDispatch m) s = .next (s.retry (128 + m.val) (State.moved m.val n)) := by
  unfold State.nextMover at h
  rw [exec_moveDispatch]
  unfold execMoveDispatch
  rw [h]
  rfl

theorem State.moved_front {s : State} {m n i : Nat} {rest : List Nat} (h : (s.part n).moveq = i :: rest) : State.moved m n s =
    ({ s.updPart n (fun y => { y with moveq := rest }) with lastMover := SMap.put 63 s.lastMover m n } : State).firstDispatch i 2 := by
  have front : s.updPart n (fun p => { p with moveq := p.moveq.tail }) = s.updPart n (fun y => { y with moveq := rest }) := by
    unfold State.updPart
    simp only [h, List.tail_cons]
  unfold State.moved
  rw [h, front]
  rfl

/-- Settles O33. -/
theorem dispatching : Obligations.Dispatching := by
  intro s t m x
  refine ⟨fun h rest hand unstopped noRun untaken unheld noHealth noPending available => ?_, ⟨State.exec_moveDispatch_none, ?_⟩, ?_⟩
  · intro a e
    have idle : x.busy = false := by
      unfold Tile.busy
      rw [unstopped, noRun, untaken, unheld, noHealth, noPending, available]
      rfl
    rw [State.dispatch_idle hand idle]
    refine ⟨fun dealt due late done => ?_, fun b c dealt intime fresh phase done => ?_, fun c again first phase done => ?_, fun again second => ?_⟩
    · have now : State.dispatched t h rest (s.tile t) (s.acting (64 + t.val)) = a.endRequest h.ix .declined :=
        (State.dispatched_first (a := a) rfl dealt).trans (State.firstDispatch_late (s := a) 0 due late)
      rw [State.retry_done (by rw [now]; exact done), now]
    · have now : State.dispatched t h rest (s.tile t) (s.acting (64 + t.val)) = c.updLed h.ix (fun e => { e with phase0 := true }) :=
        (State.dispatched_first (a := a) rfl dealt).trans (State.firstDispatch_runs (s := a) intime fresh phase)
      rw [State.retry_done (by rw [now]; exact done), now]
    · have now : State.dispatched t h rest (s.tile t) (s.acting (64 + t.val)) = c.updLed h.ix (fun e => { e with phase0 := true }) :=
        State.dispatched_again (a := a) rfl again first phase
      rw [State.retry_done (by rw [now]; exact done), now]
    · have now : State.dispatched t h rest (s.tile t) (s.acting (64 + t.val)) = a := State.dispatched_ready (a := a) rfl again second
      rw [State.retry_done (by rw [now]; rfl), now]
  · intro n i rest next queue f done
    have now : State.moved m.val n (s.acting (128 + m.val)) = f := State.moved_front (s := s.acting (128 + m.val)) queue
    rw [State.exec_moveDispatch_some next, State.retry_done (by rw [now]; exact done), now]
  · intro h n taken owner unstopped noRun noHealth unheld running first e
    rw [exec_passStart]
    unfold execPassStart
    dsimp only
    rw [show (s.tile t).taken = some h from taken, owner]
    dsimp only
    rw [if_neg (by simp [unstopped, noRun, noHealth, unheld, running, first, x])]
    refine ⟨_, rfl, ⟨rfl, fun k hk => by rw [State.tile_setTile, if_neg hk]⟩, ?_⟩
    rw [State.tile_setTile_self]
    exact ⟨rfl, rfl, rfl, rfl, rfl, rfl, _, rfl, rfl, rfl, rfl⟩

end Sys2Proof.Machine
end

section
/-!
SUPPORT and PROOFS. The end of a request: readiness (O34) and posting (O35).
-/

namespace Sys2Proof.Machine

/-! How a request ends. -/

theorem State.endStatus_congr {s t : State} (boot : t.boot = s.boot) {n : Nat} (fault : (t.part n).fault = (s.part n).fault) (st : Status) :
    t.endStatus n st = s.endStatus n st := by
  unfold State.endStatus
  rw [boot, fault]

/-- A fold of updates of tiles changes tiles alone. -/
theorem State.foldl_updTile {α : Type} (l : List α) (s : State) (k : State → α → Nat) (f : State → α → Tile → Tile) :
    l.foldl (fun s x => s.updTile (k s x) (f s x)) s = { s with tiles := (l.foldl (fun s x => s.updTile (k s x) (f s x)) s).tiles } := by
  refine List.foldlRecOn (motive := fun t : State => t = { s with tiles := t.tiles }) l _ rfl (fun t ih x _ => ?_)
  rw [ih]
  rfl

/-- From `s` to `t` neither the time nor the fault flags change, nor a partition but for its move queue. -/
def State.SameFlags (s t : State) : Prop := t.now = s.now ∧ t.boot = s.boot ∧ ∀ n, (t.part n).fault = (s.part n).fault

theorem State.SameFlags.refl (s : State) : s.SameFlags s := ⟨rfl, rfl, fun _ => rfl⟩

theorem State.SameFlags.trans {s t u : State} (h : s.SameFlags t) (k : t.SameFlags u) : s.SameFlags u :=
  ⟨k.1.trans h.1, k.2.1.trans h.2.1, fun n => (k.2.2 n).trans (h.2.2 n)⟩

theorem State.SameFlags.endStatus {s t : State} (h : s.SameFlags t) (n : Nat) (st : Status) : t.endStatus n st = s.endStatus n st :=
  State.endStatus_congr h.2.1 (h.2.2 n) st

theorem State.withdraw_flags (s : State) (i : Nat) : s.SameFlags (s.withdraw i) := by
  unfold State.withdraw
  dsimp only
  rw [State.foldl_updTile _ s (fun _ t => t)]
  refine ⟨rfl, rfl, fun n => ?_⟩
  rw [State.part_updPart]
  split
  · subst_vars; rfl
  · rfl

theorem State.unbind_flags (s : State) (i : Nat) : s.SameFlags (s.unbind i) := by
  unfold State.unbind
  dsimp only
  split <;> split <;> exact ⟨rfl, rfl, fun _ => rfl⟩

theorem State.logChain_flags (s : State) (i : Nat) : s.SameFlags (s.logChain i) := by
  unfold State.logChain
  dsimp only
  repeat' split
  all_goals exact ⟨rfl, rfl, fun _ => rfl⟩

/-- An ended request waits in POSTING with its status and time (R16, R333, R352). -/
theorem State.led_endRequest {s : State} {i : Nat} (st : Status) (h : (s.led i).state ≠ .free) : (s.endRequest i st).led i =
    { s.led i with state := .posting, ready := some (s.endStatus (s.led i).part.val st, s.now), more := false } := by
  unfold State.endRequest
  dsimp only
  rw [if_neg h]
  have flags : s.SameFlags (if (s.led i).state = .posting ∧ !(s.led i).more then s else (s.withdraw i).unbind i) := by
    split
    · exact .refl s
    · exact (s.withdraw_flags i).trans (State.unbind_flags _ i)
  revert flags
  generalize (if (s.led i).state = .posting ∧ !(s.led i).more then s else (s.withdraw i).unbind i) = t
  intro flags
  rw [State.led_setLed_self, flags.endStatus]
  have time : (if s.endStatus (s.led i).part.val st = .ok ∧ (s.led i).state ≠ .posting then t.logChain i else t).now = s.now := by
    split
    · exact ((t.logChain_flags i).1).trans flags.1
    · exact flags.1
  rw [time]

/-- Where the partition or the device is fault-flagged no request ends with OK (R16). -/
theorem State.endStatus_fault {s : State} {n : Nat} (h : s.boot.fault = true ∨ (s.part n).fault = true) : s.endStatus n .ok ≠ .ok := by
  unfold State.endStatus
  obtain h | h := h
  · rw [if_pos h]; decide
  · rw [if_pos h]; split <;> decide

/-- What follows once the ranks of a request have ended (R352). -/
def State.conclude (i : Nat) (e : Ledger) (s : State) : State :=
  match e.trapped with
  | some r => s.endRequest i r.status
  | none =>
    let (ok, s) := s.runPhase i 1
    if !ok then s.endRequest i .notPermitted
    else
      let (ok, s) := if e.nrec then s.writeExtents e.part.val e.nrecExt (numericRecord e.ends) else (true, s)
      if !ok then s.endRequest i .notPermitted
      else if e.stream && !e.closing && (match e.rank0 with
          | some r => r.more
          | none => false) && s.endStatus e.part.val .ok == .ok then
        s.setLed i { e with more := true, state := .posting, ready := some (.ok, s.now) }
      else s.endRequest i .ok

section
variable {s : State} {i : Nat} {e : Ledger}

theorem State.conclude_trapped {r : RankEnd} (h : e.trapped = some r) : s.conclude i e = s.endRequest i r.status := by
  unfold State.conclude
  rw [h]

/-- A target that refuses a move ends the request (R250). -/
theorem State.conclude_refused {a : State} (h : e.trapped = none) (moves : s.runPhase i 1 = (false, a)) :
    s.conclude i e = a.endRequest i .notPermitted := by
  unfold State.conclude
  rw [h, moves]
  rfl

theorem State.conclude_written {a b : State} (h : e.trapped = none) (moves : s.runPhase i 1 = (true, a))
    (nrec : (if e.nrec then a.writeExtents e.part.val e.nrecExt (numericRecord e.ends) else (true, a)) = (true, b)) :
    s.conclude i e = if e.stream && !e.closing && (match e.rank0 with
          | some r => r.more
          | none => false) && b.endStatus e.part.val .ok == .ok then
        b.setLed i { e with more := true, state := .posting, ready := some (.ok, b.now) }
      else b.endRequest i .ok := by
  unfold State.conclude
  rw [h, moves]
  dsimp only
  simp only [Bool.not_true, Bool.false_eq_true, if_false]
  rw [nrec]
  rfl

end

theorem State.completionReady_concludes {s : State} {ix : LedgerIx} {e : Ledger} (is : s.led ix.toNat = e) (running : e.state = .running)
    (fresh : e.ready = none) (last : e.more = false) (idle : s.active ix.toNat = false) (ended : e.isMove = true ∨ e.ends ≠ []) :
    exec (.completionReady ix) s = .next (s.retry (64 + e.tile) (State.conclude ix.toNat e)) := by
  have ends : ((!e.isMove && e.ends.isEmpty) = true) = False := by
    obtain move | ends := ended
    · simp [move]
    · simp [ends]
  rw [exec_completionReady]
  unfold execCompletionReady
  dsimp only
  rw [is, if_neg (by simp [running, fresh, last, idle, ends])]
  rfl

/-- The next pass of a stream goes to the ledger and to the hands of its tiles alone (R353). -/
theorem State.dealRanks_same (s : State) (i : Nat) (tiles : List Nat) (trump : Bool) :
    s.dealRanks i tiles trump = { s with tiles := (s.dealRanks i tiles trump).tiles } := by
  unfold State.dealRanks
  exact State.foldl_updTile _ s (fun (_ : State) (x : Nat × Nat) => x.2) _

/-- Settles O34. -/
theorem requestEnds : Obligations.RequestEnds := by
  intro s ix i e n p
  refine ⟨fun running fresh last idle ended => ?_, fun running more fresh => ⟨fun closing => ?_, fun openStream => ?_⟩, fun st => State.led_endRequest st, State.endStatus_fault⟩
  · rw [State.completionReady_concludes rfl running fresh last idle ended]
    refine ⟨fun r trapped done => ?_, fun a clean moves b nrec => ⟨fun final done => ?_, fun r stream opened rank0 again ok done => ?_⟩, fun a clean moves done => ?_⟩
    · have now : State.conclude i e p = p.endRequest i r.status := State.conclude_trapped trapped
      rw [State.retry_done (by rw [now]; exact done), now]
    · have now : State.conclude i e p = b.endRequest i .ok := by
        rw [State.conclude_written clean moves nrec, if_neg]
        obtain noStream | closing | none | bad := final
        · simp [noStream]
        · simp [closing]
        · cases h : e.rank0 with
          | none => simp
          | some r => simp [none r h]
        · simp [show b.endStatus e.part.val .ok ≠ .ok from bad]
      rw [State.retry_done (by rw [now]; exact done), now]
    · have now : State.conclude i e p = b.setLed i { e with more := true, state := .posting, ready := some (.ok, b.now) } := by
        rw [State.conclude_written clean moves nrec, if_pos]
        simp [stream, opened, rank0, again, show b.endStatus e.part.val .ok = .ok from ok]
      refine ⟨_, by rw [State.retry_done (by rw [now]; exact done), now], ?_⟩
      exact State.led_setLed_self _ _ _
    · have now : State.conclude i e p = a.endRequest i .notPermitted := State.conclude_refused clean moves
      rw [State.retry_done (by rw [now]; exact done), now]
  · rw [exec_streamNextPass]
    unfold execStreamNextPass
    dsimp only
    rw [if_pos ⟨running, more, fresh⟩, if_pos closing]
    refine ⟨_, rfl, ?_⟩
    rw [State.led_updLed_self, State.led_endRequest .ok (by rw [running]; decide)]
  · rw [exec_streamNextPass]
    unfold execStreamNextPass
    dsimp only
    rw [if_pos ⟨running, more, fresh⟩, if_neg (by rw [openStream]; exact Bool.false_ne_true)]
    refine ⟨_, rfl, ?_, ?_⟩
    · rw [State.dealRanks_same]
      rfl
    · rw [State.dealRanks_same]
      exact State.led_setLed_self _ _ _

/-! How a completion posts. -/

theorem State.journal_same (s : State) (i : Nat) (e : Ledger) (t : Nat) : s.journal i e t = { s with tiles := (s.journal i e t).tiles } := by
  unfold State.journal
  exact State.foldl_updTile _ s (fun (_ : State) (tl : Nat) => tl) _

/-- The ledger entry once its completion has posted: freed, or its stream goes on (R333, R353). -/
def Ledger.posted (e : Ledger) (st : Status) : Ledger :=
  if e.more = true ∧ st = .ok then { e with state := .running, ready := none, ends := [], lastSeq := e.seq.toNat } else {}

/-- A completion that a queue has room for posts: the entry is written, and only tiles and the ledger change beside (R333). -/
theorem State.postLedger_posts {s : State} {i time : Nat} {e : Ledger} {st : Status} {cq : Cq} (is : s.led i = e)
    (ready : e.ready = some (st, time)) (found : SMap.get none (s.part e.part.val).cqs e.cq = some cq) (running : cq.stopped = false)
    (room : cq.room = true) (free : st ≠ .ok ∨ e.noout = true ∨ s.journalRoom e = true) :
    (s.postLedger i).led i = e.posted st ∧
      (s.postLedger i).parts = (s.cqPut e.part.val e.cq (e.completion i st time)).parts ∧
      (s.postLedger i).mem = (s.cqPut e.part.val e.cq (e.completion i st time)).mem := by
  have open_ : (cq.room && (st != .ok || e.noout || s.journalRoom e)) = true := by
    simpa [room, or_assoc] using free
  unfold State.postLedger
  dsimp only
  rw [is, ready]
  dsimp only
  rw [found]
  dsimp only
  rw [running, if_neg Bool.false_ne_true, if_pos open_]
  have kept : ∀ w : State, (if st = .ok && !e.noout then w.journal i e time else w).parts = w.parts ∧
      (if st = .ok && !e.noout then w.journal i e time else w).mem = w.mem := by
    intro w
    split
    · rw [State.journal_same]; exact ⟨rfl, rfl⟩
    · exact ⟨rfl, rfl⟩
  unfold Ledger.posted
  by_cases goesOn : e.more = true ∧ st = .ok
  · rw [if_pos goesOn, if_pos (show (e.more && decide (st = .ok)) = true by simpa using goesOn)]
    exact ⟨State.led_setLed_self _ _ _, kept _⟩
  · rw [if_neg goesOn, if_neg (show ¬ (e.more && decide (st = .ok)) = true by simpa using goesOn)]
    exact ⟨State.led_setLed_self _ _ _, kept _⟩

/-- A full queue, or a full journal for an OK completion, keeps it waiting (R333, log entry 120). -/
theorem State.postLedger_waits {s : State} {i time : Nat} {e : Ledger} {st : Status} {cq : Cq} (is : s.led i = e)
    (ready : e.ready = some (st, time)) (found : SMap.get none (s.part e.part.val).cqs e.cq = some cq) (running : cq.stopped = false)
    (full : cq.room = false ∨ (st = .ok ∧ e.noout = false ∧ s.journalRoom e = false)) : s.postLedger i = s := by
  have shut : ¬ (cq.room && (st != .ok || e.noout || s.journalRoom e)) = true := by
    obtain full | ⟨rfl, out, room⟩ := full
    · simp [full]
    · simp [out, room]
  unfold State.postLedger
  dsimp only
  rw [is, ready]
  dsimp only
  rw [found]
  dsimp only
  rw [running, if_neg Bool.false_ne_true, if_neg shut]

/-- A completion goes to its queue's tail, which advances and whose phase inverts at the wrap (R333). -/
theorem State.cqPut_tail {s : State} {n q : Nat} {c : Completion} {cq : Cq} (found : SMap.get none (s.part n).cqs q = some cq)
    (room : cq.room = true) : SMap.get none ((s.cqPut n q c).part n).cqs q = some { cq with
      tail := if cq.tail + 1 = cq.size then 0 else cq.tail + 1, phase := cq.phase != (cq.tail + 1 == cq.size) } := by
  have signalled : ∀ (w : State) (b : Bool), (if b then w.msix (Fin.ofNat 65 n) (4 + q) else w).part n = w.part n := by
    intro w b
    split
    · simp
    · rfl
  unfold State.cqPut
  rw [found]
  dsimp only
  rw [if_pos room, signalled, State.part_updPart_self]
  dsimp only
  rw [SMap.get_put_self]
  simp only [beq_iff_eq]

/-- A Strict partition's completion posts no earlier than its window (R342). -/
theorem State.completionPost_posts {s : State} {ix : LedgerIx} {st : Status} {time : Nat} (ready : (s.led ix.toNat).ready = some (st, time)) :
    exec (.completionPost ix) s =
      .next ((if s.isStrict (s.led ix.toNat).part.val then s.atLeast (boundary time) else s).postLedger ix.toNat) := by
  rw [exec_completionPost]
  unfold execCompletionPost
  dsimp only
  rw [ready]

/-! Failed queues. -/

theorem State.freeEntry_parts (s : State) (i : Nat) : (s.freeEntry i).parts = s.parts := by
  unfold State.freeEntry State.unbind
  dsimp only
  repeat' split
  all_goals rfl

/-- Stopping a queue pair marks its queues and sets QFAIL; what follows changes no partition (R532). -/
theorem State.part_stopQueue (s : State) (n : Nat) (isCq : Bool) (q : Nat) : (s.stopQueue n isCq q).part n =
    { s.part n with
      sqs := ((s.part n).pair isCq q).1.foldl (fun m i => SMap.put none m i ((SMap.get none m i).map (fun x => { x with stopped := true }))) (s.part n).sqs,
      cqs := ((s.part n).pair isCq q).2.foldl (fun m i => SMap.put none m i ((SMap.get none m i).map (fun x => { x with stopped := true }))) (s.part n).cqs,
      answers := (s.part n).answers.filter (fun a => !((s.part n).pair isCq q).2.contains a.cq),
      partStat := (s.part n).partStat ||| 0x10000 } := by
  have freed : ∀ (l : List Nat) (w : State), (w.forEach l (fun i s => s.freeEntry i)).parts = w.parts := by
    intro l w
    unfold State.forEach
    refine List.foldlRecOn (motive := fun t : State => t.parts = w.parts) l _ rfl (fun t ih i _ => ?_)
    rw [State.freeEntry_parts, ih]
  unfold State.stopQueue
  dsimp only
  simp only [State.part, State.event_same, State.record_same]
  rw [freed]
  exact State.part_updPart_self _ _ _

/-- Settles O35. -/
theorem completionsPost : Obligations.CompletionsPost := by
  intro s ix st time cq f q i e n a
  have time_only : a = { s with now := a.now } := by
    dsimp only [a]
    split <;> rfl
  have sameLed : a.led i = e := by rw [time_only]; rfl
  have sameRoom : a.journalRoom e = s.journalRoom e := by rw [time_only]; rfl
  have samePart : a.part n = s.part n := by rw [time_only]; rfl
  refine ⟨fun ready found running => ?_, fun sq found host => ?_, fun cq found host => ?_⟩
  · have posts : exec (.completionPost ix) s = .next (a.postLedger i) := State.completionPost_posts ready
    rw [posts]
    have foundA : SMap.get none (a.part n).cqs e.cq = some cq := by rw [samePart]; exact found
    refine ⟨fun room free => ?_, fun full => ?_⟩
    · obtain ⟨led, parts, mem⟩ := State.postLedger_posts sameLed ready foundA running room (by rw [sameRoom]; exact free)
      refine ⟨_, rfl, led, parts, mem, fun _ => ?_⟩
      have part : (a.postLedger i).part n = (a.cqPut n e.cq (e.completion i st time)).part n := by
        unfold State.part
        rw [parts]
      rw [part]
      exact State.cqPut_tail foundA room
    · rw [State.postLedger_waits sameLed ready foundA running (by rw [sameRoom]; exact full)]
  · refine ⟨s.stopQueue f false q, ?_, ?_, ?_⟩
    · rw [exec_queueDmaFailure]
      unfold execQueueDmaFailure
      simp only [Bool.false_eq_true, if_false, found, host, if_true]
    · rw [State.part_stopQueue]
      simp [Part.pair, found]
    · rw [State.part_stopQueue]
      simp
  · refine ⟨s.stopQueue f true q, ?_, ?_, ?_⟩
    · rw [exec_queueDmaFailure]
      unfold execQueueDmaFailure
      simp only [found, host, if_true]
    · rw [State.part_stopQueue]
      simp [Part.pair, found]
    · rw [State.part_stopQueue]
      simp

end Sys2Proof.Machine
end

section
/-!
SUPPORT and PROOFS. Mailboxes: how a message is taken (O36) and what a mailbox answers (O37).
-/

namespace Sys2Proof.Machine

/-! Taking a message. -/

theorem State.Posts.ite {c : Prop} [Decidable c] {s t u : State} (h : s.Posts t) (k : s.Posts u) : s.Posts (if c then t else u) := by
  split
  · exact h
  · exact k

theorem State.refuseHeader_posts (s : State) (m : MbxId) (h : List Byte) : s.Posts (s.refuseHeader m h) := State.respond_posts _ _ _ _ _ _ _ _ _

theorem State.hold_posts (s : State) (m : MbxId) (h : Held) : s.Posts (s.hold m h) := rfl

theorem State.dropSeg_posts (s : State) (m : MbxId) : s.Posts (s.dropSeg m) := by
  unfold State.dropSeg
  split
  · exact .refl s
  · exact (s.updBox_posts m _).trans (State.respond_posts _ _ _ _ _ _ _ _ _)

theorem State.takeChecked_posts (s : State) (m : MbxId) (h pay : List Byte) (seg : Option Seg) : s.Posts (s.takeChecked m h pay seg) := by
  have reject : ∀ (c : Held) (f : Mailbox → Mailbox) (st : Status),
      s.Posts (((s.hold m c).updBox m f).respond m h (hTag h) (hTag h) (s.box m).bellTime st true []) := fun c f st =>
    ((s.hold_posts m c).trans (State.updBox_posts _ m f)).trans (State.respond_posts _ _ _ _ _ _ _ _ _)
  unfold State.takeChecked
  dsimp only
  split
  · exact reject _ _ _
  · exact .ite (reject _ _ _) (.ite (reject _ _ _) ((s.hold_posts m _).trans (State.updBox_posts _ m _)))

/-- Taking a message changes mailboxes and what is posted alone. -/
theorem State.takeMessage_posts (s : State) (m : MbxId) : s.Posts (s.takeMessage m) := by
  unfold State.takeMessage
  dsimp only
  split
  · exact .refl s
  · refine (s.updBox_posts m (fun b => { b with bellReq := false, takeAt := none })).trans ?_
    split
    · exact State.refuseHeader_posts _ _ _
    · split
      · split
        · split
          · exact State.takeChecked_posts _ _ _ _ _
          · exact State.refuseHeader_posts _ _ _
        · refine (State.dropSeg_posts _ m).trans ?_
          split
          · exact State.refuseHeader_posts _ _ _
          · exact State.takeChecked_posts _ _ _ _ _
      · split
        · exact State.refuseHeader_posts _ _ _
        · exact State.takeChecked_posts _ _ _ _ _

/-- Nothing is taken without a bell, before the mailbox opens, or while 8 commands are held (R372). -/
theorem State.takeMessage_waits {s : State} {m : MbxId}
    (h : (s.box m).bellReq = false ∨ (s.box m).ready = false ∨ 8 ≤ (s.box m).held.length) : s.takeMessage m = s := by
  unfold State.takeMessage
  dsimp only
  rw [if_pos]
  obtain h | h | h := h <;> simp [h]

theorem SMap.length_getMany {α : Type} (d : α) (m : SMap α) (k n : Nat) : (SMap.getMany d m k n).length = n := by
  induction n generalizing k with
  | zero => rfl
  | succ n ih => simp [SMap.getMany, ih]

/-- The request window holds a whole well-formed command, under a free tag, of a caller that may make it (R372, R374–R377). -/
structure State.Offers (s : State) (m : MbxId) (b : Mailbox) (h : List Byte) : Prop where
  room : b.held.length < 8
  whole : b.seg = none
  header : headerOk h = true
  free : ∀ x ∈ b.held, x.tag ≠ hTag h
  first : hSeg h = 0
  last : hFlags h % 2 = 0
  fits : hLength h ≤ 4064
  known : ∃ ok, lengthOk (hOpcode h) = some ok ∧ ok (hLength h) = true
  caller : s.callerOk m (hOpcode h) (hPart h) = true

/-- The command that a mailbox holds of a message (R372). -/
def msgHeld (h pay : List Byte) (bell : Nat) : Held :=
  { tag := hTag h, opcode := hOpcode h, part := hPart h, cred := hCred h, hdr := h, payload := pay, bell := bell }

theorem State.takeChecked_whole {s : State} {m : MbxId} {h : List Byte} {b : Mailbox} {pay : List Byte} (o : s.Offers m b h)
    (length : pay.length = hLength h) : s.takeChecked m h pay none =
      (s.hold m (msgHeld h pay (s.box m).bellTime)).updBox m (fun b => { b with seg := b.seg }) := by
  obtain ⟨ok, known, takes⟩ := o.known
  have last : (hFlags h % 2 == 1) = false := by rw [o.last]; rfl
  unfold State.takeChecked
  dsimp only
  rw [known]
  dsimp only
  rw [last, List.nil_append, if_neg (by simp [o.fits, length, takes]), if_neg (by simp [o.caller])]
  rfl

/-- A whole well-formed command is held, and REQ clears (R371, R372, R375). -/
theorem State.takeMessage_held {s : State} {m : MbxId} {b : Mailbox} {h : List Byte} (is : s.box m = b) (bell : b.bellReq = true)
    (ready : b.ready = true) (header : SMap.getMany 0 b.req 0 32 = h) (o : s.Offers m b h) :
    ∃ t, s.takeMessage m = t ∧ t = { s with mbx := t.mbx } ∧ t.box m = { b with
      bellReq := false, takeAt := none, held := b.held ++ [msgHeld h (SMap.getMany 0 b.req 32 (hLength h)) b.bellTime] } := by
  have free : b.held.any (fun x => x.tag == hTag h) = false := by
    rw [List.any_eq_false]
    exact fun x hx => by simpa using o.free x hx
  have fits : min 4064 (hLength h) = hLength h := Nat.min_eq_right o.fits
  have others : b.held.filter (fun x => x.tag != hTag h) = b.held := List.filter_eq_self.2 fun x hx => by simpa using o.free x hx
  have offers : (s.updBox m (fun b => { b with bellReq := false, takeAt := none })).Offers m b h :=
    { room := o.room, whole := o.whole, header := o.header, free := o.free, first := o.first, last := o.last, fits := o.fits,
      known := o.known, caller := o.caller }
  refine ⟨_, rfl, ?_⟩
  unfold State.takeMessage
  dsimp only
  rw [is, header, fits, if_neg (by simp [bell, ready, o.room]), if_neg (by simp [o.header]), o.whole]
  dsimp only
  rw [if_neg (by simp [free, o.first]), State.takeChecked_whole offers (SMap.length_getMany _ _ _ _)]
  refine ⟨rfl, ?_⟩
  unfold State.hold
  simp only [State.box_updBox_self, is]
  simp only [msgHeld, others, o.whole]

/-! Control pairs. -/

theorem State.irq_setIrq (s : State) (p q : Nat) (x : ControlPair) : (s.setIrq p x).irq q = if q = p then x else s.irq q :=
  SMap.get_put _ _ _ _ _

theorem State.irq_setIrq_self (s : State) (p : Nat) (x : ControlPair) : (s.setIrq p x).irq p = x := SMap.get_put_self _ _ _ _

theorem State.Posts.irq {s t : State} (h : s.Posts t) (p : Nat) : t.irq p = s.irq p := by
  rw [h]
  rfl

@[simp] theorem State.box_setIrq (s : State) (p k : Nat) (x : ControlPair) : (s.setIrq p x).box k = s.box k := rfl

/-- Pair p runs no handler and none waits. -/
def State.PairRests (s : State) (p : Nat) : Prop := (s.irq p).pending = [] ∧ (s.irq p).handler = none

theorem State.runHandlers_rests {s : State} {p : Nat} (h : s.PairRests p) (k : Nat) : s.runHandlers p k = s := by
  cases k with
  | zero => rfl
  | succ k =>
    unfold State.runHandlers
    dsimp only
    rw [h.1, h.2]
    rfl

/-- The handler of the lowest source that waits is entered (R367). -/
theorem State.runHandlers_next {s : State} {p m : Nat} {rest : List Nat} (h : (s.irq p).pending = m :: rest) (k : Nat) :
    s.runHandlers p (k + 1) = State.runHandlers p k
      ((s.setIrq p { pending := rest, handler := some m, steps := (s.irq p).steps + if (s.irq p).handler.isSome then 5 else 20 }).bellHandler
        (Fin.ofNat 65 m)) := by
  conv_lhs => unfold State.runHandlers
  dsimp only
  rw [h]

/-- The last handler returns to the working bank (R367). -/
theorem State.runHandlers_return {s : State} {p m n : Nat} (h : s.irq p = { pending := [], handler := some m, steps := n }) (k : Nat) :
    s.runHandlers p (k + 1) = s.setIrq p { pending := [], handler := none, steps := n + 12 } := by
  unfold State.runHandlers
  dsimp only
  rw [h]
  rfl

/-- Where one pair alone has a bell, that pair's handlers are all that runs. -/
theorem State.takeIrqs_one {s t : State} {p : Nat} (pair : p < 4) (others : ∀ q, q ≠ p → s.PairRests q) (runs : s.runHandlers p 66 = t)
    (rests : ∀ q, t.PairRests q) : s.takeIrqs = t := by
  have before : ∀ q, q ≠ p → s.runHandlers q 66 = s := fun q hq => State.runHandlers_rests (others q hq) 66
  have after : ∀ q, t.runHandlers q 66 = t := fun q => State.runHandlers_rests (rests q) 66
  unfold State.takeIrqs
  simp only [List.foldl_cons, List.foldl_nil]
  obtain rfl | rfl | rfl | rfl : p = 0 ∨ p = 1 ∨ p = 2 ∨ p = 3 := by omega
  · rw [runs, after, after, after]
  · rw [before 0 (by decide), runs, after, after]
  · rw [before 0 (by decide), before 1 (by decide), runs, after]
  · rw [before 0 (by decide), before 1 (by decide), before 2 (by decide), runs]

theorem State.takeIrqs_rests {s : State} (h : ∀ q, s.PairRests q) : s.takeIrqs = s :=
  State.takeIrqs_one (p := 0) (by decide) (fun q _ => h q) (State.runHandlers_rests (h 0) 66) h

/-- One of the four control pairs serves a mailbox (R366, R514). -/
theorem State.servingPair_lt (s : State) (m : MbxId) : s.servingPair m < 4 := by
  have role : (if m.val = 64 then 1 else 2) < 4 := by split <;> decide
  have lowest : ([1, 2, 3].find? (fun p => s.boot.pairs.getLsbD p)).getD 0 < 4 := by
    cases found : [1, 2, 3].find? (fun p => s.boot.pairs.getLsbD p) with
    | none => decide
    | some p =>
      have mem := List.mem_of_find?_eq_some found
      simp only [List.mem_cons, List.not_mem_nil, or_false] at mem
      rw [Option.getD_some]
      omega
  unfold State.servingPair
  dsimp only
  split
  · decide
  · revert role
    generalize (if m.val = 64 then 1 else 2) = role
    intro role
    split
    · exact role
    · exact lowest

theorem State.bellHandler_posts (s : State) (m : MbxId) : s.Posts (s.bellHandler m) := by
  unfold State.bellHandler
  dsimp only
  split
  · split
    · exact s.updBox_posts m _
    · exact .refl s
  · exact s.takeMessage_posts m

theorem State.bellHandler_lent {s : State} {m : MbxId} (h : s.strictBox m = false) : s.bellHandler m = s.takeMessage m := by
  unfold State.bellHandler
  dsimp only
  rw [h]
  rfl

/-- A Strict mailbox's message is taken 2 µs after its bell (R381). -/
theorem State.bellHandler_strict {s : State} {m : MbxId} (h : s.strictBox m = true)
    (k : (s.box m).bellReq = true ∧ (s.box m).takeAt = none ∧ (s.box m).held.length < 8) :
    s.bellHandler m = s.updBox m (fun b => { b with takeAt := some (b.bellTime + 2000) }) := by
  unfold State.bellHandler
  dsimp only
  rw [h, if_pos rfl, if_pos]
  simp [k]

/-- While 8 commands are held a bell only waits (R372). -/
theorem State.bellHandler_full {s : State} {m : MbxId} (h : 8 ≤ (s.box m).held.length) : s.bellHandler m = s := by
  unfold State.bellHandler
  dsimp only
  split
  · rw [if_neg]
    simp [h]
  · exact State.takeMessage_waits (.inr (.inr h))

/-- The bell of a mailbox, as its register shows it (R369). -/
def Mailbox.rung (b : Mailbox) (now : Nat) : Mailbox := { b with bellReq := true, bellTime := now }

theorem State.setReq_set {s : State} {m : MbxId} (h : (s.box m).bellReq = true) : s.setReq m = s := by
  unfold State.setReq
  exact if_pos h

/-- A bell before the mailboxes open interrupts no pair (R550, R551). -/
theorem State.setReq_early {s : State} {m : MbxId} (h : (s.box m).bellReq = false) (k : (s.box m).ready = false) :
    s.setReq m = s.updBox m (fun b => b.rung s.now) := by
  unfold State.setReq
  rw [h, if_neg Bool.false_ne_true]
  dsimp only
  rw [State.box_updBox_self, k]
  rfl

/-- A bell interrupts the pair that serves its mailbox (R366). -/
theorem State.setReq_rings {s : State} {m : MbxId} (h : (s.box m).bellReq = false) (k : (s.box m).ready = true) :
    s.setReq m = (s.updBox m (fun b => b.rung s.now)).setIrq (s.servingPair m)
      { s.irq (s.servingPair m) with pending := insertSource m.val (s.irq (s.servingPair m)).pending } := by
  unfold State.setReq
  rw [h, if_neg Bool.false_ne_true]
  dsimp only
  rw [State.box_updBox_self, k]
  rfl

theorem Fin.ofNat_65_val (m : MbxId) : Fin.ofNat 65 m.val = m := Fin.ext (Nat.mod_eq_of_lt m.isLt)

/-- One bell that rings while every pair rests: its handler is entered, runs, and returns (R367). -/
theorem State.bell_one {s : State} {m : MbxId} (rests : ∀ q, s.PairRests q) (h : (s.box m).bellReq = false) (k : (s.box m).ready = true) :
    exec (.mbxBellReq [m]) s =
      .next ((((s.setReq m).setIrq (s.servingPair m) { pending := [], handler := some m.val, steps := (s.irq (s.servingPair m)).steps + 20 }).bellHandler m).setIrq
        (s.servingPair m) { pending := [], handler := none, steps := (s.irq (s.servingPair m)).steps + 32 }) := by
  rw [exec_mbxBellReq]
  unfold execMbxBellReq
  rw [List.foldl_cons, List.foldl_nil]
  generalize pair : s.servingPair m = p
  have rang : (s.setReq m).irq p = { pending := [m.val], handler := none, steps := (s.irq p).steps } := by
    obtain ⟨none, idle⟩ := rests p
    rw [State.setReq_rings h k, pair, State.irq_setIrq_self]
    dsimp only
    rw [none, idle]
    rfl
  have other : ∀ q, q ≠ p → (s.setReq m).irq q = s.irq q := by
    intro q hq
    rw [State.setReq_rings h k, pair, State.irq_setIrq, if_neg hq]
    rfl
  generalize entered : (s.setReq m).setIrq p { pending := [], handler := some m.val, steps := (s.irq p).steps + 20 } = e
  have posts := e.bellHandler_posts m
  have inside : (e.bellHandler m).irq p = { pending := [], handler := some m.val, steps := (s.irq p).steps + 20 } := by
    rw [posts.irq, ← entered, State.irq_setIrq_self]
  refine congrArg _ (State.takeIrqs_one (p := p) (by rw [← pair]; exact s.servingPair_lt m) (fun q hq => ?_) ?_ (fun q => ?_))
  · unfold State.PairRests
    rw [other q hq]
    exact rests q
  · rw [State.runHandlers_next (m := m.val) (rest := []) (by rw [rang]), rang, Fin.ofNat_65_val]
    change State.runHandlers p 65 (State.bellHandler ((s.setReq m).setIrq p { pending := [], handler := some m.val, steps := (s.irq p).steps + 20 }) m) = _
    rw [entered, State.runHandlers_return inside]
  · unfold State.PairRests
    rw [State.irq_setIrq]
    split
    · exact ⟨rfl, rfl⟩
    · rename_i hq
      rw [posts.irq, ← entered, State.irq_setIrq, if_neg hq, other q hq]
      exact rests q

/-- Two mailboxes of VFs have the same pair (R366). -/
theorem State.servingPair_vf (s : State) {x y : MbxId} (hx : x.val ≠ 64) (hy : y.val ≠ 64) : s.servingPair x = s.servingPair y := by
  unfold State.servingPair
  rw [if_neg hx, if_neg hy]

theorem State.Posts.strictBox {s t : State} (h : s.Posts t) (m : MbxId) : t.strictBox m = s.strictBox m := by
  rw [h]
  rfl

/-- Of two bells of one pair, the lower mailbox's is taken first; the handoff takes 5 steps (R367). -/
theorem State.bell_two {s : State} {x y : MbxId} (lt : x.val < y.val) (vf : y.val < 64) (rests : ∀ q, s.PairRests q)
    (lentX : s.strictBox x = false) (lentY : s.strictBox y = false) (bellX : (s.box x).bellReq = false) (bellY : (s.box y).bellReq = false)
    (readyX : (s.box x).ready = true) (readyY : (s.box y).ready = true) {p n : Nat} (pair : s.servingPair x = p) (steps : (s.irq p).steps = n)
    {a b : State}
    (first : ((((s.setReq y).setReq x).setIrq p { pending := [y.val], handler := some x.val, steps := n + 20 }).takeMessage x) = a)
    (second : (a.setIrq p { pending := [], handler := some y.val, steps := n + 25 }).takeMessage y = b) :
    exec (.mbxBellReq [y, x]) s = .next (b.setIrq p { pending := [], handler := none, steps := n + 37 }) := by
  rw [exec_mbxBellReq]
  unfold execMbxBellReq
  rw [List.foldl_cons, List.foldl_cons, List.foldl_nil]
  have pairY : s.servingPair y = p := (s.servingPair_vf (by omega) (by omega)).trans pair
  have one : s.setReq y = (s.updBox y (fun b => b.rung s.now)).setIrq p { pending := [y.val], handler := none, steps := n } := by
    obtain ⟨none, idle⟩ := rests p
    rw [State.setReq_rings bellY readyY, pairY]
    dsimp only
    rw [none, idle, steps]
    rfl
  have boxX : (s.setReq y).box x = s.box x := by
    rw [one]
    rw [State.box_setIrq, State.box_updBox, if_neg (by omega)]
  have two : ((s.setReq y).setReq x).irq p = { pending := [x.val, y.val], handler := none, steps := n } := by
    have pairX : (s.setReq y).servingPair x = p := by rw [one]; exact pair
    rw [State.setReq_rings (by rw [boxX]; exact bellX) (by rw [boxX]; exact readyX), pairX, State.irq_setIrq_self, one, State.irq_setIrq_self]
    unfold insertSource
    rw [if_pos lt]
  have other : ∀ q, q ≠ p → ((s.setReq y).setReq x).irq q = s.irq q := by
    intro q hq
    have pairX : (s.setReq y).servingPair x = p := by rw [one]; exact pair
    rw [State.setReq_rings (by rw [boxX]; exact bellX) (by rw [boxX]; exact readyX), pairX, State.irq_setIrq, if_neg hq]
    change (s.setReq y).irq q = _
    rw [one, State.irq_setIrq, if_neg hq]
    rfl
  have strict : ∀ m, ((s.setReq y).setReq x).strictBox m = s.strictBox m := by
    intro m
    rw [State.setReq_rings (by rw [boxX]; exact bellX) (by rw [boxX]; exact readyX), one]
    rfl
  generalize (s.setReq y).setReq x = r at *
  generalize entered : r.setIrq p { pending := [y.val], handler := some x.val, steps := n + 20 } = e at first
  have postsA : e.Posts a := by rw [← first]; exact e.takeMessage_posts x
  generalize handed : a.setIrq p { pending := [], handler := some y.val, steps := n + 25 } = f at second
  have postsB : f.Posts b := by rw [← second]; exact f.takeMessage_posts y
  have inA : a.irq p = { pending := [y.val], handler := some x.val, steps := n + 20 } := by
    rw [postsA.irq, ← entered, State.irq_setIrq_self]
  have inB : b.irq p = { pending := [], handler := some y.val, steps := n + 25 } := by
    rw [postsB.irq, ← handed, State.irq_setIrq_self]
  have strictE : e.strictBox x = false := by rw [← entered]; exact (strict x).trans lentX
  have strictF : f.strictBox y = false := by
    rw [← handed]
    exact (postsA.strictBox y).trans (by rw [← entered]; exact (strict y).trans lentY)
  refine congrArg _ (State.takeIrqs_one (p := p) (by rw [← pair]; exact s.servingPair_lt x) (fun q hq => ?_) ?_ (fun q => ?_))
  · unfold State.PairRests
    rw [other q hq]
    exact rests q
  · have enter : r.runHandlers p 66 = State.runHandlers p 65 a := by
      rw [State.runHandlers_next (m := x.val) (rest := [y.val]) (by rw [two]), two, Fin.ofNat_65_val, ← first,
        ← State.bellHandler_lent strictE, ← entered]
      rfl
    have hand : State.runHandlers p 65 a = State.runHandlers p 64 b := by
      rw [State.runHandlers_next (m := y.val) (rest := []) (by rw [inA]), inA, Fin.ofNat_65_val, ← second,
        ← State.bellHandler_lent strictF, ← handed]
      rfl
    rw [enter, hand, State.runHandlers_return inB]
  · unfold State.PairRests
    rw [State.irq_setIrq]
    split
    · exact ⟨rfl, rfl⟩
    · rename_i hq
      rw [postsB.irq, ← handed, State.irq_setIrq, if_neg hq, postsA.irq, ← entered, State.irq_setIrq, if_neg hq, other q hq]
      exact rests q

/-- A whole well-formed command that waits without a Strict partition's delay is held at its bell (R371, R372, R375). -/
theorem State.bell_held {s : State} {m : MbxId} {b : Mailbox} {h : List Byte} (is : s.box m = b) (rests : ∀ q, s.PairRests q)
    (bell : b.bellReq = false) (ready : b.ready = true) (lent : s.strictBox m = false) (header : SMap.getMany 0 b.req 0 32 = h)
    (o : s.Offers m b h) : ∃ t, exec (.mbxBellReq [m]) s = .next t ∧ t = { s with mbx := t.mbx, boot := { s.boot with irqs := t.boot.irqs } } ∧
      (t.irq (s.servingPair m)).steps = (s.irq (s.servingPair m)).steps + 32 ∧ t.box m = { b with
        bellReq := false, bellTime := s.now, takeAt := none, held := b.held ++ [msgHeld h (SMap.getMany 0 b.req 32 (hLength h)) s.now] } := by
  subst is
  have rings := State.setReq_rings bell ready
  generalize entered : (s.setReq m).setIrq (s.servingPair m) { pending := [], handler := some m.val, steps := (s.irq (s.servingPair m)).steps + 20 } = e
  have same : e = { s with mbx := e.mbx, boot := { s.boot with irqs := e.boot.irqs } } := by rw [← entered, rings]; rfl
  have box : e.box m = (s.box m).rung s.now := by
    rw [← entered, rings, State.box_setIrq, State.box_setIrq, State.box_updBox_self]
  have offers : e.Offers m ((s.box m).rung s.now) h := by
    refine { room := o.room, whole := o.whole, header := o.header, free := o.free, first := o.first, last := o.last, fits := o.fits, known := o.known, caller := ?_ }
    rw [same]
    exact o.caller
  obtain ⟨t, takes, only, holds⟩ := State.takeMessage_held box rfl ready header offers
  have handler : e.bellHandler m = t := by
    rw [State.bellHandler_lent (by rw [same]; exact lent), takes]
  refine ⟨_, State.bell_one rests bell ready, ?_, ?_, ?_⟩
  · rw [entered, handler, only, same]
    rfl
  · rw [State.irq_setIrq_self]
  · rw [entered, handler]
    exact holds

/-- Settles O36. -/
theorem messagesTaken : Obligations.MessagesTaken := by
  intro s m c b h quiet
  refine ⟨fun e mem rests bell lent ready room whole header free first last fits ok known takes caller => ?_, fun rests bell => ?_,
    fun rests bell full => ?_, fun lent waits => ?_, fun rests strict ready bell take room => ?_, fun t strict take => ?_, rfl, ?_⟩
  · have offers : s.Offers m b h :=
      { room := room, whole := whole, header := header, free := free, first := first, last := last, fits := fits,
        known := ⟨ok, known, takes⟩, caller := caller }
    simp only [List.mem_cons, List.not_mem_nil, or_false] at mem
    obtain rfl | rfl := mem
    · obtain ⟨t, runs, only, steps, box⟩ := State.bell_held rfl (rests rfl) bell ready lent rfl offers
      refine ⟨t, runs, only, fun _ => steps, ?_, ?_, msgHeld h (SMap.getMany 0 b.req 32 (hLength h)) s.now, ?_, rfl, rfl, rfl, rfl, rfl⟩ <;> rw [box]
    · obtain ⟨t, takes, only, box⟩ := State.takeMessage_held rfl bell ready rfl offers
      have runs : exec (.mbxMessageTake m none) s = .next t := by
        rw [exec_mbxMessageTake]
        unfold execMbxMessageTake
        dsimp only
        rw [lent, ← takes]
        rfl
      refine ⟨t, runs, only.trans (by rw [only]), fun no => absurd no (by simp), ?_, ?_, msgHeld h (SMap.getMany 0 b.req 32 (hLength h)) b.bellTime, ?_, rfl, rfl, rfl, rfl, rfl⟩ <;> rw [box]
  · rw [exec_mbxBellReq]
    unfold execMbxBellReq
    rw [List.foldl_cons, List.foldl_nil, State.setReq_set bell, State.takeIrqs_rests rests]
  · obtain ready | ready := Bool.eq_false_or_eq_true b.ready
    case inr =>
      refine ⟨s.updBox m (fun b => b.rung s.now), ?_, by rw [State.box_updBox_self]; rfl⟩
      rw [exec_mbxBellReq]
      unfold execMbxBellReq
      rw [List.foldl_cons, List.foldl_nil, State.setReq_early bell ready]
      exact congrArg _ (State.takeIrqs_rests rests)
    case inl =>
      refine ⟨_, State.bell_one rests bell ready, ?_⟩
      rw [State.setReq_rings bell ready, State.bellHandler_full]
      · rw [State.box_setIrq, State.box_setIrq, State.box_setIrq, State.box_updBox_self]
        rfl
      · rw [State.box_setIrq, State.box_setIrq, State.box_updBox_self]
        exact full
  · rw [exec_mbxMessageTake]
    unfold execMbxMessageTake
    dsimp only
    rw [lent]
    exact congrArg _ (State.takeMessage_waits (waits.imp id .inr))
  · refine ⟨_, State.bell_one rests bell ready, ?_⟩
    rw [State.setReq_rings bell ready, State.bellHandler_strict (m := m)]
    · rw [State.box_setIrq, State.box_updBox_self, State.box_setIrq, State.box_setIrq, State.box_updBox_self]
      rfl
    · exact strict
    · rw [State.box_setIrq, State.box_setIrq, State.box_updBox_self]
      exact ⟨rfl, take, room⟩
  · rw [exec_mbxMessageTake]
    unfold execMbxMessageTake
    dsimp only
    rw [strict, take]
    rfl
  · intro i j lt rests x y p n lentX lentY bellX bellY readyX readyY r r'
    have valX : x.val = i.val := Nat.mod_eq_of_lt (by omega)
    have valY : y.val = j.val := Nat.mod_eq_of_lt (by omega)
    exact State.bell_two (by omega) (by omega) rests lentX lentY bellX bellY readyX readyY rfl rfl (by rw [valX, valY]) (by rw [valY])

/-! The answer window of a mailbox. -/

/-- What no posting of a mailbox changes: the request, the bells, the segments and the report. -/
structure Mailbox.SameRequest (b c : Mailbox) : Prop where
  req : c.req = b.req
  rspDone : c.rspDone = b.rspDone
  evtHead : c.evtHead = b.evtHead
  seg : c.seg = b.seg
  ready : c.ready = b.ready
  snap : c.snap = b.snap

/-- What no posting of events changes: the answer window too. -/
structure Mailbox.SameWindow (b c : Mailbox) : Prop extends Mailbox.SameRequest b c where
  rspValid : c.rspValid = b.rspValid
  rsp : c.rsp = b.rsp
  rsps : c.rsps = b.rsps

theorem Mailbox.SameRequest.trans {a b c : Mailbox} (h : a.SameRequest b) (k : b.SameRequest c) : a.SameRequest c :=
  ⟨k.req.trans h.req, k.rspDone.trans h.rspDone, k.evtHead.trans h.evtHead, k.seg.trans h.seg, k.ready.trans h.ready, k.snap.trans h.snap⟩

theorem Mailbox.SameWindow.refl (b : Mailbox) : b.SameWindow b := ⟨⟨rfl, rfl, rfl, rfl, rfl, rfl⟩, rfl, rfl, rfl⟩

theorem Mailbox.SameWindow.trans {a b c : Mailbox} (h : a.SameWindow b) (k : b.SameWindow c) : a.SameWindow c :=
  ⟨h.toSameRequest.trans k.toSameRequest, k.rspValid.trans h.rspValid, k.rsp.trans h.rsp, k.rsps.trans h.rsps⟩

theorem State.box_msix (s : State) (f : FnId) (v k : Nat) : (s.msix f v).box k = s.box k := by
  unfold State.msix
  dsimp only
  split <;> rfl

theorem State.postEvents_window (k : Nat) (m : MbxId) (s : State) : (s.box m).SameWindow ((s.postEvents k m).box m) := by
  induction k generalizing s with
  | zero => exact .refl _
  | succ k ih =>
    unfold State.postEvents
    dsimp only
    split
    · split
      · refine Mailbox.SameWindow.trans ?_ (ih _)
        rw [State.box_msix, State.box_setBox_self]
        split <;> exact ⟨⟨rfl, rfl, rfl, rfl, rfl, rfl⟩, rfl, rfl, rfl⟩
      · exact .refl _
    · exact .refl _

/-- With an answer in the window, or none ready, nothing loads (R373). -/
theorem State.loadRsp_idle {s : State} {m : MbxId} (h : (s.box m).rspValid = true ∨ (s.box m).rsps = []) : s.loadRsp m = s := by
  unfold State.loadRsp
  dsimp only
  split
  · rename_i none some
    obtain h | h := h
    · rw [none] at h; cases h
    · rw [some] at h; cases h
  · rfl

/-- The next answer loads into the free window (R373). -/
theorem State.loadRsp_loads {s : State} {m : MbxId} {r : Rsp} {rest : List Rsp} (h : (s.box m).rspValid = false) (k : (s.box m).rsps = r :: rest) :
    (s.box m).SameRequest ((s.loadRsp m).box m) ∧ ((s.loadRsp m).box m).rspValid = true ∧ ((s.loadRsp m).box m).rsp = r.bytes ∧
      ((s.loadRsp m).box m).rsps = rest := by
  unfold State.loadRsp
  dsimp only
  rw [h, k]
  dsimp only
  rw [State.box_msix, State.box_setBox_self]
  split <;> exact ⟨⟨rfl, rfl, rfl, rfl, rfl, rfl⟩, rfl, rfl, rfl⟩

theorem State.loadRsp_request (s : State) (m : MbxId) : (s.box m).SameRequest ((s.loadRsp m).box m) := by
  cases valid : (s.box m).rspValid with
  | true => rw [State.loadRsp_idle (.inl valid)]; exact (Mailbox.SameWindow.refl _).toSameRequest
  | false =>
    cases rsps : (s.box m).rsps with
    | nil => rw [State.loadRsp_idle (.inr rsps)]; exact (Mailbox.SameWindow.refl _).toSameRequest
    | cons r rest => exact (State.loadRsp_loads valid rsps).1

theorem State.pump_request (s : State) (m : MbxId) : (s.box m).SameRequest ((s.pump m).box m) := by
  unfold State.pump
  split
  · exact (Mailbox.SameWindow.refl _).toSameRequest
  · exact (s.loadRsp_request m).trans (State.postEvents_window _ _ _).toSameRequest

/-- With an answer in the window, or none ready, only events post. -/
theorem State.pump_idle {s : State} {m : MbxId} (h : (s.box m).rspValid = true ∨ (s.box m).rsps = []) : (s.box m).SameWindow ((s.pump m).box m) := by
  unfold State.pump
  rw [State.loadRsp_idle h]
  split
  · exact .refl _
  · exact State.postEvents_window _ _ _

/-- The mailbox shows answer `r`, and the answers behind it wait. -/
def Mailbox.Shows (b : Mailbox) (r : Rsp) (rest : List Rsp) : Prop := b.rspValid = true ∧ b.rsp = r.bytes ∧ b.rsps = rest

theorem Mailbox.SameWindow.shows {b c : Mailbox} {r : Rsp} {rest : List Rsp} (h : b.SameWindow c) (k : b.Shows r rest) : c.Shows r rest :=
  ⟨h.rspValid.trans k.1, h.rsp.trans k.2.1, h.rsps.trans k.2.2⟩

/-- An open mailbox that is not Strict shows its next answer at once (R373, R381). -/
theorem State.pump_shows {s : State} {m : MbxId} {r : Rsp} {rest : List Rsp} (lent : s.strictBox m = false) (ready : (s.box m).ready = true)
    (h : (s.box m).rspValid = false) (k : (s.box m).rsps = r :: rest) : ((s.pump m).box m).Shows r rest := by
  unfold State.pump
  rw [if_neg (by simp [lent, ready])]
  exact (State.postEvents_window _ _ _).shows (State.loadRsp_loads h k).2

/-- An event only joins the events that wait, and what waits posts. -/
theorem State.event_pumps (s : State) (m : MbxId) (e : Event) :
    ∃ t, s.event m e = t.pump m ∧ s.Posts t ∧ (s.box m).SameWindow (t.box m) := by
  unfold State.event
  refine ⟨_, rfl, s.setBox_posts m _, ?_⟩
  rw [State.box_setBox_self]
  dsimp only
  split
  · exact ⟨⟨rfl, rfl, rfl, rfl, rfl, rfl⟩, rfl, rfl, rfl⟩
  · split <;> exact ⟨⟨rfl, rfl, rfl, rfl, rfl, rfl⟩, rfl, rfl, rfl⟩

/-- A Long command that ends posts its event, or nothing happens (R379). -/
theorem State.finishLong_pumps (s : State) (m : MbxId) :
    s.finishLong m = s ∨ ∃ t, s.finishLong m = t.pump m ∧ s.Posts t ∧ (s.box m).SameWindow (t.box m) := by
  unfold State.finishLong
  dsimp only
  split
  · rename_i h _
    obtain ⟨t, is, posts, window⟩ := State.event_pumps
      (s.setBox m { s.box m with held := (s.box m).held.map (fun x => if x.tag = h.tag then { x with accepted := 3 } else x) }) m
      { kind := 1, tag := h.tag, status := ((h.done.map (·.1)).getD .ok), part := h.part, opcode := h.opcode,
        time := s.now, body := (h.done.map (·.2)).getD [] }
    refine .inr ⟨t, is, (s.setBox_posts m _).trans posts, Mailbox.SameWindow.trans ?_ window⟩
    rw [State.box_setBox_self]
    exact ⟨⟨rfl, rfl, rfl, rfl, rfl, rfl⟩, rfl, rfl, rfl⟩
  · exact .inl rfl

/-- What a released window does next: the next answer loads, or none does (R373, R379). -/
theorem State.released {s : State} {m : MbxId} (free : (s.box m).rspValid = false) :
    (s.box m).SameRequest (((s.finishLong m).pump m).box m) ∧
    ((s.box m).rsps = [] → (((s.finishLong m).pump m).box m).rspValid = false) ∧
    ∀ r rest, (s.box m).rsps = r :: rest → s.strictBox m = false → (s.box m).ready = true → (((s.finishLong m).pump m).box m).Shows r rest := by
  obtain idle | ⟨t, is, posts, window⟩ := s.finishLong_pumps m
  · rw [idle]
    exact ⟨s.pump_request m, fun none => (State.pump_idle (.inr none)).rspValid.trans free,
      fun r rest some lent ready => State.pump_shows lent ready free some⟩
  · rw [is]
    refine ⟨(window.toSameRequest.trans (t.pump_request m)).trans (State.pump_request _ m), fun none => ?_, fun r rest some lent ready => ?_⟩
    · have first := State.pump_idle (s := t) (m := m) (.inr (window.rsps.trans none))
      have again := State.pump_idle (s := t.pump m) (m := m) (.inr (first.rsps.trans (window.rsps.trans none)))
      exact ((window.trans first).trans again).rspValid.trans free
    · have first : ((t.pump m).box m).Shows r rest :=
        State.pump_shows ((posts.strictBox m).trans lent) (window.ready.trans ready) (window.rspValid.trans free) (window.rsps.trans some)
      exact (State.pump_idle (.inl first.1)).shows first

theorem State.ringDone_idle {s : State} {m : MbxId} (h : (s.box m).rspValid = false) : s.ringDone m = s := by
  unfold State.ringDone
  dsimp only
  rw [h]
  rfl

/-- RSP_DONE frees the window, and what waits behind it goes on (R373). -/
theorem State.ringDone_releases {s : State} {m : MbxId} (h : (s.box m).rspValid = true) :
    ∃ t, s.ringDone m = (t.finishLong m).pump m ∧ s.Posts t ∧ (t.box m).rspValid = false ∧ (t.box m).rspDone = false ∧
      (t.box m).rsps = (s.box m).rsps ∧ (t.box m).ready = (s.box m).ready := by
  unfold State.ringDone
  dsimp only
  rw [h]
  refine ⟨_, rfl, s.setBox_posts m _, ?_⟩
  rw [State.box_setBox_self]
  exact ⟨rfl, rfl, rfl, rfl⟩

theorem State.respond_request (s : State) (m : MbxId) (h : List Byte) (tag rt : BitVec 16) (bell : Nat) (st : Status) (fin : Bool)
    (p : List Byte) : (s.box m).SameRequest ((s.respond m h tag rt bell st fin p).box m) := by
  unfold State.respond
  refine Mailbox.SameRequest.trans ?_ (State.pump_request _ m)
  rw [State.box_updBox_self]
  exact ⟨rfl, rfl, rfl, rfl, rfl, rfl⟩

theorem State.dropSeg_drops {s : State} {m : MbxId} {g : Seg} (h : (s.box m).seg = some g) : ((s.dropSeg m).box m).seg = none := by
  unfold State.dropSeg
  rw [h]
  refine (State.respond_request _ m _ _ _ _ _ _ _).seg.trans ?_
  rw [State.box_updBox_self]

/-! A Strict mailbox's boundary. -/

theorem State.exec_strictPost_lent {s : State} {m : MbxId} (h : s.strictBox m = false) : exec (.strictMailboxPost m) s = .next s := by
  rw [exec_strictMailboxPost]
  unfold execStrictMailboxPost
  dsimp only
  rw [h]
  rfl

theorem State.exec_strictPost_answer {s : State} {m : MbxId} {r : Rsp} {rest : List Rsp} (h : s.strictBox m = true)
    (free : (s.box m).rspValid = false) (some : (s.box m).rsps = r :: rest) (turn : s.rspTurn m r = true) :
    exec (.strictMailboxPost m) s = .next (State.postEvents 16 m ((s.atLeast (max r.due (boundary s.now))).loadRsp m)) := by
  rw [exec_strictMailboxPost]
  unfold execStrictMailboxPost
  dsimp only
  rw [h, if_pos rfl, free, some]
  dsimp only
  rw [turn]
  rfl

/-- Where no answer is due at the boundary, only events post there (R381). -/
theorem State.exec_strictPost_events {s : State} {m : MbxId} (h : s.strictBox m = true)
    (not : (s.box m).rspValid = true ∨ (s.box m).rsps = [] ∨ ∃ r rest, (s.box m).rsps = r :: rest ∧ s.rspTurn m r = false) :
    exec (.strictMailboxPost m) s = .next (State.postEvents 16 m (s.atLeast (boundary s.now))) := by
  rw [exec_strictMailboxPost]
  unfold execStrictMailboxPost
  dsimp only
  rw [h, if_pos rfl]
  split
  · rename_i r rest free some
    obtain valid | none | ⟨r', rest', some', turn⟩ := not
    · rw [free] at valid; cases valid
    · rw [some] at none; cases none
    · rw [some] at some'
      cases some'
      rw [turn]
      rfl
  · rfl

/-- Settles O37. -/
theorem mailboxService : Obligations.MailboxService := by
  intro s m v b
  refine ⟨fun valid => ?_, fun free => ?_, ?_, fun g seg => ?_, fun seg => ?_, fun strict => ⟨fun r rest free some turn => ?_, fun not => ?_⟩,
    fun lent => State.exec_strictPost_lent lent⟩
  · obtain ⟨t, is, posts, free, done, rsps, ready⟩ := State.ringDone_releases valid
    obtain ⟨request, none, some⟩ := State.released free
    refine ⟨s.ringDone m, rfl, ?_, fun empty => ?_, fun r rest more lent open_ => ?_⟩ <;> rw [is]
    · exact request.rspDone.trans done
    · exact none (rsps.trans empty)
    · exact some r rest (rsps.trans more) ((posts.strictBox m).trans lent) (ready.trans open_)
  · exact congrArg Host.Outcome.next (State.ringDone_idle free)
  · have request := State.pump_request (s.updBox m (fun b => { b with evtHead := v })) m
    rw [State.box_updBox_self] at request
    exact ⟨s.setEvtHead m v, rfl, request.evtHead, request.req⟩
  · refine ⟨(s.atLeast (g.deadline + 1)).dropSeg m, ?_, State.dropSeg_drops seg, ?_⟩
    · rw [exec_segmentGapTimeout]
      unfold execSegmentGapTimeout
      rw [show (s.box m).seg = some g from seg]
    · exact (State.dropSeg_posts _ m).same.2.1
  · rw [exec_segmentGapTimeout]
    unfold execSegmentGapTimeout
    rw [show (s.box m).seg = none from seg]
  · have due : s.rspTurn m r = true := by
      unfold State.rspTurn
      simpa [or_assoc] using turn
    refine ⟨_, State.exec_strictPost_answer strict free some due, ?_, ?_⟩
    · exact (State.postEvents_posts _ _ _).same.2.1.trans (State.loadRsp_posts _ m).same.2.1
    · exact (State.postEvents_window _ _ _).shows (State.loadRsp_loads (s := s.atLeast (max r.due (boundary s.now))) free some).2
  · have wait : b.rspValid = true ∨ b.rsps = [] ∨ ∃ r rest, b.rsps = r :: rest ∧ s.rspTurn m r = false := by
      refine not.imp id (Or.imp id fun ⟨r, rest, more, due, events, room⟩ => ⟨r, rest, more, ?_⟩)
      unfold State.rspTurn
      simpa using ⟨⟨due, events⟩, room⟩
    have window := State.postEvents_window 16 m (s.atLeast (boundary s.now))
    refine ⟨_, State.exec_strictPost_events strict wait, ?_, window.rsp, window.rsps⟩
    rw [(State.postEvents_posts _ _ _).same.2.1]
    exact Nat.le_max_right _ _

/-! Answers before a command's effect. -/

/-- Every Velna command is served by its tag, its opcode and its payload checks (R375, R385, R565). -/
theorem velnaRows_serve (s : State) (m : MbxId) (tag : BitVec 16) (img : Option (List Byte)) :
    ∀ e ∈ velnaRows m tag img, ∃ run, exec e.1 s = .next (s.serve m tag e.2.1 e.2.2 run) := by
  unfold velnaRows
  simp only [List.forall_mem_cons, List.not_mem_nil, false_imp_iff, implies_true, and_true]
  refine ⟨?_, ?_, ?_, ?_, ?_, ?_, ?_, ?_, ?_, ?_, ?_, ?_, ?_, ?_, ?_, ?_, ?_, ?_, ?_, ?_, ?_, ?_, ?_, ?_, ?_, ?_, ?_, ?_, ?_, ?_, ?_, ?_, ?_, ?_⟩
  all_goals exact ⟨_, rfl⟩

/-- Posting events ends commands and begins none. -/
theorem State.postEvents_held (k : Nat) (m : MbxId) (s : State) : ((s.postEvents k m).box m).held ⊆ (s.box m).held := by
  induction k generalizing s with
  | zero => exact List.Subset.refl _
  | succ k ih =>
    unfold State.postEvents
    dsimp only
    split
    · split
      · refine List.Subset.trans (ih _) ?_
        rw [State.box_msix, State.box_setBox_self]
        split
        · exact List.filter_subset_self _
        · exact List.Subset.refl _
      · exact List.Subset.refl _
    · exact List.Subset.refl _

/-- A final answer that loads ends its command (R372). -/
theorem State.loadRsp_ends {s : State} {m : MbxId} {r : Rsp} {rest : List Rsp} (h : (s.box m).rspValid = false)
    (k : (s.box m).rsps = r :: rest) (final : r.final = true) : ∀ x ∈ ((s.loadRsp m).box m).held, x.tag ≠ r.tag := by
  unfold State.loadRsp
  dsimp only
  rw [h, k]
  dsimp only
  rw [State.box_msix, State.box_setBox_self, if_pos final]
  intro x hx
  simpa using (List.mem_filter.1 hx).2

/-- A response waits among the others by the time it is due, and what waits posts (R373). -/
theorem State.respond_pumps (s : State) (m : MbxId) (h : List Byte) (tag rt : BitVec 16) (bell : Nat) (st : Status) (fin : Bool)
    (p : List Byte) : ∃ t due, s.respond m h tag rt bell st fin p = t.pump m ∧ s.Posts t ∧ (t.box m).ready = (s.box m).ready ∧
      (t.box m).rspValid = (s.box m).rspValid ∧
      (t.box m).rsps = insertRsp { bytes := rspBytes h rt st p, due := due, tag := tag, final := fin } (s.box m).rsps := by
  unfold State.respond
  refine ⟨_, if s.strictBox m then boundary (max s.now (bell + classBound (at' h 4 2))) else s.now, rfl, s.updBox_posts m _, ?_⟩
  rw [State.box_updBox_self]
  exact ⟨rfl, rfl, rfl⟩

/-- The answer of a command of a mailbox whose window is free is shown at once, and the command ends (R372, R373). -/
theorem State.answer_shows {s : State} {m : MbxId} (h : Held) (st : Status) (p : List Byte) (lent : s.strictBox m = false)
    (open_ : (s.box m).ready = true) (free : (s.box m).rspValid = false) (none : (s.box m).rsps = []) :
    ((s.answer m h st p).box m).rspValid = true ∧ ((s.answer m h st p).box m).rsp = rspBytes h.hdr h.tag st (if st = .ok then p else []) ∧
      ∀ x ∈ ((s.answer m h st p).box m).held, x.tag ≠ h.tag := by
  unfold State.answer
  generalize served : s.updBox m _ = a
  have same : (s.box m).SameWindow (a.box m) := by
    rw [← served, State.box_updBox_self]
    exact ⟨⟨rfl, rfl, rfl, rfl, rfl, rfl⟩, rfl, rfl, rfl⟩
  have postsA : s.Posts a := by rw [← served]; exact s.updBox_posts m _
  obtain ⟨t, due, is, posts, ready, valid, rsps⟩ := a.respond_pumps m h.hdr h.tag h.tag h.bell st true (if st = .ok then p else [])
  rw [same.rsps, none] at rsps
  have freeT : (t.box m).rspValid = false := (valid.trans same.rspValid).trans free
  have lentT : t.strictBox m = false := ((postsA.trans posts).strictBox m).trans lent
  have readyT : (t.box m).ready = true := (ready.trans same.ready).trans open_
  have shows : ((t.pump m).box m).Shows _ _ := State.pump_shows lentT readyT freeT rsps
  rw [is]
  refine ⟨shows.1, shows.2.1, ?_⟩
  unfold State.pump
  rw [if_neg (by simp [lentT, readyT])]
  intro x hx
  exact State.loadRsp_ends freeT rsps rfl x (State.postEvents_held _ _ _ hx)

/-- Settles O38. -/
theorem commandRefused : Obligations.CommandRefused := by
  intro s m tag img e mem
  obtain ⟨run, runs⟩ := velnaRows_serve s m tag img e mem
  refine ⟨fun h held => ⟨fun st bad => ?_, fun st good gated => ?_⟩, fun h st p lent ready free none => ?_⟩
  · rw [runs, State.serve_checked held bad]
  · rw [runs, State.serve_gated held good gated]
  · obtain ⟨valid, rsp, held⟩ := State.answer_shows h st p lent ready free none
    refine ⟨valid, rsp, held, ?_, ?_, ?_, ?_⟩ <;> simp

end Sys2Proof.Machine
end

section
/-!
PROOFS. Velna commands that answer at once: the queries (O39), queues, antes and chains (O40), and the operator's settings (O41).
-/

namespace Sys2Proof.Machine

/-! Queries. -/

/-- A read of the pace monitors clears the reader's own minimum of each one it returns (R39). -/
theorem SMap.get_clearEach {α : Type} [DecidableEq α] (key : Nat → Nat) (l : List Nat) (m : SMap (Option α)) {k : Nat} (h : k ∈ l) :
    SMap.get none (l.foldl (fun x n => SMap.put none x (key n) none) m) (key k) = none := by
  have kept : ∀ (l : List Nat) (m : SMap (Option α)), SMap.get none m (key k) = none →
      SMap.get none (l.foldl (fun x n => SMap.put none x (key n) none) m) (key k) = none := by
    intro l m none
    refine List.foldlRecOn (motive := fun x => SMap.get Option.none x (key k) = Option.none) l _ none (fun x ih n _ => ?_)
    rw [SMap.get_put]
    split
    · rfl
    · exact ih
  induction l generalizing m with
  | nil => cases h
  | cons a l ih =>
    rw [List.foldl_cons]
    obtain rfl | h := List.mem_cons.1 h
    · exact kept l _ (SMap.get_put_self _ _ _ _)
    · exact ih _ h

section
variable {s : State} {m : MbxId} {tag : BitVec 16} {h : Held}

theorem State.errorLogRead_records (takes : Takes s m tag 0x0801 errorLogReadChk h) (mode : at' h.payload 0 1 = 0) :
    let rs := (s.recordsOf m).filter (fun r => decide (at' h.payload 8 8 ≤ r.seq))
    let next := match rs.drop (at' h.payload 16 2) with
      | r :: _ => r.seq
      | [] => 2 ^ 64 - 1
    exec (.errorLogRead m tag) s = .next (s.answer m h .ok
      (logPage (rs.take (at' h.payload 16 2)).length next ((rs.take (at' h.payload 16 2)).map (s.recordFor m)).flatten)) := by
  intro rs next
  rw [exec_errorLogRead, execErrorLogRead, State.serve_takes takes]
  exact congrArg Host.Outcome.next (if_pos mode)

/-- A posted notice is read from its items in order of completion (R392). -/
theorem State.errorLogRead_notice (takes : Takes s m tag 0x0801 errorLogReadChk h) (mode : at' h.payload 0 1 ≠ 0) (part : targetOf m h < 64)
    (open_ : m.val = 64 → (s.part (targetOf m h)).conf = false) {x : Notice}
    (found : (s.part (targetOf m h)).notices.find? (fun x => x.num == at' h.payload 4 4 && x.posted) = some x) :
    let is := (x.items.foldr insertItem []).drop (at' h.payload 8 8)
    exec (.errorLogRead m tag) s = .next (s.answer m h .ok (logPage (is.take (at' h.payload 16 2)).length
      (if (is.drop (at' h.payload 16 2)).isEmpty then 2 ^ 64 - 1 else at' h.payload 8 8 + at' h.payload 16 2)
      ((is.take (at' h.payload 16 2)).map JournalItem.bytes).flatten)) := by
  intro is
  have allowed : ¬ (64 ≤ targetOf m h ∨ (m.val = 64 ∧ (s.part (targetOf m h)).conf = true)) := by
    rintro (far | ⟨operator, conf⟩)
    · omega
    · rw [open_ operator] at conf
      cases conf
  rw [exec_errorLogRead, execErrorLogRead, State.serve_takes takes]
  dsimp only
  rw [if_neg mode, if_neg allowed, found]

/-- The notices of a confidential partition are not the operator's (R495). -/
theorem State.errorLogRead_refused (takes : Takes s m tag 0x0801 errorLogReadChk h) (mode : at' h.payload 0 1 ≠ 0) (operator : m.val = 64)
    (conf : (s.part (targetOf m h)).conf = true) : exec (.errorLogRead m tag) s = .next (s.answer m h .notPermitted []) := by
  rw [exec_errorLogRead, execErrorLogRead, State.serve_takes takes]
  dsimp only
  rw [if_neg mode, if_pos (.inr ⟨operator, conf⟩)]

theorem State.regionStatus_shown (takes : Takes s m tag 0x0405 regionStatusChk h) (own : s.holdsSlot (targetOf m h) (at' h.payload 0 2) = true)
    (open_ : m.val = 64 → (s.part (targetOf m h)).conf = false) :
    let g := s.region (at' h.payload 0 2)
    exec (.regionStatus m tag) s = .next (s.answer m h .ok (leBytes 1 g.state.code ++ leBytes 1 (b2n (!g.weights)) ++ zeros 2 ++
      bvBytes g.version ++ leBytes 8 g.size ++ leBytes 4 g.boundCur ++ leBytes 4 g.boundOld ++
      leBytes 1 (b2n g.running.isSome + 2 * b2n g.pending.isSome) ++ zeros 7 ++ padTo 48 g.digest)) := by
  intro g
  have hidden : ¬ (m.val = 64 ∧ (s.part (targetOf m h)).conf = true) := fun ⟨operator, conf⟩ => by
    rw [open_ operator] at conf
    cases conf
  rw [exec_regionStatus, execRegionStatus, State.serve_takes takes]
  dsimp only
  rw [own, if_neg (by simp), if_neg hidden]

theorem State.regionStatus_refused (takes : Takes s m tag 0x0405 regionStatusChk h)
    (own : s.holdsSlot (targetOf m h) (at' h.payload 0 2) = false) (vf : m.val ≠ 64) :
    exec (.regionStatus m tag) s = .next (s.answer m h .notPermitted []) := by
  rw [exec_regionStatus, execRegionStatus, State.serve_takes takes]
  dsimp only
  rw [own, if_pos (by simp [vf])]

end

/-- Settles O39. -/
theorem queries : Obligations.Queries := by
  intro s m tag h n p
  refine ⟨fun takes => ?_, fun takes => ?_, fun takes => ?_, fun bs a takes value => ?_, fun st a takes value => ?_, fun takes => ?_,
    fun takes => ⟨State.errorLogRead_records takes, fun x mode part open_ found => State.errorLogRead_notice takes mode part open_ found,
      State.errorLogRead_refused takes⟩,
    fun takes => ⟨State.regionStatus_shown takes, State.regionStatus_refused takes⟩, fun takes => ?_⟩
  · rw [exec_devInfo, execDevInfo, State.serve_takes takes]
  · rw [exec_devStatus, execDevStatus, State.serve_takes takes]
  · rw [exec_paceReport, execPaceReport, State.serve_takes takes]
    refine ⟨_, _, rfl, rfl, fun k lt visible => ?_⟩
    exact SMap.get_clearEach (minKey m.val) _ _ (List.mem_filter.2 ⟨List.mem_range.2 lt, visible⟩)
  · rw [exec_configRead, execConfigRead, State.serve_takes takes, value]
  · rw [exec_configRead, execConfigRead, State.serve_takes takes, value]
  · rw [exec_ledgerQuery, execLedgerQuery, State.serve_takes takes]
  · rw [exec_authorityList, execAuthorityList, State.serve_takes takes]

/-! Queues. -/

/-- QUEUE_CREATE of a CQ, where `isCq`, or of an SQ (R329, R386). -/
def State.createQueue (s : State) (m : MbxId) (h : Held) (isCq : Bool) : State :=
  let n := targetOf m h
  let p := h.payload
  let q := at' p 1 1
  let x := s.part n
  let there := if isCq then (SMap.get none x.cqs q).isSome else (SMap.get none x.sqs q).isSome
  if !s.valid n || there || (!isCq && (SMap.get none x.cqs (at' p 16 1)).isNone) then s.answer m h .notPermitted []
  else
    let (es, s) := if at' p 2 1 == 0 then (some [], s)
      else s.range x.root (if isCq then .store else .load) (at' p 8 8) (at' p 4 4 * if isCq then 32 else 128)
    if es.isNone then s.answer m h .unmapped []
    else
      let s := if isCq then s.updPart n (fun x => { x with cqs := SMap.put none x.cqs q (some { host := at' p 2 1 == 0, ien := at' p 3 1 == 1, base := BitVec.ofNat 64 (at' p 8 8), size := at' p 4 4 }) })
        else s.updPart n (fun x => { x with sqs := SMap.put none x.sqs q (some { host := at' p 2 1 == 0, base := BitVec.ofNat 64 (at' p 8 8), size := at' p 4 4, cq := at' p 16 1 }) })
      s.answer m h .ok []

section
variable {s : State} {m : MbxId} {tag : BitVec 16} {h : Held}

theorem State.queueCreate_eq (takes : Takes s m tag 0x0501 queueCreateChk h) {isCq : Bool} (kind : (at' h.payload 0 1 == 1) = isCq) :
    exec (.queueCreate m tag) s = .next (s.createQueue m h isCq) := by
  rw [exec_queueCreate, execQueueCreate, State.serve_takes takes, ← kind]
  rfl

/-- The queue that is asked for is not there yet, and an SQ's CQ is (R329). -/
def State.queueFresh (s : State) (n q cq : Nat) (isCq : Bool) : Bool :=
  if isCq then (SMap.get none (s.part n).cqs q).isNone else (SMap.get none (s.part n).sqs q).isNone && (SMap.get none (s.part n).cqs cq).isSome

theorem State.queueFresh_iff (s : State) (n q cq : Nat) (isCq : Prop) [Decidable isCq] : s.queueFresh n q cq (decide isCq) = true ↔
    if isCq then SMap.get none (s.part n).cqs q = none else SMap.get none (s.part n).sqs q = none ∧ SMap.get none (s.part n).cqs cq ≠ none := by
  unfold State.queueFresh
  by_cases c : isCq
  · simp [c]
  · simp [c, Option.isSome_iff_ne_none]

/-- A queue of host memory needs no mapping; one of device memory has extents (R329). -/
theorem State.queueMemory_mapped {s b : State} {host : Nat} {root : Word} {k : AccessKind} {base len : Nat}
    (h : if host = 0 then b = s else ∃ es, s.range root k base len = (some es, b)) :
    ∃ es, (if host == 0 then (some [], s) else s.range root k base len) = (some es, b) := by
  split at h
  · rename_i zero
    exact ⟨[], by rw [if_pos (beq_iff_eq.2 zero), h]⟩
  · rename_i device
    obtain ⟨es, mapped⟩ := h
    exact ⟨es, by rw [if_neg (by simpa using device), mapped]⟩

theorem State.createQueue_refused {isCq : Bool} (fresh : s.queueFresh (targetOf m h) (at' h.payload 1 1) (at' h.payload 16 1) isCq = false) :
    s.createQueue m h isCq = s.answer m h .notPermitted [] := by
  unfold State.createQueue
  unfold State.queueFresh at fresh
  dsimp only
  rw [if_pos]
  cases isCq with
  | true =>
    rw [if_pos rfl, Option.isNone_eq_false_iff] at fresh
    simp [fresh]
  | false =>
    rw [if_neg Bool.false_ne_true] at fresh
    cases sq : SMap.get none (s.part (targetOf m h)).sqs (at' h.payload 1 1) with
    | none =>
      rw [sq] at fresh
      have none : (SMap.get none (s.part (targetOf m h)).cqs (at' h.payload 16 1)).isSome = false := fresh
      simp [Option.isSome_eq_false_iff.1 none]
    | some x => simp

/-- A queue that may be made is: its memory translates, or the answer is UNMAPPED (R329). -/
theorem State.createQueue_fresh {isCq : Bool} (valid : s.valid (targetOf m h) = true)
    (fresh : s.queueFresh (targetOf m h) (at' h.payload 1 1) (at' h.payload 16 1) isCq = true) {es : Option (List Extent)} {b : State}
    (mapped : (if at' h.payload 2 1 == 0 then (some [], s) else s.range (s.part (targetOf m h)).root (if isCq then .store else .load)
      (at' h.payload 8 8) (at' h.payload 4 4 * if isCq then 32 else 128)) = (es, b)) :
    s.createQueue m h isCq = if es.isNone then b.answer m h .unmapped [] else
      (if isCq then b.updPart (targetOf m h) (fun x => { x with cqs := SMap.put none x.cqs (at' h.payload 1 1) (some { host := at' h.payload 2 1 == 0, ien := at' h.payload 3 1 == 1, base := BitVec.ofNat 64 (at' h.payload 8 8), size := at' h.payload 4 4 }) })
        else b.updPart (targetOf m h) (fun x => { x with sqs := SMap.put none x.sqs (at' h.payload 1 1) (some { host := at' h.payload 2 1 == 0, base := BitVec.ofNat 64 (at' h.payload 8 8), size := at' h.payload 4 4, cq := at' h.payload 16 1 }) })).answer m h .ok [] := by
  unfold State.createQueue
  unfold State.queueFresh at fresh
  dsimp only
  rw [if_neg, mapped]
  cases isCq with
  | true => simpa [valid] using fresh
  | false => simpa [valid, Option.isSome_iff_ne_none] using fresh

/-- A CQ that exists and that no SQ is bound to may be destroyed (R390). -/
theorem State.cq_destroyable {x : Part} {q : Nat} (there : SMap.get none x.cqs q ≠ none) (unbound : ∀ e ∈ x.sqs, ∀ sq, e.2 = some sq → sq.cq ≠ q) :
    ¬ ((SMap.get none x.cqs q).isNone || x.sqs.any (fun e => match e.2 with
          | some sq => sq.cq == q
          | none => false)) = true := by
  have noSq : x.sqs.any (fun e => match e.2 with
      | some sq => sq.cq == q
      | none => false) = false := by
    rw [List.any_eq_false]
    intro e he
    split
    · rename_i sq is
      simpa using unbound e he sq is
    · exact Bool.false_ne_true
  rw [noSq]
  simpa using there

theorem State.queueDestroy_eq (takes : Takes s m tag 0x0502 queueDestroyChk h) (valid : s.valid (targetOf m h) = true) :
    exec (.queueDestroy m tag) s = .next (
      if at' h.payload 0 1 = 0 then
        if (SMap.get none (s.part (targetOf m h)).sqs (at' h.payload 1 1)).isNone then s.answer m h .notPermitted []
        else (s.updPart (targetOf m h) (fun x => { x with
            sqs := SMap.put none x.sqs (at' h.payload 1 1) none, deferred := (match x.deferred with
              | some d => if d.1 = at' h.payload 1 1 then none else some d
              | none => none) })).answer m h .ok []
      else if (SMap.get none (s.part (targetOf m h)).cqs (at' h.payload 1 1)).isNone || (s.part (targetOf m h)).sqs.any (fun e => match e.2 with
          | some sq => sq.cq == at' h.payload 1 1
          | none => false) then s.answer m h .notPermitted []
      else if (s.ledgerOf (targetOf m h)).any (fun i => (s.led i).cq == at' h.payload 1 1) ||
          (s.part (targetOf m h)).answers.any (fun a => a.cq == at' h.payload 1 1) then s.answer m h .notQuiet []
      else (s.updPart (targetOf m h) (fun x => { x with cqs := SMap.put none x.cqs (at' h.payload 1 1) none })).answer m h .ok []) := by
  rw [exec_queueDestroy, execQueueDestroy, State.serve_takes takes]
  dsimp only
  rw [valid]
  rfl

/-! Antes and chains. -/

theorem State.anteSet_ok (takes : Takes s m tag 0x0503 anteSetChk h) (valid : s.valid (targetOf m h) = true)
    (fits : let b := s.updPart (targetOf m h) (fun x => { x with ante := at' h.payload 0 4 })
      s.isStrict (targetOf m h) = false ∨ ((parts64.filter b.isStrict).map (fun i => (b.part i).ante)).sum ≤ 1048576) :
    ∃ body, exec (.anteSet m tag) s = .next ((s.updPart (targetOf m h) (fun x => { x with ante := at' h.payload 0 4 })).answer m h .ok body) := by
  rw [exec_anteSet, execAnteSet, State.serve_takes takes]
  dsimp only
  rw [if_neg]
  · exact ⟨_, rfl⟩
  · dsimp only at fits
    rw [valid]
    obtain lent | fits := fits
    · simp [lent]
    · simp [fits]

/-- The header and the members of a chain table (R315). -/
def chainHeader (p : List Byte) : Word := BitVec.ofNat 64 (at' p 0 8)

def chainMembers (p : List Byte) : List (BitVec 16) := (List.range (fld (chainHeader p) 16 12 + 1)).map (fun i => BitVec.ofNat 16 (at' p (16 + 2 * i) 2))

/-- A member that no tile of the ERG is, or a tile of this device that the partition has not (R315). -/
def State.badMember (s : State) (n : Nat) (x : BitVec 16) : Bool :=
  decide (s.ergSize ≤ fld x 6 6) || (fld x 6 6 == s.deviceNum && !(s.availOf n).contains (fld x 0 6))

theorem State.chainDefine_ok (takes : Takes s m tag 0x0601 chainDefineChk h) (valid : s.valid (targetOf m h) = true)
    (none : SMap.get none (s.part (targetOf m h)).chains (fld (chainHeader h.payload) 0 6) = none)
    (room : (s.chainsOf (targetOf m h)).length < (s.part (targetOf m h)).entry.chainQuota.toNat)
    (distinct : (chainMembers h.payload).eraseDups.length = (chainMembers h.payload).length)
    (there : ∀ y ∈ chainMembers h.payload, fld y 6 6 < s.ergSize ∧
      (fld y 6 6 = s.deviceNum → (s.availOf (targetOf m h)).contains (fld y 0 6) = true)) :
    exec (.chainDefine m tag) s = .next ((s.updPart (targetOf m h) (fun x => { x with
      chains := SMap.put Option.none x.chains (fld (chainHeader h.payload) 0 6)
        (some ⟨chainHeader h.payload, chainMembers h.payload, chainDigest h.payload⟩) })).answer m h .ok (bvBytes (chainDigest h.payload))) := by
  have good : (chainMembers h.payload).any (s.badMember (targetOf m h)) = false := by
    rw [List.any_eq_false]
    intro y hy
    obtain ⟨inside, own⟩ := there y hy
    unfold State.badMember
    simp only [Bool.or_eq_true, decide_eq_true_eq, Bool.and_eq_true, beq_iff_eq, Bool.not_eq_true']
    rintro (far | ⟨here, missing⟩)
    · omega
    · rw [own here] at missing
      cases missing
  rw [exec_chainDefine, execChainDefine, State.serve_takes takes]
  dsimp only
  rw [if_neg]
  · rfl
  · change ¬ (!s.valid (targetOf m h) || (SMap.get Option.none (s.part (targetOf m h)).chains (fld (chainHeader h.payload) 0 6)).isSome
      || decide ((s.part (targetOf m h)).entry.chainQuota.toNat ≤ (s.chainsOf (targetOf m h)).length)
      || (chainMembers h.payload).eraseDups.length != (chainMembers h.payload).length || (chainMembers h.payload).any (s.badMember (targetOf m h))) = true
    rw [good, valid, none, distinct]
    simp [room]

theorem State.chainDefine_refused (takes : Takes s m tag 0x0601 chainDefineChk h)
    (there : SMap.get none (s.part (targetOf m h)).chains (fld (chainHeader h.payload) 0 6) ≠ none) :
    exec (.chainDefine m tag) s = .next (s.answer m h .notPermitted []) := by
  rw [exec_chainDefine, execChainDefine, State.serve_takes takes]
  dsimp only
  rw [if_pos]
  have found : (SMap.get none (s.part (targetOf m h)).chains (fld (chainHeader h.payload) 0 6)).isSome = true := Option.isSome_iff_ne_none.2 there
  unfold chainHeader at found
  simp [found]

theorem State.chainRelease_eq (takes : Takes s m tag 0x0602 chainReleaseChk h) (valid : s.valid (targetOf m h) = true) :
    exec (.chainRelease m tag) s = .next (
      if (SMap.get none (s.part (targetOf m h)).chains (at' h.payload 0 1)).isNone then s.answer m h .notPermitted []
      else if s.chainActive (targetOf m h) (at' h.payload 0 1) then s.answer m h .notQuiet []
      else (s.updPart (targetOf m h) (fun x => { x with chains := SMap.put none x.chains (at' h.payload 0 1) none })).answer m h .ok []) := by
  rw [exec_chainRelease, execChainRelease, State.serve_takes takes]
  dsimp only
  rw [valid]
  rfl

end

/-- Settles O40. -/
theorem queuesAndChains : Obligations.QueuesAndChains := by
  intro s m tag h n p x q
  refine ⟨fun takes valid => ?_, fun takes valid => ?_, fun takes valid fits => ?_, fun takes => ⟨fun valid none room distinct there => ?_, State.chainDefine_refused takes⟩, fun takes valid => ?_⟩
  · intro isCq fresh
    have runs : exec (.queueCreate m tag) s = .next (s.createQueue m h (decide isCq)) := State.queueCreate_eq takes rfl
    have freshness : s.queueFresh n q (at' p 16 1) (decide isCq) = true ↔ fresh := s.queueFresh_iff n q (at' p 16 1) isCq
    have access : (if isCq then AccessKind.store else .load) = if decide isCq = true then .store else .load := by simp only [decide_eq_true_eq]
    have entry : (if isCq then 32 else 128) = if decide isCq = true then 32 else 128 := by simp only [decide_eq_true_eq]
    rw [runs, access, entry]
    refine ⟨fun b mapped isFresh => ?_, fun b device unmapped isFresh => ?_, fun stale => ?_⟩
    · obtain ⟨es, mapped⟩ := State.queueMemory_mapped mapped
      rw [State.createQueue_fresh valid (freshness.2 isFresh) mapped]
      refine ⟨_, rfl, fun cq => ?_, fun sq => ?_⟩
      · rw [if_pos (decide_eq_true cq), State.part_updPart_self]
        exact SMap.get_put_self _ _ _ _
      · rw [if_neg (by simpa using sq), State.part_updPart_self]
        exact SMap.get_put_self _ _ _ _
    · rw [State.createQueue_fresh (es := none) (b := b) valid (freshness.2 isFresh) (by rw [if_neg (by simpa using device)]; exact unmapped)]
      rfl
    · rw [State.createQueue_refused (Bool.eq_false_iff.2 fun f => stale (freshness.1 f))]
  · rw [State.queueDestroy_eq takes valid]
    refine ⟨fun sq there => ?_, fun cq there unbound => ⟨fun noReq noAns => ?_, fun bound => ?_⟩, fun absent => ?_⟩
    · rw [if_pos sq, if_neg (by simpa using there)]
      refine ⟨_, rfl, ?_⟩
      rw [State.part_updPart_self]
      exact SMap.get_put_self _ _ _ _
    · have unused : ((s.ledgerOf n).any (fun i => (s.led i).cq == q) || x.answers.any (fun a => a.cq == q)) = false := by
        rw [Bool.or_eq_false_iff, List.any_eq_false, List.any_eq_false]
        exact ⟨fun i hi => by simpa using noReq i hi, fun a ha => by simpa using noAns a ha⟩
      rw [if_neg cq, if_neg (State.cq_destroyable there unbound), if_neg (by rw [unused]; exact Bool.false_ne_true)]
      refine ⟨_, rfl, ?_⟩
      rw [State.part_updPart_self]
      exact SMap.get_put_self _ _ _ _
    · have used : ((s.ledgerOf n).any (fun i => (s.led i).cq == q) || x.answers.any (fun a => a.cq == q)) = true := by
        rw [Bool.or_eq_true, List.any_eq_true, List.any_eq_true]
        simpa using bound
      rw [if_neg cq, if_neg (State.cq_destroyable there unbound), if_pos used]
    · obtain ⟨sq, absent⟩ | ⟨cq, absent⟩ := absent
      · rw [if_pos sq, if_pos (by rw [absent]; rfl)]
      · rw [if_neg cq, if_pos (by rw [absent]; rfl)]
  · obtain ⟨body, runs⟩ := State.anteSet_ok takes valid fits
    refine ⟨_, body, runs, State.part_updPart_self _ _ _, fun k hk => ?_⟩
    rw [State.part_updPart, if_neg hk]
  · refine ⟨_, State.chainDefine_ok takes valid none room distinct there, ?_⟩
    rw [State.part_updPart_self]
    exact SMap.get_put_self _ _ _ _
  · rw [State.chainRelease_eq takes valid]
    refine ⟨fun there quiet => ?_, fun there active => ?_, fun absent => ?_⟩
    · rw [if_neg (by simpa using there), quiet]
      refine ⟨_, rfl, ?_⟩
      rw [State.part_updPart_self]
      exact SMap.get_put_self _ _ _ _
    · rw [if_neg (by simpa using there), active]
      rfl
    · rw [absent]
      rfl

/-! The operator's settings. -/

/-- A notice that the caller may acknowledge now (R393). -/
def Notice.open (x : Notice) (k : Nat) : Bool := x.num == k && x.posted && !x.acked

/-- Notice `k` is acknowledged. -/
def ackNotices (k : Nat) (l : List Notice) : List Notice := l.map (fun y => if y.num = k then { y with acked := true } else y)

theorem State.recallAck_eq {s : State} {m : MbxId} {tag : BitVec 16} {h : Held} (takes : Takes s m tag 0x0803 recallAckChk h) :
    exec (.recallAck m tag) s = .next (if (s.part (targetOf m h)).notices.any (fun x => x.open (at' h.payload 0 4)) then
      (s.updPart (targetOf m h) (fun x => { x with notices := ackNotices (at' h.payload 0 4) x.notices })).answer m h .ok []
      else s.answer m h .notPermitted []) := by
  rw [exec_recallAck, execRecallAck, State.serve_takes takes]
  rfl

theorem acked_of_ackNotices {k : Nat} {l : List Notice} {x : Notice} (h : x ∈ ackNotices k l) (num : x.num = k) : x.acked = true := by
  obtain ⟨y, -, rfl⟩ := List.mem_map.1 h
  split
  · rfl
  · rename_i other
    rw [if_neg other] at num
    exact absurd num other

theorem items_ackNotices (k : Nat) (l : List Notice) : (ackNotices k l).map (·.items) = l.map (·.items) := by
  unfold ackNotices
  rw [List.map_map]
  refine List.map_congr_left fun y _ => ?_
  rw [Function.comp_apply]
  split <;> rfl

/-- Settles O41. -/
theorem operatorSettings : Obligations.OperatorSettings := by
  intro s m tag h n p
  refine ⟨fun takes => ?_, fun takes => ?_, fun takes => ?_⟩
  · intro k
    rw [State.recallAck_eq takes]
    refine ⟨fun ⟨x, mem, num, posted, acked⟩ => ?_, fun none => ?_⟩
    · rw [if_pos (List.any_eq_true.2 ⟨x, mem, by simpa [Notice.open] using ⟨⟨num, posted⟩, acked⟩⟩)]
      refine ⟨_, rfl, ?_⟩
      rw [State.part_updPart_self]
      exact ⟨fun y hy num => acked_of_ackNotices hy num, items_ackNotices _ _⟩
    · rw [if_neg]
      rw [List.any_eq_true]
      rintro ⟨x, mem, isOpen⟩
      simp only [Notice.open, Bool.and_eq_true, beq_iff_eq, Bool.not_eq_true'] at isOpen
      obtain ⟨⟨num, posted⟩, acked⟩ := isOpen
      obtain no | no := none x mem num
      · rw [posted] at no; cases no
      · rw [acked] at no; cases no
  · rw [exec_checkSplitEnable, execCheckSplitEnable, State.serve_takes takes]
    dsimp only
    refine ⟨fun conf => ?_, fun conf => ?_⟩
    · rw [if_pos conf]
    · rw [if_neg (by rw [conf]; exact Bool.false_ne_true)]
  · intro a
    rw [exec_powerEnvelope, execPowerEnvelope, State.serve_takes takes]
    have watts : a.plant.watts = s.plant.watts := by
      dsimp only [a]
      split <;> rfl
    rw [← watts]

end Sys2Proof.Machine
end

section
/-!
PROOFS. Mappings and regions change (O42).
-/

namespace Sys2Proof.Machine

/-! Roots. -/

/-- A draining root goes or stays; the current one, its number and its epoch stay (R236). -/
theorem State.releaseRoot_root (s : State) (n : Nat) : ((s.releaseRoot n).part n).root = (s.part n).root ∧
    ((s.releaseRoot n).part n).epoch = (s.part n).epoch ∧ ((s.releaseRoot n).part n).rootId = (s.part n).rootId ∧
    (s.releaseRoot n).regions = s.regions := by
  unfold State.releaseRoot
  dsimp only
  repeat' split
  all_goals simp

/-- A root that nothing uses is released, and the command that waits for it completes (R236). -/
theorem State.releaseRoot_drained {s : State} {n id : Nat} {r : Word} (old : (s.part n).old = some (id, r)) (idle : s.rootInUse n id = false) :
    ((s.releaseRoot n).part n).old = none ∧ ((s.releaseRoot n).part n).mapWait = none ∧ ((s.releaseRoot n).part n).root = (s.part n).root := by
  unfold State.releaseRoot
  dsimp only
  rw [old]
  dsimp only
  rw [if_neg (by rw [idle]; exact Bool.false_ne_true)]
  repeat' split
  all_goals simp

/-- A new root is in force at once, with the next number and the next epoch (R234). -/
theorem State.newRoot_root (s : State) (n : Nat) (r : Word) (w : Option MapWait) : ((s.newRoot n r w).part n).root = r ∧
    ((s.newRoot n r w).part n).epoch = (s.part n).epoch + 1 ∧ ((s.newRoot n r w).part n).rootId = (s.part n).rootId + 1 ∧
    (s.newRoot n r w).regions = s.regions := by
  unfold State.newRoot
  obtain ⟨root, epoch, id, regions⟩ := State.releaseRoot_root (s.updPart n (fun p => { p with
    old := some (p.rootId, p.root), oldEpoch := p.epoch, root := r, rootId := p.rootId + 1, epoch := p.epoch + 1,
    mapWait := w, drainedEvent := false })) n
  rw [State.part_updPart_self] at root epoch id
  exact ⟨root, epoch, id, regions⟩

section
variable {s : State} {m : MbxId} {tag : BitVec 16} {h : Held}

/-! MAP_UPDATE. -/

theorem State.mapUpdate_draining (takes : Takes s m tag 0x0401 mapChk h) (valid : s.valid (targetOf m h) = true)
    (old : (s.part (targetOf m h)).old ≠ none) : exec (.mapUpdate m tag) s = .next (s.answer m h .notQuiet []) := by
  rw [exec_mapUpdate, execMapUpdate, State.serve_takes takes]
  dsimp only
  rw [valid, if_neg (by simp), if_pos (Option.isSome_iff_ne_none.2 old)]

theorem State.mapUpdate_eq (takes : Takes s m tag 0x0401 mapChk h) (valid : s.valid (targetOf m h) = true)
    (old : (s.part (targetOf m h)).old = none) : exec (.mapUpdate m tag) s = .next (
      if (changesOf h.payload).any (fun c => c.map && !s.physOk (targetOf m h) c.pa c.len c.page) then s.answer m h .notPermitted []
      else match s.changed (targetOf m h) (changesOf h.payload) with
        | none => s.answer m h .notPermitted []
        | some (r, s') =>
          if s.rgnTouched (targetOf m h) (changesOf h.payload) then s.answer m h .regionBusy []
          else (s'.accept m h (bvBytes ((s.part (targetOf m h)).epoch + 1))).newRoot (targetOf m h) r
            (some ⟨m, h.tag, bvBytes ((s.part (targetOf m h)).epoch + 1), none, h.bell + 1998000000⟩)) := by
  rw [exec_mapUpdate, execMapUpdate, State.serve_takes takes]
  dsimp only
  rw [valid, old]
  rfl

theorem State.physOk_all {s : State} {n : Nat} {cs : List Change} (good : ∀ c ∈ cs, c.map = true → s.physOk n c.pa c.len c.page = true) :
    ¬ cs.any (fun c => c.map && !s.physOk n c.pa c.len c.page) = true := by
  rw [List.any_eq_true]
  rintro ⟨c, mem, bad⟩
  rw [Bool.and_eq_true, Bool.not_eq_true'] at bad
  rw [good c mem bad.1] at bad
  cases bad.2

/-! Regions. -/

theorem State.regionCreate_ok (takes : Takes s m tag 0x0402 regionCreateChk h) (valid : s.valid (targetOf m h) = true)
    (old : (s.part (targetOf m h)).old = none) {g : Region} (is : regionOf (targetOf m h) h.payload = g)
    (good : ∀ c ∈ g.changes true, s.physOk (targetOf m h) c.pa c.len c.page = true) (touched : s.rgnTouched (targetOf m h) (g.changes true) = false)
    (room : (s.regionsOf (targetOf m h)).length < (s.part (targetOf m h)).entry.regionQuota.toNat) (meets : s.regionMeets (targetOf m h) g = false)
    {r : Word} {b : State} (root : s.changed (targetOf m h) (g.changes true) = some (r, b)) :
    exec (.regionCreate m tag) s = .next (((b.setRegion (b.chooseSlot (targetOf m h)) g).accept m h (leBytes 2 (b.chooseSlot (targetOf m h)))).newRoot
      (targetOf m h) r (some ⟨m, h.tag, leBytes 2 (b.chooseSlot (targetOf m h)) ++ zeros 2 ++ bvBytes ((s.part (targetOf m h)).epoch + 1),
        some (b.chooseSlot (targetOf m h)), h.bell + 1998000000⟩)) := by
  have mapped : (g.changes true).any (fun c => !s.physOk (targetOf m h) c.pa c.len c.page) = false := by
    rw [List.any_eq_false]
    exact fun c hc => by simp [good c hc]
  rw [exec_regionCreate, execRegionCreate, State.serve_takes takes]
  dsimp only
  rw [valid, old, is, if_neg (by simp), if_neg (by simp), mapped, meets, touched, if_neg (by simp [room]), root]

theorem State.region_congr {s t : State} (h : t.regions = s.regions) (k : Nat) : t.region k = s.region k := by
  unfold State.region
  rw [h]

/-- An update of a region that serves or waits becomes pending; the one that it replaces ends SUPERSEDED (R256). -/
theorem State.regionUpdate_pends (takes : Takes s m tag 0x0403 regionUpdateChk h) (own : s.holdsSlot (targetOf m h) (at' h.payload 0 2) = true)
    (live : (s.region (at' h.payload 0 2)).state ≠ .retiring) (size : at' h.payload 16 8 = (s.region (at' h.payload 0 2)).size) :
    ∃ (s' : State) (u : RUpdate), exec (.regionUpdate m tag) s = .next s' ∧ (s'.region (at' h.payload 0 2)).pending = some u ∧ u.tag = h.tag ∧
      u.mbx = m ∧ u.src = BitVec.ofNat 64 (at' h.payload 8 8) ∧
      (s'.region (at' h.payload 0 2)).version = (s.region (at' h.payload 0 2)).version := by
  rw [exec_regionUpdate, execRegionUpdate, State.serve_takes takes]
  dsimp only
  rw [own, if_neg (by simp), if_neg live, if_neg (by simp [size])]
  refine ⟨_, { mbx := m, tag := h.tag, src := BitVec.ofNat 64 (at' h.payload 8 8), expect := if at' h.payload 2 1 = 1 then some (slice h.payload 24 48) else none }, rfl, ?_⟩
  rw [State.region_updRegion_self]
  refine ⟨rfl, rfl, rfl, rfl, ?_⟩
  dsimp only
  split
  · simp
  · simp

/-- A region that retires serves no new request, and its pending update ends SUPERSEDED (R260). -/
theorem State.regionRetire_begins (takes : Takes s m tag 0x0404 regionRetireChk h) (own : s.holdsSlot (targetOf m h) (at' h.payload 0 2) = true)
    (live : (s.region (at' h.payload 0 2)).state ≠ .retiring) : ∃ s', exec (.regionRetire m tag) s = .next s' ∧
      (s'.region (at' h.payload 0 2)).state = .retiring ∧ (s'.region (at' h.payload 0 2)).pending = none ∧
      (s'.region (at' h.payload 0 2)).retire = some (m, h.tag) := by
  rw [exec_regionRetire, execRegionRetire, State.serve_takes takes]
  dsimp only
  rw [own, if_neg (by simp), if_neg live]
  refine ⟨_, rfl, ?_⟩
  rw [State.region_updRegion_self]
  exact ⟨rfl, rfl, rfl⟩

end

section
variable {s : State} {slot : SlotId} {g : Region} (is : s.region slot.toNat = g)
include is

theorem State.regionUpdateStart_runs {o : PartId} {u : RUpdate} {es : List Extent} {b : State} (owner : g.owner = some o) (free : g.running = none)
    (pending : g.pending = some u) (unbound : g.boundOld = 0) (live : g.state ≠ .retiring)
    (source : s.range (s.part o.val).root .load u.src.toNat g.size = (some es, b)) : exec (.regionUpdateStart slot) s =
      .next (b.updRegion slot.toNat (fun x => { x with
        pending := none, running := some { u with srcExt := es, rootId := (s.part o.val).rootId }, state := .updating })) := by
  rw [exec_regionUpdateStart]
  unfold execRegionUpdateStart
  dsimp only
  rw [is, owner, free, pending]
  dsimp only
  rw [if_neg (by simp [unbound, live]), source]

/-- An update ends only once its whole source has been hashed (R257). -/
theorem State.regionUpdateComplete_waits {u : RUpdate} (running : g.running = some u) (short : u.segs < g.segments) :
    exec (.regionUpdateComplete slot) s = .next s := by
  rw [exec_regionUpdateComplete]
  unfold execRegionUpdateComplete
  dsimp only
  rw [is, running]
  dsimp only
  rw [if_pos short]

/-- The new version comes into force where the digest is the expected one, or none is (R258). -/
theorem State.regionUpdateComplete_good {u : RUpdate} (running : g.running = some u) (whole : g.segments ≤ u.segs)
    (good : u.expect = none ∨ u.expect = some (sha384 u.data)) : exec (.regionUpdateComplete slot) s =
      .next (State.endUpdate (s.updRegion slot.toNat (fun x => { x with
          oldVersion := g.version, oldDigest := g.digest, boundOld := g.boundCur, boundCur := 0, version := nextVersion g.version,
          buf := g.freeBuf, digest := sha384 u.data }))
        slot.toNat .ok (bvBytes (nextVersion g.version) ++ zeros 4 ++ sha384 u.data)) := by
  have matches_ : ¬ (u.expect != none && u.expect != some (sha384 u.data)) = true := by
    obtain none | some := good
    · simp [none]
    · simp [some]
  rw [exec_regionUpdateComplete]
  unfold execRegionUpdateComplete
  dsimp only
  rw [is, running]
  dsimp only
  rw [if_neg (Nat.not_lt.2 whole), if_neg matches_]
  unfold State.updRegion
  rw [is]

theorem State.regionUpdateComplete_bad {u : RUpdate} {d : List Byte} (running : g.running = some u) (whole : g.segments ≤ u.segs)
    (expect : u.expect = some d) (bad : d ≠ sha384 u.data) : exec (.regionUpdateComplete slot) s = .next (s.endUpdate slot.toNat .badSignature []) := by
  rw [exec_regionUpdateComplete]
  unfold execRegionUpdateComplete
  dsimp only
  rw [is, running]
  dsimp only
  rw [if_neg (Nat.not_lt.2 whole), if_pos (by simp [expect, bad])]

/-- A retiring region that nothing binds is freed, and its pages are unmapped by a new root (R260). -/
theorem State.regionRetireComplete_frees {o : PartId} {r : Word} {b : State} (owner : g.owner = some o) (retiring : g.state = .retiring)
    (free : g.running = none) (cur : g.boundCur = 0) (prev : g.boundOld = 0) (old : (s.part o.val).old = none)
    (root : s.changed o.val (g.changes false) = some (r, b)) : ∃ s', exec (.regionRetireComplete slot) s = .next s' ∧
      s'.region slot.toNat = {} ∧ (s'.part o.val).root = r := by
  obtain ⟨newRoot, -, -, regions⟩ := State.newRoot_root (b.setRegion slot.toNat {}) o.val r none
  have freed : ((b.setRegion slot.toNat {}).newRoot o.val r none).region slot.toNat = {} :=
    (State.region_congr regions _).trans (State.region_setRegion_self _ _ _)
  rw [exec_regionRetireComplete]
  unfold execRegionRetireComplete
  dsimp only
  rw [is, owner]
  dsimp only
  rw [if_pos ⟨retiring, free, cur, prev, old⟩, root]
  dsimp only
  split
  · exact ⟨_, rfl, by simpa using freed, by simpa using newRoot⟩
  · exact ⟨_, rfl, freed, newRoot⟩

end

/-- 1.998 s after its bell a mapping change completes though its old root still drains (R236). -/
theorem State.mapTimeout_ends {s : State} {f : PartId} {w : MapWait} (wait : (s.part f).mapWait = some w) :
    ∃ s', exec (.mapUpdateDrainTimeout f) s = .next s' ∧ (s'.part f).mapWait = none ∧ (s'.part f).drainedEvent = true ∧
      s'.now = max s.now w.deadline := by
  rw [exec_mapUpdateDrainTimeout]
  unfold execMapUpdateDrainTimeout
  dsimp only
  rw [wait]
  exact ⟨_, rfl, by simp⟩

/-- Settles O42. -/
theorem mapsAndRegions : Obligations.MapsAndRegions := by
  intro s m tag h f slot n p cs k
  refine ⟨fun takes valid => ⟨State.mapUpdate_draining takes valid, fun old bad => ?_, fun old good => ⟨fun none => ?_, fun r b root => ⟨fun busy => ?_, fun free => ?_⟩⟩⟩,
    fun r w => ?_, fun takes valid old good touched room meets r b root => State.regionCreate_ok takes valid old rfl good touched room meets root,
    State.regionUpdate_pends, State.regionRetire_begins, ?_, fun id r old idle => ?_, fun w => State.mapTimeout_ends⟩
  · obtain ⟨c, mem, map, phys⟩ := bad
    rw [State.mapUpdate_eq takes valid old, if_pos (List.any_eq_true.2 ⟨c, mem, by rw [map, phys]; rfl⟩)]
  · rw [State.mapUpdate_eq takes valid old, if_neg (State.physOk_all good), none]
  · rw [State.mapUpdate_eq takes valid old, if_neg (State.physOk_all good), root]
    exact congrArg _ (if_pos busy)
  · rw [State.mapUpdate_eq takes valid old, if_neg (State.physOk_all good), root]
    exact congrArg _ (if_neg (by rw [free]; exact Bool.false_ne_true))
  · obtain ⟨root, epoch, id, -⟩ := s.newRoot_root n r w
    exact ⟨root, epoch, id⟩
  · intro g o owner
    exact ⟨fun u es b free pending unbound live source => State.regionUpdateStart_runs rfl owner free pending unbound live source,
      fun u running short => State.regionUpdateComplete_waits rfl running short,
      fun u running whole => ⟨fun good => State.regionUpdateComplete_good rfl running whole good,
        fun d expect bad => State.regionUpdateComplete_bad rfl running whole expect bad⟩,
      fun r b retiring free cur prev old root => State.regionRetireComplete_frees rfl owner retiring free cur prev old root⟩
  · exact ⟨s.releaseRoot f, rfl, State.releaseRoot_drained old idle⟩

end Sys2Proof.Machine
end

section
/-!
PROOFS. Protected changes (O43).
-/

namespace Sys2Proof.Machine

/-! Work for the engines. -/

/-- Work that waits for no entropy is queued once, whatever the entropy unit's state (R76). -/
theorem State.addTask_fed {s : State} {w : Work} {needs : List Need} (new : ∀ t ∈ s.eng.tasks, t.work ≠ w)
    (fed : s.starved { work := w, needs := needs, since := s.now } = false) : s.addTask w needs =
      { s with eng := { s.eng with tasks := s.eng.tasks ++ [{ work := w, needs := needs, since := s.now }] } } := by
  have absent : s.eng.tasks.any (fun t => t.work == w) = false := by
    rw [List.any_eq_false]
    exact fun t ht => by simpa using new t ht
  have fed' : (s.setTasks (fun ts => ts ++ [{ work := w, needs := needs, since := s.now }])).starved { work := w, needs := needs, since := s.now } = false :=
    fed
  unfold State.addTask
  rw [absent, if_neg Bool.false_ne_true]
  dsimp only
  rw [fed', Bool.and_false]
  rfl

/-- A task of one need of the signature engine is finished in its slot (R480). -/
theorem State.serveSlot_signed {s : State} {c : Nat} {t : Task} {m : MbxId} {tag : BitVec 16} {h : Held} (task : s.taskFor .signature c = some t)
    (work : t.work = .signed m tag) (needs : t.needs = [.p384])
    (held : (s.setTasks (fun ts => ts.filter (fun x => x.work != t.work))).heldOf m tag [0x0301, 0x0302, 0x0303, 0x0304] = some h)
    (gate : (s.setTasks (fun ts => ts.filter (fun x => x.work != t.work))).gate m h = none) :
    s.serveSlot .signature c = (s.setTasks (fun ts => ts.filter (fun x => x.work != t.work))).runSigned m h := by
  unfold State.serveSlot
  rw [task]
  dsimp only
  unfold State.advance
  rw [needs]
  dsimp only
  unfold State.proceed
  rw [if_pos (show ([] : List Need).isEmpty = true from rfl)]
  generalize s.setTasks (fun ts => ts.filter (fun x => x.work != t.work)) = z at held gate ⊢
  unfold State.finishTask
  rw [work]
  dsimp only
  rw [held]
  dsimp only
  rw [gate]

section
variable {s a : State} {m : MbxId} {h : Held}

/-! Signed commands. -/

theorem State.runSigned_bad (bad : s.signedOk m h = false) : s.runSigned m h = s.answer m h .badSignature [] := by
  unfold State.runSigned
  rw [bad]
  rfl

/-- A signature that verifies gives a new nonce and the command's own effect (R383). -/
theorem State.runSigned_good (good : s.signedOk m h = true) (nonce : s.newNonce m = a) : s.runSigned m h =
    if h.opcode = 0x0301 then a.propose m h else if h.opcode = 0x0302 then a.approve m h
    else if h.opcode = 0x0303 then a.commitAsk m h else a.withdrawProposal m h := by
  unfold State.runSigned
  rw [good, nonce]
  rfl

/-- A pending proposal that touches none of the fields and none of the partitions of a new one (R419). -/
theorem State.noConflict {body : List Byte} {aff : List Nat} (apart : ∀ x ∈ a.cfg.proposals,
      (∀ u ∈ loosePatches x.body, ∀ v ∈ loosePatches body, u.1 ≠ v.1) ∧ ∀ n ∈ a.affectedOf (loosePatches x.body), n ∉ aff) :
    a.cfg.proposals.any (fun p => (loosePatches p.body).any (fun x => (loosePatches body).any (fun y => x.1 == y.1)) ||
      (a.affectedOf (loosePatches p.body)).any aff.contains) = false := by
  rw [List.any_eq_false]
  intro x hx
  obtain ⟨fields, parts⟩ := apart x hx
  rw [Bool.or_eq_true, List.any_eq_true, List.any_eq_true]
  refine not_or.2 ⟨fun ⟨u, hu, shared⟩ => ?_, fun ⟨n, hn, mem⟩ => parts n hn (List.contains_iff_mem.1 mem)⟩
  obtain ⟨v, hv, same⟩ := List.any_eq_true.1 shared
  exact fields u hu v hv (beq_iff_eq.1 same)

theorem State.propose_adds {body : List Byte} {aff : List Nat} {ps : List (Nat × List Byte)} (is : unsigned h.payload = body)
    (affected : a.affectedOf (loosePatches body) = aff) (room : a.cfg.proposals.length < 8) (epoch : at' body 4 4 = a.cfg.prot.epoch.toNat)
    (apart : ∀ x ∈ a.cfg.proposals,
      (∀ u ∈ loosePatches x.body, ∀ v ∈ loosePatches body, u.1 ≠ v.1) ∧ ∀ n ∈ a.affectedOf (loosePatches x.body), n ∉ aff)
    (patches : bodyPatches body = some ps) (record : a.recordOk (a.cfg.prot.patched ps) = true) (may : a.mayAct h.cred aff = true)
    (debug : (a.cfg.prot.patched ps).debug ≠ 1 ∨ a.anyConf = false ∧ bit a.secWord 0 = false) :
    ∃ (b : State) (p : List Byte), a.propose m h = b.answer m h .ok p ∧ b.cfg.nextProposal = a.cfg.nextProposal + 1 ∧
      b.cfg.proposals = a.cfg.proposals ++ [{
        id := BitVec.ofNat 32 a.cfg.nextProposal, body := body, proposer := h.cred, propMbx := m, expires := h.bell + 600000000000 }] := by
  have conflict := State.noConflict (a := a) (body := body) apart
  have allowed : ((a.cfg.prot.patched ps).debug == 1 && (a.anyConf || bit a.secWord 0)) = false := by
    obtain no | ⟨conf, word⟩ := debug
    · rw [beq_eq_false_iff_ne.2 no, Bool.false_and]
    · rw [conf, word, Bool.or_self, Bool.and_false]
  unfold State.propose
  dsimp only
  rw [is, affected, if_neg (by rintro (other | clash); exacts [other epoch, by rw [conflict] at clash; cases clash]), patches]
  dsimp only
  rw [record, may, allowed, if_neg (by simp [room])]
  exact ⟨_, _, rfl, rfl, rfl⟩

theorem State.approve_signs {q : Proposal} (found : a.proposal (BitVec.ofNat 32 (at' h.payload 0 4)) = some q) (time : a.now ≤ q.expires)
    (digest : slice h.payload 8 48 = sha384 q.body) (first : q.approver = none)
    (pair : a.pairOk q.proposer h.cred (a.affectedOf ((bodyPatches q.body).getD [])) = true) :
    a.approve m h = ((a.setProposal (BitVec.ofNat 32 (at' h.payload 0 4)) (fun _ =>
      some { q with approver := some h.cred, apprMbx := some m, commitBy := h.bell + 600000000000 })).answer m h .ok
        (leBytes 8 (h.bell + 600000000000))).proposalEvent
      { q with approver := some h.cred, apprMbx := some m, commitBy := h.bell + 600000000000 } 1 := by
  unfold State.approve
  dsimp only
  rw [found]
  dsimp only
  rw [if_neg (Nat.not_lt.2 time), if_neg (not_not.2 digest), if_neg (by simp [first, pair])]

theorem State.commitAsk_waits {q : Proposal} {x : Nat} (found : a.proposal (BitVec.ofNat 32 (at' h.payload 0 4)) = some q)
    (approver : q.approver = some x) (own : q.proposer = h.cred ∨ x = h.cred) (time : a.now ≤ q.commitBy) (fresh : q.committing = false)
    (free : a.cfg.wait = none) (pair : a.pairOk q.proposer x (a.affectedOf ((bodyPatches q.body).getD [])) = true) :
    let id := BitVec.ofNat 32 (at' h.payload 0 4)
    let ps := (bodyPatches q.body).getD []
    let b := (a.accept m h []).setProposal id (fun p => some { p with committing := true })
    let c := { b with cfg := { b.cfg with wait := some (.commit m h.tag id (a.affectedOf ps) (h.bell + 1898000000 - b.zeroTime (b.cfg.prot.patched ps))) } }
    a.commitAsk m h = (c.holdAll (a.affectedOf ps)).checkWait := by
  intro id ps b c
  have asks : ¬ (q.proposer ≠ h.cred ∧ q.approver ≠ some h.cred) := by
    rintro ⟨notFirst, notSecond⟩
    obtain own | own := own
    · exact notFirst own
    · exact notSecond (by rw [approver, own])
  unfold State.commitAsk
  dsimp only
  rw [found]
  dsimp only
  rw [if_neg asks, approver]
  dsimp only
  rw [if_neg (Nat.not_lt.2 time), if_neg (by simp [fresh, free, pair])]

theorem State.withdrawProposal_drops {q : Proposal} (found : a.proposal (BitVec.ofNat 32 (at' h.payload 0 4)) = some q)
    (own : q.proposer = h.cred ∨ q.approver = some h.cred) (fresh : q.committing = false) :
    a.withdrawProposal m h = ((a.setProposal (BitVec.ofNat 32 (at' h.payload 0 4)) (fun _ => none)).answer m h .ok []).proposalEvent q 4 := by
  have asks : ¬ ((q.proposer ≠ h.cred ∧ q.approver ≠ some h.cred) ∨ q.committing = true) := by
    rintro (⟨notFirst, notSecond⟩ | committing)
    · exact own.elim notFirst notSecond
    · rw [fresh] at committing; cases committing
  unfold State.withdrawProposal
  dsimp only
  rw [found]
  exact if_neg asks

end

/-! Proposals that end. -/

theorem State.proposal_dropped (s : State) (id : BitVec 32) : (s.setProposal id (fun _ => none)).proposal id = none := by
  unfold State.proposal State.setProposal
  rw [List.find?_eq_none]
  intro p hp
  obtain ⟨x, -, kept⟩ := List.mem_filterMap.1 hp
  split at kept
  · cases kept
  · rename_i other
    cases kept
    simpa using other

theorem State.proposalEvent_same (s : State) (p : Proposal) (st : Nat) :
    (s.proposalEvent p st).cfg = s.cfg ∧ (s.proposalEvent p st).parts = s.parts := by
  unfold State.proposalEvent
  exact ⟨by simp, by simp⟩

theorem State.proposalExpiry_drops {s : State} {id : BitVec 32} {q : Proposal} (found : s.proposal id = some q) (fresh : q.committing = false) :
    ∃ s', exec (.proposalExpiry id) s = .next s' ∧ s'.cfg.prot = s.cfg.prot ∧ s'.proposal id = none ∧ s'.parts = s.parts := by
  rw [exec_proposalExpiry]
  unfold execProposalExpiry
  rw [found]
  dsimp only
  rw [fresh, if_neg Bool.false_ne_true]
  refine ⟨_, rfl, ?_⟩
  obtain ⟨cfg, parts⟩ := State.proposalEvent_same
    ((s.atLeast ((if q.approver.isSome then q.commitBy else q.expires) + 1)).setProposal id (fun _ => none)) q 3
  refine ⟨by rw [cfg]; rfl, ?_, by rw [parts]; rfl⟩
  unfold State.proposal
  rw [cfg]
  exact State.proposal_dropped _ id

/-- Where admission is resumed it stays held for a partition that waits to become confidential (R409, R454). -/
theorem State.part_resume (s : State) (ns : List Nat) (n : Nat) : (s.resume ns).part n =
    if n ∈ ns then { s.part n with hold := (s.part n).awaitsConf } else s.part n := by
  induction ns generalizing s with
  | nil => rfl
  | cons k ns ih =>
    have step : s.resume (k :: ns) = (s.updPart k (fun p => { p with hold := p.awaitsConf })).resume ns := rfl
    rw [step, ih, State.part_updPart]
    by_cases here : n = k
    · subst here
      simp only [if_true, List.mem_cons, true_or]
      split <;> rfl
    · rw [if_neg here]
      simp only [List.mem_cons, here, false_or]

/-- The record that is written is in force with the next epoch, and admission resumes (R411, R421). -/
theorem State.recordWritten_ends {s : State} {m : MbxId} {tag : BitVec 16} {id : BitVec 32} {aff : List Nat} (up : s.i3cUp = true)
    (wait : s.cfg.wait = some (.committing m tag id aff)) : ∃ s', exec .protectedRecordWritten s = .next s' ∧ s'.cfg.wait = none ∧
      s'.cfg.prot = { s.cfg.prot with epoch := s.cfg.prot.epoch + 1, authentic := true } ∧ s'.cfg.protInB = !s.cfg.protInB ∧
      ∀ n ∈ aff, (s'.part n).hold = (s.part n).awaitsConf := by
  have same : ∀ (t : State) (ns : List Nat), (t.resume ns).cfg = t.cfg := by
    intro t ns
    unfold State.resume
    refine List.foldlRecOn (motive := fun u : State => u.cfg = t.cfg) ns _ rfl (fun u ih n _ => ih)
  rw [exec_protectedRecordWritten]
  unfold execProtectedRecordWritten
  dsimp only
  rw [up, if_neg (by simp), wait]
  dsimp only
  unfold State.endWait
  split
  all_goals
    refine ⟨_, rfl, ?_, ?_, ?_, fun n hn => ?_⟩
    · simp [same, State.setProposal]
    · simp [same, State.setProposal]
    · simp [same, State.setProposal]
    · simp only [State.eventAll_reads, State.commandDone_reads]
      rw [State.part_resume, if_pos hn]
      rfl

/-- Settles O43. -/
theorem protection : Obligations.Protection := by
  intro s m tag h q a id
  refine ⟨fun e mem takes new => ?_, fun t c task work needs held gate => State.serveSlot_signed task work needs held gate, State.runSigned_bad,
    fun op good room epoch apart ps patches record may debug => ?_, fun op good found time digest first pair => ?_,
    fun x op good found approver own time fresh free pair => ?_, fun op good found own fresh => ?_, State.proposalExpiry_drops,
    fun down => ?_, fun aff up wait => ?_⟩
  · simp only [List.mem_cons, List.not_mem_nil, or_false] at mem
    obtain rfl | rfl | rfl | rfl := mem
    · rw [exec_protectPropose, execProtectPropose, State.serve_takes takes]
      exact congrArg _ (State.addTask_fed new rfl)
    · rw [exec_protectApprove, execProtectApprove, State.serve_takes takes]
      exact congrArg _ (State.addTask_fed new rfl)
    · rw [exec_protectCommit, execProtectCommit, State.serve_takes takes]
      exact congrArg _ (State.addTask_fed new rfl)
    · rw [exec_protectWithdraw, execProtectWithdraw, State.serve_takes takes]
      exact congrArg _ (State.addTask_fed new rfl)
  · rw [State.runSigned_good good rfl, if_pos op]
    exact State.propose_adds rfl rfl room epoch apart patches record may debug
  · rw [State.runSigned_good good rfl, if_neg (by rw [op]; decide), if_pos op]
    exact State.approve_signs found time digest first pair
  · rw [State.runSigned_good good rfl, if_neg (by rw [op]; decide), if_neg (by rw [op]; decide), if_pos op]
    exact State.commitAsk_waits found approver own time fresh free pair
  · rw [State.runSigned_good good rfl, if_neg (by rw [op]; decide), if_neg (by rw [op]; decide), if_neg (by rw [op]; decide)]
    exact State.withdrawProposal_drops found own fresh
  · rw [exec_protectedRecordWritten]
    unfold execProtectedRecordWritten
    rw [down]
    rfl
  · exact State.recordWritten_ends up wait

end Sys2Proof.Machine
end

section
/-!
PROOFS. Images, modes, pace lock and self-tests (O44).
-/

namespace Sys2Proof.Machine

section
variable {s : State} {m : MbxId} {tag : BitVec 16} {h : Held}

/-! Images. -/

theorem State.flashWrite_writes {toB : Bool} {img : List Byte} {rest : List (MbxId × BitVec 16 × Bool × List Byte)} (up : s.i3cUp = true)
    (flash : s.cfg.flash = (m, tag, toB, img) :: rest) : ∃ s', exec .flashWriteComplete s = .next s' ∧ s'.cfg = { s.cfg with
      flash := rest, slotA := if toB then s.cfg.slotA else img, slotB := if toB then img else s.cfg.slotB } := by
  rw [exec_flashWriteComplete]
  unfold execFlashWriteComplete
  rw [up, if_neg (by simp), flash]
  exact ⟨_, rfl, by simp⟩

theorem State.imageRead_bad {toB : Bool} {bs : List Byte} {st : Status} (bad : s.loadCheck bs toB = some st) :
    s.imageRead m tag toB bs = s.commandDone m tag st [] := by
  unfold State.imageRead
  rw [bad]

theorem State.imageRead_good {toB : Bool} {bs : List Byte} (good : s.loadCheck bs toB = none) :
    s.imageRead m tag toB bs = { s with cfg := { s.cfg with flash := s.cfg.flash ++ [(m, tag, toB, bs)] } } := by
  unfold State.imageRead
  rw [good]

/-! Modes. -/

theorem State.setMode_waits (takes : Takes s m tag 0x0202 setModeChk h) (free : s.cfg.wait = none)
    (there : at' h.payload 0 1 = 0 ∨ SMap.get none s.cfg.overlays (at' h.payload 0 1) ≠ none) :
    let a := s.accept m h []
    let o := at' h.payload 0 1
    let b := { a with cfg := { a.cfg with envelope := none, early := some o, wait := some (.setMode m h.tag o (a.affectedBy o) (h.bell + 1998000000)) } }
    exec (.setMode m tag) s = .next ((b.holdAll (a.affectedBy o)).applyDevice).checkWait := by
  intro a o b
  have allowed : ¬ ((o != 0 && (SMap.get none s.cfg.overlays o).isNone) || s.cfg.wait.isSome) = true := by
    obtain zero | there := there
    · simp [o, zero, free]
    · simp [o, there, free]
  rw [exec_setMode, execSetMode, State.serve_takes takes]
  dsimp only
  rw [if_neg allowed]

theorem State.setMode_refused (takes : Takes s m tag 0x0202 setModeChk h) (busy : s.cfg.wait ≠ none) :
    exec (.setMode m tag) s = .next (s.answer m h .notPermitted []) := by
  rw [exec_setMode, execSetMode, State.serve_takes takes]
  dsimp only
  rw [if_pos (by simp [Option.isSome_iff_ne_none.2 busy])]

theorem State.paceLock_waits (takes : Takes s m tag 0x0A02 paceLockChk h) (valid : s.valid (targetOf m h) = true)
    (may : at' h.payload 0 1 = 1 ∨ s.isStrict (targetOf m h) = false) : exec (.paceLock m tag) s =
      .next ((s.accept m h []).addJob (targetOf m h) (.paceLock m h.tag (if at' h.payload 0 1 = 1 then at' h.payload 2 2 else 0))) := by
  have allowed : ¬ (!s.valid (targetOf m h) || (!(at' h.payload 0 1 == 1) && s.isStrict (targetOf m h))) = true := by
    obtain lock | lent := may
    · simp [valid, lock]
    · simp [valid, lent]
  rw [exec_paceLock, execPaceLock, State.serve_takes takes]
  dsimp only
  rw [if_neg allowed]
  simp only [beq_iff_eq]

theorem State.selfTest_device (takes : Takes s m tag 0x0902 selfTestRunChk h) (device : at' h.payload 0 1 = 0) :
    ∃ s', exec (.selfTestRun m tag) s = .next s' ∧ s'.cfg = { s.cfg with tests := s.cfg.tests ++ [(m, h.tag, none)] } := by
  rw [exec_selfTestRun, execSelfTestRun, State.serve_takes takes]
  dsimp only
  rw [if_pos device]
  exact ⟨_, rfl, by simp⟩

theorem State.selfTest_partition (takes : Takes s m tag 0x0902 selfTestRunChk h) (own : at' h.payload 0 1 ≠ 0) (valid : s.valid h.part = true) :
    exec (.selfTestRun m tag) s = .next ((s.accept m h []).addJob h.part (.selfTest m h.tag)) := by
  rw [exec_selfTestRun, execSelfTestRun, State.serve_takes takes]
  dsimp only
  rw [if_neg own, valid, if_neg (by simp)]

end

/-! Quiet points. -/

theorem State.quietPoint_busy {s : State} {n : Nat} (busy : s.isQuiet n = false) : s.quietPoint n = s := by
  unfold State.quietPoint
  rw [busy]
  rfl

/-- At a quiet point without a key the jobs run in order (R409). -/
theorem State.quietPoint_runs {s : State} {n : Nat} (quiet : s.isQuiet n = true) (key : (s.part n).pendKey = none) :
    s.quietPoint n = ((s.part n).quiet.foldl (fun s j => s.runJob n j) (s.updPart n (fun p => { p with quiet := [] }))).checkWait := by
  unfold State.quietPoint
  rw [quiet, key]
  rfl

theorem State.checkWait_none {s : State} (none : s.cfg.wait = none) : s.checkWait = s := by
  unfold State.checkWait
  rw [none]

/-- A STATE event, where one is due, changes neither the partitions nor the configuration. -/
theorem State.partChange_same (s : State) (n : Nat) (f : State → State) :
    (s.partChange n f).parts = (f s).parts ∧ (s.partChange n f).cfg = (f s).cfg := by
  unfold State.partChange
  dsimp only
  split
  · simp
  · exact ⟨rfl, rfl⟩

theorem State.part_congr {s t : State} (h : t.parts = s.parts) (k : Nat) : t.part k = s.part k := by
  unfold State.part
  rw [h]

/-- A pace lock that is in time takes its rate; a Strict partition is not unlocked (R45). -/
theorem State.runJob_paceLock {s : State} {n rate : Nat} {m : MbxId} {tag : BitVec 16} (time : s.now ≤ s.bellOf m tag + 1998000000) :
    (s.runJob n (.paceLock m tag rate)).cfg = s.cfg ∧ (s.runJob n (.paceLock m tag rate)).part n = { s.part n with
      paceRate := if rate ≠ 0 then some rate else if s.isStrict n then (s.part n).paceRate else none } := by
  have inTime : ¬ s.jobDeadline n (.paceLock m tag rate) < s.now := by
    unfold State.jobDeadline QuietJob.asker
    dsimp only
    omega
  unfold State.runJob
  rw [if_neg inTime]
  dsimp only
  by_cases refused : rate = 0 ∧ s.isStrict n = true
  · rw [if_pos (by simpa using refused)]
    exact ⟨by simp, by simp [refused]⟩
  · obtain ⟨parts, cfg⟩ := s.partChange_same n (fun s => s.updPart n (fun p => { p with paceRate := if rate = 0 then none else some rate }))
    have rateIs : (if rate = 0 then none else some rate) = if rate ≠ 0 then some rate else if s.isStrict n then (s.part n).paceRate else none := by
      by_cases zero : rate = 0
      · have lent : s.isStrict n = false := by simpa [zero] using refused
        simp [zero, lent]
      · simp [zero]
    rw [if_neg (by simpa using refused)]
    refine ⟨?_, ?_⟩
    · simp [cfg]
    · simp only [State.commandDone_reads]
      rw [State.part_congr parts, State.part_updPart_self, rateIs]

/-- The operation that waits at its deadline goes on where its partitions are quiet (R409). -/
theorem State.timeoutWait_quiet {s : State} {aff : List Nat} (d : Nat) (quiet : s.allQuiet aff = true) :
    s.timeoutWait aff d = (s.atLeast d).checkWait := by
  unfold State.timeoutWait
  exact if_pos quiet

theorem State.resume_same (s : State) (ns : List Nat) : (s.resume ns).cfg = s.cfg ∧ (s.resume ns).now = s.now := by
  unfold State.resume
  exact List.foldlRecOn (motive := fun u : State => u.cfg = s.cfg ∧ u.now = s.now) ns _ ⟨rfl, rfl⟩ (fun u ih n _ => ih)

theorem State.applyDevice_same (s : State) : s.applyDevice.cfg = s.cfg ∧ s.applyDevice.now = s.now := by
  unfold State.applyDevice
  exact List.foldlRecOn (motive := fun u : State => u.cfg = s.cfg ∧ u.now = s.now) _ _ ⟨rfl, rfl⟩ (fun u ih n _ => ih)

/-- A mode change that is late changes nothing (R409). -/
theorem State.timeoutWait_late {s : State} {m : MbxId} {tag : BitVec 16} {o : Nat} {aff : List Nat} {d : Nat}
    (wait : s.cfg.wait = some (.setMode m tag o aff d)) (busy : s.allQuiet aff = false) : (s.timeoutWait aff d).cfg.wait = none ∧
      (s.timeoutWait aff d).cfg.early = none ∧ (s.timeoutWait aff d).cfg.overlay = s.cfg.overlay ∧ (s.timeoutWait aff d).now = max s.now d := by
  have late : (s.atLeast d).allQuiet aff = false := busy
  unfold State.timeoutWait
  dsimp only
  rw [late, if_neg Bool.false_ne_true]
  unfold State.waitLate
  rw [State.atLeast_cfg, wait]
  dsimp only
  unfold State.endWait
  obtain ⟨cfg, now⟩ := State.resume_same { State.applyDevice { s.atLeast d with cfg := { s.cfg with early := none } } with
    cfg := { (State.applyDevice { s.atLeast d with cfg := { s.cfg with early := none } }).cfg with wait := none } } aff
  obtain ⟨device, time⟩ := State.applyDevice_same { s.atLeast d with cfg := { s.cfg with early := none } }
  simp only [State.commandDone_same]
  rw [cfg, now]
  dsimp only
  rw [device, time]
  exact ⟨rfl, rfl, rfl, State.atLeast_now _ _⟩

theorem State.quietTimeout_mode {s : State} {m : MbxId} {tag : BitVec 16} {o : Nat} {aff : List Nat} {d : Nat}
    (wait : s.cfg.wait = some (.setMode m tag o aff d)) : exec (.quietTimeout .modeOrCommit) s = .next (s.timeoutWait aff d) := by
  rw [exec_quietTimeout]
  unfold execQuietTimeout
  dsimp only
  rw [wait]

theorem State.quietTimeout_job {s : State} (n : PartId) (w : QuietWaiter) (mem : w ∈ [QuietWaiter.confidential n, .paceLock n, .selfTest n]) :
    exec (.quietTimeout w) s = .next (s.timeoutJob n w) := by
  simp only [List.mem_cons, List.not_mem_nil, or_false] at mem
  obtain rfl | rfl | rfl := mem <;> rfl

section
variable {s : State} {n : Nat} {w : QuietWaiter} {j : QuietJob} (found : (s.part n).quiet.find? (jobIs w) = some j)
include found

theorem State.timeoutJob_quiet (quiet : s.isQuiet n = true) : s.timeoutJob n w = (s.atLeast (s.jobDeadline n j)).quietPoint n := by
  have later : (s.atLeast (s.jobDeadline n j)).isQuiet n = true := quiet
  unfold State.timeoutJob
  rw [found]
  dsimp only
  rw [later, if_pos rfl]

/-- A job whose partition is busy at its deadline goes (R409). -/
theorem State.timeoutJob_late (busy : s.isQuiet n = false) : ((s.timeoutJob n w).part n).quiet = (s.part n).quiet.filter (fun x => x != j) := by
  have later : (s.atLeast (s.jobDeadline n j)).isQuiet n = false := busy
  unfold State.timeoutJob
  rw [found]
  dsimp only
  rw [later, if_neg Bool.false_ne_true]
  unfold State.jobLate
  simp only [State.commandDone_reads]
  rw [State.part_updPart_self]
  rfl

end

/-! Self-tests. -/

section
variable {s : State} {m : MbxId} {tag : BitVec 16} {failed tiles : BitVec 64} {rest : List (MbxId × BitVec 16 × Option Nat)}

/-- The oldest self-test of a partition ends with the groups that failed (R510). -/
theorem State.patternTest_partition {r : Nat} (tests : s.cfg.tests = (m, tag, some r) :: rest) :
    ∃ b : State, exec (.knownPatternTestEnd failed tiles) s = .next (b.commandDone m tag .ok (bvBytes (failed &&& 0x1FF))) ∧
      (failed &&& 0x1FF = 0 → b = { s with cfg := { s.cfg with tests := rest } }) := by
  rw [exec_knownPatternTestEnd]
  unfold execKnownPatternTestEnd
  rw [tests]
  refine ⟨_, rfl, fun none => ?_⟩
  rw [if_pos none]
  rfl

/-- The oldest self-test of the shared units ends with the groups that failed (R510). -/
theorem State.patternTest_device (tests : s.cfg.tests = (m, tag, none) :: rest) :
    ∃ b : State, exec (.knownPatternTestEnd failed tiles) s = .next (b.commandDone m tag .ok (bvBytes (failed &&& 0x7FE00))) ∧
      (failed &&& 0x7FE00 = 0 → b = { s with cfg := { s.cfg with tests := rest } }) := by
  rw [exec_knownPatternTestEnd]
  unfold execKnownPatternTestEnd
  rw [tests]
  refine ⟨_, rfl, fun none => ?_⟩
  rw [none]
  rfl

end

/-- Settles O44. -/
theorem modesAndTests : Obligations.ModesAndTests := by
  intro s m tag h bs n failed tiles p a
  refine ⟨fun takes => ⟨?_, ?_⟩, fun toB => ⟨fun st bad => State.imageRead_bad bad, fun good => State.imageRead_good good⟩, fun down => ?_,
    fun toB img rest up flash => State.flashWrite_writes up flash, State.setMode_waits, State.setMode_refused, State.paceLock_waits,
    fun takes => ⟨State.selfTest_device takes, State.selfTest_partition takes⟩, fun busy => congrArg _ (State.quietPoint_busy busy),
    fun quiet key none => ?_, fun rate quiet key job free time => ?_, fun o aff d wait => ⟨fun all => ?_, fun some => ?_⟩,
    fun w mem j found => ⟨fun quiet => ?_, fun busy => ?_⟩, fun r j rest tests => ⟨fun part => ?_, fun device => ?_⟩⟩
  · rw [exec_configLoad, execConfigLoad, State.serve_takes takes]
  · rw [exec_configLoad, execConfigLoad, State.serve_takes takes]
  · rw [exec_flashWriteComplete]
    unfold execFlashWriteComplete
    rw [down]
    rfl
  · rw [exec_quietPointReached, execQuietPointReached, State.quietPoint_runs quiet key, none]
    rfl
  · obtain ⟨cfg, part⟩ := State.runJob_paceLock (s := s.updPart n (fun p => { p with quiet := [] })) (n := n) (rate := rate) (m := m) (tag := tag) time
    rw [exec_quietPointReached, execQuietPointReached, State.quietPoint_runs quiet key, job, List.foldl_cons, List.foldl_nil,
      State.checkWait_none (by rw [cfg]; exact free)]
    refine ⟨_, rfl, ?_⟩
    have strict : (s.updPart n (fun p => { p with quiet := [] })).isStrict n = s.isStrict n := by
      unfold State.isStrict
      rw [State.part_updPart_self]
    rw [part, State.part_updPart_self, strict]
    exact ⟨rfl, rfl⟩
  · rw [State.quietTimeout_mode wait, State.timeoutWait_quiet d all]
  · exact ⟨_, State.quietTimeout_mode wait, State.timeoutWait_late wait some⟩
  · rw [State.quietTimeout_job n w mem, State.timeoutJob_quiet found quiet]
  · exact ⟨_, State.quietTimeout_job n w mem, State.timeoutJob_late found busy⟩
  · exact State.patternTest_partition (failed := failed) (tiles := tiles) (part ▸ tests)
  · exact State.patternTest_device (failed := failed) (tiles := tiles) (device ▸ tests)

end Sys2Proof.Machine
end

section
/-!
PROOFS. Reports, seeds and keys (O45).
-/

namespace Sys2Proof.Machine

/-! Reports. -/

section
variable {s : State} {m : MbxId} {h : Held} {part : Option PartId}

/-- Page 0 at Floor 0 is signed at once (R514). -/
theorem State.attest_floor0 (page : at' h.payload 32 2 = 0) (floor : s.boot.floor = 0) :
    let a := s.updBox m (fun b => { b with snap := b.snap.filter (fun sn => sn.nonce == slice h.payload 0 32) })
    s.attest m h part = a.giveReport m h a.floor0Secret := by
  intro a
  unfold State.attest
  dsimp only
  rw [if_pos page]
  exact if_pos floor

/-- Page 0 waits for its secret and its signature (R445). -/
theorem State.attest_first (page : at' h.payload 32 2 = 0) (floor : s.boot.floor ≠ 0) :
    s.attest m h part = (s.updBox m (fun b => { b with snap := b.snap.filter (fun sn => sn.nonce == slice h.payload 0 32) })).addTask
      (.report m h.tag part.isNone) [.gen false 48, .p384] := by
  unfold State.attest
  dsimp only
  rw [if_pos page]
  exact if_neg floor

theorem State.attest_later {sn : Snapshot} (page : at' h.payload 32 2 ≠ 0) (snap : (s.box m).snap = some sn)
    (nonce : sn.nonce = slice h.payload 0 32) (same : sn.part = part) (inside : at' h.payload 32 2 < ceilDiv sn.bytes.length 4048)
    (time : s.now ≤ sn.until_) : s.attest m h part = s.answer m h .ok (pageOf sn.bytes (at' h.payload 32 2)) := by
  unfold State.attest
  dsimp only
  rw [if_neg page, snap]
  exact if_pos ⟨nonce, same, inside, time⟩

/-- Another nonce ends the snapshot (R445). -/
theorem State.attest_other {sn : Snapshot} (page : at' h.payload 32 2 ≠ 0) (snap : (s.box m).snap = some sn)
    (nonce : sn.nonce ≠ slice h.payload 0 32) :
    s.attest m h part = (s.updBox m (fun b => { b with snap := none })).answer m h .notPermitted [] := by
  unfold State.attest
  dsimp only
  rw [if_neg page, snap]
  dsimp only
  rw [if_neg (fun all => nonce all.1), if_neg nonce]

theorem State.attest_none (page : at' h.payload 32 2 ≠ 0) (snap : (s.box m).snap = none) :
    s.attest m h part = s.answer m h .notPermitted [] := by
  unfold State.attest
  dsimp only
  rw [if_neg page, snap]

theorem State.answer_request (st : Status) (p : List Byte) : (s.box m).SameRequest ((s.answer m h st p).box m) := by
  unfold State.answer
  refine Mailbox.SameRequest.trans ?_ (State.respond_request _ m _ _ _ _ _ _ _)
  rw [State.box_updBox_self]
  exact ⟨rfl, rfl, rfl, rfl, rfl, rfl⟩

/-- The signed report is the mailbox's snapshot for 60 s (R445). -/
theorem State.giveReport_snap (f : List Byte → Nat) : ∃ part, ((s.giveReport m h f).box m).snap =
    some ⟨slice h.payload 0 32, part, s.signWith (f (s.reportOf m h)) (s.reportOf m h), s.now + 60000000000⟩ := by
  refine ⟨if h.opcode = 0x0701 then none else some (Fin.ofNat 64 (targetOf m h)), ?_⟩
  unfold State.giveReport
  refine (State.answer_request _ _).snap.trans ?_
  rw [State.box_updBox_self]

end

/-- A command that the mailbox still holds is found again under its tag and opcode. -/
theorem State.heldOf_iff (s : State) (m : MbxId) (tag : BitVec 16) (op : Nat) :
    s.heldOf m tag [op] = (s.box m).held.find? (fun x => x.tag == tag && x.opcode == op && !x.served) := by
  unfold State.heldOf
  congr 1
  funext x
  rw [List.contains_cons, List.contains_nil, Bool.or_false]

/-! Seeds. -/

/-- An update of each listed tile that leaves an updated tile as it is. -/
theorem State.foldl_updTile_tile (l : List Nat) (s : State) {f : Tile → Tile} (idem : ∀ x, f (f x) = f x) (t : Nat) :
    (l.foldl (fun s t => s.updTile t f) s).tile t = if t ∈ l then f (s.tile t) else s.tile t := by
  induction l generalizing s with
  | nil => rfl
  | cons k l ih =>
    rw [List.foldl_cons, ih, State.tile_updTile]
    by_cases here : t = k
    · subst here
      simp only [if_true, List.mem_cons, true_or, idem, ite_self]
    · rw [if_neg here]
      simp only [List.mem_cons, here, false_or]

/-- Every tile of the partition has the seed before the command is answered (R471). -/
theorem State.giveSeed_loads (s : State) (n : Nat) (seed : List Byte) : ((s.giveSeed n seed).part n).seed = some seed ∧
    ∀ t ∈ s.tilesOf n, ((s.giveSeed n seed).tile t).seed = some seed := by
  obtain ⟨parts, -⟩ := s.partChange_same n (fun s => s.updPart n (fun p => { p with seed := some seed, commit := seedCommit n seed }))
  unfold State.giveSeed
  dsimp only
  generalize s.partChange n (fun s => s.updPart n (fun p => { p with seed := some seed, commit := seedCommit n seed })) = c at parts ⊢
  have part : c.part n = { s.part n with seed := some seed, commit := seedCommit n seed } := by
    rw [State.part_congr parts, State.part_updPart_self]
  have tiles : c.tilesOf n = s.tilesOf n := by
    unfold State.tilesOf
    rw [part]
  refine ⟨?_, fun t ht => ?_⟩
  · rw [State.foldl_updTile _ c (fun _ t => t)]
    change (c.part n).seed = _
    rw [part]
  · rw [State.foldl_updTile_tile _ c (f := fun x => { x with seed := some seed }) (fun _ => rfl), if_pos (by rw [tiles]; exact ht)]

/-- A draw that can never come ends the command (R465). -/
theorem State.addSeed_dead {s : State} {m : MbxId} {h : Held} (vf : m.val < 64) (held : s.heldOf m h.tag [0x0703] = some h)
    (dead : s.entropyDead = true) (dry : s.canDraw true = false) (new : ∀ t ∈ s.eng.tasks, t.work ≠ .grainSeed (Fin.ofNat 64 m.val) h.tag) :
    ∃ a : State, s.addTask (.grainSeed (Fin.ofNat 64 m.val) h.tag) [.gen true 32] = a.answer m h .entropyUnavailable [] := by
  have absent : s.eng.tasks.any (fun t => t.work == .grainSeed (Fin.ofNat 64 m.val) h.tag) = false := by
    rw [List.any_eq_false]
    exact fun t ht => by simpa using new t ht
  have box : Fin.ofNat 65 (Fin.ofNat 64 m.val).val = m := by
    have small : (Fin.ofNat 64 m.val).val = m.val := Nat.mod_eq_of_lt vf
    rw [small, Fin.ofNat_65_val]
  unfold State.addTask
  rw [absent, if_neg Bool.false_ne_true]
  dsimp only
  generalize queued : s.setTasks (fun ts => ts ++ [{ work := .grainSeed (Fin.ofNat 64 m.val) h.tag, needs := [.gen true 32], since := s.now }]) = q
  have starved : (q.entropyDead && q.starved { work := .grainSeed (Fin.ofNat 64 m.val) h.tag, needs := [.gen true 32], since := s.now }) = true := by
    rw [← queued]
    change (s.entropyDead && !s.canDraw true) = true
    rw [dead, dry]
    rfl
  rw [if_pos starved]
  unfold State.failTask
  dsimp only
  rw [box]
  have still : (q.setTasks (fun ts => ts.filter (fun x => x.work != .grainSeed (Fin.ofNat 64 m.val) h.tag))).heldOf m h.tag [0x0703] = some h := by
    rw [← queued]
    exact held
  rw [still]
  exact ⟨_, rfl⟩

theorem State.finishTask_seed {s : State} {m : MbxId} {h : Held} {seed : List Byte} (vf : m.val < 64)
    (held : s.heldOf m h.tag [0x0703] = some h) (gate : s.gate m h = none) :
    s.finishTask (.grainSeed (Fin.ofNat 64 m.val) h.tag) [seed] = s.answerSeed m h seed := by
  have box : Fin.ofNat 65 (Fin.ofNat 64 m.val).val = m := by
    have small : (Fin.ofNat 64 m.val).val = m.val := Nat.mod_eq_of_lt vf
    rw [small, Fin.ofNat_65_val]
  unfold State.finishTask
  dsimp only
  rw [box, held]
  dsimp only
  rw [gate]
  rfl

theorem State.finishTask_report {s : State} {m : MbxId} {h : Held} {dev : Bool} {x : List Byte}
    (held : s.heldOf m h.tag [0x0701, 0x0702] = some h) (gate : s.gate m h = none) :
    s.finishTask (.report m h.tag dev) [x] = s.giveReport m h (fun _ => toScalar x) := by
  unfold State.finishTask
  dsimp only
  rw [held]
  dsimp only
  rw [gate]
  rfl

/-! Keys. -/

/-- A key that is unwrapped under the session's secret is taken (R450). -/
theorem State.keyInstall_takes {s : State} {m : MbxId} {tag : BitVec 16} {h : Held} {se : Session} {ks : List Byte}
    (takes : Takes s m tag 0x0704 keyInstallChk h) (floor : s.boot.floor = 2)
    (session : (SMap.get {} s.sec.responders m.val).sessions.find? (fun x => x.id == BitVec.ofNat 32 (at' h.payload 0 4) && x.established) = some se)
    (opens : gcmOpen (hkdfExpand se.secret (ascii "AVRAK KEYWRAP" ++ leBytes 1 m.val) 32) (slice h.payload 8 12)
      (leBytes 1 m.val ++ slice h.payload 0 4 ++ ascii "XTS1") (slice h.payload 20 64) (slice h.payload 84 16) = some ks)
    (differ : ks.take 32 ≠ ks.drop 32) (cipher : (s.part m.val).entry.cipher = true) :
    exec (.keyInstall m tag) s = .next ((if s.isQuiet m.val then (s.updPart m.val (fun p => { p with keyFresh := true })).applyKey m.val ks
      else (s.updPart m.val (fun p => { p with keyFresh := true })).updPart m.val (fun p => { p with pendKey := some ks })).answer m h .ok []) := by
  rw [exec_keyInstall, execKeyInstall, State.serve_takes takes]
  dsimp only
  rw [if_neg (not_not.2 floor), session]
  dsimp only
  rw [opens]
  dsimp only
  rw [if_neg (by simp [differ, cipher])]
  rfl

/-- Settles O45. -/
theorem secrets : Obligations.Secrets := by
  intro s m tag h p n
  refine ⟨fun e mem takes => ?_, fun dev x held gate => ?_, fun f => ⟨State.giveReport_snap f, _, rfl⟩, fun sn snap => ?_,
    fun takes => ⟨fun given => ?_, fun draw floor => ?_, fun draw floor => ⟨?_, fun vf dead dry new => ?_⟩⟩, fun seed vf held gate => ?_,
    fun se ks takes floor session opens differ cipher => ⟨fun quiet => ?_, fun busy => ?_⟩, fun takes => ⟨fun st bad => ?_, fun good => ?_⟩⟩
  · have runs : exec e.1 s = .next (s.attest m h e.2.2) := by
      simp only [List.mem_cons, List.not_mem_nil, or_false] at mem
      obtain rfl | rfl := mem
      · rw [exec_attestDevice, execAttestDevice, State.serve_takes takes]
      · rw [exec_attestPartition, execAttestPartition, State.serve_takes takes]
    rw [runs]
    exact ⟨fun page floor => congrArg _ (State.attest_floor0 page floor), fun page floor => congrArg _ (State.attest_first page floor),
      fun sn page snap nonce same inside time => congrArg _ (State.attest_later page snap nonce same inside time),
      fun sn page snap nonce => congrArg _ (State.attest_other page snap nonce), fun page snap => congrArg _ (State.attest_none page snap)⟩
  · exact State.finishTask_report held gate
  · rw [exec_reportSnapshotExpiry]
    unfold execReportSnapshotExpiry
    rw [snap]
    exact ⟨_, rfl, State.box_updBox_self _ _ _, rfl⟩
  · obtain ⟨part, tiles⟩ := s.giveSeed_loads n (slice p 8 32)
    refine ⟨_, ?_, part, tiles⟩
    rw [exec_grainSeed, execGrainSeed, State.serve_takes takes]
    rw [if_pos given]
    rfl
  · rw [exec_grainSeed, execGrainSeed, State.serve_takes takes]
    rw [if_neg draw, if_pos floor]
  · rw [exec_grainSeed, execGrainSeed, State.serve_takes takes]
    rw [if_neg draw, if_neg (not_not.2 floor)]
  · have is : h.tag = tag := by
      have found := List.find?_some takes.held
      simp only [Bool.and_eq_true, beq_iff_eq] at found
      exact found.1.1
    have held : s.heldOf m h.tag [0x0703] = some h := by rw [State.heldOf_iff, is]; exact takes.held
    obtain ⟨a, ends⟩ := State.addSeed_dead vf held dead dry new
    refine ⟨a, ?_⟩
    rw [exec_grainSeed, execGrainSeed, State.serve_takes takes]
    rw [if_neg draw, if_neg (not_not.2 floor)]
    exact congrArg _ ends
  · exact State.finishTask_seed vf held gate
  · rw [State.keyInstall_takes takes floor session opens differ cipher, quiet]
    rfl
  · rw [State.keyInstall_takes takes floor session opens differ cipher, busy]
    rfl
  · rw [exec_confidentialEnter, execConfidentialEnter, State.serve_takes takes]
    dsimp only
    rw [bad]
  · rw [exec_confidentialEnter, execConfidentialEnter, State.serve_takes takes]
    dsimp only
    rw [good]

end Sys2Proof.Machine
end

section
/-!
PROOFS. Fills, write-backs, walks and deferred faults of a tile (O48).
-/

namespace Sys2Proof.Machine

/-- What a fill does at an L1 that has its token (R197, R201). -/
def State.l1Fill (t l : Nat) (u : Upset) (s : State) : State :=
  let s := (s.strike t u).spend t [.l1]
  match (s.tile t).caches.fills.find? (fun f => f.line == l) with
  | some f =>
    let s := s.arriveD t l u
    if (s.tile t).stopped then s else s.fillDone t f
  | none =>
    let s := if s.running t then s.checkI t l else s
    if !s.running t || ((s.tile t).caches.findI l).isSome then s
    else
      let s := s.arriveI t l u
      if (s.tile t).stopped then s
      else match s.fetchLine t l with
        | (some d, s) => s.updCaches t (fun c => c.putI { line := l, data := d })
        | (none, s) => s.trapT t 0x06 (s.fetchTval t l)

section
variable {s : State} {t : TileId} {line : BitVec 45} {u : Upset}

/-- A gated L1 without a token waits (R44). -/
theorem State.l1FillComplete_waits (gated : s.maySpend t [.l1] = false) : exec (.l1FillComplete t line u) s = .next s := by
  rw [exec_l1FillComplete]
  unfold execL1FillComplete
  dsimp only
  rw [gated]
  rfl

theorem State.l1FillComplete_acts (free : s.maySpend t [.l1] = true) :
    exec (.l1FillComplete t line u) s = .next (s.retry t (State.l1Fill t line.toNat u)) := by
  rw [exec_l1FillComplete]
  unfold execL1FillComplete
  dsimp only
  rw [free]
  rfl

theorem State.l1FillComplete_done {c : State} (free : s.maySpend t [.l1] = true) (now : (s.acting t).l1Fill t line.toNat u = c)
    (done : c.net.waits = false) : exec (.l1FillComplete t line u) s = .next (s.acted c) := by
  rw [State.l1FillComplete_acts free, State.retry_done (by rw [now]; exact done), now]

theorem State.talonFillComplete_acts (there : (s.tile t).caches.talonFills.contains line.toNat = true) (free : s.maySpend t [.talon] = true) :
    exec (.talonFillComplete t line u) s = .next (s.retry t (fun s => ((s.strike t u).spend t [.talon]).talonFill t line.toNat)) := by
  rw [exec_talonFillComplete]
  unfold execTalonFillComplete
  rw [there, free]
  rfl

theorem State.talonFillComplete_done {c : State} (there : (s.tile t).caches.talonFills.contains line.toNat = true)
    (free : s.maySpend t [.talon] = true) (now : (((s.acting t).strike t u).spend t [.talon]).talonFill t line.toNat = c)
    (done : c.net.waits = false) : exec (.talonFillComplete t line u) s = .next (s.acted c) := by
  rw [State.talonFillComplete_acts there free, State.retry_done (by rw [now]; exact done), now]

theorem State.discardWritebackAck_done {i : Fin 16} {c : State} (free : s.maySpend t [.discard] = true)
    (now : (((s.acting t).strike t u).spend t [.discard]).ackDiscard t i = c) (done : c.net.waits = false) :
    exec (.discardWritebackAck t i u) s = .next (s.acted c) := by
  rw [exec_discardWritebackAck]
  unfold execDiscardWritebackAck
  rw [if_pos free, State.retry_done (by rw [now]; exact done), now]

theorem State.talonFillComplete_waits (not : (s.tile t).caches.talonFills.contains line.toNat = false ∨ s.maySpend t [.talon] = false) :
    exec (.talonFillComplete t line u) s = .next s := by
  rw [exec_talonFillComplete]
  unfold execTalonFillComplete
  rw [if_neg]
  obtain absent | gated := not
  · rw [absent, Bool.false_and]; exact Bool.false_ne_true
  · rw [gated, Bool.and_false]; exact Bool.false_ne_true

end

section
variable {s a : State} {t l : Nat} {u : Upset} (start : (s.strike t u).spend t [.l1] = a)
include start

/-- A store's outstanding fill is merged, unless its parity stops the tile (R197, R210). -/
theorem State.l1Fill_store {f : Fill} (found : (a.tile t).caches.fills.find? (fun f => f.line == l) = some f) :
    s.l1Fill t l u = if ((a.arriveD t l u).tile t).stopped then a.arriveD t l u else (a.arriveD t l u).fillDone t f := by
  unfold State.l1Fill
  dsimp only
  rw [start, found]

section
variable (absent : (a.tile t).caches.fills.find? (fun f => f.line == l) = none) (runs : a.running t = true)
    (still : (a.checkI t l).running t = true) (missing : ((a.checkI t l).tile t).caches.findI l = none) {b c : State}
    (arrived : (a.checkI t l).arriveI t l u = b) (goes : (b.tile t).stopped = false)
include absent runs still missing arrived goes

/-- An instruction line that has passed its checks is fetched and kept (R201). -/
theorem State.l1Fill_fetched {d : BitVec 1024} (fetched : b.fetchLine t l = (some d, c)) :
    s.l1Fill t l u = c.updCaches t (fun c => c.putI { line := l, data := d }) := by
  unfold State.l1Fill
  dsimp only
  rw [start, absent]
  dsimp only
  rw [runs, if_pos rfl, still, missing, if_neg (by simp), arrived, goes, if_neg Bool.false_ne_true, fetched]

/-- A refused fetch of an instruction line is an ACCESS_FAULT (R105, R201). -/
theorem State.l1Fill_refused (fetched : b.fetchLine t l = (none, c)) : s.l1Fill t l u = c.trapT t 0x06 (c.fetchTval t l) := by
  unfold State.l1Fill
  dsimp only
  rw [start, absent]
  dsimp only
  rw [runs, if_pos rfl, still, missing, if_neg (by simp), arrived, goes, if_neg Bool.false_ne_true, fetched]

end

end

/-- A deferred fault ends the pass with its status, its cause and its PC (R105, R107). -/
theorem State.endPassTrap_ends (s : State) (t : Nat) (st : Status) (cause pc : Nat) {p : PassCtx} (runs : (s.tile t).run = some p) :
    ((s.endPassTrap t st cause pc).tile t).run = none ∧ ((s.endPassTrap t st cause pc).tile t).queue = [] ∧
      ∃ e : RankEnd, ((s.endPassTrap t st cause pc).led p.ix).ends = (s.led p.ix).ends ++ [e] ∧ e.rank = p.rank ∧ e.status = st ∧
        e.cause = cause ∧ e.pc = pc := by
  unfold State.endPassTrap
  obtain ⟨hand, taken, tile⟩ := State.tile_endPass { rank := 0, status := st, cause := cause, pc := pc } runs
  refine ⟨by rw [tile], by rw [tile], _, State.ends_endPass _ runs, ?_⟩
  exact ⟨rfl, rfl, rfl, rfl⟩

/-- Settles O48. -/
theorem tileCaches : Obligations.TileCaches := by
  intro s t line u i va pc k d l a
  refine ⟨State.l1FillComplete_waits, fun free => ⟨fun f found done => ?_, fun absent runs still missing goes => ⟨fun x c fetched done => ?_, fun c fetched done => ?_⟩⟩,
    fun there free done => ?_, State.talonFillComplete_waits, fun free done => ?_, fun gated => ?_, fun runs => ⟨fun pa b found => ?_, fun b missing => ?_, ?_⟩, fun stopped => ⟨?_, ?_⟩⟩
  · exact State.l1FillComplete_done free (State.l1Fill_store rfl found) done
  · exact State.l1FillComplete_done free (State.l1Fill_fetched rfl absent runs still missing rfl goes fetched) done
  · exact State.l1FillComplete_done free (State.l1Fill_refused rfl absent runs still missing rfl goes fetched)
      (by rw [State.trapT_net]; exact done)
  · exact State.talonFillComplete_done there free rfl done
  · exact State.discardWritebackAck_done free rfl done
  · rw [exec_discardWritebackAck]
    unfold execDiscardWritebackAck
    rw [gated]
    rfl
  · rw [exec_tlbWalkComplete]
    unfold execTlbWalkComplete
    rw [runs, if_neg (by simp), found]
  · rw [exec_tlbWalkComplete]
    unfold execTlbWalkComplete
    rw [runs, if_neg (by simp), missing]
  · refine ⟨s.endPassTrap t (deferredOf d).2 (deferredOf d).1 pc.toNat, ?_, ?_⟩
    · rw [exec_deferredFault]
      unfold execDeferredFault
      rw [if_pos runs]
    · obtain ⟨p, run⟩ : ∃ p, (s.tile t).run = some p := by
        unfold State.running at runs
        simp only [Bool.and_eq_true, Option.isSome_iff_exists] at runs
        exact runs.1.1.1
      obtain ⟨noRun, noQueue, ends⟩ := s.endPassTrap_ends t (deferredOf d).2 (deferredOf d).1 pc.toNat run
      refine ⟨noRun, noQueue, fun p' run' => ?_⟩
      rw [run] at run'
      cases run'
      exact ends
  · rw [exec_tlbWalkComplete]
    unfold execTlbWalkComplete
    rw [stopped]
    rfl
  · rw [exec_deferredFault]
    unfold execDeferredFault
    rw [stopped]
    rfl

end Sys2Proof.Machine
end

section
/-!
PROOFS. Health passes, notices, FAULT events and stalls (O49).
-/

namespace Sys2Proof.Machine

theorem onlyTile_updHealth (s : State) (t : Nat) (f : Health → Health) : OnlyTile s (s.updHealth t f) t := onlyTile_updTile s t _

section
variable {s : State} {t : TileId}

theorem State.healthPassDue_pends (takes : (s.tile t).takesPasses = true) : ∃ s', exec (.healthPassDue t) s = .next s' ∧
    (s'.tile t).health = { (s.tile t).health with
      pending := true, due := (s.tile t).health.due + s.healthNs ((s.tileOwner t).getD 64) } ∧
    s'.now = max s.now (s.tile t).health.due := by
  refine ⟨_, (exec_healthPassDue _ _).trans (congrArg Host.Outcome.next (if_pos takes)), ?_, rfl⟩
  dsimp only [State.updHealth]
  rw [State.tile_updTile_self]
  rfl

/-- A tile that takes no health passes leaves every one of its events without effect (R29). -/
theorem State.noPasses (not : (s.tile t).takesPasses = false) :
    exec (.healthPassDue t) s = .next s ∧ exec (.healthPassStart t) s = .next s ∧ exec (.journalThreshold t) s = .next s := by
  rw [exec_healthPassDue, execHealthPassDue, exec_healthPassStart, execHealthPassStart, exec_journalThreshold, execJournalThreshold]
  simp [not]

theorem State.startPass_runs (s : State) (t : Nat) : OnlyTile s (s.startPass t) t ∧ (s.startPass t).tile t = { s.tile t with
    health := { (s.tile t).health with
      pending := false, running := some .health, passStart := s.now, passMark := (s.tile t).health.journal.length } } :=
  ⟨onlyTile_updHealth s t _, State.tile_updTile_self _ _ _⟩

theorem State.healthPassStart_runs (takes : (s.tile t).takesPasses = true) (idle : (s.tile t).health.running = none)
    (pending : (s.tile t).health.pending = true) : exec (.healthPassStart t) s = .next (s.startPass t) := by
  rw [exec_healthPassStart, execHealthPassStart]
  simp [takes, idle, pending]

theorem State.journalThreshold_runs (takes : (s.tile t).takesPasses = true) (idle : (s.tile t).health.running = none)
    (full : 24576 ≤ (s.tile t).health.journal.length) : exec (.journalThreshold t) s = .next (s.startPass t) := by
  rw [exec_journalThreshold, execJournalThreshold]
  simp [takes, idle, full]

/-- A health pass that passes opens a new window from its start and keeps what completed during it (R29). -/
theorem State.healthPassEnd_passed (runs : (s.tile t).health.running = some .health) :
    exec (.healthPassEnd t true) s = .next (s.updHealth t (fun h => { h with
      running := none, journal := h.journal.drop h.passMark, windowStart := h.passStart, windowOpen := true })) := by
  rw [exec_healthPassEnd, execHealthPassEnd, if_neg (by simp [runs])]
  exact congrArg Host.Outcome.next (if_pos rfl)

theorem State.healthPassEnd_failed (runs : (s.tile t).health.running = some .health) :
    exec (.healthPassEnd t false) s = .next (s.failTile t 0x0104) := by
  rw [exec_healthPassEnd, execHealthPassEnd, if_neg (by simp [runs])]
  exact congrArg Host.Outcome.next (if_neg Bool.false_ne_true)

/-- A closing pass that passes closes the window; a waiting restart follows (R496, R499). -/
theorem State.closingPassEnd_passed (runs : (s.tile t).health.running = some .closing) :
    exec (.closingPassEnd t true) s = .next (s.updHealth t (fun h => { h with
      running := if (s.tileOwner t).any (fun n => (s.part n).restart.isSome) then some .restart else none, journal := [], windowOpen := false })) := by
  rw [exec_closingPassEnd, execClosingPassEnd, if_neg (by simp [runs])]
  refine congrArg Host.Outcome.next ((if_pos rfl).trans ?_)
  cases s.tileOwner t <;> rfl

theorem State.closingPassEnd_failed (runs : (s.tile t).health.running = some .closing) :
    exec (.closingPassEnd t false) s = .next (s.failTile t 0x0104) := by
  rw [exec_closingPassEnd, execClosingPassEnd, if_neg (by simp [runs])]
  exact congrArg Host.Outcome.next (if_neg Bool.false_ne_true)

theorem Part.notices_postNotice (s : State) (n : PartId) (x : Notice) : ((s.postNotice n x).part n).notices =
    (s.part n).notices.map (fun y => if y.num = x.num then { y with posted := true } else y) := by
  unfold State.postNotice
  dsimp only
  split
  · rw [(State.event_reads _ _ _).1, State.part_updPart_self]
  · rw [(State.event_reads _ _ _).1, (State.event_reads _ _ _).1, State.part_updPart_self]

theorem State.recallNoticePost_posts {n : PartId} {num : BitVec 32} {y : Notice}
    (found : (s.part n).notices.find? (fun x => x.num == num.toNat && !x.posted) = some y) :
    ∃ s', exec (.recallNoticePost n num) s = .next s' ∧ ∀ z ∈ (s'.part n).notices, z.num = num.toNat → z.posted = true := by
  refine ⟨s.postNotice n y, by rw [exec_recallNoticePost, execRecallNoticePost, found], fun z mem isNum => ?_⟩
  have num_y : y.num = num.toNat := by
    have := List.find?_some found
    simp only [Bool.and_eq_true, beq_iff_eq] at this
    exact this.1
  rw [Part.notices_postNotice, List.mem_map] at mem
  obtain ⟨z', -, rfl⟩ := mem
  by_cases same : z'.num = y.num
  · rw [if_pos same]
  · rw [if_neg same] at isNum
    exact absurd (isNum.trans num_y.symm) same

theorem State.faultEventPost_part {n : PartId} {seq : Nat} {rest : List Nat} (due : (s.part n).faultDue = seq :: rest) :
    exec (.faultEventPost (some n)) s = .next (if s.noticesOut n then
      (s.updPart n (fun p => { p with faultDue := rest })).eventAll [Fin.ofNat 65 n.val, operatorId] (faultEvent 1 seq s.now n) else s) := by
  rw [exec_faultEventPost, execFaultEventPost, due]

theorem State.faultEventPost_device {seq : Nat} {rest : List Nat} (due : s.boot.faultDue = seq :: rest)
    (out : parts64.all (fun n => !s.valid n || s.noticesOut n) = true) :
    exec (.faultEventPost none) s = .next ({ s with boot := { s.boot with faultDue := rest } }.eventAll
      ((List.range 65).map (Fin.ofNat 65)) (faultEvent 2 seq s.now 0x7F)) := by
  rw [exec_faultEventPost, execFaultEventPost, due]
  exact congrArg Host.Outcome.next (if_pos out)

/-- A stall is declared no earlier than 1 µs before its bound (R53). -/
theorem State.stallDeclare_declares {g : BitVec 12} {since : Nat} (passed : since ≤ s.now) (clocked : s.plant.ciRunning = true) (w : StallUnit) :
    exec (.stallDeclare w g since) s = .next (
      let a := s.atLeast (boundary (since + (s.plant.sentBound.toNat - 1) * 1000))
      match w with
      | .tile t =>
        let r : ErrRec := { mkRec 0x0506 1 with tile := t, unit := unitTile t, detail := g.toNat }
        match s.tileOwner t with
        | some n => a.partFatal n r
        | none => a.devFatal r
      | .shared x => a.devFatal { mkRec 0x0506 2 with unit := x.toNat, detail := g.toNat }) := by
  rw [exec_stallDeclare, execStallDeclare, if_neg (by simp [clocked]; omega)]
  cases w <;> rfl

theorem State.stallDeclare_not {g : BitVec 12} {since : Nat} (not : s.now < since ∨ s.plant.ciRunning = false) (w : StallUnit) :
    exec (.stallDeclare w g since) s = .next s := by
  rw [exec_stallDeclare, execStallDeclare, if_pos]
  rcases not with early | stopped
  · exact Or.inl early
  · exact Or.inr (by rw [stopped]; rfl)

end

/-- Settles O49. -/
theorem healthPasses : Obligations.HealthPasses := by
  intro s t n num g x since h
  refine ⟨State.healthPassDue_pends, State.noPasses, fun takes idle => ?_, fun runs => ⟨State.healthPassEnd_failed runs, _,
    State.healthPassEnd_passed runs, onlyTile_updHealth s t _, State.tile_updTile_self _ _ _⟩, fun runs => ⟨State.closingPassEnd_failed runs, _,
    State.closingPassEnd_passed runs, onlyTile_updHealth s t _, ?_⟩, fun y => State.recallNoticePost_posts, fun seq rest due => ⟨fun out => ?_, fun notOut => ?_⟩,
    fun seq rest due out => ⟨_, State.faultEventPost_device due out, ?_⟩, fun passed clocked => ⟨fun o owner => ?_, fun free => ?_, ?_⟩,
    State.stallDeclare_not⟩
  · simp only [List.mem_cons, List.not_mem_nil, or_false]
    rintro e (rfl | rfl) due
    · exact ⟨_, State.healthPassStart_runs takes idle due, s.startPass_runs t⟩
    · exact ⟨_, State.journalThreshold_runs takes idle due, s.startPass_runs t⟩
  · simp only [State.updHealth, State.tile_updTile_self, true_and]
  · refine ⟨_, (State.faultEventPost_part due).trans (congrArg Host.Outcome.next (if_pos out)), ?_⟩
    rw [(State.eventAll_reads _ _ _).1, State.part_updPart_self]
    exact ⟨rfl, rfl⟩
  · exact (State.faultEventPost_part due).trans (congrArg Host.Outcome.next (if_neg (by rw [notOut]; exact Bool.false_ne_true)))
  · exact (State.eventAll_same _ _ _).2.2.1
  · rw [State.stallDeclare_declares passed clocked]
    dsimp only
    rw [owner]
  · rw [State.stallDeclare_declares passed clocked]
    dsimp only
    rw [free]
  · exact State.stallDeclare_declares passed clocked _

end Sys2Proof.Machine
end

section
/-!
PROOFS. What faults leave as it was: records, the partition-fatal and the device-fatal procedure and failed health passes change no memory, no
controller, no clock, no configuration and no link's state.
-/

namespace Sys2Proof.Machine

/-- From `s` to `t` nothing of the memory, the controllers, the clocks, the plant, the configuration, the engines, the board and
the links' states differs. -/
structure State.Faulted (s t : State) : Prop where
  pending : t.pending = s.pending
  now : t.now = s.now
  plant : t.plant = s.plant
  mem : t.mem = s.mem
  hbm : t.hbm = s.hbm
  arbs : t.arbs = s.arbs
  fabric : t.fabric = s.fabric
  cfg : t.cfg = s.cfg
  eng : t.eng = s.eng
  sec : t.sec = s.sec
  board : t.board = s.board
  lastWindow : t.lastWindow = s.lastWindow
  lastMover : t.lastMover = s.lastMover
  free : t.free = s.free
  linkState : ∀ l, (t.link l).state = (s.link l).state

namespace State.Faulted

theorem refl (s : State) : s.Faulted s := by constructor <;> intros <;> rfl

theorem trans {s t u : State} (h : s.Faulted t) (k : t.Faulted u) : s.Faulted u :=
  ⟨k.pending.trans h.pending, k.now.trans h.now, k.plant.trans h.plant, k.mem.trans h.mem, k.hbm.trans h.hbm, k.arbs.trans h.arbs,
    k.fabric.trans h.fabric, k.cfg.trans h.cfg, k.eng.trans h.eng, k.sec.trans h.sec, k.board.trans h.board, k.lastWindow.trans h.lastWindow,
    k.lastMover.trans h.lastMover, k.free.trans h.free, fun l => (k.linkState l).trans (h.linkState l)⟩

theorem ite {s a b : State} {c : Prop} [Decidable c] (ha : s.Faulted a) (hb : s.Faulted b) : s.Faulted (if c then a else b) := by
  split
  · exact ha
  · exact hb

theorem foldl {α : Type} {f : State → α → State} (hf : ∀ (t : State) (x : α), t.Faulted (f t x)) (l : List α) (s : State) : s.Faulted (l.foldl f s) := by
  induction l generalizing s with
  | nil => exact refl s
  | cons x l ih => exact (hf s x).trans (ih _)

theorem parts {s : State} {tiles parts led regions net boot chainLog} : s.Faulted { s with
    tiles := tiles, parts := parts, ledger := led, regions := regions, net := net, boot := boot, chainLog := chainLog } := by
  constructor <;> intros <;> rfl

end State.Faulted

/-- Posting is among what a fault may do. -/
theorem State.Posts.faulted {s t : State} (h : s.Posts t) : s.Faulted t := by
  obtain ⟨pending, now, -, plant, -, -, mem, hbm, arbs, -, fabric, -, -, cfg, eng, sec, board, -, -, lastWindow, lastMover, free⟩ := h.same
  obtain ⟨-, -, -, -, -, -, link, -⟩ := h.reads
  exact ⟨pending, now, plant, mem, hbm, arbs, fabric, cfg, eng, sec, board, lastWindow, lastMover, free, fun l => congrArg Link.state (link l)⟩

namespace State

theorem updTile_faulted (s : State) (t : Nat) (f : Tile → Tile) : s.Faulted (s.updTile t f) := .parts
theorem updPart_faulted (s : State) (n : Nat) (f : Part → Part) : s.Faulted (s.updPart n f) := .parts
theorem setLed_faulted (s : State) (i : Nat) (e : Ledger) : s.Faulted (s.setLed i e) := .parts
theorem updRegion_faulted (s : State) (i : Nat) (f : Region → Region) : s.Faulted (s.updRegion i f) := .parts
theorem updLink_faulted (s : State) (l : Nat) {f : Link → Link} (same : (f (s.link l)).state = (s.link l).state) : s.Faulted (s.updLink l f) := by
  constructor <;> try rfl
  intro k
  rw [State.link_updLink]
  split
  · next at_ => rw [at_]; exact same
  · rfl

theorem record_faulted (s : State) (r : ErrRec) : s.Faulted (s.record r) := (s.record_posts r).faulted
theorem event_faulted (s : State) (m : MbxId) (e : Event) : s.Faulted (s.event m e) := (s.event_posts m e).faulted
theorem dropRemote_faulted (s : State) (u : Nat) : s.Faulted (s.dropRemote u) := .parts
theorem offer_faulted (s : State) (b : NetBody) : s.Faulted (s.offer b) := .parts

theorem routeDown_faulted (s : State) (p : NetPacket) : s.Faulted (s.routeDown p) := s.record_faulted _

theorem netPut_faulted {s t : State} {p : NetPacket} {came : Option (Nat × Bool)} (put : s.netPut p came = some t) : s.Faulted t := by
  unfold State.netPut at put
  dsimp only at put
  split at put
  · cases put
  · cases put
    exact s.updLink_faulted _ rfl

theorem netSend_faulted (s : State) (p : NetPacket) : s.Faulted (s.netSend p) := by
  unfold State.netSend
  cases put : s.netPut p none with
  | none => exact s.routeDown_faulted p
  | some t => exact netPut_faulted put

theorem replyTo_faulted (s : State) (q : Requester) (tag : Nat) (data : Option (List Byte)) : s.Faulted (s.replyTo q tag data) :=
  .ite (s.emit_posts _).faulted (s.netSend_faulted _)

theorem toMember_faulted (s : State) (n t dev : Nat) (b : NetBody) : s.Faulted (s.toMember n t dev b) :=
  .ite (s.offer_faulted b) (s.netSend_faulted _)

theorem unbind_faulted (s : State) (i : Nat) : s.Faulted (s.unbind i) := by
  unfold State.unbind
  have rel : ∀ {c : Prop} [Decidable c] {g f}, s.Faulted (if c then s.updRegion g f else s) := .ite (s.updRegion_faulted _ _) (.refl s)
  exact .ite rel (rel.trans (updRegion_faulted _ _ _))

theorem withdraw_faulted (s : State) (i : Nat) : s.Faulted (s.withdraw i) := by
  unfold State.withdraw
  exact (State.Faulted.foldl (fun t x => t.updTile_faulted x _) _ s).trans (updPart_faulted _ _ _)

theorem logChain_faulted (s : State) (i : Nat) : s.Faulted (s.logChain i) := by
  unfold State.logChain
  dsimp only
  split
  · exact .ite .parts (.refl s)
  · exact .refl s

theorem endRequest_faulted (s : State) (i : Nat) (st : Status) : s.Faulted (s.endRequest i st) := by
  unfold State.endRequest
  dsimp only
  refine .ite (.refl s) ?_
  refine .trans ?_ (setLed_faulted _ _ _)
  have freed : s.Faulted (if (s.led i).state = .posting ∧ ¬ (s.led i).more then s else (s.withdraw i).unbind i) :=
    .ite (.refl s) ((s.withdraw_faulted i).trans (unbind_faulted _ _))
  simp only [Bool.not_eq_true] at freed ⊢
  exact .ite (by simpa using freed.trans (logChain_faulted _ _)) (by simpa using freed)

/-- A STATE event is posted at most. -/
theorem partChange_faulted {s : State} {f : State → State} (hf : s.Faulted (f s)) (n : Nat) : s.Faulted (s.partChange n f) :=
  .ite (hf.trans (event_faulted _ _ _)) hf

theorem sendBreak_faulted (s : State) (n : Nat) (c : ChainStep) : s.Faulted (s.sendBreak n c) := by
  unfold State.sendBreak
  split
  · exact .refl s
  · exact State.Faulted.trans .parts (.foldl (fun t x => .ite (t.toMember_faulted _ _ _ _) (.refl t)) _ _)

theorem breakChains_faulted (s : State) (n : Nat) : s.Faulted (s.breakChains n) := by
  refine .foldl (fun t i => ?_) _ s
  split
  · exact .ite (t.sendBreak_faulted _ _) (.refl t)
  · exact .refl t

theorem stopTiles_faulted (s : State) (n : Nat) : s.Faulted (s.stopTiles n) :=
  .foldl (fun t x => ((t.updTile_faulted x _).trans (dropRemote_faulted _ _)).trans (dropRemote_faulted _ _)) _ s

theorem startClosing_faulted (s : State) (n : Nat) : s.Faulted (s.startClosing n) := .foldl (fun t x => t.updTile_faulted x _) _ s

theorem endHash_faulted (s : State) (n : Nat) (st : Status) (ien : Bool) : s.Faulted (s.endHash n st ien) :=
  .ite ((s.updPart_faulted n _).trans (msix_posts _ _ _).faulted) (s.updPart_faulted n _)

theorem endWork_faulted (s : State) (n : Nat) (st : Status) : s.Faulted (s.endWork n st) := by
  have broken : s.Faulted (((s.breakChains n).updPart n (fun p => { p with
      answers := p.answers.map (fun a => if a.status = .ok then { a with status := st } else a) }))) :=
    (s.breakChains_faulted n).trans (updPart_faulted _ _ _)
  have ended := fun l : List Nat => broken.trans (State.Faulted.foldl (fun t i => t.endRequest_faulted i st) l _)
  have told : ∀ (t : State) (u : Option RUpdate), t.Faulted (match u with
      | some u => t.commandDone u.mbx u.tag st []
      | none => t) := fun t u => by
    cases u with
    | none => exact .refl t
    | some u => exact (t.commandDone_posts _ _ _ _).faulted
  unfold State.endWork
  dsimp only
  split
  · refine ((ended _).trans (.foldl (fun t e => .ite ?_ (.refl t)) _ _)).trans (endHash_faulted _ _ _ _)
    exact ((told t e.2.running).trans (told _ e.2.pending)).trans (updRegion_faulted _ _ _)
  · refine (ended _).trans (.foldl (fun t e => .ite ?_ (.refl t)) _ _)
    exact ((told t e.2.running).trans (told _ e.2.pending)).trans (updRegion_faulted _ _ _)

theorem flagPart_faulted (s : State) (n seq : Nat) : s.Faulted (s.flagPart n seq) := by
  refine (s.updPart_faulted n _).trans (.ite (.refl _) ?_)
  refine (((partChange_faulted ?_ n).trans (stopTiles_faulted _ _)).trans (endWork_faulted _ _ _)).trans (startClosing_faulted _ _)
  exact updPart_faulted _ _ _

theorem retireTile_faulted (s : State) (t : Nat) : s.Faulted (s.retireTile t) :=
  (partChange_faulted (s.updTile_faulted t _) _).trans .parts

theorem countFatal_faulted (s : State) (r : ErrRec) : s.Faulted (s.countFatal r) :=
  .ite (.ite ((s.updTile_faulted _ _).trans (retireTile_faulted _ _)) (s.updTile_faulted _ _)) (.refl s)

theorem partFatal_faulted (s : State) (n : Nat) (r : ErrRec) : s.Faulted (s.partFatal n r) :=
  .ite (s.record_faulted _) (((s.record_faulted _).trans (flagPart_faulted _ _ _)).trans (countFatal_faulted _ _))

theorem tileFatal_faulted (s : State) (t : Nat) (r : ErrRec) : s.Faulted (s.tileFatal t r) := by
  unfold State.tileFatal
  split
  · exact s.partFatal_faulted _ _
  · exact s.record_faulted _

theorem setBoot_faulted (s : State) (b : Boot) : s.Faulted { s with boot := b } := .parts

theorem setDev_faulted (s : State) (d : DevState) : s.Faulted (s.setDev d) := by
  refine .ite (.refl s) (.trans ?_ (msix_posts _ _ _).faulted)
  exact State.Faulted.trans .parts (event_faulted _ _ _)

theorem closeAll_faulted (s : State) : s.Faulted s.closeAll := .foldl (fun t x => t.updTile_faulted x _) _ s

theorem flagDevice_faulted (s : State) (seq : Nat) : s.Faulted (s.flagDevice seq) := by
  refine .trans (s.setBoot_faulted _) (.ite (.refl _) ?_)
  refine .trans (.trans ?_ (setDev_faulted _ _)) (closeAll_faulted _)
  refine .trans ?_ (.foldl (fun t n => .ite ((t.stopTiles_faulted n).trans (endWork_faulted _ _ _)) (.refl t)) _ _)
  exact .trans (setBoot_faulted _ _) (.foldl (fun t n => .ite (t.event_faulted _ _) (.refl t)) _ _)

theorem devFatal_faulted (s : State) (r : ErrRec) : s.Faulted (s.devFatal r) :=
  .ite (s.record_faulted _) ((s.record_faulted _).trans (flagDevice_faulted _ _))

end State

end Sys2Proof.Machine
end

section
/-!
PROOFS. The SEC-DED code of R157 and R217: it corrects any one wrong bit of a word and reports any two, whatever columns the data bits have.
-/

namespace Sys2Proof.Machine

/-! The columns. -/

theorem eccColumns_weight : ∀ c ∈ eccColumns, oddBits c = true ∧ 1 < popc 8 c.toNat := by
  intro c mem
  simpa using (List.mem_filter.1 mem).2

theorem eccColumns_nodup : eccColumns.Nodup := by
  unfold eccColumns
  refine List.Nodup.filter _ ((List.nodup_range).map_on fun x hx y hy same => ?_)
  have := congrArg BitVec.toNat same
  simp only [List.mem_range] at hx hy
  simpa [Nat.mod_eq_of_lt hx, Nat.mod_eq_of_lt hy] using this

theorem eccColumns_length : eccColumns.length = 120 := by decide +kernel

/-- Columns are dealt without repetition, each from those left. -/
theorem dealColumns_deals (k i : Nat) (left : List (BitVec 8)) (distinct : left.Nodup) (enough : k ≤ left.length) :
    (dealColumns k i left).length = k ∧ (dealColumns k i left).Nodup ∧ ∀ c ∈ dealColumns k i left, c ∈ left := by
  induction k generalizing i left with
  | zero => simp [dealColumns]
  | succ k ih =>
    have inside : Config.secdedPick i % left.length < left.length := Nat.mod_lt _ (by omega)
    generalize pick : Config.secdedPick i % left.length = j at inside
    obtain ⟨len, nodup, sub⟩ := ih (i + 1) (left.eraseIdx j) (distinct.eraseIdx j) (by rw [List.length_eraseIdx_of_lt inside]; omega)
    have first : left.getD j 0 = left[j] := by simp [inside]
    have fresh : left[j] ∉ dealColumns k (i + 1) (left.eraseIdx j) := fun mem => by
      obtain ⟨m, lt, other, same⟩ := List.mem_eraseIdx_iff_getElem.1 (sub _ mem)
      exact other ((distinct.getElem_inj_iff (hi := lt) (hj := inside)).1 same)
    simp only [dealColumns, pick, first]
    refine ⟨by simp [len], List.nodup_cons.2 ⟨fresh, nodup⟩, fun c mem => ?_⟩
    rcases List.mem_cons.1 mem with rfl | later
    · exact List.getElem_mem inside
    · exact List.mem_of_mem_eraseIdx (sub c later)

theorem secdedColumns_deals : secdedColumns.length = 64 ∧ secdedColumns.Nodup ∧ ∀ c ∈ secdedColumns, oddBits c = true ∧ 1 < popc 8 c.toNat := by
  obtain ⟨len, nodup, sub⟩ := dealColumns_deals 64 0 eccColumns eccColumns_nodup (by rw [eccColumns_length]; decide)
  exact ⟨len, nodup, fun c mem => eccColumns_weight c (sub c mem)⟩

/-! The weight of a sum. -/

theorem popc_xor (n a b : Nat) : popc n (a ^^^ b) % 2 = (popc n a + popc n b) % 2 := by
  induction n generalizing a b with
  | zero => rfl
  | succ n ih =>
    have half := ih (a / 2) (b / 2)
    have bit : (a ^^^ b) % 2 = (a + b) % 2 := Nat.xor_mod_two_eq
    simp only [popc, Nat.xor_div_two]
    omega

theorem oddBits_xor {a b : BitVec 8} (ha : oddBits a = true) (hb : oddBits b = true) : popc 8 (a ^^^ b).toNat % 2 = 0 := by
  have sum := popc_xor 8 a.toNat b.toNat
  simp only [oddBits, beq_iff_eq] at ha hb
  rw [BitVec.toNat_xor]
  omega

/-! The check bits are linear. -/

/-- The sum of the columns of a word's ones. -/
def columnSum (l : List (BitVec 8 × Nat)) (d : Word) (a : BitVec 8) : BitVec 8 := l.foldl (fun a c => if d.getLsbD c.2 then a ^^^ c.1 else a) a

theorem secdedEncode_eq (d : Word) : secdedEncode d = columnSum secdedColumns.zipIdx d 0 := rfl

theorem columnSum_xor (l : List (BitVec 8 × Nat)) (d e : Word) (a b : BitVec 8) :
    columnSum l d a ^^^ columnSum l e b = columnSum l (d ^^^ e) (a ^^^ b) := by
  induction l generalizing a b with
  | nil => rfl
  | cons c l ih =>
    unfold columnSum at ih ⊢
    simp only [List.foldl_cons, BitVec.getLsbD_xor, ih]
    congr 1
    cases d.getLsbD c.2 <;> cases e.getLsbD c.2 <;> simp only [Bool.xor_false, Bool.xor_true, Bool.not_true, Bool.not_false, Bool.false_eq_true, if_false, if_true]
    · exact (BitVec.xor_assoc _ _ _).symm
    · rw [BitVec.xor_assoc, BitVec.xor_comm c.1, BitVec.xor_assoc]
    · rw [BitVec.xor_assoc, BitVec.xor_comm c.1, BitVec.xor_assoc, BitVec.xor_self, BitVec.xor_zero]

theorem secdedEncode_xor (d e : Word) : secdedEncode d ^^^ secdedEncode e = secdedEncode (d ^^^ e) := by
  rw [secdedEncode_eq, secdedEncode_eq, secdedEncode_eq, columnSum_xor, BitVec.xor_self]
  rfl

/-- A word with one one. -/
def oneBit (i : Nat) : Word := BitVec.ofNat 64 (2 ^ i)

theorem getLsbD_oneBit {i : Nat} (lt : i < 64) (j : Nat) : (oneBit i).getLsbD j = decide (i = j) := by
  unfold oneBit
  rw [BitVec.getLsbD_ofNat, Nat.testBit_two_pow]
  by_cases same : i = j
  · rw [decide_eq_true same, decide_eq_true (by omega), Bool.and_self]
  · rw [decide_eq_false same, Bool.and_false]

theorem columnSum_oneBit (cols : List (BitVec 8)) (n : Nat) {i : Nat} (lt : i < 64) (a : BitVec 8) : columnSum (cols.zipIdx n) (oneBit i) a =
    if h : n ≤ i ∧ i - n < cols.length then a ^^^ cols[i - n]'h.2 else a := by
  induction cols generalizing n a with
  | nil => simp [columnSum]
  | cons c cols ih =>
    have step : columnSum ((c :: cols).zipIdx n) (oneBit i) a = columnSum (cols.zipIdx (n + 1)) (oneBit i) (if i = n then a ^^^ c else a) := by
      simp [columnSum, getLsbD_oneBit lt]
    rw [step, ih]
    by_cases here : i = n
    · subst here
      rw [dif_neg (by omega), dif_pos ⟨Nat.le_refl _, by simp⟩, if_pos rfl]
      simp
    · rw [if_neg here]
      by_cases later : n + 1 ≤ i ∧ i - (n + 1) < cols.length
      · rw [dif_pos later, dif_pos ⟨by omega, by rw [List.length_cons]; omega⟩]
        have next : i - n = (i - (n + 1)) + 1 := by omega
        simp only [next, List.getElem_cons_succ]
      · rw [dif_neg later, dif_neg (by rw [List.length_cons]; omega)]

theorem secdedEncode_oneBit (i : Fin 64) : secdedEncode (oneBit i) = secdedColumns[i.val]'(by rw [secdedColumns_deals.1]; exact i.isLt) := by
  rw [secdedEncode_eq, columnSum_oneBit _ _ i.isLt, dif_pos ⟨Nat.zero_le _, by rw [secdedColumns_deals.1]; exact i.isLt⟩]
  simp

/-! The decoder. -/

theorem secdedFind_zero : secdedFind 0 = .clean := if_pos rfl

theorem secdedFind_column (i : Fin 64) : secdedFind (secdedEncode (oneBit i)) = .dataBit i := by
  obtain ⟨len, nodup, weight⟩ := secdedColumns_deals
  have lt : i.val < secdedColumns.length := by rw [len]; exact i.isLt
  obtain ⟨-, heavy⟩ := weight _ (List.getElem_mem lt)
  rw [secdedEncode_oneBit]
  unfold secdedFind
  rw [if_neg (fun zero => by rw [zero] at heavy; exact absurd heavy (by decide)), if_neg (by omega)]
  have found : secdedColumns.findIdx? (fun c => c == secdedColumns[i.val]) = some i.val := by
    rw [List.findIdx?_eq_some_iff_getElem]
    refine ⟨lt, beq_self_eq_true _, fun j before same => ?_⟩
    have at_ := (nodup.getElem_inj_iff (hi := before.trans lt) (hj := lt)).1 (eq_of_beq same)
    omega
  rw [found]

/-- A sum of two columns has even weight, so no column and no check bit has it. -/
theorem secdedFind_two {i j : Fin 64} (ne : i ≠ j) : secdedFind (secdedEncode (oneBit i ^^^ oneBit j)) = .double := by
  obtain ⟨len, nodup, weight⟩ := secdedColumns_deals
  have lti : i.val < secdedColumns.length := by rw [len]; exact i.isLt
  have ltj : j.val < secdedColumns.length := by rw [len]; exact j.isLt
  rw [← secdedEncode_xor, secdedEncode_oneBit, secdedEncode_oneBit]
  have even := oddBits_xor (weight _ (List.getElem_mem lti)).1 (weight _ (List.getElem_mem ltj)).1
  unfold secdedFind
  rw [if_neg, if_neg (by omega)]
  · have none_ : secdedColumns.findIdx? (fun c => c == secdedColumns[i.val] ^^^ secdedColumns[j.val]) = none := by
      rw [List.findIdx?_eq_none_iff]
      intro c mem
      rw [beq_eq_false_iff_ne]
      rintro rfl
      have odd := (weight _ mem).1
      simp only [oddBits, beq_iff_eq] at odd
      omega
    rw [none_]
  · intro zero
    have same : secdedColumns[i.val] = secdedColumns[j.val] := BitVec.xor_eq_zero_iff.1 zero
    exact ne (Fin.ext ((nodup.getElem_inj_iff).1 same))

/-- Any one wrong bit is corrected and any two are reported (R157, R217). -/
theorem secded_corrects (w : Word) (i j : Fin 64) :
    secdedFind (secdedEncode w ^^^ secdedEncode w) = .clean ∧
    secdedFix (w ^^^ oneBit i) (secdedFind (secdedEncode w ^^^ secdedEncode (w ^^^ oneBit i))) = w ∧
    (i ≠ j → secdedFind (secdedEncode w ^^^ secdedEncode (w ^^^ oneBit i ^^^ oneBit j)) = .double) := by
  have one : w ^^^ (w ^^^ oneBit i) = oneBit i := by rw [← BitVec.xor_assoc, BitVec.xor_self, BitVec.zero_xor]
  have two : w ^^^ (w ^^^ oneBit i ^^^ oneBit j) = oneBit i ^^^ oneBit j := by rw [← BitVec.xor_assoc, one]
  refine ⟨by rw [BitVec.xor_self]; exact secdedFind_zero, ?_, fun ne => ?_⟩
  · rw [secdedEncode_xor, one, secdedFind_column]
    exact (BitVec.xor_assoc _ _ _).trans (by rw [show BitVec.ofNat 64 (2 ^ i.val) = oneBit i from rfl, BitVec.xor_self, BitVec.xor_zero])
  · rw [secdedEncode_xor, two]
    exact secdedFind_two ne

end Sys2Proof.Machine
end

section
/-!
PROOFS. Scrubs, refresh, lost dies and temperatures (O50).
-/

namespace Sys2Proof.Machine

/-! What an access to HBM leaves of a controller's patrol scrub. -/

/-- From `s` to `t` no time has passed, no controller's scrub has gone on, and the configuration and the links' states are the
same. -/
structure State.ScrubStays (s t : State) : Prop where
  now : t.now = s.now
  cfg : t.cfg = s.cfg
  linkState : ∀ l, (t.link l).state = (s.link l).state
  scrub : ∀ k, (t.hbmc k).nextLine = (s.hbmc k).nextLine ∧ (t.hbmc k).passes = (s.hbmc k).passes

namespace State.ScrubStays

theorem refl (s : State) : s.ScrubStays s := ⟨rfl, rfl, fun _ => rfl, fun _ => ⟨rfl, rfl⟩⟩

theorem trans {s t u : State} (h : s.ScrubStays t) (k : t.ScrubStays u) : s.ScrubStays u :=
  ⟨k.now.trans h.now, k.cfg.trans h.cfg, fun l => (k.linkState l).trans (h.linkState l), fun n => ⟨(k.scrub n).1.trans (h.scrub n).1, (k.scrub n).2.trans (h.scrub n).2⟩⟩

theorem ite {s a b : State} {c : Prop} [Decidable c] (ha : s.ScrubStays a) (hb : s.ScrubStays b) : s.ScrubStays (if c then a else b) := by
  split
  · exact ha
  · exact hb

theorem foldl {α : Type} {f : State → α → State} (hf : ∀ (t : State) (x : α), t.ScrubStays (f t x)) (l : List α) (s : State) :
    s.ScrubStays (l.foldl f s) := by
  induction l generalizing s with
  | nil => exact refl s
  | cons x l ih => exact (hf s x).trans (ih _)

/-- The controllers are as they were. -/
theorem same {s t : State} (now : t.now = s.now) (cfg : t.cfg = s.cfg) (link : ∀ l, (t.link l).state = (s.link l).state)
    (h : t.hbm = s.hbm) : s.ScrubStays t := ⟨now, cfg, link, fun n => by
  have e : t.hbmc n = s.hbmc n := congrArg (fun m => SMap.get ({} : Hbm) m n) h
  rw [e]
  exact ⟨rfl, rfl⟩⟩

end State.ScrubStays

theorem State.Faulted.scrubStays {s t : State} (h : s.Faulted t) : s.ScrubStays t := .same h.now h.cfg h.linkState h.hbm

namespace State

/-- A change of a controller that leaves its place in the scrub. -/
theorem updHbm_scrubStays (s : State) (k : Nat) {f : Hbm → Hbm} (hf : (f (s.hbmc k)).nextLine = (s.hbmc k).nextLine ∧
    (f (s.hbmc k)).passes = (s.hbmc k).passes) : s.ScrubStays (s.updHbm k f) := ⟨rfl, rfl, fun _ => rfl, fun n => by
  rw [State.hbmc_updHbm]
  split
  · next same => rw [same]; exact hf
  · exact ⟨rfl, rfl⟩⟩

theorem noteLost_scrubStays (s : State) (k l : Nat) : s.ScrubStays (s.noteLost k l) := by
  unfold State.noteLost
  split
  · exact s.updHbm_scrubStays k ⟨rfl, rfl⟩
  · exact .refl s

theorem lineStore_scrubStays (s : State) (k l : Nat) (bs : List Byte) : s.ScrubStays (s.lineStore k l bs) := by
  refine (s.noteLost_scrubStays k l).trans (.trans (updHbm_scrubStays _ k (f := fun c => { c with
    raw := SMap.put none c.raw l none, lineKey := SMap.put 0 c.lineKey l (s.genOf (hbmOff k l) true + 1) }) ⟨rfl, rfl⟩) (.same rfl rfl (fun _ => rfl) rfl))

theorem poisonLine_scrubStays (s : State) (k l : Nat) : s.ScrubStays (s.poisonLine k l) := by
  unfold State.poisonLine
  exact (s.noteLost_scrubStays k l).trans (updHbm_scrubStays _ _ ⟨rfl, rfl⟩)

theorem countCorrected_scrubStays (s : State) (k l j : Nat) : s.ScrubStays (s.countCorrected k l j) := by
  unfold State.countCorrected
  exact s.updHbm_scrubStays k ⟨rfl, rfl⟩

theorem freeBytes_scrubStays (n : Nat) (s : State) : s.ScrubStays (State.freeBytes n s).2 := by
  induction n generalizing s with
  | zero => exact .refl s
  | succ n ih =>
    have step : (State.freeBytes (n + 1) s).2 = (State.freeBytes n s.draw.2).2 := rfl
    rw [step]
    exact (State.ScrubStays.same (s := s) (t := s.draw.2) rfl rfl (fun _ => rfl) rfl).trans (ih s.draw.2)

theorem repairChunk_scrubStays (s : State) (k l j : Nat) : s.ScrubStays (s.repairChunk k l j) := by
  unfold State.repairChunk
  split
  · exact .ite (s.updHbm_scrubStays k ⟨rfl, rfl⟩) (.refl s)
  · exact .refl s

theorem lineFatal_scrubStays (s : State) (r : ErrRec) : s.ScrubStays (s.lineFatal r) :=
  .ite (s.partFatal_faulted _ _).scrubStays (.ite (s.devFatal_faulted _).scrubStays (s.record_faulted _).scrubStays)

theorem lineLoad_scrubStays (s : State) (k l : Nat) (upset : BitVec 9) (lost : Option Nat) (scrub : Bool) :
    s.ScrubStays (s.lineLoad k l upset lost scrub).2 := by
  have plain : ∀ (t : State) (c : Bool) (x : Option (List Byte)), t.ScrubStays (if c then (let (bs, t) := State.freeBytes 16 t
      (some bs, t)) else (x, t) : Option (List Byte) × State).2 := fun t c x => by
    cases c with
    | false => exact .refl t
    | true => exact freeBytes_scrubStays 16 t
  unfold State.lineLoad
  dsimp only
  split
  · split
    · exact freeBytes_scrubStays 16 s
    · exact .refl s
  · split
    · exact plain _ _ _
    · refine .trans ?_ (plain _ _ _)
      refine .trans ((s.record_faulted _).scrubStays.trans (countCorrected_scrubStays _ _ _ _)) (.ite (repairChunk_scrubStays _ _ _ _) ?_)
      exact updHbm_scrubStays _ _ ⟨rfl, rfl⟩
    · exact (s.lineFatal_scrubStays _).trans (poisonLine_scrubStays _ _ _)
    · split
      · exact .refl s
      · exact s.lineFatal_scrubStays _

theorem lineOp_scrubStays (s : State) (k l at_ : Nat) (op : MemOp) (upset : BitVec 9) (lost : Option Nat) :
    s.ScrubStays (s.lineOp k l at_ op upset lost).2 := by
  have load := s.lineLoad_scrubStays k l upset lost false
  unfold State.lineOp
  split
  · split
    all_goals
      next found => rw [found] at load; exact load
  · split
    · exact s.lineStore_scrubStays _ _ _
    · split
      · next found => rw [found] at load; exact load.trans (lineStore_scrubStays _ _ _ _)
      · next found => rw [found] at load; exact load
  · split
    · next found => rw [found] at load; exact load.trans (lineStore_scrubStays _ _ _ _)
    · next found => rw [found] at load; exact load

theorem keyRefusal_scrubStays (s : State) (off : Nat) : s.ScrubStays (s.keyRefusal off) := by
  unfold State.keyRefusal
  exact (s.record_faulted _).scrubStays

theorem perform_scrubStays (s : State) (k : Nat) (r : HbmReq) (upset : BitVec 9) : s.ScrubStays (s.perform k r upset).2 := by
  unfold State.perform
  dsimp only
  split
  · exact .refl s
  · split
    · exact s.repairChunk_scrubStays _ _ _
    · exact s.lineOp_scrubStays _ _ _ _ _ _
    · split
      · exact s.keyRefusal_scrubStays _
      · exact s.lineOp_scrubStays _ _ _ _ _ _

theorem orderLine_scrubStays (s : State) (k l n : Nat) : s.ScrubStays (s.orderLine k l n) := by
  refine .foldl (fun t i => ?_) _ s
  split
  · next r _ => exact .ite ((t.perform_scrubStays k r 0).trans (updHbm_scrubStays _ _ ⟨rfl, rfl⟩)) (.refl t)
  · exact .refl t

theorem readLine_scrubStays (s : State) (k l : Nat) (upset : BitVec 9) (scrub : Bool) : s.ScrubStays (s.readLine k l upset scrub).2 :=
  (s.orderLine_scrubStays k l _).trans (lineLoad_scrubStays _ _ _ _ _ _)

theorem takeSlot_scrubStays (k user start room : Nat) (skipped : List Nat) (w : List HbmReq) (s : State) :
    s.ScrubStays (State.takeSlot k user start room skipped w s) := by
  induction w generalizing room skipped s with
  | nil => exact .refl s
  | cons r rest ih =>
    unfold State.takeSlot
    dsimp only
    exact .ite ((s.updHbm_scrubStays k ⟨rfl, rfl⟩).trans (ih _ _ _)) (.ite ((s.updHbm_scrubStays k ⟨rfl, rfl⟩).trans (ih _ _ _))
      ((s.updHbm_scrubStays k ⟨rfl, rfl⟩).trans (ih _ _ _)))

theorem fillSlot_scrubStays (s : State) (k user start room : Nat) : s.ScrubStays (s.fillSlot k user start room) :=
  (s.updHbm_scrubStays k ⟨rfl, rfl⟩).trans (takeSlot_scrubStays _ _ _ _ _ _ _)

end State

/-! The scrub reads. -/

section
variable {s : State} {t : TileId}

theorem State.acmScrubRead_reads (up : s.tilesUp = true) (u : Upset) : exec (.acmScrubRead t u) s = .next
    (((((s.strike t u).atLeast (244000 * (s.tile t).acmScrub)).updTile t (fun y => { y with acmScrub := (s.tile t).acmScrub + 1 })).spend t
      [.acm]).acmCheckRows t ((s.tile t).acmScrub % 4096) 1 true) :=
  (exec_acmScrubRead _ _ _).trans (congrArg Host.Outcome.next (if_pos up))

theorem State.lsScrubRead_reads (up : s.tilesUp = true) (u : Upset) :
    let b := (((s.strike t u).atLeast (480000 * (s.tile t).lsScrub)).updTile t (fun y => { y with lsScrub := (s.tile t).lsScrub + 1 })).spend t [.lsPort]
    exec (.lsScrubRead t u) s = .next ((b.plantedIn t ((s.tile t).lsScrub % 16384 * 1024) 1024).foldl (fun s w => s.lsCheck t w true) b) :=
  (exec_lsScrubRead _ _ _).trans (congrArg Host.Outcome.next (if_pos up))

/-- Where no word carries planted check bits the scrub finds nothing (R158). -/
theorem State.acmCheckRows_clean {a : State} {t : Nat} (clean : (a.tile t).mxu.chk = []) (row n : Nat) (scrub : Bool) :
    a.acmCheckRows t row n scrub = a := by
  unfold State.acmCheckRows State.mxu
  rw [clean]
  rfl

theorem State.plantedIn_clean {a : State} {t : Nat} (clean : (a.tile t).lsChk = []) (off len : Nat) : a.plantedIn t off len = [] := by
  unfold State.plantedIn
  rw [clean]
  rfl

theorem State.noScrubRead (down : s.tilesUp = false) (u : Upset) :
    exec (.acmScrubRead t u) s = .next s ∧ exec (.lsScrubRead t u) s = .next s := by
  rw [exec_acmScrubRead, execAcmScrubRead, exec_lsScrubRead, execLsScrubRead, down]
  simp

end

theorem Hbm.roll_ends {c : Hbm} {start hours now : Nat} (scrub : c.scrub = some (start, hours)) (last : c.nextLine = 250000000)
    (past : start + hours * 3600000000000 ≤ now) : (c.roll now).nextLine = 0 ∧ (c.roll now).passes = c.passes + 1 := by
  unfold Hbm.roll
  rw [scrub]
  dsimp only
  rw [if_pos ⟨last, past⟩]
  exact ⟨rfl, rfl⟩

theorem Hbm.roll_goes {c : Hbm} (more : c.nextLine ≠ 250000000) (now : Nat) : c.roll now = c := by
  unfold Hbm.roll
  split
  · exact if_neg (fun h => more h.1)
  · rfl

/-- HBM_SCRUB_READ reads the line that is due, goes on to the next and counts a pass when its period is over (R283). -/
theorem State.hbmScrubRead_goes {s : State} {k : CtrlId} {start hours : Nat} (scrub : (s.hbmc k).scrub = some (start, hours))
    (works : (s.hbmc k).state ≠ 2) (up : BitVec 9) :
    let due := start + (s.hbmc k).nextLine * 14400 * hours
    let r := (s.hbmc k).roll (s.atLeast due).now
    ∃ s', exec (.hbmScrubRead k up) s = .next s' ∧ (s'.hbmc k).nextLine = r.nextLine + 1 ∧ (s'.hbmc k).passes = r.passes ∧ due ≤ s'.now := by
  intro due r
  let a := (s.atLeast due).updHbm k (Hbm.roll (s.atLeast due).now)
  have rolled : a.hbmc k = r := State.hbmc_updHbm_self _ _ _
  let x := a.slotAt k (ceilDiv (a.slotNow k) 32 * 32)
  let b := x.2.setArb (10 + k) { x.2.arb (10 + k) with index := (x.2.arb (10 + k)).index + 1, last := 0x40, blank := false }
  let c := (b.readLine k (a.hbmc k).nextLine up true).2
  let f := fun c : Hbm => { c with nextLine := (a.hbmc k).nextLine + 1, banks := SMap.put 0 c.banks (a.hbmc k).nextLine (x.1 + 1) }
  have next : exec (.hbmScrubRead k up) s = .next ((c.updHbm k f).fillSlot k 0x40 x.1 6) := by
    rw [exec_hbmScrubRead, execHbmScrubRead, scrub]
    exact congrArg Host.Outcome.next (if_neg works)
  have read := (b.readLine_scrubStays k (a.hbmc k).nextLine up true).scrub k
  have fill := (State.fillSlot_scrubStays (c.updHbm k f) k 0x40 x.1 6).scrub k
  have line : ((c.updHbm k f).hbmc k).nextLine = r.nextLine + 1 := by rw [State.hbmc_updHbm_self, ← rolled]
  have passes : ((c.updHbm k f).hbmc k).passes = r.passes := by
    rw [State.hbmc_updHbm_self, ← rolled]
    exact read.2
  have later : Keeps a ((c.updHbm k f).fillSlot k 0x40 x.1 6) := by
    refine State.fillSlot_keeps (State.updHbm_keeps (State.readLine_keeps (State.setArb_keeps (State.slotAt_keeps (Keeps.refl a)))))
  exact ⟨_, next, fill.1.trans line, fill.2.trans passes, (Nat.le_max_right s.now due).trans later.2.2⟩

/-- A die over its errors is LOST: the first makes its controller DEGRADED (R285–R288). -/
theorem State.hbmDieLost_loses {s : State} {k : CtrlId} {d : Fin 12} (past : (s.hbmc k).overErrors d = true)
    (fresh : SMap.get 0 (s.hbmc k).dieState d ≠ 2) (normal : (s.hbmc k).state = 0) (whole : (s.hbmc k).lostDie = 0xF) :
    ∃ s', exec (.hbmDieLost k d) s = .next s' ∧ (s'.hbmc k).state = 1 ∧ (s'.hbmc k).lostDie = BitVec.ofNat 4 d ∧
      SMap.get 0 (s'.hbmc k).dieState d = 2 := by
  refine ⟨_, (exec_hbmDieLost _ _ _).trans (congrArg Host.Outcome.next ((if_pos past).trans (if_neg fresh))), ?_⟩
  dsimp only
  rw [if_neg (by rw [normal]; decide), (State.record_reads _ _).2.2.2.2.1]
  have mine : ∀ (f : Hbm → Hbm) (b : Boot), State.hbmc { (s.updHbm k f) with boot := b } k = f (s.hbmc k) := fun f b => State.hbmc_updHbm_self _ _ _
  rw [mine]
  refine ⟨?_, ?_, SMap.get_put_self _ _ _ _⟩
  · exact if_pos normal
  · exact if_pos (by rw [whole]; rfl)

/-! Temperatures. -/

/-- What HBM_TEMP_READ notes of one controller (R278, R290). -/
def State.noteTemp (s : State) (x : CtrlId × BitVec 8) : State := s.updHbm x.1 (fun c => { c with
  temp := x.2, thermal := decide (90 ≤ x.2.toNat), hotSince := if x.2.toNat ≤ 95 then none else some (c.hotSince.getD s.now) })

theorem State.noteTemps_other (ts : List (CtrlId × BitVec 8)) {j : Nat} (other : ∀ x ∈ ts, x.1.val ≠ j) (s : State) :
    (ts.foldl State.noteTemp s).hbmc j = s.hbmc j ∧ (ts.foldl State.noteTemp s).now = s.now ∧ (ts.foldl State.noteTemp s).plant = s.plant := by
  induction ts generalizing s with
  | nil => exact ⟨rfl, rfl, rfl⟩
  | cons x ts ih =>
    obtain ⟨hbm, now, plant⟩ := ih (fun y mem => other y (List.mem_cons_of_mem _ mem)) (s.noteTemp x)
    refine ⟨hbm.trans ?_, now, plant⟩
    exact (State.hbmc_updHbm _ _ _ _).trans (if_neg (fun same => other x List.mem_cons_self same.symm))

theorem State.noteTemps_same (ts : List (CtrlId × BitVec 8)) (s : State) :
    (ts.foldl State.noteTemp s).now = s.now ∧ (ts.foldl State.noteTemp s).plant = s.plant := by
  induction ts generalizing s with
  | nil => exact ⟨rfl, rfl⟩
  | cons x ts ih => exact ih (s.noteTemp x)

theorem State.hbmTempRead_notes (s : State) (ts : List (CtrlId × BitVec 8)) : exec (.hbmTempRead ts) s = .next
    (((ts.foldl State.noteTemp ((s.atLeast (dueAt 1000000 s.now s.plant.nextTemp)).setPlant (fun p => { p with
      nextTemp := (s.atLeast (dueAt 1000000 s.now s.plant.nextTemp)).now + 1000000 }))).setPlant (fun p => { p with
      thermtrip := p.thermtrip || ts.any (fun x => decide (115 ≤ x.2.toNat)) }))) := exec_hbmTempRead _ _

/-- Settles O50. -/
theorem scrubsAndHbm : Obligations.ScrubsAndHbm := by
  intro s t k d up ts u c x
  refine ⟨fun up => ⟨State.acmScrubRead_reads up u, State.lsScrubRead_reads up u, fun plain clean => ?_, fun plain clean => ?_⟩,
    fun down => State.noScrubRead down u, fun w i j => secded_corrects w i j, fun start hours scrub works => ⟨State.hbmScrubRead_goes scrub works up,
    fun now last past => Hbm.roll_ends scrub last past, fun now more => Hbm.roll_goes more now⟩, fun not => ?_,
    ⟨_, exec_hbmRefresh _ _, rfl, State.hbmc_updHbm_self _ _ _, fun j other => (State.hbmc_updHbm _ _ _ _).trans (if_neg other)⟩,
    State.hbmDieLost_loses, fun fine => ?_, ⟨_, s.hbmTempRead_notes ts, ?_, ?_, ?_⟩, fun v => ⟨_, s.hbmTempRead_notes [(k, v)], ?_⟩, fun since hot works => ?_, fun not => ?_⟩
  · refine (State.acmScrubRead_reads up u).trans (congrArg Host.Outcome.next (State.acmCheckRows_clean ?_ _ _ _))
    subst plain
    rw [State.tile_spend, State.tile_updTile_self]
    exact clean
  · have none_ := State.plantedIn_clean (a := (((s.strike t u).atLeast (480000 * x.lsScrub)).updTile t (fun y => { y with
        lsScrub := x.lsScrub + 1 })).spend t [.lsPort]) (t := t) (by
      subst plain
      rw [State.tile_spend, State.tile_updTile_self]
      exact clean)
    refine (State.lsScrubRead_reads up u).trans (congrArg Host.Outcome.next ?_)
    rw [none_]
    exact List.foldl_nil
  · rw [exec_hbmScrubRead, execHbmScrubRead]
    rcases not with none_ | failed
    · rw [show (s.hbmc k).scrub = none from none_]
    · split
      · rfl
      · exact congrArg Host.Outcome.next (if_pos failed)
  · exact (exec_hbmDieLost _ _ _).trans (congrArg Host.Outcome.next (if_neg (by rw [show (s.hbmc k).overErrors d = false from fine]; exact Bool.false_ne_true)))
  · refine congrArg (fun b : Bool => b || ts.any (fun x => decide (115 ≤ x.2.toNat))) ?_
    exact (congrArg Plant.thermtrip (State.noteTemps_same ts _).2).trans rfl
  · exact (State.noteTemps_same ts _).1
  · intro j other
    exact (State.noteTemps_other ts other _).1
  · have noted : ∀ a : State, ((a.noteTemp (k, v)).hbmc k).temp = v ∧ ((a.noteTemp (k, v)).hbmc k).thermal = decide (90 ≤ v.toNat) ∧
        (((a.noteTemp (k, v)).hbmc k).hotSince = none ↔ v.toNat ≤ 95) := fun a => by
      rw [State.noteTemp, State.hbmc_updHbm_self]
      exact ⟨rfl, rfl, by simp⟩
    exact noted _
  · rw [exec_hbmThermal, execHbmThermal, show (s.hbmc k).hotSince = some since from hot]
    exact congrArg Host.Outcome.next (if_neg works)
  · rw [exec_hbmThermal, execHbmThermal]
    rcases not with cool | failed
    · rw [show (s.hbmc k).hotSince = none from cool]
    · split
      · exact congrArg Host.Outcome.next (if_pos failed)
      · rfl

end Sys2Proof.Machine
end

section
/-!
PROOFS. Chain steps (O51).
-/

namespace Sys2Proof.Machine

section
variable {s : State} {ix : LedgerIx} {c : ChainStep} {ch : Chain}

/-- A step starts once its tile runs no pass (R319, R320). -/
theorem State.chainStepStart_starts {t : Nat} (tile : (s.led ix.toNat).tile = t) (step : s.stepAt t = some (ix.toNat, c, ch))
    (runs : (s.led ix.toNat).state = .running) (fresh : (s.led ix.toNat).crun.started = false) (idle : (s.tile t).run = none)
    (on : (s.tile t).stopped = false) (clean : (s.mxu t).chk = []) :
    let a := s.updLed ix.toNat (fun e => { e with
      crun := { started := true, startTime := s.now, lastHeard := s.now, next := if c.member = 0 then c.rows else 0 } })
    exec (.chainStepStart ix) s = .next (if c.member ≠ 0 then a
      else if ch.members.length ≤ 1 then a.sealChain t ix.toNat c ch
      else a.sendChain t ix.toNat c ch 1 (chainPkts c ch 16 0 ((List.range c.rows).map (a.chainRow t c)))) := by
  intro a
  have may : ¬ (ix.toNat ≠ ix.toNat ∨ (s.led ix.toNat).state ≠ .running ∨ (s.led ix.toNat).crun.started = true ∨ (s.tile t).run.isSome = true ∨
      (s.tile t).stopped = true) := by simp [runs, fresh, idle, on]
  rw [exec_chainStepStart, execChainStepStart]
  dsimp only
  rw [tile, step]
  refine congrArg Host.Outcome.next ((if_neg may).trans ?_)
  rw [State.acmCheckRows_clean clean, on]
  exact if_neg Bool.false_ne_true

theorem State.noStep (none_ : s.stepAt (s.led ix.toNat).tile = none) :
    exec (.chainStepStart ix) s = .next s ∧ exec (.chainWaitExpiry ix) s = .next s := by
  rw [exec_chainStepStart, execChainStepStart, exec_chainWaitExpiry, execChainWaitExpiry]
  dsimp only
  rw [none_]
  exact ⟨rfl, rfl⟩

/-- After `WAIT_MS` without a word the message breaks (R324). -/
theorem State.chainWaitExpiry_breaks {e : Ledger} (led : s.led ix.toNat = e) (step : s.stepAt e.tile = some (ix.toNat, c, ch))
    (started : e.crun.started = true) :
    exec (.chainWaitExpiry ix) s = .next ((s.atLeast (e.crun.lastHeard + ch.wait)).breakHere e.tile ix.toNat c true) := by
  rw [exec_chainWaitExpiry, execChainWaitExpiry, led, step]
  exact congrArg Host.Outcome.next (if_neg (by simp [started]))

end

section
variable {s : State} {t : TileId} {p : ChainPacket} {i : Nat} {c : ChainStep} {ch : Chain}

theorem State.chainPackets_wait (none_ : s.startedStep t p.chain.toNat = none) :
    exec (.chainPacketReceive t p true) s = .next (s.keepOffer (.rows t p)) ∧ exec (.chainDoneReceive t p) s = .next (s.keepOffer (.done t p)) := by
  rw [exec_chainPacketReceive, execChainPacketReceive, exec_chainDoneReceive, execChainDoneReceive, none_]
  exact ⟨rfl, rfl⟩

section
variable (step : s.startedStep t p.chain.toNat = some (i, c, ch))
include step

theorem State.chainPackets_mismatch (differs : chainMismatch c ch p = true) :
    exec (.chainPacketReceive t p true) s = .next ((s.takeOffer (.rows t p)).mismatch t i c) ∧
      exec (.chainDoneReceive t p) s = .next ((s.takeOffer (.done t p)).mismatch t i c) := by
  rw [exec_chainPacketReceive, execChainPacketReceive, exec_chainDoneReceive, execChainDoneReceive, step]
  exact ⟨congrArg Host.Outcome.next (if_pos differs), congrArg Host.Outcome.next (if_pos differs)⟩

variable (matches_ : chainMismatch c ch p = false)
include matches_

theorem State.chainPacket_early (early : (s.led i).crun.next < p.first) :
    exec (.chainPacketReceive t p true) s = .next (s.keepOffer (.rows t p)) := by
  rw [exec_chainPacketReceive, execChainPacketReceive, step]
  exact congrArg Host.Outcome.next ((if_neg (by simp [matches_])).trans (if_pos early))

section
variable (member : c.member ≠ 0) (turn : p.first = (s.led i).crun.next) (rows : p.data ≠ []) (few : p.data.length ≤ 8)
    (inside : p.first + p.data.length ≤ c.rows)
include member turn rows few inside

/-- Rows in their turn pass every check of R319 and R320. -/
theorem State.chainPacket_accepts (ok : Bool) :
    let z := s.takeOffer (.rows t p)
    let sums := p.data.mapIdx (fun j r => chainAdd ch.wide r (s.chainRow t c (p.first + j)))
    let a := (z.updMxu t (fun m => (sums.zipIdx).foldl (fun m r => m.setRow (c.srcRow + p.first + r.2) ((rowDigits 64 r.1).map (BitVec.ofNat 64))) m)).updLed i
      (fun e => { e with crun := { e.crun with next := p.first + p.data.length, lastHeard := s.now } })
    exec (.chainPacketReceive t p ok) s = .next (if !ok then z.tileFatal t { mkRec 0x0107 1 with ledger := i }
      else if c.member + 1 < ch.members.length then a.sendChain t i c ch (c.member + 1) [chainPkt c ch p.first sums]
      else if p.first + p.data.length = c.rows then a.sealChain t i c ch else a) := by
  intro z sums a
  have good : ¬ (c.member = 0 ∨ p.first ≠ ((s.takeOffer (.rows t p)).led i).crun.next ∨ p.data.isEmpty = true ∨ 8 < p.data.length ∨
      c.rows < p.first + p.data.length) := by
    have same : (s.takeOffer (.rows t p)).led i = s.led i := rfl
    simp only [List.isEmpty_iff, not_or, same]
    exact ⟨member, by omega, rows, by omega, by omega⟩
  rw [exec_chainPacketReceive, execChainPacketReceive, step]
  exact congrArg Host.Outcome.next ((if_neg (by simp [matches_])).trans ((if_neg (by omega)).trans (if_neg good)))

end

section
variable (whole : (s.led i).crun.next = c.rows) (more : c.member + 1 < ch.members.length)
include whole more

theorem State.chainDone_passes (reduce : ch.allreduce = false) :
    exec (.chainDoneReceive t p) s = .next ((s.takeOffer (.done t p)).stepDone t i c ch []) := by
  rw [exec_chainDoneReceive, execChainDoneReceive, step]
  refine congrArg Host.Outcome.next ((if_neg (by simp [matches_])).trans ((if_neg (by simp [reduce])).trans ((if_neg ?_).trans (if_pos (by simp [reduce])))))
  rintro (other | last)
  · exact other whole
  · omega

theorem State.chainDone_final (reduce : ch.allreduce = true) (turn : p.first = (s.led i).crun.nextFinal) (rows : p.data ≠ [])
    (inside : p.first + p.data.length ≤ c.rows) :
    let a := (s.takeOffer (.done t p)).updLed i (fun e => { e with crun := { e.crun with
      nextFinal := p.first + p.data.length, lastHeard := s.now, final := SMap.putMany 0 e.crun.final p.first p.data } })
    let final := SMap.getMany 0 (a.led i).crun.final 0 c.rows
    exec (.chainDoneReceive t p) s = .next (if p.first + p.data.length = c.rows then (a.writeFinal t c final).stepDone t i c ch final else a) := by
  intro a final
  rw [exec_chainDoneReceive, execChainDoneReceive, step]
  refine congrArg Host.Outcome.next ((if_neg (by simp [matches_])).trans ((if_neg (by omega)).trans ((if_neg ?_).trans
    ((if_neg (by simp [reduce])).trans (if_neg ?_)))))
  · rintro (other | last)
    · exact other whole
    · omega
  · rintro (early | empty | over_)
    · exact early turn
    · exact rows (List.isEmpty_iff.1 empty)
    · omega

end

end

end

section
variable {s : State} {t : TileId} {b : BitVec 6} {msg : BitVec 32}

theorem State.chainBreakReceive_step {i : Nat} {c : ChainStep} {ch : Chain} (step : s.startedStep t b.toNat = some (i, c, ch)) :
    exec (.chainBreakReceive t b msg) s = .next (if c.msg = msg then (s.takeOffer (.brk t b msg)).breakHere t i c false
      else s.takeOffer (.brk t b msg)) := by
  have same : (s.takeOffer (.brk t b msg)).startedStep t b.toNat = some (i, c, ch) := step
  rw [exec_chainBreakReceive, execChainBreakReceive, State.breakReceived, same]

theorem State.chainBreakReceive_none (none_ : s.startedStep t b.toNat = none) :
    exec (.chainBreakReceive t b msg) s = .next (s.takeOffer (.brk t b msg)) := by
  have same : (s.takeOffer (.brk t b msg)).startedStep t b.toNat = none := none_
  rw [exec_chainBreakReceive, execChainBreakReceive, State.breakReceived, same]

end

/-! Recalls. -/

theorem State.part_postNotice (s : State) (n : PartId) (x : Notice) : (s.postNotice n x).part n = { s.part n with
    notices := (s.part n).notices.map (fun y => if y.num = x.num then { y with posted := true } else y) } := by
  unfold State.postNotice
  dsimp only
  split
  · rw [(State.event_reads _ _ _).1, State.part_updPart_self]
  · rw [(State.event_reads _ _ _).1, (State.event_reads _ _ _).1, State.part_updPart_self]

/-- The notice that a chain recall becomes (R328). -/
def State.recallNotice (s : State) (r : ChainRecall) : Notice := {
  num := (s.part r.part).nextNotice, tile := r.tile.toNat, fromDev := r.fromDev.toNat, chainRecall := true, incomplete := r.late,
  items := (s.chainLog.filter (fun x => x.part == r.part &&
    r.steps.any (fun c => c.1.toNat == x.chain && c.2.1.toNat == x.msg && c.2.2 == x.digest))).map (·.item),
  winStart := r.winStart.toNat, winEnd := r.winEnd.toNat }

/-- The notices that hold a chain recall (R328). -/
def State.recallsHeld (s : State) : Nat := (parts64.map (fun m => ((s.part m).notices.filter (·.chainRecall)).length)).sum

theorem State.chainRecallReceive_keeps (s : State) (r : ChainRecall) (valid : s.valid r.part = true) (room : s.recallsHeld < 256) :
    exec (.chainRecallReceive r) s = .next ((s.updPart r.part (fun p => { p with
      nextNotice := p.nextNotice + 1, notices := p.notices ++ [s.recallNotice r] })).postNotice r.part (s.recallNotice r)) := by
  rw [exec_chainRecallReceive, execChainRecallReceive]
  unfold State.recallReceived
  dsimp only
  rw [if_neg (by unfold State.recallsHeld at room; omega), if_neg (by simp [valid])]
  exact congrArg Host.Outcome.next rfl

theorem State.chainRecallReceive_full (s : State) (r : ChainRecall) (full : 256 ≤ s.recallsHeld) : exec (.chainRecallReceive r) s = .next s := by
  rw [exec_chainRecallReceive, execChainRecallReceive]
  unfold State.recallReceived
  exact congrArg (fun x : Bool × State => Host.Outcome.next x.2) (if_pos full)

theorem State.chainLogAging_drops {s : State} {x : ChainItem} {rest : List ChainItem} (log : s.chainLog = x :: rest) :
    ∃ s', exec .chainLogAging s = .next s' ∧ x ∉ s'.chainLog ∧ s'.now = max s.now (x.time + 16000001) := by
  let a := s.atLeast (x.time + 16000001)
  refine ⟨{ a with chainLog := a.chainLog.filter (fun y => decide (a.now ≤ y.time + 16000000)) }, ?_, fun mem => ?_, rfl⟩
  · rw [exec_chainLogAging, execChainLogAging, log]
  · have young := of_decide_eq_true (List.mem_filter.1 mem).2
    have now : x.time + 16000001 ≤ a.now := Nat.le_max_right _ _
    omega

/-- Settles O51. -/
theorem chains : Obligations.Chains := by
  intro s t ix p ch c i b msg r e
  refine ⟨State.chainStepStart_starts rfl, State.noStep, State.chainPackets_wait, fun step => ⟨State.chainPackets_mismatch step, fun same =>
    ⟨State.chainPacket_early step same, fun member turn rows few inside => ⟨?_, ?_⟩, fun whole more => ⟨State.chainDone_passes step same whole more,
    State.chainDone_final step same whole more⟩⟩⟩, ⟨fun step => ⟨fun same => ?_, fun other => ?_⟩, State.chainBreakReceive_none⟩,
    State.chainWaitExpiry_breaks rfl, ⟨fun valid room => ?_, s.chainRecallReceive_full r⟩, fun going => ?_, fun waits => ?_, ⟨rfl, rfl⟩, fun empty => ?_,
    fun x rest => State.chainLogAging_drops⟩
  · exact State.chainPacket_accepts step same member turn rows few inside true
  · exact State.chainPacket_accepts step same member turn rows few inside false
  · exact (State.chainBreakReceive_step step).trans (congrArg Host.Outcome.next (if_pos same))
  · exact (State.chainBreakReceive_step step).trans (congrArg Host.Outcome.next (if_neg other))
  · refine ⟨_, s.recallNotice r, s.chainRecallReceive_keeps r valid room, rfl, rfl, rfl, rfl, ?_, ?_⟩
    · rw [State.part_postNotice, State.part_updPart_self]
    · rw [State.part_postNotice, State.part_updPart_self]
  · exact (exec_chainRecallResend _).trans (congrArg Host.Outcome.next (if_pos going))
  · exact (exec_chainRecallResend _).trans (congrArg Host.Outcome.next (if_neg (by rw [waits]; exact Bool.false_ne_true)))
  · rw [exec_chainLogAging, execChainLogAging, empty]

end Sys2Proof.Machine
end

section
/-!
PROOFS. Arbiter slots, device links, fabric packets and HBM completions (O52).
-/

namespace Sys2Proof.Machine

/-! Slots. -/

theorem State.lendTo_lent {s : State} {ready : BitVec 66} {start n : Nat} (found : s.lendTo ready start = some n) : s.isStrict n = false := by
  have lent := List.find?_some found
  simp only [Bool.and_eq_true, Bool.not_eq_true'] at lent
  exact lent.2

section
variable {s : State} {e : BitVec 8} {ready : BitVec 66}

/-- A slot of a partition that is ready is its own (R74). -/
theorem State.slotUser_ready (owner : fld e 0 7 < 64) (is : ready.getLsbD (fld e 0 7) = true) : s.slotUser e ready = (fld e 0 7, false) := by
  unfold State.slotUser
  exact (if_pos owner).trans (if_pos is)

theorem State.slotUser_blank (owner : fld e 0 7 < 64) (not : ready.getLsbD (fld e 0 7) = false) (strict : e.getLsbD 7 = true) :
    s.slotUser e ready = (fld e 0 7, true) := by
  unfold State.slotUser
  exact (if_pos owner).trans ((if_neg (by rw [not]; exact Bool.false_ne_true)).trans (if_pos strict))

theorem State.slotUser_lent (owner : fld e 0 7 < 64) (not : ready.getLsbD (fld e 0 7) = false) (lent : e.getLsbD 7 = false) :
    (s.slotUser e ready).2 = false := by
  unfold State.slotUser
  dsimp only
  rw [if_pos owner, not, lent]
  rfl

/-- A partition that uses another's slot is not Strict (R75). -/
theorem State.slotUser_other (user : (s.slotUser e ready).1 < 64) (other : (s.slotUser e ready).1 ≠ fld e 0 7) :
    s.isStrict (s.slotUser e ready).1 = false := by
  have lent : ∀ (start d : Nat), 64 ≤ d → ((s.lendTo ready start).getD d) < 64 → s.isStrict ((s.lendTo ready start).getD d) = false := by
    intro start d big small
    cases found : s.lendTo ready start with
    | none => rw [found] at small; exact absurd small (Nat.not_lt.2 big)
    | some n => exact State.lendTo_lent found
  have operator : 64 ≤ (if ready.getLsbD 65 = true then 0x41 else 0x7F) := by split <;> omega
  unfold State.slotUser at user other ⊢
  dsimp only at user other ⊢
  split at user
  · split at user
    · next ready_ => rw [if_pos ‹_›, if_pos ready_] at other; exact absurd rfl other
    · split at user
      · next notReady strict => rw [if_pos ‹_›, if_neg notReady, if_pos strict] at other; exact absurd rfl other
      · next owner notReady notStrict =>
        rw [if_pos owner, if_neg notReady, if_neg notStrict]
        exact lent _ _ operator user
  · next far =>
    rw [if_neg far]
    split at user
    · next firmware =>
      rw [if_pos firmware]
      split at user
      · exact absurd user (by simp)
      · split at user
        · exact absurd user (by simp)
        · next notFirmware notOperator =>
          rw [if_neg notFirmware, if_neg notOperator]
          exact lent _ _ (by omega) user
    · next none_ =>
      rw [if_neg none_]
      exact lent _ _ operator user

end

theorem State.rotUser_ready {s : State} {ready : Nat → Bool} {i : Nat} (is : ready i = true) : s.rotUser ready i = (i, false) := by
  unfold State.rotUser
  exact if_pos is

theorem State.rotUser_blank {s : State} {ready : Nat → Bool} {i : Nat} (not : ready i = false) (part : i < 64) (strict : s.isStrict i = true) :
    s.rotUser ready i = (i, true) := by
  unfold State.rotUser
  dsimp only
  rw [if_neg (by simp [not]), if_pos (by simp [part, strict])]

/-- A partition that uses another context's slot is not Strict (R75, R528). -/
theorem State.rotUser_other {s : State} {ready : Nat → Bool} {i : Nat} (user : (s.rotUser ready i).1 < 64) (other : (s.rotUser ready i).1 ≠ i) :
    s.isStrict (s.rotUser ready i).1 = false := by
  unfold State.rotUser at user other ⊢
  dsimp only at user other ⊢
  split at user
  · next is => rw [if_pos is] at other; exact absurd rfl other
  · split at user
    · next not strict => rw [if_neg not, if_pos strict] at other; exact absurd rfl other
    · next not lent =>
      rw [if_neg not, if_neg lent] at other ⊢
      dsimp only at user other ⊢
      cases found : ((List.range 66).map (fun j => (i + j) % 66)).find? (fun x => ready x && !(decide (x < 64) && s.isStrict x)) with
      | none => rw [found] at user; exact absurd user (by simp)
      | some x =>
        rw [found] at user
        have free := List.find?_some found
        simp only [Option.getD_some] at user ⊢
        simp only [user, decide_true, Bool.true_and, Bool.and_eq_true, Bool.not_eq_true'] at free
        exact free.2

/-! Links. -/

/-- A packet as it waits at the egress of a link (R307). -/
def State.egressOf (s : State) (p : NetPacket) (l : Nat) : Egress :=
  { key := (s.link l).packets, pkt := p, vc := netChannel p + b2n (s.crosses l || false), left := ceilDiv (netSize p) 244 }

section
variable {s : State} {p : NetPacket} {ups : List Nat} (links : (s.routeLinks p.dst).filter (fun l => (s.link l).state == 2) = ups)
include links

theorem State.netPut_none (none_ : ups = []) : s.netPut p none = none := by
  unfold State.netPut
  dsimp only
  rw [links, none_]
  rfl

/-- A packet leaves on link (u + t) mod n of the n UP links of its group (R307). -/
theorem State.netPut_put {m : Nat} (some_ : ups ≠ []) (at_ : ups.getD ((p.unit + p.dst) % ups.length) 0 = m) :
    s.netPut p none = some (s.setLink m { s.link m with
      packets := (s.link m).packets + 1, egress := (s.link m).egress ++ [s.egressOf p m] }) := by
  unfold State.netPut
  dsimp only
  rw [links, at_]
  exact if_neg (by simpa using some_)

end

section
variable {s : State} {l : LinkId}

theorem State.link_sendFlit (s : State) (l : LinkId) (bits : BitVec 2048) : (s.sendFlit l bits).link l = { s.link l with
    nakDue := false, owed := SMap.upd 0 (s.link l).owed (s.link l).returns.1 (· - (s.link l).returns.2) } := State.link_setLink_self _ _ _

theorem State.out_sendFlit (s : State) (l : LinkId) (bits : BitVec 2048) : (s.sendFlit l bits).out = s.out ++ [.flit l
    ((s.link l).close bits (s.link l).returns.1 (s.link l).returns.2)] := rfl

/-- A numbered flit is kept for replay (R297). -/
theorem State.link_sendNumbered (s : State) (l : LinkId) (bits : BitVec 2048) (key : Option Nat) :
    ((s.sendNumbered l bits key).link l).txSeq = ((s.link l).txSeq + 1) % 4096 ∧
    ((s.sendNumbered l bits key).link l).replayBuf.length = (s.link l).replayBuf.length + 1 ∧
    ((s.sendNumbered l bits key).link l).credits = (s.link l).credits := by
  unfold State.sendNumbered
  rw [State.link_sendFlit, State.link_setLink_self]
  exact ⟨rfl, List.length_append, rfl⟩

/-- The state in which the flit of the committed slot leaves: the slot is used. -/
def State.slotUsed (s : State) (l : LinkId) : State :=
  s.setArb (18 + l) { s.arb (18 + l) with owner := 0x7F, last := 0x7F, blank := false }

/-- The tag of the flit of a slot (R294). -/
def flitTag (slot : Arb) : Nat := if slot.last ≤ 0x41 then slot.last else if slot.owner ≤ 0x41 then slot.owner else 0

/-- The head of a numbered flit (R294). -/
def flitHead (x : Link) (tag kind : Nat) : BitVec 2048 := setFld (setFld (setFld 0 0 2 kind) 2 12 x.txSeq) 27 7 tag

/-- A packet's next flit leaves on a credit of its channel (R294, R308). -/
def Link.takeFlit (e : Egress) (p : NetPacket) (y : Link) : Link := { y with
  credits := SMap.upd 0 y.credits e.vc (· - 1),
  egress := y.egress.map (fun z => if z.key = e.key then { z with pkt := p, sent := z.sent + 1, left := z.left - 1 } else z) }

/-- The bits of a data flit (R294, R295). -/
def dataFlit (head : BitVec 2048) (e : Egress) (p : NetPacket) : BitVec 2048 :=
  setFld (setFld (setFld head 34 3 e.vc) 37 1 (b2n (e.sent == 0))) 64 1952 (leNat (flitData p e.sent))

/-- A packet as its next flit leaves (R328). -/
def Egress.now (e : Egress) (now : Nat) : NetPacket := if e.sent = 0 then stamp now e.pkt else e.pkt

section
variable (up : (s.link l).state = 2)
include up

theorem State.linkFlitSend_idle (idle : (s.arb (18 + l)).last = 0x7F ∨ 512 ≤ (s.link l).replayBuf.length ∨
    ((s.arb (18 + l)).blank = false ∧ (s.link l).nextFor (s.arb (18 + l)).last = none)) :
    exec (.linkFlitSend l) s = .next ((s.slotUsed l).sendFlit l (setFld 0 27 7 (flitTag (s.arb (18 + l))))) := by
  rw [exec_linkFlitSend, execLinkFlitSend]
  refine congrArg Host.Outcome.next ((if_neg (not_not.2 up)).trans ?_)
  dsimp only
  by_cases first : (s.arb (18 + l)).last = 0x7F ∨ 512 ≤ (s.link l).replayBuf.length
  · rw [if_pos first]
    rfl
  · have later : (s.arb (18 + l)).blank = false ∧ (s.link l).nextFor (s.arb (18 + l)).last = none := by
      rcases idle with last | full | later
      · exact absurd (Or.inl last) first
      · exact absurd (Or.inr full) first
      · exact later
    rw [if_neg first, later.1, if_neg Bool.false_ne_true, later.2]
    rfl

variable (used : (s.arb (18 + l)).last ≠ 0x7F) (room : (s.link l).replayBuf.length < 512)
include used room

theorem State.linkFlitSend_blank (blank : (s.arb (18 + l)).blank = true) : exec (.linkFlitSend l) s =
    .next ((s.slotUsed l).sendNumbered l (flitHead (s.link l) (flitTag (s.arb (18 + l))) 2) none) := by
  rw [exec_linkFlitSend, execLinkFlitSend]
  refine congrArg Host.Outcome.next ((if_neg (not_not.2 up)).trans ((if_neg ?_).trans (if_pos blank)))
  rintro (last | full)
  · exact used last
  · omega

/-- The flit of a packet takes a credit of its channel (R294, R308). -/
theorem State.linkFlitSend_data {e : Egress} (blank : (s.arb (18 + l)).blank = false) (next : (s.link l).nextFor (s.arb (18 + l)).last = some e) :
    exec (.linkFlitSend l) s = .next (((s.slotUsed l).updLink l (Link.takeFlit e (e.now s.now))).sendNumbered l
      (dataFlit (flitHead (s.link l) (flitTag (s.arb (18 + l))) 1) e (e.now s.now)) (some e.key)) := by
  rw [exec_linkFlitSend, execLinkFlitSend]
  refine congrArg Host.Outcome.next ((if_neg (not_not.2 up)).trans ((if_neg ?_).trans ((if_neg ?_).trans ?_)))
  · rintro (last | full)
    · exact used last
    · omega
  · rw [blank]
    exact Bool.false_ne_true
  · dsimp only
    rw [next]
    rfl

end

theorem State.linkDown_nothing (down : (s.link l).state ≠ 2) (flit : BitVec 2048) :
    exec (.linkFlitSend l) s = .next s ∧ exec (.linkFlitReceive l flit) s = .next s ∧ exec (.linkReplay l) s = .next s :=
  ⟨(exec_linkFlitSend _ _).trans (congrArg Host.Outcome.next (if_pos down)),
    (exec_linkFlitReceive _ _ _).trans (congrArg Host.Outcome.next (if_pos down)),
    (exec_linkReplay _ _).trans (congrArg Host.Outcome.next (if_pos (Or.inl down)))⟩

end

/-! Flits that are received. -/

/-- A link after the acknowledgement, the replay request and the credits of a good flit (R294, R297). -/
def State.flitAcked (s : State) (l : Nat) (flit : BitVec 2048) : Link :=
  let x := s.link l
  let buf := ackFlits (fld flit 14 12) x.replayBuf
  Link.prune { x with
    replayBuf := buf, ackTime := if buf.length < x.replayBuf.length then s.now else x.ackTime,
    replayDue := x.replayDue || fld flit 26 1 == 1,
    credits := if fld flit 38 3 < 6 then SMap.upd 0 x.credits (fld flit 38 3) (· + fld flit 41 7) else x.credits }

section
variable {s : State} {l : LinkId} {flit : BitVec 2048} (up : (s.link l).state = 2)
include up

/-- A flit with a wrong CRC is counted and nothing of it is taken (R298). -/
theorem State.linkFlitReceive_bad (bad : crc32 (leBytes 252 flit.toNat) ≠ fld flit 2016 32) :
    ∃ s', exec (.linkFlitReceive l flit) s = .next s' ∧ (s'.link l).crcErr = BitVec.ofNat 32 (satAdd 32 (s.link l).crcErr.toNat 1) ∧
      (s'.link l).rxSeq = (s.link l).rxSeq ∧ (s'.link l).streams = (s.link l).streams := by
  refine ⟨_, (exec_linkFlitReceive _ _ _).trans (congrArg Host.Outcome.next ((if_neg (not_not.2 up)).trans (if_pos bad))), ?_⟩
  rw [State.link_setLink_self]
  dsimp only
  split
  · split <;> exact ⟨rfl, rfl, rfl⟩
  · exact ⟨rfl, rfl, rfl⟩

variable (good : crc32 (leBytes 252 flit.toNat) = fld flit 2016 32)
include good

theorem State.linkFlitReceive_idle (not1 : fld flit 0 2 ≠ 1) (not2 : fld flit 0 2 ≠ 2) :
    exec (.linkFlitReceive l flit) s = .next (s.setLink l (s.flitAcked l flit)) := by
  rw [exec_linkFlitReceive, execLinkFlitReceive]
  refine congrArg Host.Outcome.next ((if_neg (not_not.2 up)).trans ((if_neg (not_not.2 good)).trans (if_pos ?_)))
  simp [not1, not2]

section
variable (numbered : fld flit 0 2 = 1 ∨ fld flit 0 2 = 2)
include numbered

/-- A numbered flit out of sequence is asked for again, once (R298). -/
theorem State.linkFlitReceive_lost (other : fld flit 2 12 ≠ (s.link l).rxSeq) : exec (.linkFlitReceive l flit) s = .next (s.setLink l
    (if (s.link l).discarding then s.flitAcked l flit else { s.flitAcked l flit with nakDue := true, discarding := true })) := by
  rw [exec_linkFlitReceive, execLinkFlitReceive]
  refine congrArg Host.Outcome.next ((if_neg (not_not.2 up)).trans ((if_neg (not_not.2 good)).trans ((if_neg ?_).trans (if_pos other))))
  rcases numbered with one | two
  · simp [one]
  · simp [two]

variable (turn : fld flit 2 12 = (s.link l).rxSeq)
include turn

theorem State.linkFlitReceive_blank (blank : fld flit 0 2 = 2 ∨ 6 ≤ fld flit 34 3) : exec (.linkFlitReceive l flit) s = .next (s.setLink l
    { s.flitAcked l flit with rxSeq := ((s.link l).rxSeq + 1) % 4096, discarding := false }) := by
  rw [exec_linkFlitReceive, execLinkFlitReceive]
  refine congrArg Host.Outcome.next ((if_neg (not_not.2 up)).trans ((if_neg (not_not.2 good)).trans ((if_neg ?_).trans ((if_neg ?_).trans
    (if_pos blank)))))
  · rcases numbered with one | two
    · simp [one]
    · simp [two]
  · exact not_not.2 turn

end

/-- The bytes of a data flit in sequence join the stream of its tag and channel; a packet that is whole goes on its way (R295). -/
theorem State.linkFlitReceive_data (one : fld flit 0 2 = 1) (turn : fld flit 2 12 = (s.link l).rxSeq) (channel : fld flit 34 3 < 6)
    {bytes : List Byte} (data : (if flit.getLsbD 37 then leBytes 244 (fld flit 64 1952)
      else SMap.get [] (s.link l).streams (fld flit 27 7 * 8 + fld flit 34 3) ++ leBytes 244 (fld flit 64 1952)) = bytes) :
    let w := { s.flitAcked l flit with
      rxSeq := ((s.link l).rxSeq + 1) % 4096, discarding := false, owed := SMap.upd 0 (s.link l).owed (fld flit 34 3) (· + 1) }
    let key := fld flit 27 7 * 8 + fld flit 34 3
    exec (.linkFlitReceive l flit) s = .next (match Config.netPacket bytes with
      | none => s.setLink l { w with streams := SMap.put [] (s.link l).streams key bytes }
      | some np => (s.setLink l { w with streams := SMap.put [] (s.link l).streams key [] }).netArrive l (fld flit 34 3) np) := by
  intro w key
  rw [exec_linkFlitReceive, execLinkFlitReceive]
  refine congrArg Host.Outcome.next ((if_neg (not_not.2 up)).trans ((if_neg (not_not.2 good)).trans ((if_neg ?_).trans ((if_neg ?_).trans
    ((if_neg ?_).trans ?_)))))
  · simp [one]
  · exact not_not.2 turn
  · rintro (two | far)
    · rw [one] at two; exact absurd two (by decide)
    · omega
  · subst data
    rfl

end

/-! Replay and training. -/

theorem State.link_sendFlits (l : LinkId) (fs : List SentFlit) (s : State) :
    ((fs.foldl (fun s f => s.sendFlit l f.bits) s).link l).replayDue = (s.link l).replayDue ∧
    ((fs.foldl (fun s f => s.sendFlit l f.bits) s).link l).replayBuf = (s.link l).replayBuf := by
  induction fs generalizing s with
  | nil => exact ⟨rfl, rfl⟩
  | cons f fs ih =>
    obtain ⟨due, buf⟩ := ih (s.sendFlit l f.bits)
    rw [State.link_sendFlit] at due buf
    exact ⟨due, buf⟩

section
variable {s : State} {l : LinkId}

theorem State.linkReplay_counts (up : (s.link l).state = 2) (some_ : (s.link l).replayBuf ≠ []) :
    ∃ s', exec (.linkReplay l) s = .next s' ∧ (s'.link l).replayDue = false ∧
      (s'.link l).replayBuf = (s.link l).replayBuf.map (fun f => { f with sends := f.sends + 1 }) := by
  refine ⟨_, (exec_linkReplay _ _).trans (congrArg Host.Outcome.next (if_neg ?_)), ?_⟩
  · rintro (down | empty)
    · exact down up
    · exact some_ (List.isEmpty_iff.1 empty)
  · dsimp only
    have kept : ∀ (c : Prop) [Decidable c] (n : Nat) (r : ErrRec), ((if c then s else s.atLeast n).record r).link l = s.link l := fun c _ n r => by
      rw [(State.record_reads _ _).2.2.2.2.2.2.1]
      split <;> rfl
    obtain ⟨due, buf⟩ := State.link_sendFlits l (s.link l).replayBuf ((((if (s.link l).replayDue = true then s
      else s.atLeast ((s.link l).ackTime + 2000)).record { mkRec 0x0404 0 with unit := unitLink l })).updLink l (fun x => { x with
        replayDue := false, ackTime := ((if (s.link l).replayDue = true then s else s.atLeast ((s.link l).ackTime + 2000)).record
          { mkRec 0x0404 0 with unit := unitLink l }).now, replays := BitVec.ofNat 32 (satAdd 32 x.replays.toNat 1),
        replayBuf := x.replayBuf.map (fun f => { f with sends := f.sends + 1 }) }))
    rw [State.link_updLink_self, kept] at due buf
    exact ⟨due, buf⟩

theorem State.linkFailedAfterReplay_down (worn : ∃ f ∈ (s.link l).replayBuf, 8 ≤ f.sends) :
    exec (.linkFailedAfterReplay l) s = .next (s.linkDown l) :=
  (exec_linkFailedAfterReplay _ _).trans (congrArg Host.Outcome.next (if_pos (by simpa using worn)))

theorem State.linkFailedAfterReplay_not (fine : ∀ f ∈ (s.link l).replayBuf, f.sends < 8) : exec (.linkFailedAfterReplay l) s = .next s :=
  (exec_linkFailedAfterReplay _ _).trans (congrArg Host.Outcome.next (if_neg (by simpa using fine)))

section
variable (free : (s.link l).state.toNat < 2) (tiles : s.tilesUp = true) (clocked : s.plant.lost.contains (10 + l.val / 8) = false) {d : Nat}
    (far : s.neighbour l = some d)
include free tiles clocked far

theorem State.linkTrainingEnd_ends (r : LinkTraining) : exec (.linkTrainingEnd l r) s = .next (match r with
    | .up dev link =>
      if dev.toNat = d then s.setLink l { s.link l with
        state := 2, farDev := dev, farLink := link, ackTime := s.now, credits := SMap.putMany 0 [] 0 (List.replicate 6 64) }
      else (s.setLink l { s.link l with state := 0, farDev := dev, farLink := link }).record { mkRec 0x0406 3 with unit := unitLink l }
    | .laneFailed => s.trainFailed l
    | .timedOut => s.trainFailed l) := by
  rw [exec_linkTrainingEnd, execLinkTrainingEnd]
  have may : ¬ (2 ≤ (s.link l).state.toNat ∨ (!s.tilesUp) = true ∨ s.plant.lost.contains (10 + l.val / 8) = true) := by
    rw [tiles, clocked]
    simp only [Bool.not_true, Bool.false_eq_true, or_false]
    omega
  refine congrArg Host.Outcome.next ((if_neg may).trans ?_)
  rw [far] <;> cases r <;> rfl

end

end

/-! HBM accesses complete. -/

theorem firstDone_least {rs : List HbmReq} {i : Nat} {r : HbmReq} (first : firstDone rs = some (i, r)) : ∀ j ∈ rs, r.done ≤ j.done := by
  induction rs generalizing i r with
  | nil => cases first
  | cons q rs ih =>
    unfold firstDone at first
    intro j mem
    cases rest : firstDone rs with
    | none =>
      have empty : rs = [] := by
        cases rs with
        | nil => rfl
        | cons x xs =>
          unfold firstDone at rest
          split at rest
          · split at rest <;> cases rest
          · cases rest
      rw [rest] at first
      cases first
      rw [empty, List.mem_singleton] at mem
      rw [mem]
    | some ir =>
      obtain ⟨i', r'⟩ := ir
      have least := ih rest
      rw [rest] at first
      dsimp only at first
      split at first <;> cases first
      · rcases List.mem_cons.1 mem with rfl | later
        · omega
        · exact least j later
      · rcases List.mem_cons.1 mem with rfl | later
        · exact Nat.le_refl _
        · have := least j later
          omega

/-- A requester of this device has its answer at once (R61). -/
theorem State.replyTo_here {s : State} {q : Requester} (here : q.dev = s.deviceNum) (tag : Nat) (data : Option (List Byte)) :
    Output.reply q.unit data ∈ (s.replyTo q tag data).out := by
  unfold State.replyTo
  rw [if_pos here]
  exact List.mem_append_right _ List.mem_cons_self

/-- The device number is the configuration's (R405). -/
theorem State.deviceNum_congr {s t : State} (cfg : t.cfg = s.cfg) : t.deviceNum = s.deviceNum := by
  simp [State.deviceNum, State.field, State.ovField, State.bcrField, cfg]

/-- The answer of an access that has completed (R275). -/
def State.hbmAnswer (s : State) (r : HbmReq) (data : Option (List Byte)) : State :=
  match r.kind with
  | .packet who _ => s.replyTo who r.tag data
  | _ => s

/-- The committed access that is due first has its effect at its time, and its requester has an answer (R275, R276). -/
theorem State.hbmAccessComplete_completes {s : State} {k : CtrlId} {i : Nat} {r : HbmReq} (first : firstDone (s.hbmc k).committed = some (i, r))
    (up : BitVec 9) : ∃ s', exec (.hbmAccessComplete k up) s = .next s' ∧ s'.now = max s.now r.done ∧
      ∀ who op, r.kind = .packet who op → who.dev = s.deviceNum → ∃ o, Output.reply who.unit o ∈ s'.out := by
  let a := (s.atLeast r.done).orderLine k (hbmAt r.off).2 i
  let b := (match r.result with
    | some x => (x, a)
    | none => a.perform k r up : Option (List Byte) × State)
  let c := b.2.updHbm k (fun c => { c with committed := c.committed.eraseIdx i })
  have before : (s.atLeast r.done).ScrubStays a := State.orderLine_scrubStays _ _ _ _
  have effect : a.ScrubStays b.2 := by
    dsimp only [b]
    split
    · exact .refl a
    · exact State.perform_scrubStays _ _ _ _
  have done : (s.atLeast r.done).ScrubStays c := (before.trans effect).trans (State.updHbm_scrubStays _ _ ⟨rfl, rfl⟩)
  have next : exec (.hbmAccessComplete k up) s = .next (c.hbmAnswer r b.1) := by
    rw [exec_hbmAccessComplete, execHbmAccessComplete, first]
    unfold State.hbmAnswer
    dsimp only [c, b] <;> cases kind : r.kind <;> cases result : r.result <;> rfl
  refine ⟨_, next, ?_, fun who op kind here => ?_⟩
  · unfold State.hbmAnswer
    split
    · exact (State.replyTo_faulted _ _ _ _).now.trans done.now
    · exact done.now
  · unfold State.hbmAnswer
    rw [kind]
    exact ⟨_, State.replyTo_here (here.trans (State.deviceNum_congr (t := c) (s := s) done.cfg).symm) _ _⟩

/-! Fabric packets. -/

/-- The number under which a packet's sequence is kept: its source and its target (R61). -/
def packetKey (p : Packet) : Nat := p.unit * 1024 + packetTarget p.pa.toNat

section
variable {s : State} {p : Packet}

theorem State.fabricPacketArrive_serves (ok : p.crcOk = true) (turn : p.seq = SMap.get 0 s.fabric.nextSeq (packetKey p))
    (fresh : s.fabric.asked.contains (packetKey p, p.seq) = false) :
    let b : State := { s with fabric := { s.fabric with nextSeq := SMap.put 0 s.fabric.nextSeq (packetKey p) (p.seq + 1) } }
    exec (.fabricPacketArrive p) s = .next (if 0x42 ≤ p.tag.toNat then b.reservedTag p.pa.toNat
      else b.serveAccess { dev := s.deviceNum, unit := p.unit } p.tag.toNat p.pa.toNat p.op) := by
  intro b
  rw [exec_fabricPacketArrive, execFabricPacketArrive]
  have good : ¬ ((!p.crcOk) = true ∨ p.seq ≠ SMap.get 0 s.fabric.nextSeq (packetKey p)) := by
    rintro (bad | other)
    · rw [ok] at bad; exact absurd bad (by simp)
    · exact other turn
  refine congrArg Host.Outcome.next ((if_neg good).trans ?_)
  dsimp only
  rw [show p.unit * 1024 + packetTarget p.pa.toNat = packetKey p from rfl, fresh]
  rfl

/-- A bad packet is asked for once again (R61, R490). -/
theorem State.fabricPacketArrive_asks (bad : p.crcOk = false ∨ p.seq ≠ SMap.get 0 s.fabric.nextSeq (packetKey p))
    (fresh : s.fabric.asked.contains (packetKey p, p.seq) = false) : ∃ s', exec (.fabricPacketArrive p) s = .next s' ∧
      s'.out = s.out ++ [.resend p.unit p.seq] ∧ s'.fabric.asked = (packetKey p, p.seq) :: s.fabric.asked ∧ s'.fabric.nextSeq = s.fabric.nextSeq := by
  have wrong : (!p.crcOk) = true ∨ p.seq ≠ SMap.get 0 s.fabric.nextSeq (packetKey p) := by
    rcases bad with bad | other
    · exact Or.inl (by rw [bad]; rfl)
    · exact Or.inr other
  refine ⟨({ s with fabric := { s.fabric with asked := (packetKey p, p.seq) :: s.fabric.asked } } : State).emit (.resend p.unit p.seq), ?_, rfl, rfl, rfl⟩
  rw [exec_fabricPacketArrive, execFabricPacketArrive]
  refine congrArg Host.Outcome.next ((if_pos wrong).trans ?_)
  dsimp only
  rw [show p.unit * 1024 + packetTarget p.pa.toNat = packetKey p from rfl, fresh]
  rfl

end

/-! Arbiters. -/

theorem State.arbiterSlotStart_commits {s : State} {a : Fin 35} (small : a.val < 10) (ready : BitVec 66) :
    exec (.arbiterSlotStart a ready) s = .next (s.commitSlot a ready) := by
  rw [exec_arbiterSlotStart, execArbiterSlotStart, if_neg (by omega), if_neg (by omega), if_neg (by omega)]

theorem State.arbiterSlotStart_hbm {s : State} {a : Fin 35} (low : 10 ≤ a.val) (high : a.val < 18) (ready : BitVec 66) :
    exec (.arbiterSlotStart a ready) s = .next (s.hbmSlot (a.val - 10) ready) := by
  rw [exec_arbiterSlotStart, execArbiterSlotStart, if_pos ⟨low, high⟩]

theorem State.arbiterSlotStart_link {s : State} {a : Fin 35} (low : 18 ≤ a.val) (high : a.val < 34) (ready : BitVec 66) :
    exec (.arbiterSlotStart a ready) s = .next (s.commitSlot a ((s.link (a.val - 18)).egress.foldl
      (fun x e => if e.left = 0 then x else x ||| BitVec.ofNat 66 (2 ^ readyBit e.pkt.tag)) 0)) := by
  rw [exec_arbiterSlotStart, execArbiterSlotStart, if_neg (by omega), if_neg (by omega), if_pos low]

theorem State.arbiterSlotStart_tx {s : State} {a : Fin 35} (tx : a.val = 34) (ready : BitVec 66) :
    exec (.arbiterSlotStart a ready) s = .next (s.txSlot ready) := by
  rw [exec_arbiterSlotStart, execArbiterSlotStart, if_neg (by omega), if_pos tx]

theorem State.commitSlot_commits (s : State) (a : Nat) (ready : BitVec 66) : let y := s.commitSlot a ready
    y = { s with arbs := y.arbs } ∧ (y.arb a).index = (s.arb a).index + 1 ∧ (y.arb a).rot = (s.arb a).rot ∧
      ((y.arb a).last, (y.arb a).blank) = s.slotUser (SMap.get 0x7F (s.arb a).rot ((s.arb a).index % 256)) ready := by
  refine ⟨rfl, ?_⟩
  unfold State.commitSlot
  dsimp only
  rw [State.arb_setArb_self]
  exact ⟨rfl, rfl, rfl⟩

/-- Settles O52. -/
theorem linksAndFabric : Obligations.LinksAndFabric := by
  intro s l flit a rdy k up p dev link np x
  obtain ⟨only, index, rot, user⟩ := s.commitSlot_commits a rdy
  refine ⟨fun small => State.arbiterSlotStart_commits small rdy, fun low high => State.arbiterSlotStart_hbm low high rdy,
    fun low high => State.arbiterSlotStart_link low high rdy, fun tx => State.arbiterSlotStart_tx tx rdy,
    ⟨only, index, rot, user, fun owner => ⟨State.slotUser_ready owner, State.slotUser_blank owner, State.slotUser_lent owner⟩, State.slotUser_other⟩,
    fun ready i => ⟨State.rotUser_ready, fun not part strict => State.rotUser_blank not part strict, State.rotUser_other⟩,
    ⟨State.netPut_none rfl, fun some_ => ?_⟩,
    fun up => ⟨fun idle => ⟨_, _, State.linkFlitSend_idle up idle, State.out_sendFlit _ _ _, ?_⟩, fun used room => ⟨fun blank => ⟨_,
      State.linkFlitSend_blank up used room blank, State.link_sendNumbered _ _ _ _⟩, fun e blank next => ⟨_, State.linkFlitSend_data up used room blank next, ?_⟩⟩⟩,
    fun down => State.linkDown_nothing down flit, State.linkFlitReceive_bad, fun up good => ⟨State.linkFlitReceive_idle up good, fun numbered =>
      ⟨State.linkFlitReceive_lost up good numbered, fun turn => ⟨State.linkFlitReceive_blank up good numbered turn, fun one channel => ?_⟩⟩⟩,
    State.linkReplay_counts, State.linkFailedAfterReplay_down, State.linkFailedAfterReplay_not, fun free tiles clocked d far => ⟨fun same => ⟨_,
      (State.linkTrainingEnd_ends free tiles clocked far _).trans (congrArg Host.Outcome.next (if_pos same)), ?_⟩, fun other => ⟨_,
      (State.linkTrainingEnd_ends free tiles clocked far _).trans (congrArg Host.Outcome.next (if_neg other)), ?_⟩,
      State.linkTrainingEnd_ends free tiles clocked far _, State.linkTrainingEnd_ends free tiles clocked far _⟩,
    fun empty => ?_, fun i r first => ⟨firstDone_least first, State.hbmAccessComplete_completes first up⟩,
    State.fabricPacketArrive_serves, State.fabricPacketArrive_asks⟩
  · let ups := (s.routeLinks np.dst).filter (fun l => (s.link l).state == 2)
    let m := ups.getD ((np.unit + np.dst) % ups.length) 0
    refine ⟨_, s.egressOf np m, State.netPut_put rfl some_ rfl, rfl, ?_, rfl, rfl, rfl, fun j other => ?_⟩
    · rw [State.link_setLink_self]
    · exact (State.link_setLink _ _ _ _).trans (if_neg other)
  · rw [State.link_sendFlit]
    exact ⟨rfl, rfl, rfl⟩
  · obtain ⟨seq, buf, credits⟩ := State.link_sendNumbered ((s.slotUsed l).updLink l (Link.takeFlit e (e.now s.now))) l
      (dataFlit (flitHead (s.link l) (flitTag (s.arb (18 + l))) 1) e (e.now s.now)) (some e.key)
    rw [State.link_updLink_self] at seq buf credits
    refine ⟨seq, buf, ?_⟩
    have credit := List.find?_some next
    simp only [Bool.and_eq_true, bne_iff_ne, ne_eq] at credit
    rw [credits]
    have taken : SMap.get 0 (Link.takeFlit e (e.now s.now) ((s.slotUsed l).link l)).credits e.vc = SMap.get 0 x.credits e.vc - 1 :=
      (SMap.get_upd 0 x.credits e.vc e.vc (· - 1)).trans (if_pos rfl)
    rw [taken]
    omega
  · exact State.linkFlitReceive_data up good one turn channel rfl
  · rw [State.link_setLink_self]
    refine ⟨rfl, rfl, fun v small => ?_⟩
    rw [SMap.get_putMany, if_pos ⟨Nat.zero_le _, by simpa using small⟩]
    rw [Nat.sub_zero, List.getD_eq_getElem _ _ (by simpa using small), List.getElem_replicate]
  · exact congrArg Link.state (((State.record_reads _ _).2.2.2.2.2.2.1 _).trans (State.link_setLink_self _ _ _))
  · rw [exec_hbmAccessComplete, execHbmAccessComplete, empty]
    rfl

end Sys2Proof.Machine
end

section
/-!
PROOFS. What an access and the loss of a packet leave as it was: the time, the configuration and the links' states.
-/

namespace Sys2Proof.Machine

/-- From `s` to `t` no time has passed, and the configuration and the links' states are the same. -/
structure State.Serves (s t : State) : Prop where
  now : t.now = s.now
  cfg : t.cfg = s.cfg
  linkState : ∀ l, (t.link l).state = (s.link l).state

namespace State.Serves

theorem refl (s : State) : s.Serves s := ⟨rfl, rfl, fun _ => rfl⟩

theorem trans {s t u : State} (h : s.Serves t) (k : t.Serves u) : s.Serves u :=
  ⟨k.now.trans h.now, k.cfg.trans h.cfg, fun l => (k.linkState l).trans (h.linkState l)⟩

theorem ite {s a b : State} {c : Prop} [Decidable c] (ha : s.Serves a) (hb : s.Serves b) : s.Serves (if c then a else b) := by
  split
  · exact ha
  · exact hb

theorem foldl {α : Type} {f : State → α → State} (hf : ∀ (t : State) (x : α), t.Serves (f t x)) (l : List α) (s : State) : s.Serves (l.foldl f s) := by
  induction l generalizing s with
  | nil => exact refl s
  | cons x l ih => exact (hf s x).trans (ih _)

/-- What follows from an effect that returns a value too. -/
theorem of {α : Type} {s t : State} {p : α × State} {x : α} (h : s.Serves p.2) (e : p = (x, t)) : s.Serves t := by
  rw [e] at h
  exact h

end State.Serves

theorem State.Faulted.serves {s t : State} (h : s.Faulted t) : s.Serves t := ⟨h.now, h.cfg, h.linkState⟩
theorem State.ScrubStays.serves {s t : State} (h : s.ScrubStays t) : s.Serves t := ⟨h.now, h.cfg, h.linkState⟩
theorem State.Posts.serves {s t : State} (h : s.Posts t) : s.Serves t := h.faulted.serves

namespace State

/-! Translation. -/

theorem readEntry_serves (s : State) (pa : Nat) : s.Serves (s.readEntry pa).2 := by
  unfold State.readEntry
  dsimp only
  split
  · exact .refl s
  · have read := (s.readLine_scrubStays (hbmAt (paOff pa)).1 (hbmAt (paOff pa)).2 0 false).serves
    split
    all_goals
      next found => exact read.of found

theorem walk_serves (s : State) (root : Word) (va : Nat) : s.Serves (s.walk root va).2 := by
  unfold State.walk
  split
  · exact .refl s
  · split
    · next found => exact (s.readEntry_serves _).of found
    · next found =>
      have first := (s.readEntry_serves _).of found
      split
      · exact first
      · split
        · next found => exact first.trans ((readEntry_serves _ _).of found)
        · next found =>
          have second := first.trans ((readEntry_serves _ _).of found)
          split
          · exact second
          · split
            · exact second
            · split
              · next found => exact second.trans ((readEntry_serves _ _).of found)
              · next found => exact second.trans ((readEntry_serves _ _).of found)

theorem rangeExtents_serves (root : Word) (k : AccessKind) (fuel va len : Nat) (acc : List Extent) (s : State) :
    s.Serves (State.rangeExtents root k fuel va len acc s).2 := by
  induction fuel generalizing va len acc s with
  | zero => exact .refl s
  | succ fuel ih =>
    unfold State.rangeExtents
    split
    · exact .refl s
    · split
      · next found => exact (s.walk_serves _ _).of found
      · next found =>
        have walked := (s.walk_serves _ _).of found
        split
        · exact walked.trans (ih _ _ _ _)
        · exact walked

theorem range_serves (s : State) (root : Word) (k : AccessKind) (va len : Nat) : s.Serves (s.range root k va len).2 := by
  unfold State.range
  split
  · exact .refl s
  · have extents := rangeExtents_serves root k (len / 2 ^ 16 + 2) va len [] s
    split
    all_goals
      next found => exact extents.of found

/-! The doorbell and hash job pages. -/

theorem updPart_serves (s : State) (n : Nat) (f : Part → Part) : s.Serves (s.updPart n f) := (s.updPart_faulted n f).serves

theorem hashRefuse_serves (s : State) (n : Nat) (st : Status) : s.Serves (s.hashRefuse n st) := s.updPart_serves n _

theorem hashGo_serves (s : State) (n : Nat) (ctl : Word) : s.Serves (s.hashGo n ctl) := by
  unfold State.hashGo
  dsimp only
  refine .trans (s.updPart_serves n (fun p => { p with hash := { p.hash with ctl := ctl &&& 0x1FF03 } }))
    (.ite (hashRefuse_serves _ _ _) (.ite (hashRefuse_serves _ _ _) ?_))
  generalize s.updPart n (fun p => { p with hash := { p.hash with ctl := ctl &&& 0x1FF03 } }) = a
  have src := a.range_serves (s.part n).root .load (s.part n).hash.src.toNat (s.part n).hash.len.toNat
  generalize a.range (s.part n).root .load (s.part n).hash.src.toNat (s.part n).hash.len.toNat = b at src
  have key : b.2.Serves (if 2 ≤ fld ctl 0 2 then b.2.range (s.part n).root .load (s.part n).hash.key.toNat (fld ctl 8 8) else (some [], b.2)).2 := by
    split
    · exact b.2.range_serves _ _ _ _
    · exact .refl _
  generalize (if 2 ≤ fld ctl 0 2 then b.2.range (s.part n).root .load (s.part n).hash.key.toNat (fld ctl 8 8) else (some [], b.2)) = c at key
  have dst := (src.trans key).trans (c.2.range_serves (s.part n).root .store (s.part n).hash.dst.toNat 64)
  split
  · exact .ite (dst.trans (hashRefuse_serves _ _ _)) (dst.trans (updPart_serves _ _ _))
  · exact dst.trans (hashRefuse_serves _ _ _)

theorem badDoorbell_serves (s : State) (n : Nat) : s.Serves (s.badDoorbell n) := (s.record_faulted _).serves

theorem sqTail_serves (s : State) (n q : Nat) (v : Word) : s.Serves (s.sqTail n q v) := by
  unfold State.sqTail
  split
  · exact s.badDoorbell_serves n
  · exact .ite (s.updPart_serves n _) (s.badDoorbell_serves n)

theorem cqHead_serves (s : State) (n q : Nat) (v : Word) : s.Serves (s.cqHead n q v) := by
  unfold State.cqHead
  split
  · exact s.badDoorbell_serves n
  · exact .ite (s.updPart_serves n _) (s.badDoorbell_serves n)

theorem pageWrite_serves (s : State) (n off : Nat) (v : Word) : s.Serves (s.pageWrite n off v) := by
  unfold State.pageWrite
  dsimp only
  refine .ite (s.sqTail_serves _ _ _) (.ite (s.cqHead_serves _ _ _) ?_)
  split
  · exact s.updPart_serves n _
  · exact s.updPart_serves n _
  · exact s.updPart_serves n _
  · exact s.updPart_serves n _
  · exact .ite (s.hashGo_serves n v) (s.updPart_serves n _)
  · exact s.updPart_serves n _
  · exact .refl s

theorem windowDone_serves (s : State) : s.Serves s.windowDone := by
  unfold State.windowDone
  dsimp only
  refine .trans ?_ (.foldl (fun t b => t.pageWrite_serves _ _ _) _ _)
  exact ⟨rfl, rfl, fun _ => rfl⟩

/-! Lost packets. -/

theorem breakHere_serves (s : State) (t i : Nat) (c : ChainStep) (send : Bool) : s.Serves (s.breakHere t i c send) := by
  have told : s.Faulted (if send then s.sendBreak (s.led i).part.val c else s.dropOffers (s.led i).part.val c) :=
    .ite (s.sendBreak_faulted _ _) .parts
  exact ((told.trans (updTile_faulted _ _ _)).trans (endRequest_faulted _ _ _)).serves

theorem breakLost_serves (s : State) (p : NetPacket) (t : TileId) (chain : BitVec 6) (msg : BitVec 32) : s.Serves (s.breakLost p t chain msg) := by
  have tell : ∀ (s : State) (dev : Nat) (t : TileId), s.Serves (if dev = s.deviceNum then (match s.startedStep t chain.toNat with
      | some (i, c, _) => if c.msg = msg then s.breakHere t i c true else s
      | none => s)
    else if s.routeUp dev then s.netSend { p with src := s.deviceNum, dst := dev, body := .brk t chain msg }
    else s) := fun s dev t => by
    refine .ite ?_ (.ite (s.netSend_faulted _).serves (.refl s))
    split
    · exact .ite (s.breakHere_serves _ _ _ _) (.refl s)
    · exact .refl s
  unfold State.breakLost
  exact (tell s p.src (Fin.ofNat 64 p.unit)).trans (tell _ p.dst t)

theorem answerRemote_serves (s : State) (id : Nat) (data : Option (List Byte)) : s.Serves (s.answerRemote id data) := ⟨rfl, rfl, fun _ => rfl⟩

theorem losePacket_serves (s : State) (p : NetPacket) : s.Serves (s.losePacket p) := by
  have fail : ∀ (dev : Nat) (a : NetBody), s.Serves (if s.routeUp dev then s.netSend { p with src := s.deviceNum, dst := dev, body := a } else s) :=
    fun dev a => .ite (s.netSend_faulted _).serves (.refl s)
  unfold State.losePacket
  dsimp only
  split
  · exact .ite ((s.answerRemote_serves p.id none).trans (windowDone_serves _)) (fail _ _)
  · exact fail _ _
  · exact s.breakLost_serves _ _ _ _
  · exact s.breakLost_serves _ _ _ _
  · exact fail _ _
  · exact .ite ⟨rfl, rfl, fun _ => rfl⟩ (fail _ _)
  · exact fail _ _

theorem transit_serves (s : State) (came : Option (Nat × Bool)) (p : NetPacket) : s.Serves (s.transit came p) := by
  unfold State.transit
  split
  · next put => exact (netPut_faulted put).serves
  · exact (s.routeDown_faulted p).serves.trans (losePacket_serves _ _)

/-- A link that goes DOWN trains again, and no other link's state changes (R293). -/
theorem linkDown_states (s : State) (l k : Nat) : ((s.linkDown l).link k).state = if k = l ∧ (s.link l).state = 2 then 1 else (s.link k).state := by
  unfold State.linkDown
  dsimp only
  by_cases up : (s.link l).state = 2
  · rw [if_neg (not_not.2 up)]
    refine ((State.Serves.foldl (fun t (e : Egress) => .ite (t.transit_serves _ _) (t.losePacket_serves _)) _ _).linkState k).trans ?_
    rw [(State.record_reads _ _).2.2.2.2.2.2.1, State.link_setLink]
    by_cases same : k = l
    · rw [if_pos same, if_pos ⟨same, up⟩]
    · rw [if_neg same, if_neg (fun h => same h.1)]
  · rw [if_pos up, if_neg (fun h => up h.2)]

end State

end Sys2Proof.Machine
end

section
/-!
PROOFS. Tokens, the power loop, pace and lost clocks (O53).
-/

namespace Sys2Proof.Machine

/-! Tokens. -/

theorem SMap.get_updAll {α : Type} [DecidableEq α] (d : α) (f : α → α) (ks : List Nat) (distinct : ks.Nodup) (m : SMap α) (j : Nat) :
    SMap.get d (SMap.updAll d m ks f) j = if j ∈ ks then f (SMap.get d m j) else SMap.get d m j := by
  induction ks generalizing m with
  | nil => rfl
  | cons k ks ih =>
    obtain ⟨fresh, rest⟩ := List.nodup_cons.1 distinct
    have step : SMap.updAll d m (k :: ks) f = SMap.updAll d (SMap.upd d m k f) ks f := rfl
    rw [step, ih rest, SMap.get_upd]
    by_cases here : j = k
    · subst here
      simp [fresh]
    · simp [here]

theorem TileUnit.num_lt (b : TileUnit) : b.num < 9 := by cases b <;> decide

theorem get_bankTokens (ks : SMap Nat) (b : TileUnit) : SMap.get 0 (bankTokens ks) b.num = min 2 (SMap.get 0 ks b.num + 1) := by
  rw [bankTokens, SMap.get_updAll _ _ _ List.nodup_range, if_pos (List.mem_range.2 b.num_lt)]

theorem State.tilesOf_nodup (s : State) (n : Nat) : (s.tilesOf n).Nodup := by
  unfold State.tilesOf bitsOf
  split
  · exact List.nodup_range.filter _
  · exact List.nodup_nil

theorem State.tokenTiles_nodup (s : State) (n : Nat) : (s.tokenTiles n).Nodup := by
  unfold State.tokenTiles
  split
  · exact List.nodup_nil
  · split
    · exact s.tilesOf_nodup n
    · split
      · exact List.nodup_range.filter _
      · exact List.nodup_nil

/-- A change of each of some distinct tiles reaches each of them once. -/
theorem State.foldl_updTile_nodup (l : List Nat) (distinct : l.Nodup) (s : State) (f : Tile → Tile) (t : Nat) :
    (l.foldl (fun s t => s.updTile t f) s).tile t = if t ∈ l then f (s.tile t) else s.tile t := by
  induction l generalizing s with
  | nil => rfl
  | cons k l ih =>
    obtain ⟨fresh, rest⟩ := List.nodup_cons.1 distinct
    rw [List.foldl_cons, ih rest, State.tile_updTile]
    by_cases here : t = k
    · subst here
      simp [fresh]
    · simp [here]

theorem State.tokenTiles_own {s : State} {n : Nat} (clocked : s.plant.ciRunning = true) (locked : (s.part n).paceRate ≠ none) :
    s.tokenTiles n = s.tilesOf n := by
  unfold State.tokenTiles
  rw [clocked, if_neg (by simp), if_pos (Option.isSome_iff_ne_none.2 locked)]

/-- Without CI13 no token is released and no window ends (R48). -/
theorem State.unclocked {s : State} (stopped : s.plant.ciRunning = false) (n : Nat) (watts : BitVec 16) (rs : List PaceReading) :
    s.tokenTiles n = [] ∧ exec (.powerLoopTick watts) s = .next s ∧ exec (.paceWindowEnd rs) s = .next s := by
  have off : (!s.plant.ciRunning) = true := by rw [stopped]; rfl
  exact ⟨if_pos off, (exec_powerLoopTick _ _).trans (congrArg Host.Outcome.next (if_pos off)),
    (exec_paceWindowEnd _ _).trans (congrArg Host.Outcome.next (if_pos off))⟩

/-! The power loop. -/

theorem State.profile_same (s : State) : s.profile.now = s.now ∧ s.profile.plant = s.plant := by
  unfold State.profile
  split <;> exact ⟨rfl, rfl⟩

theorem State.powerLoopTick_moves {s : State} (clocked : s.plant.ciRunning = true) (watts : BitVec 16) :
    let a := s.atLeast (dueAt 100000 s.now s.plant.nextTick)
    let above := decide (a.envelopeW < watts.toNat) || s.plant.vrHot
    ∃ s', exec (.powerLoopTick watts) s = .next s' ∧ s'.now = a.now ∧ s'.plant.rails = a.loopRails above ∧
      s'.plant.throttle = a.loopThrottle above watts.toNat ∧ s'.plant.vrHot = false ∧ s'.plant.watts = watts ∧ s'.plant.nextTick = a.now + 100000 := by
  intro a above
  refine ⟨_, (exec_powerLoopTick _ _).trans (congrArg Host.Outcome.next (if_neg (by simp [clocked]))), ?_⟩
  rw [(State.profile_same _).1, (State.profile_same _).2]
  exact ⟨rfl, rfl, rfl, rfl, rfl, rfl⟩

/-! Pace windows. -/

/-- The state in which the windows end (R39). -/
def State.windowsEnd (s : State) : State :=
  (s.atLeast (dueAt 10000 s.now s.plant.nextWindow)).setPlant (fun p => { p with
    nextWindow := (s.atLeast (dueAt 10000 s.now p.nextWindow)).now + 10000 })

theorem State.setPlant_congr {s : State} {f g : Plant → Plant} (same : f s.plant = g s.plant) : s.setPlant f = s.setPlant g :=
  congrArg (fun p => { s with plant := p }) same

theorem State.windowsEnd_eq (s : State) : s.windowsEnd = (s.atLeast (dueAt 10000 s.now s.plant.nextWindow)).setPlant (fun p => { p with
    nextWindow := (s.atLeast (dueAt 10000 s.now s.plant.nextWindow)).now + 10000 }) :=
  State.setPlant_congr (by rw [State.atLeast_plant])

theorem State.paceWindowEnd_reads {s : State} (clocked : s.plant.ciRunning = true) (rs : List PaceReading) :
    exec (.paceWindowEnd rs) s = .next (rs.foldl (fun s r => s.paceWindow r) s.windowsEnd) := by
  rw [State.windowsEnd_eq]
  exact (exec_paceWindowEnd _ _).trans (congrArg Host.Outcome.next (if_neg (by simp [clocked])))

/-- The register of a monitor after its window (R38, R39). -/
theorem State.paceWindow_register {s : State} {r : PaceReading}
    (alive : r.monitor.val < 72 ∨ SMap.get 0xFF s.boot.spares (r.monitor.val - 72) = 0xFF) : SMap.get {} (s.paceWindow r).plant.pace r.monitor = {
      pace := r.rate, railMv := r.railMv, tj := r.tj, valid := true, locked := (if r.monitor.val < 64 then s.lockOf r.monitor else none).isSome } := by
  have not : ¬ (72 ≤ r.monitor.val ∧ SMap.get 0xFF s.boot.spares (r.monitor.val - 72) ≠ 0xFF) := by
    rintro ⟨spare, mapped⟩
    rcases alive with small | free
    · omega
    · exact mapped free
  unfold State.paceWindow
  dsimp only
  rw [if_neg not]
  split
  · exact SMap.get_put_self _ _ _ _
  · split <;> exact SMap.get_put_self _ _ _ _

theorem State.paceWindow_spare {s : State} {r : PaceReading} (spare : 72 ≤ r.monitor.val)
    (mapped : SMap.get 0xFF s.boot.spares (r.monitor.val - 72) ≠ 0xFF) : s.paceWindow r = s.setPlant (fun p => p.clearPace r.monitor) := by
  unfold State.paceWindow
  exact if_pos ⟨spare, mapped⟩

/-! Deficits and ratings. -/

section
variable {s : State} {t : TileId}

theorem State.paceDeficit_none (well : SMap.get 0 s.plant.lowSince t = 0) : exec (.paceDeficit t) s = .next s :=
  (exec_paceDeficit _ _).trans (congrArg Host.Outcome.next (if_pos well))

/-- The state in which a tile's deficit is taken up (R46). -/
def State.deficitTaken (s : State) (t : Nat) : State :=
  (s.atLeast (SMap.get 0 s.plant.lowSince t - 1 + 100000)).setPlant (fun p => { p with lowSince := SMap.put 0 p.lowSince t 0 })

/-- The pace-locked partitions with a tile on the die of tile t (R46). -/
def State.lockedOnDie (s : State) (t : Nat) : List Nat :=
  parts64.filter (fun n => s.valid n && (s.part n).paceRate.isSome && (s.tilesOf n).any (fun u => u / 16 == t / 16))

/-- A record that is partition-fatal to some partitions (R46). -/
def State.fatalAmong (s : State) (ns : List Nat) (r : ErrRec) : State :=
  match ns with
  | [] => s
  | [n] => s.partFatal n r
  | _ => (s.fatalTo ns r).countFatal r

theorem State.fatalAmong_many {s : State} {ns : List Nat} (two : 2 ≤ ns.length) (r : ErrRec) : s.fatalAmong ns r = (s.fatalTo ns r).countFatal r := by
  rcases ns with _ | ⟨n, _ | ⟨m, ns⟩⟩
  · exact absurd two (by decide)
  · exact absurd two (by simp)
  · rfl

/-- A deficit of 100 µs is partition-fatal to every pace-locked partition with a tile on the die (R46). -/
theorem State.paceDeficit_fatal (low : SMap.get 0 s.plant.lowSince t ≠ 0) {ns : List Nat} (parts : s.lockedOnDie t = ns) :
    exec (.paceDeficit t) s = .next ((s.deficitTaken t).fatalAmong ns { mkRec 0x0106 1 with tile := t, unit := unitTile t }) := by
  have same : (s.deficitTaken t).lockedOnDie t = ns := parts
  rw [exec_paceDeficit, execPaceDeficit]
  refine congrArg Host.Outcome.next ((if_neg low).trans ?_)
  dsimp only
  unfold State.lockedOnDie State.deficitTaken at same
  rw [same]
  rcases ns with _ | ⟨n, _ | ⟨m, ns⟩⟩ <;> rfl

end

/-! Lost clocks. -/

/-- What the loss of an island's clock does to each of its links (R49). -/
def State.stopLink (s : State) (l : Nat) : State :=
  if ((s.linkDown l).link l).state = 1 then (s.linkDown l).updLink l (fun x => { x with state := 0 }) else s.linkDown l

theorem State.stopLink_states (s : State) (l k : Nat) : ((s.stopLink l).link k).state =
    if k = l ∧ ((s.link l).state = 1 ∨ (s.link l).state = 2) then 0 else (s.link k).state := by
  unfold State.stopLink
  have down := s.linkDown_states l
  by_cases one : ((s.linkDown l).link l).state = 1
  · have was : (s.link l).state = 1 ∨ (s.link l).state = 2 := by
      rw [down] at one
      split at one
      · next h => exact Or.inr h.2
      · exact Or.inl one
    rw [if_pos one, State.link_updLink]
    by_cases same : k = l
    · rw [if_pos same, if_pos ⟨same, was⟩]
    · rw [if_neg same, if_neg (fun h => same h.1), down, if_neg (fun h => same h.1)]
  · have was : ¬ ((s.link l).state = 1 ∨ (s.link l).state = 2) := by
      rw [down] at one
      rintro (isOne | isTwo)
      · rw [if_neg (fun h => by rw [isOne] at h; exact absurd h.2 (by decide))] at one
        exact one isOne
      · rw [if_pos ⟨rfl, isTwo⟩] at one
        exact one rfl
    rw [if_neg one, down, if_neg (fun h => was (Or.inr h.2)), if_neg (fun h => was h.2)]

/-- A link neither trains nor is UP. -/
def State.linkOff (s : State) (k : Nat) : Prop := (s.link k).state ≠ 1 ∧ (s.link k).state ≠ 2

theorem State.stopLink_off (s : State) (l k : Nat) (h : k = l ∨ s.linkOff k) : (s.stopLink l).linkOff k := by
  unfold State.linkOff at h ⊢
  rw [State.stopLink_states]
  split
  · decide
  · next not =>
    rcases h with same | off
    · rw [same]
      exact ⟨fun one => not ⟨same, Or.inl one⟩, fun two => not ⟨same, Or.inr two⟩⟩
    · exact off

theorem State.stopLinks_off (ls : List Nat) (s : State) (k : Nat) (h : k ∈ ls ∨ s.linkOff k) : (ls.foldl State.stopLink s).linkOff k := by
  induction ls generalizing s with
  | nil => exact h.resolve_left (by simp)
  | cons l ls ih =>
    refine ih _ ?_
    rcases h with mem | off
    · rcases List.mem_cons.1 mem with rfl | later
      · exact Or.inr (s.stopLink_off k k (Or.inl rfl))
      · exact Or.inl later
    · exact Or.inr (s.stopLink_off l k (Or.inr off))

theorem State.breakOver_serves (s : State) (ls : List Nat) : s.Serves (s.breakOver ls) := by
  refine .foldl (fun t x => ?_) _ s
  split
  · exact .refl t
  · exact .ite (t.breakHere_serves _ _ _ _) (.refl t)

section
variable {s : State} {i : Fin 15} (fresh : s.plant.lost.contains i.val = false)
include fresh

theorem State.clockLoss_acts (watched : i.val ≠ 0 ∧ i.val ≠ 14) :
    let a := s.setPlant (fun p => { p with lost := i.val :: p.lost })
    let r : ErrRec := { mkRec 0x0507 3 with unit := unitIsland i }
    exec (.clockLoss i) s = .next (if i.val = 1 then State.record { a with hostl := { a.hostl with width := 0 } } r
      else if i.val < 10 then a.loseController (i.val - 2) { mkRec 0x0507 1 with unit := unitIsland i }
      else if i.val < 12 then ((((List.range 8).map (fun j => 8 * (i.val - 10) + j)).foldl State.stopLink (a.record r)).breakOver
        ((List.range 8).map (fun j => 8 * (i.val - 10) + j)))
      else if i.val = 12 then a.record r
      else (a.setPlant (fun p => { p with ciRunning := false })).devFatal r) := by
  rw [exec_clockLoss, execClockLoss]
  refine congrArg Host.Outcome.next (if_neg ?_)
  rintro (zero | fourteen | gone)
  · exact watched.1 zero
  · exact watched.2 fourteen
  · rw [fresh] at gone
    exact Bool.false_ne_true gone

end

theorem State.clockLoss_not {s : State} {i : Fin 15} (not : i.val = 0 ∨ i.val = 14 ∨ s.plant.lost.contains i.val = true) :
    exec (.clockLoss i) s = .next s :=
  (exec_clockLoss _ _).trans (congrArg Host.Outcome.next (if_pos not))

/-- Settles O53. -/
theorem powerPlant : Obligations.PowerPlant := by
  intro s n t watts r what i b ks p
  refine ⟨⟨_, exec_tokenRelease _ _, State.foldl_updTile _ s (fun (_ : State) (t : Nat) => t) _, State.foldl_updTile_nodup _ (s.tokenTiles_nodup n) s _⟩,
    get_bankTokens ks b, State.tokenTiles_own, fun stopped => State.unclocked stopped n watts [r], fun clocked => State.powerLoopTick_moves clocked watts,
    exec_pwrBrakeAssert _, exec_pwrBrakeRelease _, exec_vrHotAssert _, fun clocked => ⟨State.paceWindowEnd_reads clocked [], fun alive => ⟨_,
    State.paceWindowEnd_reads clocked [r], State.paceWindow_register alive⟩, fun spare mapped => ?_⟩, State.paceDeficit_none, fun low => ⟨fun none_ => ?_,
    fun m one => ?_, fun many => ?_⟩, ?_, fun fresh => ⟨fun one => ?_, fun low high => ?_, fun link => ?_, fun ci12 => ?_, fun ci13 => ?_⟩, State.clockLoss_not⟩
  · have spared : s.windowsEnd.paceWindow r = s.windowsEnd.setPlant (fun p => p.clearPace r.monitor) := State.paceWindow_spare spare mapped
    rw [State.paceWindowEnd_reads clocked, List.foldl_cons, List.foldl_nil, spared]
    rfl
  · exact State.paceDeficit_fatal low none_
  · exact State.paceDeficit_fatal low one
  · exact (State.paceDeficit_fatal low rfl).trans (congrArg Host.Outcome.next (State.fatalAmong_many (ns := s.lockedOnDie t) many _))
  · cases what <;> exact ⟨fun twice => (exec_outOfRating _ _).trans (congrArg Host.Outcome.next (if_neg (Nat.not_lt.2 twice))),
      fun once => (exec_outOfRating _ _).trans (congrArg Host.Outcome.next (if_pos once))⟩
  · rw [State.clockLoss_acts fresh (by omega), if_pos one]
  · rw [State.clockLoss_acts fresh (by omega), if_neg (by omega), if_pos high]
  · rw [State.clockLoss_acts fresh (by omega), if_neg (by omega), if_neg (by omega), if_pos (by omega)]
    refine ⟨_, rfl, fun l low high => ?_⟩
    have off := State.stopLinks_off ((List.range 8).map (fun j => 8 * (i.val - 10) + j)) ((s.setPlant (fun p => { p with
      lost := i.val :: p.lost })).record { mkRec 0x0507 3 with unit := unitIsland i }) l
      (Or.inl (List.mem_map.2 ⟨l - 8 * (i.val - 10), List.mem_range.2 (by omega), by omega⟩))
    unfold State.linkOff at off
    rw [(State.breakOver_serves _ _).linkState]
    exact off
  · rw [State.clockLoss_acts fresh (by omega), if_neg (by omega), if_neg (by omega), if_neg (by omega), if_pos ci12]
  · rw [State.clockLoss_acts fresh (by omega), if_neg (by omega), if_neg (by omega), if_neg (by omega), if_neg (by omega)]

end Sys2Proof.Machine
end

section
/-!
PROOFS. The entropy unit (O54): the statement fails where the window that fills is the first one after a start-up without a DRBG.
-/

namespace Sys2Proof.Machine

/-- A window that fills instantiates a DRBG that is not live, and is then gone (R468). -/
theorem State.windowEnd_seeds {s : State} (runs : s.eng.entropy.state = 1) (full : s.eng.entropy.window.length = 1024)
    (dead : s.eng.drbg.live = false) : s.windowEnd.eng.entropy = { s.eng.entropy with window := [] } := by
  unfold State.windowEnd
  dsimp only
  rw [if_pos ⟨runs, full⟩, if_pos (by simp [State.setEntropy, dead])]
  rfl

/-- An entropy unit whose window is full while the DRBG is not live: start-up had no window for it (R461, R468). -/
def unseeded (window : List Bool) : State := { eng := { entropy := { state := 1, window := window } } }

/-- Refutes O54: the first window after a start-up without a DRBG instantiates it, so it is not kept for what waits. -/
theorem not_engines : ¬ Obligations.Engines := by
  intro h
  obtain ⟨window, full⟩ : ∃ window : List Bool, window.length = 1024 := ⟨List.replicate 1024 false, List.length_replicate⟩
  obtain ⟨-, -, -, -, ends, -⟩ := h (unseeded window) false 0 .hash .hash 0 0
    { alg := 0, src := [], len := 0, key := [], keyLen := 0, dst := [], ien := false, rootId := 0 }
  obtain ⟨s', run, kept⟩ := (ends rfl).2 full
  rw [exec_entropyWindowEnd, execEntropyWindowEnd] at run
  cases run
  rw [State.windowEnd_seeds rfl full rfl] at kept
  have ready := congrArg (fun e : Entropy => e.ready.length) kept
  exact absurd ready (by simp [unseeded])

end Sys2Proof.Machine
end

section
/-!
PROOFS. What each reset leaves (O55).
-/

namespace Sys2Proof.Machine

/-- A change of each of some controllers leaves every other part. -/
theorem State.foldl_updHbm (l : List Nat) (f : Hbm → Hbm) (s : State) :
    l.foldl (fun s k => s.updHbm k f) s = { s with hbm := (l.foldl (fun s k => s.updHbm k f) s).hbm } := by
  refine List.foldlRecOn (motive := fun t : State => t = { s with hbm := t.hbm }) l _ rfl (fun t ih x _ => ?_)
  rw [ih]
  rfl

theorem State.foldl_updHbm_hbmc (l : List Nat) (distinct : l.Nodup) (f : Hbm → Hbm) (s : State) (k : Nat) :
    (l.foldl (fun s k => s.updHbm k f) s).hbmc k = if k ∈ l then f (s.hbmc k) else s.hbmc k := by
  induction l generalizing s with
  | nil => rfl
  | cons j l ih =>
    obtain ⟨fresh, rest⟩ := List.nodup_cons.1 distinct
    rw [List.foldl_cons, ih rest, State.hbmc_updHbm]
    by_cases here : k = j
    · subst here
      simp [fresh]
    · simp [here]

section
variable {s : State}

theorem State.warmReset_warm (on : s.boot.powerOk = true) (cause : WarmCause) : exec (.warmReset cause) s = .next s.warm :=
  (exec_warmReset _ _).trans (congrArg Host.Outcome.next (if_pos on))

theorem State.warmReset_off (off : s.boot.powerOk = false) (cause : WarmCause) : exec (.warmReset cause) s = .next s :=
  (exec_warmReset _ _).trans (congrArg Host.Outcome.next (if_neg (by rw [off]; exact Bool.false_ne_true)))

/-- The state at the fall of `PWR_OK` before HBM enters self-refresh (R558). -/
def State.powerFalls (s : State) : State :=
  let k := State.kept { s with cfg := s.flashDone }
  { k with now := s.now, plant := { k.plant with thermtrip := s.plant.thermtrip }, tiles := (List.range 64).map (fun t => (t, { stopped := true })) }

theorem State.pwrOkFall_falls (on : s.boot.powerOk = true) : exec .pwrOkFall s = .next (((List.range 8).foldl (fun s i => s.updHbm i (fun c => { c with
    selfRefresh := true })) s.powerFalls).setBoot (fun b => { b with powerOk := false })) :=
  (exec_pwrOkFall _).trans (congrArg Host.Outcome.next (if_neg (by simp [on])))

theorem State.pwrOkFall_off (off : s.boot.powerOk = false) : exec .pwrOkFall s = .next s :=
  (exec_pwrOkFall _).trans (congrArg Host.Outcome.next (if_pos (by simp [off])))

end

theorem stoppedTiles : ∀ t, t < 64 → (SMap.get {} ((List.range 64).map (fun t => (t, ({ stopped := true } : Tile)))) t).stopped = true := by
  decide

/-- Settles O55. -/
theorem resets : Obligations.Resets := by
  intro s cause f
  refine ⟨⟨_, exec_coldReset _, rfl, rfl, rfl, rfl, rfl, rfl, rfl, rfl, rfl, rfl, rfl, rfl, rfl, rfl⟩,
    fun on => ⟨_, State.warmReset_warm on cause, rfl, rfl, rfl, rfl, rfl, rfl, rfl, rfl, rfl, rfl, rfl, rfl, fun alive => ?_, fun dead => ?_⟩,
    fun off => State.warmReset_off off cause, ⟨_, exec_d3hotEntry _ _, rfl, fun g => SMap.get_put _ _ _ _ _⟩, fun on => ⟨_, State.pwrOkFall_falls on, ?_⟩,
    State.pwrOkFall_off, ⟨_, exec_lossOfPower _, rfl, rfl, rfl, rfl, rfl, rfl, rfl⟩⟩
  · exact ⟨if_neg alive, if_neg alive⟩
  · exact if_pos dead
  · have refresh := State.foldl_updHbm_hbmc (List.range 8) List.nodup_range (fun c => { c with selfRefresh := true }) s.powerFalls
    rw [State.foldl_updHbm] at refresh ⊢
    refine ⟨rfl, rfl, rfl, rfl, rfl, fun t small => stoppedTiles t small, fun k small => ?_, rfl, rfl, rfl⟩
    have now := refresh k
    rw [if_pos (List.mem_range.2 small)] at now
    exact congrArg Hbm.selfRefresh now

end Sys2Proof.Machine
end

section
/-!
SUPPORT and PROOFS. The SPDM responders (O57) and TDISP (O58).
-/

namespace Sys2Proof.Machine

/-! Responders. -/

@[simp] theorem State.responder_updResponder (s : State) (f : FnId) (g : Responder → Responder) :
    (s.updResponder f g).responder f = g (s.responder f) := by
  simp [State.responder, State.updResponder, SMap.get_upd]

section
variable {s : State} {f : FnId} {k : State → State}

/-- A responder that answers serves what reaches it (R436, R550). -/
theorem State.toResponder_serves (r : Responds s f) : s.toResponder f k = k s := by
  unfold State.toResponder
  rw [if_neg r.link, r.there, r.opened]
  rfl

theorem State.connected_in {l : List (Fin 4)} (c : Fin 4) (stage : (s.responder f).conn ∈ l) :
    s.connected f l c k = k (s.updResponder f (fun r => { r with conn := c })) := if_pos (by simpa using stage)

theorem State.connected_out {l : List (Fin 4)} (c : Fin 4) (stage : (s.responder f).conn ∉ l) :
    s.connected f l c k = s.spdmError f .unexpectedRequest := if_neg (by simpa using stage)

theorem State.negotiated_serves (r : Responds s f) (stage : (s.responder f).conn = 3) :
    s.negotiated f k = k (s.updResponder f (fun r => { r with conn := 3 })) :=
  (State.toResponder_serves r).trans (State.connected_in 3 (by simp [stage]))

theorem State.negotiated_early (r : Responds s f) (stage : (s.responder f).conn ≠ 3) : s.negotiated f k = s.spdmError f .unexpectedRequest :=
  (State.toResponder_serves r).trans (State.connected_out 3 (by simp [stage]))

/-! Fresh entropy (R441). -/

theorem State.tryFresh_dead (q : SpdmReq) (dead : s.entropyDead = true) : s.tryFresh f q = s.spdmError f .unspecified := if_pos dead

theorem State.tryFresh_runs (q : SpdmReq) (runs : s.eng.entropy.state = 1) : s.tryFresh f q = s.addTask (.spdm f q) (spdmNeeds q) := by
  unfold State.tryFresh State.entropyDead
  rw [runs]
  rfl

theorem State.tryFresh_recovers (q : SpdmReq) (recovers : s.eng.entropy.state = 0 ∨ s.eng.entropy.state = 2) :
    s.tryFresh f q = s.deferSpdm f q s.now := by
  unfold State.tryFresh State.entropyDead
  obtain recovers | recovers := recovers <;> (rw [recovers]; rfl)

/-! Sessions (R440). -/

theorem State.inSession_serves {id : BitVec 32} {y : Session} (is : s.session f id = some y) (up : y.established = true) :
    s.inSession f id k = k s := by
  unfold State.inSession
  rw [is]
  exact if_pos up

theorem State.session_dropSession (id : BitVec 32) : (s.dropSession f id).session f id = none := by
  unfold State.session State.dropSession
  rw [State.responder_updResponder, List.find?_eq_none]
  intro x there
  simpa using (List.mem_filter.1 there).2

/-- Free values change the supply of them alone. -/
theorem State.freeBytes_free (n : Nat) (s : State) : (State.freeBytes n s).2 = { s with free := (State.freeBytes n s).2.free } := by
  induction n generalizing s with
  | zero => rfl
  | succ n ih => exact ih s.draw.2

end

/-! The connection. -/

section
variable {s : State} {f : FnId}

theorem State.connection (r : Responds s f) :
    let at_ (n : Fin 4) : State := s.updResponder f (fun r => { r with conn := n })
    (exec (.getVersion f) s = .next ((at_ 1).spdm f (.version 0x13))) ∧
    ((s.responder f).conn = 1 ∨ (s.responder f).conn = 2 → exec (.getCapabilities f) s = .next ((at_ 2).spdm f (.capabilities spdmCapabilities))) ∧
    ((s.responder f).conn = 2 ∨ (s.responder f).conn = 3 → exec (.negotiateAlgorithms f) s = .next ((at_ 3).spdm f (.algorithms spdmAlgorithms))) := by
  refine ⟨?_, fun stage => ?_, fun stage => ?_⟩
  · rw [exec_getVersion, execGetVersion, State.toResponder_serves r, State.connected_in]
    generalize (s.responder f).conn = c
    revert c
    decide
  · rw [exec_getCapabilities, execGetCapabilities, State.toResponder_serves r, State.connected_in]
    simpa using stage
  · rw [exec_negotiateAlgorithms, execNegotiateAlgorithms, State.toResponder_serves r, State.connected_in]
    simpa using stage

/-- Before the algorithms are negotiated every later request is unexpected (log entry 15). -/
theorem State.spdm_early (r : Responds s f) (stage : (s.responder f).conn ≠ 3) (off len block : Nat) (nonce : BitVec 256) (req : BitVec 16)
    (x : BitVec 768) :
    ∀ c ∈ [Instr.getDigests f, .getCertificate f 0 off len, .challenge f 0 nonce, .getMeasurements f block true nonce, .keyExchange f req x],
      exec c s = .next (s.spdm f (.error .unexpectedRequest)) := by
  intro c there
  simp only [List.mem_cons, List.not_mem_nil, or_false] at there
  obtain rfl | rfl | rfl | rfl | rfl := there
  · exact (exec_getDigests _ _).trans (congrArg Host.Outcome.next (State.negotiated_early r stage))
  · exact (exec_getCertificate _ _ _ _ _).trans (congrArg Host.Outcome.next (State.negotiated_early r stage))
  · exact (exec_challenge _ _ _ _).trans (congrArg Host.Outcome.next (State.negotiated_early r stage))
  · exact (exec_getMeasurements _ _ _ _ _).trans (congrArg Host.Outcome.next (State.negotiated_early r stage))
  · exact (exec_keyExchange _ _ _ _).trans (congrArg Host.Outcome.next (State.negotiated_early r stage))

variable (r : Responds s f) (stage : (s.responder f).conn = 3)

theorem State.certificate_part (off len : Nat) : (if 0 ≠ 0 ∨ s.chainBytes.length ≤ off then s.spdmError f .invalidRequest
      else s.spdm f (.certificate (slice s.chainBytes off len) (s.chainBytes.length - (off + (slice s.chainBytes off len).length)))) =
    s.spdm f (if off < s.chainBytes.length then
      .certificate (slice s.chainBytes off len) (s.chainBytes.length - (off + (slice s.chainBytes off len).length)) else .error .invalidRequest) := by
  by_cases inside : off < s.chainBytes.length
  · rw [if_neg (by omega), if_pos inside]
  · rw [if_pos (by omega), if_neg inside]
    rfl

include r stage

/-- The requests of a negotiated connection that need no entropy (R437, R439, R442). -/
theorem State.negotiated_plain (off len block : Nat) (nonce : BitVec 256) : let a := s.updResponder f (fun r => { r with conn := 3 })
    (exec (.getDigests f) s = .next (a.spdm f (.digest (sha384 a.chainBytes)))) ∧
    (exec (.getCertificate f 0 off len) s = .next (a.spdm f (if off < a.chainBytes.length then
      .certificate (slice a.chainBytes off len) (a.chainBytes.length - (off + (slice a.chainBytes off len).length)) else .error .invalidRequest))) ∧
    (∀ k b, a.measBlocks f block = some (k, b) → exec (.getMeasurements f block false nonce) s = .next (a.spdm f (.measurements k b [] []))) ∧
    (a.measBlocks f block = none → exec (.getMeasurements f block false nonce) s = .next (a.spdm f (.error .invalidRequest))) := by
  intro a
  refine ⟨?_, ?_, fun k b blocks => ?_, fun absent => ?_⟩
  · rw [exec_getDigests, execGetDigests, State.negotiated_serves r stage]
  · rw [exec_getCertificate, execGetCertificate, State.negotiated_serves r stage]
    exact congrArg Host.Outcome.next (State.certificate_part off len)
  all_goals
    rw [exec_getMeasurements, execGetMeasurements, State.negotiated_serves r stage]
    simp only [show State.measBlocks (s.updResponder f (fun r => { r with conn := 3 })) f block = _ from ‹_›]
    rfl

theorem State.challenge_fresh (nonce : BitVec 256) :
    exec (.challenge f 0 nonce) s = .next ((s.updResponder f (fun r => { r with conn := 3 })).tryFresh f (.challenge nonce)) := by
  rw [exec_challenge, execChallenge, State.negotiated_serves r stage]
  exact congrArg Host.Outcome.next (if_neg (by simp))

theorem State.measurements_fresh (block : Nat) (nonce : BitVec 256)
    (there : (s.updResponder f (fun r => { r with conn := 3 })).measBlocks f block ≠ none) : exec (.getMeasurements f block true nonce) s =
      .next ((s.updResponder f (fun r => { r with conn := 3 })).tryFresh f (.measurements block nonce)) := by
  obtain ⟨⟨n, b⟩, blocks⟩ := Option.ne_none_iff_exists'.1 there
  rw [exec_getMeasurements, execGetMeasurements, State.negotiated_serves r stage]
  simp only [blocks]
  rfl

theorem State.keyExchange_fresh (req : BitVec 16) (x : BitVec 768) (room : (s.responder f).sessions.length < 4)
    (point : validPoint (beNat (slice (bvBytes x) 0 48)) (beNat (slice (bvBytes x) 48 48)) = true) (floor : s.boot.floor = 2) :
    exec (.keyExchange f req x) s = .next ((s.updResponder f (fun r => { r with conn := 3 })).tryFresh f (.keyExchange req x)) := by
  rw [exec_keyExchange, execKeyExchange, State.negotiated_serves r stage, State.responder_updResponder]
  exact congrArg Host.Outcome.next ((if_neg (Nat.not_le.2 room)).trans ((if_neg (by rw [point]; decide)).trans (if_neg (not_not.2 floor))))

theorem State.keyExchange_full (req : BitVec 16) (x : BitVec 768) (full : 4 ≤ (s.responder f).sessions.length) :
    exec (.keyExchange f req x) s = .next ((s.updResponder f (fun r => { r with conn := 3 })).spdm f (.error .sessionLimitExceeded)) := by
  rw [exec_keyExchange, execKeyExchange, State.negotiated_serves r stage, State.responder_updResponder]
  exact congrArg Host.Outcome.next (if_pos full)

end

/-! The answers of a responder outside the connection's order. -/

section
variable {s : State} {f : FnId} (r : Responds s f)
include r

theorem State.respondIfReady_retries (token : Byte) {q : SpdmWait} (waits : (s.responder f).wait = some q) (same : q.token = token)
    (runs : s.eng.entropy.state = 1) : exec (.respondIfReady f token) s =
      .next ((s.updResponder f (fun r => { r with wait := none })).addTask (.spdm f q.req) (spdmNeeds q.req)) := by
  rw [exec_respondIfReady, execRespondIfReady, State.toResponder_serves r]
  simp only [waits]
  exact congrArg Host.Outcome.next ((if_neg (not_not.2 same)).trans ((if_neg (by simp [State.entropyDead, runs])).trans (if_pos runs)))

theorem State.respondIfReady_none (token : Byte) (none_ : (s.responder f).wait = none) :
    exec (.respondIfReady f token) s = .next (s.spdm f (.error .invalidRequest)) := by
  rw [exec_respondIfReady, execRespondIfReady, State.toResponder_serves r]
  simp only [none_]
  rfl

theorem State.finish_session (id : BitVec 32) (ok : Bool) {y : Session} (is : s.session f id = some y) : exec (.finish f id ok) s =
    .next (if ok then (s.updSession f id (fun x => { x with established := true, lastSeen := s.now })).spdm f .finish
      else (s.dropSession f id).spdmError f .decryptError) := by
  rw [exec_finish, execFinish, State.toResponder_serves r]
  simp only [is]

theorem State.session_requests (id : BitVec 32) {y : Session} (is : s.session f id = some y) (up : y.established = true) :
    exec (.heartbeat f id) s = .next ((s.updSession f id (fun x => { x with lastSeen := s.now })).spdm f .heartbeatAck) ∧
    exec (.keyUpdate f id) s = .next ((s.updSession f id (fun x => { x with updates := x.updates + 1, lastSeen := s.now })).spdm f .keyUpdateAck) ∧
    exec (.endSession f id) s = .next ((s.dropSession f id).spdm f .endSessionAck) := by
  refine ⟨?_, ?_, ?_⟩
  · rw [exec_heartbeat, execHeartbeat, State.toResponder_serves r, State.inSession_serves is up]
  · rw [exec_keyUpdate, execKeyUpdate, State.toResponder_serves r, State.inSession_serves is up]
  · rw [exec_endSession, execEndSession, State.toResponder_serves r, State.inSession_serves is up]

end

/-! The answers built of drawn values. -/

theorem State.answerSpdm_challenge (s : State) (f : FnId) (nonce : BitVec 256) (got : List (List Byte)) :
    ∃ (g : List Byte) (x : Nat), s.answerSpdm f (.challenge nonce) got = State.spdm { s with free := x } f
      (.challengeAuth (got.getD 0 []) (sha384 s.chainBytes) (sha384 (s.measAll f)) g) := by
  refine ⟨(State.freeBytes 12 s).1, (State.freeBytes 12 s).2.free, ?_⟩
  unfold State.answerSpdm
  dsimp only
  rw [State.freeBytes_free]
  rfl

theorem State.spdm_posts (s : State) (f : FnId) (a : SpdmAnswer) : s.Posts (s.spdm f a) := (s.emit_posts _).trans (State.msix_posts _ _ _)

@[simp] theorem State.responder_spdm (s : State) (f g : FnId) (a : SpdmAnswer) : (s.spdm f a).responder g = s.responder g :=
  (s.spdm_posts f a).of (fun s => s.responder g) (fun _ _ _ _ _ _ => rfl)

@[simp] theorem State.part_spdm (s : State) (f : FnId) (a : SpdmAnswer) (n : Nat) : (s.spdm f a).part n = s.part n :=
  (s.spdm_posts f a).of (fun s => s.part n) (fun _ _ _ _ _ _ => rfl)

@[simp] theorem State.tdi_spdm (s : State) (f : FnId) (a : SpdmAnswer) (n : PartId) : (s.spdm f a).tdi n = s.tdi n :=
  (s.spdm_posts f a).of (fun s => s.tdi n) (fun _ _ _ _ _ _ => rfl)

/-- A KEY_EXCHANGE whose values are drawn opens a session under the next identifier (R440). -/
theorem State.answerSpdm_keyExchange {s : State} {f : FnId} (alive : s.entropyDead = false) (room : (s.responder f).sessions.length < 4)
    (req : BitVec 16) (x : BitVec 768) (got : List (List Byte)) :
    ((s.answerSpdm f (.keyExchange req x) got).responder f).sessions.map Session.id =
      (s.responder f).sessions.map Session.id ++ [(s.responder f).nextId ++ req] := by
  unfold State.answerSpdm
  dsimp only
  rw [State.freeBytes_free]
  refine (congrArg (fun t : State => (t.responder f).sessions.map Session.id)
    ((if_neg fun dead => Bool.false_ne_true (alive.symm.trans dead)).trans (if_neg (Nat.not_le.2 room)))).trans ?_
  dsimp only
  rw [State.responder_spdm, State.responder_updResponder]
  exact List.map_append

/-! IDE_KM and TDISP. -/

section
variable {s : State} {id : BitVec 32} {k : State → State}

theorem State.toManager_serves (i : InSession s id) : s.toManager 64 id k = k s := by
  obtain ⟨y, is, up⟩ := i.session
  unfold State.toManager
  rw [State.toResponder_serves i.toResponds]
  exact (if_neg (by decide)).trans (State.inSession_serves is up)

theorem State.tdisp_serves (i : InSession s id) (n : PartId) (there : s.fnExists n = true) : s.tdisp 64 id n k = k s := by
  unfold State.tdisp
  rw [State.toManager_serves i]
  exact if_pos there

end

/-- Stream st of IDE_KM. -/
def State.ideStream (s : State) (st : Fin 66) : IdeStream := SMap.get {} s.sec.ide st.val

/-- Set a stream. -/
def State.setIde (s : State) (st : Fin 66) (x : IdeStream) : State := s.setSec (fun y => { y with ide := SMap.put {} y.ide st.val x })

@[simp] theorem State.ideStream_setIde (s : State) (st : Fin 66) (x : IdeStream) : (s.setIde st x).ideStream st = x :=
  SMap.get_put_self _ _ _ _

section
variable {s : State} {id : BitVec 32} (i : InSession s id) (st : Fin 66)
include i

theorem State.ideKm_keyProg : exec (.ideKm 64 id st .keyProg) s = .next ((s.setIde st { s.ideStream st with keyed := true }).spdm 64 .ideKmAck) := by
  rw [exec_ideKm, execIdeKm, State.toManager_serves i]
  rfl

theorem State.ideKm_setGo (keyed : (s.ideStream st).keyed = true) :
    exec (.ideKm 64 id st .setGo) s = .next ((s.setIde st { s.ideStream st with secure := true }).spdm 64 .ideKmAck) := by
  rw [exec_ideKm, execIdeKm, State.toManager_serves i]
  exact congrArg (fun t : State => Host.Outcome.next (t.spdm 64 .ideKmAck)) (if_pos keyed)

theorem State.ideKm_setStop_selective (small : st.val < 64) : exec (.ideKm 64 id st .setStop) s =
    .next (((s.setIde st {}).tdiError st.val true).spdm 64 .ideKmAck) := by
  rw [exec_ideKm, execIdeKm, State.toManager_serves i]
  exact congrArg (fun t : State => Host.Outcome.next (t.spdm 64 .ideKmAck)) (if_pos small)

theorem State.ideKm_setStop_other (large : 64 ≤ st.val) : exec (.ideKm 64 id st .setStop) s = .next ((s.setIde st {}).spdm 64 .ideKmAck) := by
  rw [exec_ideKm, execIdeKm, State.toManager_serves i]
  exact congrArg (fun t : State => Host.Outcome.next (t.spdm 64 .ideKmAck)) (if_neg (Nat.not_lt.2 large))

end

theorem State.spdm_free (s : State) (x : Nat) (f : FnId) (a : SpdmAnswer) : State.spdm { s with free := x } f a = { s.spdm f a with free := x } := by
  unfold State.spdm State.msix
  dsimp only
  split <;> rename_i here <;> split <;> rename_i there
  · rfl
  · exact absurd here there
  · exact absurd there here
  · rfl

/-- Settles O57. -/
theorem spdmRequests : Obligations.SpdmRequests := by
  intro s f off len block nonce req x id code token st got at_
  refine ⟨fun r => ?_, ?_, fun alive room => State.answerSpdm_keyExchange alive room req x got, fun y is => ?_, fun i => ?_⟩
  · obtain ⟨version, capabilities, algorithms⟩ := State.connection r
    refine ⟨version, capabilities, algorithms, ?_, fun early => State.spdm_early r early off len block nonce req x, fun stage => ?_,
      fun q waits same runs => State.respondIfReady_retries r token waits same runs, State.respondIfReady_none r token, fun y is => ?_⟩
    · exact (exec_spdmUnsupportedRequest _ _ _).trans (congrArg Host.Outcome.next (State.toResponder_serves r))
    · obtain ⟨digests, certificate, values, absent⟩ := State.negotiated_plain r stage off len block nonce
      have challenge := State.challenge_fresh r stage nonce
      refine ⟨digests, certificate, values, absent, fun dead => ?_, fun runs => ⟨?_, fun there => ?_, fun room point floor => ?_⟩,
        fun recovers => ?_, fun full => State.keyExchange_full r stage req x full⟩
      · exact challenge.trans (congrArg Host.Outcome.next (State.tryFresh_dead _ dead))
      · exact challenge.trans (congrArg Host.Outcome.next (State.tryFresh_runs _ runs))
      · exact (State.measurements_fresh r stage block nonce there).trans (congrArg Host.Outcome.next (State.tryFresh_runs _ runs))
      · exact (State.keyExchange_fresh r stage req x room point floor).trans (congrArg Host.Outcome.next (State.tryFresh_runs _ runs))
      · exact challenge.trans (congrArg Host.Outcome.next (State.tryFresh_recovers _ recovers))
    · exact ⟨State.finish_session r id true is, State.finish_session r id false is, State.session_requests r id is⟩
  · obtain ⟨g, x, answered⟩ := s.answerSpdm_challenge f nonce got
    rw [State.spdm_free] at answered
    exact ⟨g, (congrArg State.out answered).trans rfl⟩
  · refine ⟨(s.atLeast (y.lastSeen + 60000000000)).dropSession f id, ?_, State.session_dropSession id, rfl⟩
    rw [exec_spdmHeartbeatTimeout, execSpdmHeartbeatTimeout, is]
  · refine ⟨⟨_, State.ideKm_keyProg i st, ?_⟩, fun keyed => ⟨_, State.ideKm_setGo i st keyed, ?_⟩, State.ideKm_setStop_selective i st,
      fun large => ⟨_, State.ideKm_setStop_other i st large, State.ideStream_setIde s st {}⟩⟩
    · exact congrArg IdeStream.keyed (State.ideStream_setIde s st _)
    · exact congrArg IdeStream.secure (State.ideStream_setIde s st _)

/-! TDISP (R449). -/

theorem State.mem_out_spdm (s : State) (f : FnId) (a : SpdmAnswer) : Output.spdm f a ∈ (s.spdm f a).out := by
  unfold State.spdm State.msix
  dsimp only
  split <;> simp [State.setMsix, State.emit]

theorem State.tdi_setTdi (s : State) (n : PartId) (x : Tdi) : (s.setTdi n x).tdi n = x := SMap.get_put_self _ _ _ _

section
variable {s : State} {id : BitVec 32} {n : PartId} (i : InSession s id) (there : s.fnExists n = true)
include i there

theorem State.report_interface : exec (.getDeviceInterfaceReport 64 id n) s = .next (if (s.tdi n).state = .configLocked ∨ (s.tdi n).state = .run then
    s.spdm 64 (.tdispReport n) else s.spdm 64 (.tdispError .invalidInterfaceState)) :=
  (exec_getDeviceInterfaceReport _ _ _ _).trans (congrArg Host.Outcome.next (State.tdisp_serves i n there))

theorem State.lock_interface : exec (.lockInterfaceRequest 64 id n) s = .next (if (s.tdi n).state ≠ .configUnlocked then
      s.spdm 64 (.tdispError .invalidInterfaceState)
    else ((State.freeBytes 4 s).2.setTdi n { state := .configLocked, nonce := bytesBv 256 (State.freeBytes 4 s).1, session := id }).spdm 64
      (.tdispLock (bytesBv 256 (State.freeBytes 4 s).1))) :=
  (exec_lockInterfaceRequest _ _ _ _).trans (congrArg Host.Outcome.next (State.tdisp_serves i n there))

theorem State.start_interface (nonce : BitVec 256) : exec (.startInterfaceRequest 64 id n nonce) s = .next (
    if (s.tdi n).state ≠ .configLocked then s.spdm 64 (.tdispError .invalidInterfaceState)
    else if (s.tdi n).nonce ≠ nonce then s.spdm 64 (.tdispError .invalidNonce)
    else (s.setTdi n { s.tdi n with state := .run, nonce := 0 }).spdm 64 .tdispStart) :=
  (exec_startInterfaceRequest _ _ _ _ _).trans (congrArg Host.Outcome.next (State.tdisp_serves i n there))

theorem State.stop_interface : exec (.stopInterfaceRequest 64 id n) s = .next (if (s.tdi n).state = .run ∧ (s.part n).conf then
    ((s.setTdi n {}).spdm 64 .tdispStop).partFatal n { mkRec 0x0505 1 with unit := unitIsland 1 } else (s.setTdi n {}).spdm 64 .tdispStop) :=
  (exec_stopInterfaceRequest _ _ _ _).trans (congrArg Host.Outcome.next ((State.tdisp_serves i n there).trans
    (ite_congr (propext (and_congr_right' (by rw [State.part_spdm]; rfl))) (fun _ => rfl) fun _ => rfl)))

end

/-- Settles O58. -/
theorem interfaces : Obligations.Interfaces := by
  intro s id n nonce i there t
  have served {k : State → State} : s.tdisp 64 id n k = k s := State.tdisp_serves i n there
  refine ⟨?_, ?_, ?_, fun known => ?_, fun notLocked notRun => ?_, fun unlocked => ⟨_, _, (State.lock_interface i there).trans (congrArg _
    (if_neg (not_not.2 unlocked))), (State.tdi_spdm _ _ _ _).trans (State.tdi_setTdi _ _ _), State.mem_out_spdm _ _ _⟩, fun other => ?_,
    fun locked => ⟨fun returns => ⟨s.setTdi n _, ?_, State.tdi_setTdi _ _ _⟩, fun differs => ?_⟩, fun other => ?_, fun quiet => ⟨s.setTdi n {}, ?_, State.tdi_setTdi _ _ _⟩,
    fun runs conf => ?_⟩
  · exact (exec_getTdispVersion _ _ _ _).trans (congrArg _ served)
  · exact (exec_getTdispCapabilities _ _ _ _).trans (congrArg _ served)
  · exact (exec_getDeviceInterfaceState _ _ _ _).trans (congrArg _ served)
  · exact (State.report_interface i there).trans (congrArg _ (if_pos known))
  · exact (State.report_interface i there).trans (congrArg _ (if_neg (not_or.2 ⟨notLocked, notRun⟩)))
  · exact (State.lock_interface i there).trans (congrArg _ (if_pos other))
  · exact (State.start_interface i there nonce).trans (congrArg _ ((if_neg (not_not.2 locked)).trans (if_neg (not_not.2 returns))))
  · exact (State.start_interface i there nonce).trans (congrArg _ ((if_neg (not_not.2 locked)).trans (if_pos differs)))
  · exact (State.start_interface i there nonce).trans (congrArg _ (if_pos other))
  · exact (State.stop_interface i there).trans (congrArg _ (if_neg quiet))
  · exact (State.stop_interface i there).trans (congrArg _ (if_pos ⟨runs, conf⟩))

end Sys2Proof.Machine
end

section
/-!
PROOFS. The ports of the board (O60).
-/

namespace Sys2Proof.Machine

/-! The I3C target (R535, R536). -/

/-- What the board notes of a read of a register (R535). -/
def State.noteI3c (s : State) : I3cReg → State
  | .flags => s.setBoard (fun b => { b with flagsRead := s.devFlags, thermRead := s.plant.therm })
  | .therm => s.setBoard (fun b => { b with thermRead := s.plant.therm })
  | _ => s

section
variable {s : State}

theorem State.i3cWriteCapW_up (up : s.i3cUp = true) (w : BitVec 16) : exec (.i3cWriteCapW w) s =
    .next (s.setBoard (fun b => { b with capW := if w = 0 then 0 else if w.toNat < 1100 then 1100 else w })) :=
  (exec_i3cWriteCapW _ _).trans (congrArg _ (if_pos up))

theorem State.i3cReadFlags_up (up : s.i3cUp = true) (r : I3cReg) : exec (.i3cReadFlags r) s =
    .next ((s.noteI3c r).emit (.i3c ((s.noteI3c r).i3cValue r))) := by
  refine (exec_i3cReadFlags _ _).trans (congrArg _ ((if_pos up).trans ?_))
  cases r <;> rfl

theorem State.uartInput_next (x : Byte) : exec (.uartInput x) s =
    .next (if s.debugOn && s.i3cUp then s.setBoard (fun b => { b with uart := b.uart ++ [x] }) else s) := exec_uartInput _ _

end

theorem capW_raised (w : BitVec 16) (some_ : w ≠ 0) : (if w = 0 then 0 else if w.toNat < 1100 then 1100 else w).toNat = max 1100 w.toNat := by
  rw [if_neg some_]
  split
  · rename_i low
    exact (Nat.max_eq_left (Nat.le_of_lt low)).symm
  · rename_i high
    exact (Nat.max_eq_right (Nat.not_lt.1 high)).symm

/-- The instruction that the TAP selects (R451, R539). -/
def State.tapSelect (s : State) : TapOp → TapOp
  | .boundaryScan => if s.anyConf then .bypass else .boundaryScan
  | .debug c => if s.debugOn then .debug c else .bypass
  | o => o

theorem State.tapSelect_or (s : State) (o : TapOp) : s.tapSelect o = o ∨ s.tapSelect o = .bypass := by
  cases o <;> simp only [State.tapSelect, ite_eq_left_iff, ite_eq_right_iff] <;> tauto

/-- While a partition is confidential the TAP offers BYPASS and IDCODE alone: debug is off then (R451, R539). -/
theorem State.tapSelect_conf {s : State} (conf : s.anyConf = true) (o : TapOp) : s.tapSelect o = .bypass ∨ s.tapSelect o = .idcode := by
  have off : s.debugOn = false := by simp [State.debugOn, conf]
  cases o <;> simp [State.tapSelect, conf, off]

/-- What the TAP sends out: the answer of IDCODE. -/
def tapOut : TapOp → List Output
  | .idcode => [.tap Config.idcode]
  | _ => []

theorem State.tapInstruction_next (s : State) (o : TapOp) : exec (.tapInstruction o) s =
    .next { s with out := s.out ++ tapOut o, board := { s.board with tapIr := s.tapSelect o } } := by
  refine (exec_tapInstruction _ _).trans ?_
  cases o <;> simp [execTapInstruction, tapOut, State.tapSelect, State.setBoard, State.emit]

/-- Settles O60. -/
theorem boardPorts : Obligations.BoardPorts := by
  intro s w x op r
  refine ⟨fun up => ⟨⟨_, State.i3cWriteCapW_up up w, rfl, fun zero => if_pos zero, capW_raised w⟩, _, State.i3cReadFlags_up up r, ?_, ?_, ?_, ?_⟩,
    fun down => ⟨?_, ?_, ?_⟩, ⟨_, s.tapInstruction_next op, rfl, s.tapSelect_or op, fun conf => State.tapSelect_conf conf op, ?_, ?_⟩,
    fun on up => ?_, fun off => ?_⟩
  · cases r <;> rfl
  · cases r <;> rfl
  · rintro rfl
    exact Bool.or_eq_false_iff.2 ⟨bne_self_eq_false _, bne_self_eq_false _⟩
  · rintro rfl
    rfl
  · exact (exec_i3cWriteCapW _ _).trans (congrArg _ (if_neg (by simp [down])))
  · exact (exec_i3cReadFlags _ _).trans (congrArg _ (if_neg (by simp [down])))
  · exact (State.uartInput_next x).trans (congrArg _ (if_neg (by simp [down])))
  · rintro (rfl | rfl) <;> rfl
  · rintro rfl
    rfl
  · exact (State.uartInput_next x).trans (congrArg _ (if_pos (by simp [on, up])))
  · exact (State.uartInput_next x).trans (congrArg _ (if_neg (by simp [off])))

end Sys2Proof.Machine
end

section
/-!
PROOFS. The windows and registers of the host (O59).
-/

namespace Sys2Proof.Machine

/-! Configuration requests (R518–R520, R550). -/

section
variable {s : State} {f : FnId}

theorem State.configurationRequest_exists (out : s.boot.state ≠ .reset) (did : s.stepDid 3 = true) (up : s.hostl.width ≠ 0)
    (there : s.fnExists f = true) (q : CfgReq) :
    exec (.configurationRequest f q) s = .next (if CfgReq.answers q then s.cfgEffect f q else (s.cfgEffect f q).emit .tlpDone) :=
  (exec_configurationRequest _ _ _).trans (congrArg _ ((if_neg out).trans ((if_neg (by simp [did])).trans ((if_neg up).trans (if_neg (by simp [there]))))))

theorem State.configurationRequest_absent (out : s.boot.state ≠ .reset) (did : s.stepDid 3 = true) (up : s.hostl.width ≠ 0)
    (absent : s.fnExists f = false) (q : CfgReq) : exec (.configurationRequest f q) s = .next (s.emit .tlpUnsupported) :=
  (exec_configurationRequest _ _ _).trans (congrArg _ ((if_neg out).trans ((if_neg (by simp [did])).trans ((if_neg up).trans (if_pos (by simp [absent]))))))

theorem State.configurationRequest_early (out : s.boot.state ≠ .reset) (did : s.stepDid 3 = false) (q : CfgReq) :
    exec (.configurationRequest f q) s = .next (s.emit .tlpRetry) :=
  (exec_configurationRequest _ _ _).trans (congrArg _ ((if_neg out).trans (if_pos (by simp [did]))))

end

/-! The memory windows (R522, R525). -/

section
variable {s : State}

theorem State.pfBar2Access_read (dec : s.pfDecodes = true) {o : BitVec 39} {len : Nat} (ok : tlpOpOk o.toNat (.read len) = true) :
    exec (.pfBar2Access o (.read len)) s = .next (windowRead 64 (s.readExtents 0x41 (cutRun 6 (s.pfBar2Pa o) len))) :=
  (exec_pfBar2Access _ _ _).trans (congrArg _ (if_neg (by simp [dec, ok])))

theorem State.pfBar2Access_write (dec : s.pfDecodes = true) {o : BitVec 39} {bs : List Byte} (ok : tlpOpOk o.toNat (.write bs) = true) :
    exec (.pfBar2Access o (.write bs)) s =
      .next (s.writePieces (fun s pa b => (s.access 0x41 pa (.write b)).2) (cutRun 6 (s.pfBar2Pa o) bs.length) bs) :=
  (exec_pfBar2Access _ _ _).trans (congrArg _ (if_neg (by simp [dec, ok])))

theorem State.pfBar2Access_off (dec : s.pfDecodes = false) (o : BitVec 39) (op : MemOp) :
    exec (.pfBar2Access o op) s = .next (s.unsupported 64) :=
  (exec_pfBar2Access _ _ _).trans (congrArg _ (if_pos (by simp [dec])))

theorem State.vfBar2Access_served {n : PartId} {v : BitVec 36} {op : MemOp} {ide : Bool} (dec : s.vfDecodes n = true) (ideOk : s.ideOk n ide = true)
    (win : (s.part n).winEn = true) (ok : tlpOpOk v.toNat op = true) : exec (.vfBar2Access n v op ide) s = .next (match op with
      | .read _ => s.retry 136 (fun s => s.vfWindow n ((s.part n).winBase.toNat * 2 ^ 36 + v.toNat) op)
      | _ => s.vfWindow n ((s.part n).winBase.toNat * 2 ^ 36 + v.toNat) op) :=
  (exec_vfBar2Access _ _ _ _ _).trans (congrArg _ ((if_neg (by simp [dec, ideOk, win, ok])).trans (by cases op <;> rfl)))

theorem State.vfBar2Access_off {n : PartId} {ide : Bool} (off : s.vfDecodes n = false ∨ s.ideOk n ide = false ∨ (s.part n).winEn = false)
    (v : BitVec 36) (op : MemOp) : exec (.vfBar2Access n v op ide) s = .next (s.unsupported (Fin.ofNat 65 n.val)) := by
  refine (exec_vfBar2Access _ _ _ _ _).trans (congrArg _ (if_pos ?_))
  obtain off | off | off := off <;> simp [off]

/-- What a window access does once the page is in the translation cache (R525). -/
theorem State.vfWindow_cases (s : State) (n : PartId) (va len : Nat) (bs : List Byte) : let a := s.winFill n va
    (∀ es a1 data a2, a.range (a.part n).root .load va len = (some es, a1) →
      a1.readExtents n ((es.map (fun e => cutRun 6 e.pa e.len)).flatten) = (some data, a2) →
      s.vfWindow n va (.read len) = { a2 with out := a2.out ++ [.tlpData data] }) ∧
    (∀ es a1, a.range (a.part n).root .store va bs.length = (some es, a1) →
      s.vfWindow n va (.write bs) = a1.writePieces (fun s pa b => s.vfWrite n pa b) ((es.map (fun e => cutRun 6 e.pa e.len)).flatten) bs) ∧
    (∀ a1, a.range (a.part n).root .store va bs.length = (none, a1) → s.vfWindow n va (.write bs) = a1.refuse 0x0403 n 0) := by
  refine ⟨fun es a1 data a2 mapped read => ?_, fun es a1 mapped => ?_, fun a1 unmapped => ?_⟩
  · simp only [State.vfWindow, mapped, read, windowRead]
    rfl
  · simp only [State.vfWindow, mapped]
  · simp only [State.vfWindow, unmapped]

/-! Register writes (R371, R520, R523). -/

theorem State.registerWrite_vfOff {n : PartId} {ide : Bool} (off : s.vfDecodes n = false ∨ s.ideOk n ide = false) (r : BitVec 18) (bs : List Byte) :
    exec (.registerWrite (.vfBar0 n r ide) bs) s =
      .next (if s.fnExists n = true then s.unsupported (Fin.ofNat 65 n.val) else s.emit .tlpUnsupported) := by
  refine (exec_registerWrite _ _ _).trans (congrArg _ (if_neg ?_))
  obtain off | off := off <;> simp [off]

theorem State.registerWrite_vfOn {n : PartId} {ide : Bool} (dec : s.vfDecodes n = true) (ideOk : s.ideOk n ide = true) {r : BitVec 18}
    (low : r.toNat < 0x3000) (bs : List Byte) :
    exec (.registerWrite (.vfBar0 n r ide) bs) s = .next (s.boxWrite (Fin.ofNat 65 n.val) r.toNat bs) :=
  (exec_registerWrite _ _ _).trans (congrArg _ ((if_pos (by simp [dec, ideOk])).trans (if_pos low)))

/-- The request window takes aligned bytes while REQ is clear, and drops them else (R371). -/
theorem State.boxWrite_window {m : MbxId} {off : Nat} {bs : List Byte} (aligned : off % 4 = 0) (whole : bs.length % 4 = 0) (some_ : bs ≠ [])
    (small : bs.length ≤ 512) (inside : off + bs.length ≤ 0x1000) : s.boxWrite m off bs =
      if (s.box m).bellReq then s else s.updBox m (fun b => { b with req := SMap.putMany 0 b.req off bs }) := by
  have positive : 0 < bs.length := List.length_pos_iff.2 some_
  have low : off < 0x1000 := by omega
  unfold State.boxWrite State.boxPut
  dsimp only
  rw [if_pos (by omega : off < 0x2800), if_pos low, if_neg (by rintro (h | h | h | h | h); exacts [h aligned, h whole, some_ h, by omega, by omega])]
  cases (s.box m).bellReq <;> simp [low]

/-! Check-split windows (R505, R506). -/

theorem State.csTile_done (s : State) (t : Nat) (wr : Bool) : ((s.csTile t wr).tile t).csDone = true := by
  unfold State.csTile
  dsimp only
  cases (s.tile t).csAddr.getLsbD 0 <;> simp only [Bool.false_eq_true, if_false, if_true]
  all_goals
    split
    · split <;> exact congrArg Tile.csDone (SMap.get_put_self _ _ _ _)
    · split <;> exact congrArg Tile.csDone (SMap.get_put_self _ _ _ _)

theorem State.csHbm_done (s : State) (k : Nat) (wr : Bool) : ((s.csHbm k wr).hbmc k).csDone = true := by
  have set (s : State) (x : Hbm) (done : x.csDone = true) : ((s.setHbm k x).hbmc k).csDone = true := by
    rw [State.hbmc_setHbm_self]
    exact done
  unfold State.csHbm
  dsimp only
  split
  · exact set _ _ rfl
  · split <;> exact set _ _ rfl

/-- Whether the window of a raw operation says that it is done. -/
def State.csDone (s : State) : CsTarget → Prop
  | .tile t => (s.tile t).csDone = true
  | .hbm k => (s.hbmc k).csDone = true

theorem State.csRaw_on {w : CsTarget} (on : (s.csState w).2 = true) (wr : Bool) : (s.csRaw w wr).csDone w := by
  cases w with
  | tile t => exact (congrArg (fun x : State => (x.tile t).csDone) (if_pos on)).trans (s.csTile_done t wr)
  | hbm k => exact (congrArg (fun x : State => (x.hbmc k).csDone) (if_pos on)).trans (s.csHbm_done k wr)

theorem State.csRaw_off {w : CsTarget} (off : (s.csState w).2 = false) (wr : Bool) :
    s.csRaw w wr = s.refuse 0x0403 0x41 (s.deviceNum * 2 ^ 46 + 2 * 2 ^ 44 + (s.csState w).1) :=
  if_neg fun on => Bool.false_ne_true (off.symm.trans on)

end

/-- Settles O59. -/
theorem hostWindows : Obligations.HostWindows := by
  intro s f n addr size o v bs len ide b wt r tag u k j w q
  refine ⟨fun out did up => ⟨fun there => ?_, fun absent => State.configurationRequest_absent out did up absent q⟩,
    fun out early => State.configurationRequest_early out early q, ⟨_, exec_atsInvalidation _ _ _ _, rfl, fun e => ?_⟩,
    fun dec => ⟨fun data a ok read => ?_, State.pfBar2Access_write dec⟩, fun off => State.pfBar2Access_off off o _,
    fun dec ideOk win => ⟨fun ok => ?_, fun ok => State.vfBar2Access_served dec ideOk win ok⟩, fun off => State.vfBar2Access_off off v _,
    s.vfWindow_cases n addr.toNat len bs, fun off => State.registerWrite_vfOff off r bs, fun dec ideOk aligned whole some_ small inside => ?_,
    exec_registerWrite _ _ _, fun on e there => ?_, fun off e there => ?_⟩
  · have next := State.configurationRequest_exists out did up there
    exact ⟨⟨_, next _, rfl⟩, ⟨_, next _, rfl, SMap.get_put_self _ _ _ _⟩, ⟨_, _, next _, rfl⟩⟩
  · refine List.mem_filter.trans (and_congr_right' ?_)
    rw [Bool.not_eq_true', ← Bool.not_eq_true]
    exact not_congr (by simp [and_assoc])
  · rw [State.pfBar2Access_read dec ok, read]
    rfl
  · exact (State.vfBar2Access_served dec ideOk win ok).trans (congrArg _ (State.retry_congr rfl))
  · have low : r.toNat < 0x3000 := by omega
    rw [State.registerWrite_vfOn dec ideOk low, State.boxWrite_window aligned whole some_ small inside]
    have same : (Fin.ofNat 65 n.val).val = n.val := Nat.mod_eq_of_lt (by omega)
    generalize Fin.ofNat 65 n.val = m at same ⊢
    rw [← same]
    refine ⟨fun clear => ⟨_, congrArg _ (if_neg (by simp [clear])), fun j short => ?_, ?_⟩, fun set => congrArg _ (if_pos set)⟩
    · rw [State.box_updBox_self]
      refine (SMap.get_putMany _ _ _ _ _).trans ((if_pos (by omega)).trans ?_)
      rw [Nat.add_sub_cancel_left]
    · rw [State.box_updBox_self]
      exact clear
  · obtain ⟨wr, is⟩ : ∃ wr, exec e s = .next (s.csRaw wt wr) := by
      simp only [List.mem_cons, List.not_mem_nil, or_false] at there
      obtain rfl | rfl := there
      · exact ⟨_, exec_csRawRead _ _⟩
      · exact ⟨_, exec_csRawWrite _ _⟩
    refine ⟨_, is, ?_⟩
    cases wt with
    | tile t => exact State.csRaw_on on wr
    | hbm k => exact State.csRaw_on on wr
  · simp only [List.mem_cons, List.not_mem_nil, or_false] at there
    obtain rfl | rfl := there
    · exact (exec_csRawRead _ _).trans (congrArg _ (State.csRaw_off off _))
    · exact (exec_csRawWrite _ _).trans (congrArg _ (State.csRaw_off off _))

end Sys2Proof.Machine
end

section
/-!
SUPPORT. What an access at its target and the posting of a completion leave as it was: the time, the configuration and the links' states.
-/

namespace Sys2Proof.Machine

namespace State

theorem updTile_serves (s : State) (t : Nat) (f : Tile → Tile) : s.Serves (s.updTile t f) := (s.updTile_faulted t f).serves
theorem updHbm_serves (s : State) (k : Nat) (f : Hbm → Hbm) : s.Serves (s.updHbm k f) := ⟨rfl, rfl, fun _ => rfl⟩
theorem refuse_serves (s : State) (type tag pa : Nat) : s.Serves (s.refuse type tag pa) := (s.record_faulted _).serves

/-! Local Store (R217, R218). -/

theorem eccFatal_serves (s : State) (t key : Nat) (r : ErrRec) : s.Serves (s.eccFatal t key r) := by
  have marked := ((s.tileFatal_faulted t r).trans (updTile_faulted _ t fun x => { x with
    health := { x.health with eccWords := key :: x.health.eccWords } })).serves
  exact .ite (marked.trans (retireTile_faulted _ _).serves) marked

theorem lsCheck_serves (s : State) (t w : Nat) (scrub : Bool) : s.Serves (s.lsCheck t w scrub) := by
  unfold State.lsCheck
  split
  · exact .refl s
  · split
    · exact .refl s
    · dsimp only
      split
      · exact .refl s
      · exact s.eccFatal_serves _ _ _
      · refine State.Serves.trans ?_ (record_faulted _ _).serves
        exact ⟨rfl, rfl, fun _ => rfl⟩

theorem lsRead_serves (s : State) (t off len : Nat) : s.Serves (s.lsRead t off len).2 := .foldl (fun s w => s.lsCheck_serves t w false) _ s

theorem lsWrite_serves (s : State) (t off : Nat) (bs : List Byte) : s.Serves (s.lsWrite t off bs) :=
  .ite (.refl s) (State.Serves.trans (.foldl (fun s w => s.lsCheck_serves t w false) _ s) ⟨rfl, rfl, fun _ => rfl⟩)

/-! HBM ranges. -/

theorem hbmRead_serves (f off len : Nat) (s : State) : s.Serves (State.hbmRead f off len s).2 := by
  induction f generalizing off len s with
  | zero => exact .refl s
  | succ f ih =>
    unfold State.hbmRead
    split
    · exact .refl s
    · dsimp only
      have line := (s.readLine_scrubStays (hbmAt off).1 (hbmAt off).2 0 false).serves
      split
      · next found =>
        have rest := (line.of found).trans (ih (off + min len (128 - off % 128)) (len - min len (128 - off % 128)) _)
        split
        all_goals
          next more => exact rest.of more
      · next found => exact line.of found

theorem writeInLine_serves (s : State) (k l at_ : Nat) (bs : List Byte) : s.Serves (s.writeInLine k l at_ bs).2 := by
  unfold State.writeInLine
  dsimp only
  exact ((s.orderLine_scrubStays k l _).trans (lineOp_scrubStays _ _ _ _ _ _ _)).serves

theorem hbmWrite_serves (f off : Nat) (bs : List Byte) (s : State) : s.Serves (State.hbmWrite f off bs s).2 := by
  induction f generalizing off bs s with
  | zero => exact .refl s
  | succ f ih =>
    unfold State.hbmWrite
    split
    · exact .refl s
    · dsimp only
      have line := s.writeInLine_serves (hbmAt off).1 (hbmAt off).2 (off % 128) (bs.take (128 - off % 128))
      split
      · next found => exact (line.of found).trans (ih _ _ _)
      · next found => exact line.of found

/-! Register units (R68). -/

theorem tcrPut_serves (s : State) (t n : Nat) (v : Word) : s.Serves (s.tcrPut t n v) := by
  unfold State.tcrPut
  dsimp only
  split <;> exact ⟨rfl, rfl, fun _ => rfl⟩

theorem unitRead_serves (s : State) (u off : Nat) : s.Serves (s.unitRead u off).2 := by
  unfold State.unitRead
  dsimp only
  simp only [apply_ite Prod.snd, ite_self]
  exact .ite (.refl s) (.ite (.refl s) (.ite (.refl s) (.ite (.refl s) (.ite (.refl s) ⟨rfl, rfl, fun _ => rfl⟩))))

theorem csTile_serves (s : State) (t : Nat) (wr : Bool) : s.Serves (s.csTile t wr) := by
  unfold State.csTile
  dsimp only
  refine .ite (.ite ?_ ?_) (.ite (.ite ?_ ?_) ?_) <;> exact ⟨rfl, rfl, fun _ => rfl⟩

theorem csHbm_serves (s : State) (k : Nat) (wr : Bool) : s.Serves (s.csHbm k wr) := by
  have ordered := (s.orderLine_scrubStays k (fld (s.hbmc k).csLine 0 28) (s.hbmc k).committed.length).serves
  have put (x : Hbm) : (s.orderLine k (fld (s.hbmc k).csLine 0 28) (s.hbmc k).committed.length).Serves
    ((s.orderLine k (fld (s.hbmc k).csLine 0 28) (s.hbmc k).committed.length).setHbm k x) := ⟨rfl, rfl, fun _ => rfl⟩
  exact ordered.trans (.ite (put _) (.ite (put _) (put _)))

theorem unitWrite_serves (s : State) (u off : Nat) (v : Word) : s.Serves (s.unitWrite u off v) := by
  unfold State.unitWrite
  refine .ite (.ite (s.tcrPut_serves _ _ _) ?_) (.ite ?_ (.ite (.ite (s.updPart_serves _ _) (s.pageWrite_serves _ _ _)) (.refl s)))
  · split
    · exact s.updTile_serves _ _
    · exact s.updTile_serves _ _
    · exact s.updTile_serves _ _
    · exact .ite (s.csTile_serves _ _) (.ite (s.csTile_serves _ _) (.refl s))
    · exact .refl s
  · dsimp only
    split
    · exact s.updHbm_serves _ _
    · exact s.updHbm_serves _ _
    · exact s.updHbm_serves _ _
    · exact s.updHbm_serves _ _
    · exact s.updHbm_serves _ _
    · exact .ite (s.csHbm_serves _ _) (.ite (s.csHbm_serves _ _) (.refl s))
    · exact .refl s

theorem unitPut_serves (s : State) (u r : Nat) (bs : List Byte) : s.Serves (s.unitPut u r bs) :=
  .ite (s.unitWrite_serves _ _ _) (.ite ((s.unitRead_serves _ _).trans (unitWrite_serves _ _ _ _)) (.ite (s.unitWrite_serves _ _ _) (.refl s)))

/-! Accesses (R61–R67). -/

theorem memOp_serves (s : State) (pa : Nat) (op : MemOp) : s.Serves (s.memOp pa op).2 := by
  unfold State.memOp
  dsimp only
  split
  · cases op with
    | read n => exact s.lsRead_serves _ _ _
    | write bs => exact s.lsWrite_serves _ _ _
    | atomic fn x e =>
      dsimp only
      exact (s.lsRead_serves (paOff pa / 2 ^ 24) (paOff pa % 2 ^ 24) 8).trans (lsWrite_serves _ _ _ _)
  · split
    · exact .refl s
    · split
      · exact (s.keyRefusal_scrubStays _).serves
      · cases op with
        | read n =>
          have read := hbmRead_serves (n / 128 + 2) (paOff pa) n s
          dsimp only
          split
          all_goals
            next found => exact read.of found
        | write bs =>
          have written := hbmWrite_serves (bs.length / 128 + 2) (paOff pa) bs s
          dsimp only
          split
          all_goals
            next found => exact written.of found
        | atomic fn x e =>
          have read := hbmRead_serves 2 (paOff pa) 8 s
          dsimp only
          split
          · next old _ found =>
            have written := (read.of found).trans (hbmWrite_serves 2 (paOff pa) (bvBytes (atomicNew fn.toNat (bytesBv 64 old) x e)) _)
            split
            all_goals
              next done => exact written.of done
          · next found => exact read.of found

theorem regOp_serves (s : State) (pa : Nat) (op : MemOp) : s.Serves (s.regOp pa op).2 := by
  cases op with
  | read n => exact s.unitRead_serves _ _
  | write bs => exact s.unitPut_serves _ _ _
  | atomic fn x e => exact .refl s

theorem remoteAccess_serves (s : State) (tag pa : Nat) (op : MemOp) : s.Serves (s.remoteAccess tag pa op).2 := by
  have net (t : State) (x : Net) : t.Serves { t with net := x } := ⟨rfl, rfl, fun _ => rfl⟩
  unfold State.remoteAccess
  dsimp only
  split
  · split
    · next put => exact (netPut_faulted put).serves.trans (net _ _)
    · exact s.refuse_serves _ _ _
  · split
    · exact .refl s
    · split
      · split
        · exact net s _
        · split <;> exact net s _
      · split
        · exact net s _
        · exact s.refuse_serves _ _ _

theorem access_serves (s : State) (tag pa : Nat) (op : MemOp) : s.Serves (s.access tag pa op).2 := by
  unfold State.access
  split
  · exact s.refuse_serves _ _ _
  · split
    · exact s.remoteAccess_serves _ _ _
    · split
      · exact s.refuse_serves _ _ _
      · split
        · split
          · exact s.regOp_serves _ _
          · exact s.refuse_serves _ _ _
        · exact s.memOp_serves _ _

theorem accessWrite_serves (s : State) (tag pa : Nat) (bs : List Byte) : s.Serves (s.accessWrite tag pa bs).2 := by
  have reached := s.access_serves tag pa (.write bs)
  unfold State.accessWrite
  split
  all_goals
    next found => exact reached.of found

theorem writeExtents_serves (s : State) (tag : Nat) (es : List Extent) (bs : List Byte) : s.Serves (s.writeExtents tag es bs).2 := by
  unfold State.writeExtents
  refine List.foldlRecOn (motive := fun r : (Bool × List Byte) × State => s.Serves r.2) (cutAll es) _ (.refl s) (fun r sofar e _ => ?_)
  obtain ⟨⟨ok, rest⟩, t⟩ := r
  cases ok with
  | true => exact State.Serves.trans sofar (accessWrite_serves _ _ _ _)
  | false => exact sofar

/-! Completions (R333). -/

theorem atsTouch_serves (s : State) (f addr : Nat) : s.Serves (s.atsTouch f addr) := by
  have touched (x : HostLink) : s.Serves { s with hostl := x } := ⟨rfl, rfl, fun _ => rfl⟩
  unfold State.atsTouch
  split
  · exact touched _
  · exact .refl s

theorem queueWrite_serves (s : State) (n : Nat) (host : Bool) (addr : Nat) (bs : List Byte) : s.Serves (s.queueWrite n host addr bs) := by
  unfold State.queueWrite
  split
  · exact (s.atsTouch_serves n addr).trans (emit_posts _ _).serves
  · have found := s.range_serves (s.part n).root .store addr bs.length
    split
    · next is => exact (found.of is).trans (writeExtents_serves _ _ _ _)
    · next is => exact found.of is

theorem cqPut_serves (s : State) (n q : Nat) (c : Completion) : s.Serves (s.cqPut n q c) := by
  unfold State.cqPut
  split
  · exact .refl s
  · refine .ite ?_ (.refl s)
    dsimp only
    refine .ite (.trans ?_ (msix_posts _ _ _).serves) ?_ <;> exact (s.queueWrite_serves n _ _ _).trans (updPart_serves _ n _)

theorem journal_serves (s : State) (i : Nat) (e : Ledger) (t : Nat) : s.Serves (s.journal i e t) := .foldl (fun s x => s.updTile_serves x _) _ s

theorem setLed_serves (s : State) (i : Nat) (e : Ledger) : s.Serves (s.setLed i e) := ⟨rfl, rfl, fun _ => rfl⟩

theorem freeEntry_serves (s : State) (i : Nat) : s.Serves (s.freeEntry i) :=
  .trans (.ite (s.unbind_faulted i).serves (.refl s)) (setLed_serves _ i {})

theorem postLedger_serves (s : State) (i : Nat) : s.Serves (s.postLedger i) := by
  unfold State.postLedger
  dsimp only
  split
  · exact .refl s
  · split
    · exact s.freeEntry_serves i
    · next st time _ _ _ _ =>
      split
      · exact s.freeEntry_serves i
      · split
        · refine State.Serves.trans (s.cqPut_serves (s.led i).part.val (s.led i).cq ((s.led i).completion i st time)) ?_
          have kept (t : State) (c : Bool) (time : Nat) : t.Serves (if c then t.journal i (s.led i) time else t) :=
            .ite (t.journal_serves _ _ _) (.refl t)
          split <;> exact State.Serves.trans (kept _ _ _) (setLed_serves _ _ _)
        · exact .refl s

theorem postAnswers_serves (k n : Nat) (s : State) : s.Serves (State.postAnswers k n s) := by
  induction k generalizing s with
  | zero => exact .refl s
  | succ k ih =>
    unfold State.postAnswers
    split
    · exact .refl s
    · exact .ite (((s.cqPut_serves _ _ _).trans (updPart_serves _ n _)).trans (ih _)) (.refl s)

theorem postOut_serves (s : State) (n : Nat) : s.Serves (s.postOut n) :=
  (State.Serves.foldl (fun t i => t.postLedger_serves i) _ s).trans (postAnswers_serves _ _ _)

end State

end Sys2Proof.Machine
end

section
/-!
PROOFS. Partition restart and FLR (O46).
-/

namespace Sys2Proof.Machine

/-- Partition n has no queue, no answer and no move that waits (R499). -/
structure State.Emptied (s : State) (n : Nat) : Prop where
  sqs : (s.part n).sqs = []
  cqs : (s.part n).cqs = []
  answers : (s.part n).answers = []
  moveq : (s.part n).moveq = []

namespace State

/-! Roots. -/

theorem releaseRoot_emptied {s : State} {n : Nat} (h : s.Emptied n) : (s.releaseRoot n).Emptied n := by
  have same : ((s.releaseRoot n).part n).sqs = (s.part n).sqs ∧ ((s.releaseRoot n).part n).cqs = (s.part n).cqs ∧
      ((s.releaseRoot n).part n).answers = (s.part n).answers ∧ ((s.releaseRoot n).part n).moveq = (s.part n).moveq := by
    unfold State.releaseRoot
    dsimp only
    repeat' split
    all_goals simp
  obtain ⟨sqs, cqs, answers, moveq⟩ := same
  exact ⟨sqs.trans h.sqs, cqs.trans h.cqs, answers.trans h.answers, moveq.trans h.moveq⟩

theorem releaseRoot_serves (s : State) (n : Nat) : s.Serves (s.releaseRoot n) := by
  unfold State.releaseRoot
  dsimp only
  split
  · exact .refl s
  · refine .ite (.refl s) (.trans (s.updPart_serves n fun p => { p with old := none, mapWait := none, drainedEvent := false }) ?_)
    split
    · exact (commandDone_posts _ _ _ _ _).serves
    · exact .ite (event_posts _ _ _).serves (.refl _)

theorem restartRoot_emptied {s : State} {n : Nat} (h : s.Emptied n) : (s.restartRoot n).Emptied n := by
  refine releaseRoot_emptied ⟨?_, ?_, ?_, ?_⟩ <;> rw [State.part_updPart_self]
  · exact h.sqs
  · exact h.cqs
  · exact h.answers
  · exact h.moveq

theorem restartRoot_serves (s : State) (n : Nat) : s.Serves (s.restartRoot n) := (s.updPart_serves n _).trans (releaseRoot_serves _ n)

/-! The restart's steps (R499). -/

/-- The tiles of partition n take restart passes. -/
def restartTiles (s : State) (n : Nat) : State :=
  (s.availOf n).foldl (fun s t => s.updTile t (fun x =>
    if x.health.running = some .closing then x
    else { x with health := { x.health with running := some .restart, pending := false } })) s

/-- Partition n's queues, answers and moves go. -/
def emptyQueues (s : State) (n : Nat) : State :=
  s.updPart n (fun p => { p with
    sqs := [], cqs := [], answers := [], deferred := none, moveq := [], lastSq := 15, partStat := 0, hold := s.heldByWait n,
    quiet := p.quiet.filter (fun j => j.asker.1.val != n) })

/-- Partition n once its work has ended, its completions have posted, and its commands and entries are gone. -/
def restartEnds (s : State) (n : Nat) (who : Option (MbxId × BitVec 16)) (keep : List Held) : State :=
  let s := s.partChange n (fun s => s.updPart n (fun p => { p with restart := some who }))
  let s := ((s.stopTiles n).endWork n .partitionFaulted).postOut n
  let s := (s.updBox (Fin.ofNat 65 n) (fun b => b.cleared keep)).orphan n (keep.head?.map (·.tag))
  (s.ledgerOf n).foldl (fun s i => s.setLed i {}) s

theorem beginRestart_steps (s : State) (n : Nat) (who : Option (MbxId × BitVec 16)) (keep : List Held) :
    s.beginRestart n who keep = ((((s.restartEnds n who keep).emptyQueues n).restartRoot n).restartTiles n).checkWait := rfl

theorem restartTiles_tiles (s : State) (n : Nat) : s.restartTiles n = { s with tiles := (s.restartTiles n).tiles } :=
  State.foldl_updTile _ s (fun (_ : State) (t : Nat) => t) _

theorem emptyQueues_cfg (s : State) (n : Nat) : (s.emptyQueues n).cfg = s.cfg := rfl

theorem emptyQueues_emptied (s : State) (n : Nat) : (s.emptyQueues n).Emptied n := by
  refine ⟨?_, ?_, ?_, ?_⟩ <;> exact (congrArg _ (State.part_updPart_self _ _ _)).trans rfl

/-- A restart takes away no wait for quiet that is not there. -/
theorem orphan_wait {s : State} (none_ : s.cfg.wait = none) (n : Nat) (keep : Option (BitVec 16)) : (s.orphan n keep).cfg.wait = none :=
  congrArg (Option.map _) none_

theorem restartEnds_wait {s : State} (none_ : s.cfg.wait = none) (n : Nat) (who : Option (MbxId × BitVec 16)) (keep : List Held) :
    (s.restartEnds n who keep).cfg.wait = none := by
  have ended : s.Serves ((((s.partChange n (fun s => s.updPart n (fun p => { p with restart := some who }))).stopTiles n).endWork n
      .partitionFaulted).postOut n) :=
    (((partChange_faulted (s.updPart_faulted n _) n).trans (stopTiles_faulted _ n)).trans (endWork_faulted _ n _)).serves.trans (postOut_serves _ n)
  have cleared (t : State) : t.Serves ((t.ledgerOf n).foldl (fun s i => s.setLed i {}) t) := .foldl (fun t i => t.setLed_serves i {}) _ t
  unfold State.restartEnds
  dsimp only
  rw [(cleared _).cfg]
  refine orphan_wait ?_ n _
  rw [State.updBox_cfg, ended.cfg]
  exact none_

end State

/-- A restart takes the partition's queues, answers and moves away (R499). -/
theorem State.beginRestart_emptied {s : State} (none_ : s.cfg.wait = none) (n : Nat) (who : Option (MbxId × BitVec 16)) (keep : List Held) :
    (s.beginRestart n who keep).Emptied n := by
  have emptied := State.restartRoot_emptied ((s.restartEnds n who keep).emptyQueues_emptied n)
  have wait : (((s.restartEnds n who keep).emptyQueues n).restartRoot n).cfg.wait = none := by
    rw [(State.restartRoot_serves _ n).cfg, State.emptyQueues_cfg]
    exact State.restartEnds_wait none_ n who keep
  rw [State.beginRestart_steps]
  generalize ((s.restartEnds n who keep).emptyQueues n).restartRoot n = t at emptied wait ⊢
  have tiles := t.restartTiles_tiles n
  rw [State.checkWait_none (by rw [tiles]; exact wait), tiles]
  exact ⟨emptied.sqs, emptied.cqs, emptied.answers, emptied.moveq⟩

/-! FLR (R534). -/

/-- A TDI's move to ERROR that is not fatal changes the TDIs alone (R449). -/
theorem State.tdiError_quiet (s : State) (n : Nat) : ∃ tdis, s.tdiError n false = { s with sec := { s.sec with tdis := tdis } } := by
  unfold State.tdiError
  dsimp only
  rw [Bool.false_and, Bool.false_and]
  split
  · exact ⟨_, if_neg Bool.false_ne_true⟩
  · exact ⟨s.sec.tdis, rfl⟩

/-- VF n after an FLR, before its partition restarts (R534). -/
def State.flrVf (s : State) (n : PartId) : State := (s.resetVf n).tdiError n false

theorem State.flrVf_same (s : State) (n : PartId) : (s.flrVf n).boot = s.boot ∧ (s.flrVf n).parts = s.parts := by
  obtain ⟨tdis, is⟩ := (s.resetVf n).tdiError_quiet n
  unfold State.flrVf
  rw [is]
  exact ⟨rfl, rfl⟩

/-- An FLR while the partition restarts: the mailbox is cleared, and the restart answers no command of it (R534). -/
def State.flrAgain (s : State) (n : PartId) : State :=
  ((s.updBox (Fin.ofNat 65 n.val) (fun b => b.cleared [])).orphan n.val none).updPart n.val (fun p => { p with
    restart := p.restart.map (fun w => w.map (fun x => if x.1.val = n.val then (x.1, 0xFFFF) else x)) })

theorem State.box_flrAgain (s : State) (n : PartId) : (s.flrAgain n).box (Fin.ofNat 65 n.val) = (s.box (Fin.ofNat 65 n.val)).cleared [] := by
  rw [show (s.flrAgain n).box (Fin.ofNat 65 n.val) = (s.updBox (Fin.ofNat 65 n.val) (fun b => b.cleared [])).box (Fin.ofNat 65 n.val) from rfl,
    State.box_updBox_self]

theorem State.vfFlr_next (s : State) (n : PartId) : exec (.vfFlr n) s = .next (
    if (s.boot.fault || !s.valid n) = true then s.flrVf n
    else if (s.part n).restart.isSome = true then (s.flrVf n).flrAgain n else (s.flrVf n).beginRestart n none []) := by
  obtain ⟨boot, parts⟩ := s.flrVf_same n
  have part := State.part_congr parts n
  have valid : (s.flrVf n).valid n = s.valid n := congrArg (fun p : Part => p.entry.valid) part
  rw [← boot, ← valid, ← part]
  exact exec_vfFlr _ _

/-! The end of a restart (R499, R500). -/

theorem State.finishRestart_ends (s : State) (n : Nat) (who : Option (MbxId × BitVec 16)) :
    ((s.finishRestart n who).part n).restart = none ∧ ((s.finishRestart n who).part n).fault = false := by
  have ended (t : State) (g : Part → Part) (e : ∀ p, (g p).restart = none ∧ (g p).fault = false) :
      ((t.partChange n (fun s => s.updPart n g)).part n).restart = none ∧ ((t.partChange n (fun s => s.updPart n g)).part n).fault = false := by
    rw [State.part_congr (t.partChange_same n _).1 n, State.part_updPart_self]
    exact e _
  unfold State.finishRestart
  dsimp only
  cases who with
  | none => exact ended _ _ fun p => ⟨rfl, rfl⟩
  | some w =>
    dsimp only
    rw [(State.commandDone_posts _ _ _ _ _).reads.1 n]
    exact ended _ _ fun p => ⟨rfl, rfl⟩

section
variable {s : State} {f : PartId}

theorem State.restartPassEnd_none (failed : BitVec 64) (none_ : (s.part f).restart = none) : exec (.restartPassEnd f failed) s = .next s := by
  rw [exec_restartPassEnd, execRestartPassEnd, none_]

/-- A restart waits for the closing passes of its tiles (R534). -/
theorem State.restartPassEnd_waits (failed : BitVec 64) {who : Option (MbxId × BitVec 16)} (runs : (s.part f).restart = some who)
    (closing : ∃ t ∈ s.tilesOf f, (s.tile t).health.running = some .closing) : exec (.restartPassEnd f failed) s = .next s := by
  rw [exec_restartPassEnd, execRestartPassEnd, runs]
  exact congrArg _ (if_pos (by simpa [List.any_eq_true] using closing))

theorem State.restartPassEnd_ends (failed : BitVec 64) {who : Option (MbxId × BitVec 16)} (runs : (s.part f).restart = some who)
    (passed : ∀ t ∈ s.tilesOf f, (s.tile t).health.running ≠ some .closing) :
    ∃ t : State, exec (.restartPassEnd f failed) s = .next (t.finishRestart f who) := by
  rw [exec_restartPassEnd, execRestartPassEnd, runs]
  exact ⟨_, congrArg _ (if_neg (by simpa [List.any_eq_true] using passed))⟩

end

/-- Settles O46. -/
theorem restarts : Obligations.Restarts := by
  intro s m tag h f failed n
  obtain ⟨boot, parts⟩ := s.flrVf_same f
  refine ⟨fun takes may => ?_, fun who keep none_ => ?_, ⟨fun faulted => ?_, fun sound valid rests => ?_, fun who sound valid runs => ?_⟩,
    State.restartPassEnd_none failed, fun who runs => ⟨State.restartPassEnd_waits failed runs, fun passed => ?_⟩⟩
  · rw [exec_partitionRestart, execPartitionRestart, State.serve_takes takes]
    exact congrArg _ (if_pos may)
  · obtain ⟨sqs, cqs, answers, moveq⟩ := State.beginRestart_emptied none_ n who keep
    exact ⟨sqs, cqs, answers, moveq⟩
  · refine (s.vfFlr_next f).trans (congrArg _ (if_pos ?_))
    obtain faulted | faulted := faulted <;> simp [faulted]
  · exact (s.vfFlr_next f).trans (congrArg _ ((if_neg (by simp [sound, valid])).trans (if_neg (by simp [rests]))))
  · refine ⟨(s.flrVf f).flrAgain f, (s.vfFlr_next f).trans (congrArg _ ((if_neg (by simp [sound, valid])).trans (if_pos (by simp [runs])))), ?_, ?_⟩
    · exact (State.box_flrAgain _ f).trans rfl
    · refine (congrArg Part.restart (State.part_updPart_self _ _ _)).trans ?_
      exact congrArg (Option.map _) ((congrArg Part.restart (State.part_congr parts f)).trans runs)
  · obtain ⟨t, is⟩ := State.restartPassEnd_ends failed runs passed
    exact ⟨_, is, t.finishRestart_ends f who⟩

end Sys2Proof.Machine
end
